-- ==== Sys2Proof/Word.lean ====
section
/-! DEFINITION. The word types of the CK312 and their plainest arithmetic (spec 00 R2). -/

namespace Sys2Proof

/-- A 32-bit register or memory word (R133). -/
abbrev Word := BitVec 32

/-- A byte (R2). -/
abbrev Byte := BitVec 8

/-- A 64-bit value: an even register pair (R26). -/
abbrev DWord := BitVec 64

/-- A 96-bit instruction word (R46). -/
abbrev IWord := BitVec 96

/-- The two halves of a 64-bit pair, low word first (R26). -/
def joinPair (lo hi : Word) : DWord := hi ++ lo

/-- Bits [31:0] of a pair. -/
def pairLo (x : DWord) : Word := x.truncate 32

/-- Bits [63:32] of a pair. -/
def pairHi (x : DWord) : Word := (x >>> 32).truncate 32

/-- `true` as 1, `false` as 0. -/
def boolWord (b : Bool) : Word := if b then 1 else 0

end Sys2Proof
end

