-- ==== Sys2Proof/Syntax.lean ====
section
/-! DEFINITION. The instructions and events of the CK312: one constructor of `Instr` for each row of
spec/opcode_table.json. A row that has an instruction word carries its decoded operands; a row that is an
event carries what the agent that performs it chooses or supplies. -/

namespace Sys2Proof

/-! ### Operands (R21, R25, R46, R47) -/

/-- A window register number, v0 to v63. -/
abbrev VReg := BitVec 6
/-- A predicate number; as a destination 15 discards the result, as a PS it means always (R46, R48). -/
abbrev PReg := BitVec 4
/-- A capability register number, c0 to c15. -/
abbrev CReg := BitVec 4
/-- An accumulator tile number, a0 to a31 (R307). -/
abbrev Tile := BitVec 5

/-- The fields every predicated instruction carries: the stall count and the predicate (R46, R50). -/
structure Ctl where
  stall : BitVec 4
  pn : Bool
  ps : PReg
  deriving DecidableEq, Repr, Inhabited

/-- A 32-bit or 64-bit source operand: a window register with its L bit, a constant 0 to 30, or IMM32 (R47). -/
inductive Src where
  | reg (n : VReg) (last : Bool)
  | const (k : BitVec 5)
  | imm (v : Word)
  deriving DecidableEq, Repr, Inhabited

/-- A window register source with its L bit, where nothing else is accepted. -/
structure RSrc where
  n : VReg
  last : Bool
  deriving DecidableEq, Repr, Inhabited

/-- A capability register source; its L bit is accepted and has no effect (R84). -/
structure CSrc where
  n : CReg
  last : Bool
  deriving DecidableEq, Repr, Inhabited

/-- A memory operand `[cA + vB + e]` (R117): `idx` is the index register, or none for the constant 0. -/
structure MemOp where
  cap : CSrc
  idx : Option RSrc
  disp : Word
  deriving DecidableEq, Repr, Inhabited

/-- The integer types, TYPE 0 to 7 (R21). -/
inductive ITy where
  | i8 | i16 | i32 | i64 | n8 | n16 | n32 | n64
  deriving DecidableEq, Repr, Inhabited

/-- The floating types, TYPE 8 to 10 (R21). -/
inductive FTy where
  | f32 | f16 | bf16
  deriving DecidableEq, Repr, Inhabited

/-- The type of a matrix multiply (R308). -/
inductive MTy where
  | l6 | f16 | bf16 | i8 | n8
  deriving DecidableEq, Repr, Inhabited

/-- The type of a team scan or reduction (R171). -/
inductive TTy where
  | int (t : ITy)
  | f32
  deriving DecidableEq, Repr, Inhabited

/-- The five rounding modes (R139). -/
inductive RM where
  | rne | rtz | rdn | rup | rna
  deriving DecidableEq, Repr, Inhabited

/-- The comparison conditions of SEL (R53). -/
inductive Cond where
  | eq | ne | lt | le | gt | ge | ord | uno
  deriving DecidableEq, Repr, Inhabited

/-- The four scopes, narrowest first (R212). -/
inductive Scope where
  | unit | gang | dev | sys
  deriving DecidableEq, Repr, Inhabited

/-- ORDER of layout M (R52). -/
inductive Order where
  | plain | acq | rel | ar
  deriving DecidableEq, Repr, Inhabited

/-- HINT of layout M (R52). -/
inductive Hint where
  | dflt | stream | keep
  deriving DecidableEq, Repr, Inhabited

/-- ORDER, SCOPE and HINT together. -/
structure MMod where
  order : Order
  scope : Scope
  hint : Hint
  deriving DecidableEq, Repr, Inhabited

/-- The branch field of R44: a signed line delta and a slot. -/
structure BrField where
  delta : BitVec 27
  slot : BitVec 5
  deriving DecidableEq, Repr, Inhabited

/-- The special registers of R27. -/
inductive SReg where
  | fid | tid | tw | team | unit | gang | nunits | clk | ptp | rmode | fstat | prog | launch
  deriving DecidableEq, Repr, Inhabited

/-- The special registers `SWR` may name (R27, R105). -/
inductive WSReg where
  | rmode | fstat | prog
  deriving DecidableEq, Repr, Inhabited

/-- The field `CGET` reads (R129). -/
inductive CapField where
  | base | len | perms | space | gen | tag
  deriving DecidableEq, Repr, Inhabited

/-- The variants of `AMO` (R243). -/
inductive AmoOp where
  | add | and | or | xor | min | max | swap
  deriving DecidableEq, Repr, Inhabited

/-- The variants of `AMOF` (R244). -/
inductive AmofOp where
  | add | min | max
  deriving DecidableEq, Repr, Inhabited

/-- The operations of `TSCAN` and `TRED` (R171). -/
inductive TOp where
  | add | min | max | and | or | xor
  deriving DecidableEq, Repr, Inhabited

/-- The votes of `TVOTE` (R172). -/
inductive VoteOp where
  | all | any | uni
  deriving DecidableEq, Repr, Inhabited

/-- The fill modes of `TSLIDE` (R168). -/
inductive Fill where
  | fz | fc (c : Src) | fw | fe
  deriving DecidableEq, Repr, Inhabited

/-- The narrowing of `SHRR` (R162). -/
inductive Narrow where
  | none | to16 | to8 | to32
  deriving DecidableEq, Repr, Inhabited

/-- A level of R371, the MOD4 of `CANCEL` and `LVLQ` (R387). -/
inductive Level where
  | unit | launch | graph | phase | job
  deriving DecidableEq, Repr, Inhabited

/-- A FIFO of the matrix engine (R307): fa0, fa1, fb0 to fb5 are 0 to 7. -/
abbrev Fifo := BitVec 3

/-- The scales operand of an L6 `MMA` (R308): registers, or the constant 0. -/
inductive Scales where
  | zero
  | reg (r : RSrc)
  deriving DecidableEq, Repr, Inhabited

/-- A PCIe completion status (R188, R241). -/
inductive CplStatus where
  | success | unsupported | abort
  deriving DecidableEq, Repr, Inhabited

/-- A PCIe AtomicOp the device completes (R454). -/
inductive HostAtomic where
  | fetchAdd | swap | cas
  deriving DecidableEq, Repr, Inhabited

/-- What firmware core 3 answers to a page fault (R190, R383, R402): it maps the page to a physical base with its rights,
or a host window entry to a PCIe address (its atomics bit is `rights[0]`, and `sizeCode` counts for nothing); or it
refuses. -/
inductive PageAnswer where
  | map (phys : Nat) (sizeCode : BitVec 2) (rights : BitVec 3)
  | refuse
  deriving DecidableEq, Repr, Inhabited

/-- What an attached debugger does with fibres held on a `BREAK` record (R402). -/
inductive DebugAct where
  | resume | finish
  deriving DecidableEq, Repr, Inhabited

/-- Where a stored-word error strikes (row STORED_WORD_ERROR). -/
inductive StoreSite where
  | mem (key : Nat)
  | reg (unit fid slot : Nat)
  | cap (unit fid c : Nat)
  | line (addr : Nat)
  | result (unit fid : Nat)
  deriving DecidableEq, Repr, Inhabited

/-- A register of a function's configuration space (R1, R188): the identifiers, the revision and class, or Device Control 2. -/
inductive ConfigReg where
  | ids | classRev | devCtl2
  deriving DecidableEq, Repr, Inhabited

/-- A configuration request of the host's (R1, R188, R450): the function, the register and, for a write, what it brings. -/
structure ConfigAsk where
  func : Nat := 0
  reg : ConfigReg := .ids
  value : Option Word := none
  deriving DecidableEq, Repr, Inhabited

/-- What a firmware image carries beside its body and its version (R451): the digest of its body, the public keys it was signed
under, and its Ed25519 and ML-DSA-65 signatures. -/
structure FirmSign where
  digest : List Byte
  edKey : List Byte
  edSig : List Byte
  mlKey : List Byte
  mlSig : List Byte
  deriving DecidableEq, Repr, Inhabited

/-- Where a host read goes (R225, R356): device memory, or the BAR 0 of a function. -/
structure HostAt where
  bar : Option Nat
  addr : Nat
  deriving DecidableEq, Repr, Inhabited

/-- A message with tokens that arrives (R201), and what a member outside this device has written to the line; or the news that
another member, the line's home, has reclaimed it (R207). -/
structure TokenLoad where
  id : Nat
  data : List Byte := []
  reclaimed : Bool := false
  deriving DecidableEq, Repr, Inhabited

/-- The slice that an activation message reaches, and the number of the message (R203). -/
structure Activation where
  holder : Nat
  num : Nat
  deriving DecidableEq, Repr, Inhabited

/-- The copies of a launch that have ended (R362, R369), and the copy, if any, whose completion at the host was an error. -/
structure CopyEnd where
  launch : Nat
  err : Option Nat := none
  deriving DecidableEq, Repr, Inhabited

/-- What a link's training comes to (R455): whether it is up, and which members of pools fall silent or have been reset. -/
structure LinkNews where
  up : Bool
  quiet : List (Nat × Nat) := []
  reset : List (Nat × Nat) := []
  deriving DecidableEq, Repr, Inhabited

/-- Why a transfer ends in a fault after acceptance (R294). -/
inductive XferFail where
  | pageRefused | lostLine | hostError | peerEnded | checkfail (addr : Word) | poison (addr : Word)
  deriving DecidableEq, Repr, Inhabited

/-- The instructions and events of the opcode table: first the rows with an instruction word, then the events
the device performs of itself, then those that come from outside. -/
inductive Instr where
  /- Instructions: Control and fibre -/
  | packedCode (code : BitVec 16)
  | nop (stall : BitVec 4) (entry : Option (BitVec 6))
  | bra (c : Ctl) (t : BrField)
  | brx (c : Ctl) (a : RSrc)
  | call (c : Ctl) (t : BrField)
  | callx (c : Ctl) (a : RSrc)
  | ret (c : Ctl)
  | fork (c : Ctl) (d : VReg) (a b : Src) (t : BrField)
  | fend (c : Ctl)
  | exit (c : Ctl)
  | exitSuccessor (c : Ctl) (delta : BitVec 27)
  | yield (c : Ctl)
  | sleepu (c : Ctl) (a : Src)
  | trap (c : Ctl) (a : Src)
  | brk (c : Ctl) (a : Src)
  | trapret (c : Ctl)
  | trapretResume (c : Ctl)
  | wspill (c : Ctl) (f : VReg) (m : MemOp) (n : Src)
  | wfill (c : Ctl) (f : VReg) (m : MemOp) (n : Src)
  | pset (c : Ctl) (k : BitVec 4) (d : PReg) (a b : PReg)
  | pmovRd (c : Ctl) (d : VReg)
  | pmovWr (c : Ctl) (a : Src)
  | srd (c : Ctl) (d : VReg) (r : SReg)
  | swr (c : Ctl) (r : WSReg) (a : Src)
  | loopd (c : Ctl) (d : VReg) (t : BrField)
  /- Instructions: Integer -/
  | iadd (c : Ctl) (t : ITy) (sat : Bool) (d : VReg) (a b : Src)
  | isub (c : Ctl) (t : ITy) (sat : Bool) (d : VReg) (a b : Src)
  | imul (c : Ctl) (t : ITy) (sat : Bool) (d : VReg) (a b : Src)
  | imulh (c : Ctl) (t : ITy) (d : VReg) (a b : Src)
  | imad (c : Ctl) (t : ITy) (d : VReg) (a b e : Src)
  | imadw (c : Ctl) (t : ITy) (d : VReg) (a b e : Src)
  | idiv (c : Ctl) (t : ITy) (d : VReg) (a b : Src)
  | irem (c : Ctl) (t : ITy) (d : VReg) (a b : Src)
  | imin (c : Ctl) (t : ITy) (d : VReg) (a b : Src)
  | imax (c : Ctl) (t : ITy) (d : VReg) (a b : Src)
  | iabs (c : Ctl) (t : ITy) (sat : Bool) (d : VReg) (a : Src)
  | ineg (c : Ctl) (t : ITy) (sat : Bool) (d : VReg) (a : Src)
  | iaddc (c : Ctl) (d : VReg) (a b : Src) (k : PReg)
  | isubb (c : Ctl) (d : VReg) (a b : Src) (k : PReg)
  | and (c : Ctl) (t : ITy) (d : VReg) (a b : Src)
  | or (c : Ctl) (t : ITy) (d : VReg) (a b : Src)
  | xor (c : Ctl) (t : ITy) (d : VReg) (a b : Src)
  | andn (c : Ctl) (t : ITy) (d : VReg) (a b : Src)
  | logt (c : Ctl) (t : ITy) (d : VReg) (a b e : Src) (table : Byte)
  | shl (c : Ctl) (t : ITy) (d : VReg) (a b : Src)
  | shr (c : Ctl) (t : ITy) (d : VReg) (a b : Src)
  | sar (c : Ctl) (t : ITy) (d : VReg) (a b : Src)
  | rot (c : Ctl) (t : ITy) (d : VReg) (a b : Src)
  | bfx (c : Ctl) (t : ITy) (d : VReg) (a b : Src)
  | bfi (c : Ctl) (d : VReg) (a b e : Src)
  | popc (c : Ctl) (t : ITy) (d : VReg) (a : Src)
  | clz (c : Ctl) (t : ITy) (d : VReg) (a : Src)
  | ctz (c : Ctl) (t : ITy) (d : VReg) (a : Src)
  | brev (c : Ctl) (t : ITy) (d : VReg) (a : Src)
  | icmp (c : Ctl) (cond : Cond) (t : ITy) (d : PReg) (a b : Src)
  | sel (c : Ctl) (t : ITy) (d : VReg) (k : PReg) (inv : Bool) (a b : Src)
  | mov (c : Ctl) (t : ITy) (d : VReg) (a : Src)
  /- Instructions: Floating -/
  | fadd (c : Ctl) (t : FTy) (r : Option RM) (d : VReg) (a b : Src)
  | fsub (c : Ctl) (t : FTy) (r : Option RM) (d : VReg) (a b : Src)
  | fmul (c : Ctl) (t : FTy) (r : Option RM) (d : VReg) (a b : Src)
  | ffma (c : Ctl) (t : FTy) (r : Option RM) (d : VReg) (a b e : Src)
  | fdiv (c : Ctl) (t : FTy) (r : Option RM) (d : VReg) (a b : Src)
  | fsqrt (c : Ctl) (t : FTy) (r : Option RM) (d : VReg) (a : Src)
  | fscale (c : Ctl) (t : FTy) (r : Option RM) (d : VReg) (a b : Src)
  | fmin (c : Ctl) (t : FTy) (d : VReg) (a b : Src)
  | fmax (c : Ctl) (t : FTy) (d : VReg) (a b : Src)
  | fcmp (c : Ctl) (cond : Cond) (t : FTy) (d : PReg) (a b : Src)
  | fclass (c : Ctl) (t : FTy) (d : VReg) (a : Src)
  | frcp (c : Ctl) (t : FTy) (r : Option RM) (d : VReg) (a : Src)
  | frsq (c : Ctl) (t : FTy) (r : Option RM) (d : VReg) (a : Src)
  | fexp2 (c : Ctl) (t : FTy) (r : Option RM) (d : VReg) (a : Src)
  | flog2 (c : Ctl) (t : FTy) (r : Option RM) (d : VReg) (a : Src)
  | fsin (c : Ctl) (t : FTy) (r : Option RM) (d : VReg) (a : Src)
  | fcos (c : Ctl) (t : FTy) (r : Option RM) (d : VReg) (a : Src)
  | ftanh (c : Ctl) (t : FTy) (r : Option RM) (d : VReg) (a : Src)
  | frnd (c : Ctl) (t : FTy) (r : Option RM) (d : VReg) (a : Src)
  | fcopys (c : Ctl) (t : FTy) (d : VReg) (a b : Src)
  | cvtfi (c : Ctl) (t : ITy) (src : FTy) (r : Option RM) (d : VReg) (a : Src)
  | cvtif (c : Ctl) (t : FTy) (src : ITy) (r : Option RM) (d : VReg) (a : Src)
  | cvtff (c : Ctl) (t : FTy) (src : FTy) (r : Option RM) (d : VReg) (a : Src)
  | cvtl6 (c : Ctl) (i : BitVec 2) (r : Option RM) (d : VReg) (a b e : Src)
  | cvt6f (c : Ctl) (i : BitVec 2) (d : VReg) (a b : Src)
  | hadd2 (c : Ctl) (t : FTy) (r : Option RM) (d : VReg) (a b : Src)
  | hmul2 (c : Ctl) (t : FTy) (r : Option RM) (d : VReg) (a b : Src)
  | hfma2 (c : Ctl) (t : FTy) (r : Option RM) (d : VReg) (a b e : Src)
  | hmnx2 (c : Ctl) (max : Bool) (t : FTy) (d : VReg) (a b : Src)
  /- Instructions: Packed integer and dot -/
  | padd2 (c : Ctl) (t : ITy) (sat : Bool) (d : VReg) (a b : Src)
  | psub2 (c : Ctl) (t : ITy) (sat : Bool) (d : VReg) (a b : Src)
  | pmul2 (c : Ctl) (t : ITy) (sat : Bool) (d : VReg) (a b : Src)
  | pmac2 (c : Ctl) (d : VReg) (a b e : Src)
  | pmnx2 (c : Ctl) (max : Bool) (t : ITy) (d : VReg) (a b : Src)
  | pshr2 (c : Ctl) (arith : Bool) (d : VReg) (a b : Src)
  | shrr (c : Ctl) (t : ITy) (nar : Narrow) (d : VReg) (a b : Src)
  | pack2 (c : Ctl) (hi : Bool) (t : ITy) (sat : Bool) (d : VReg) (a b : Src)
  | unpk2 (c : Ctl) (hi : Bool) (t : ITy) (d : VReg) (a : Src)
  | ldot4 (c : Ctl) (r : Option RM) (d : VReg) (a b e : Src)
  | idot4 (c : Ctl) (t : ITy) (sat : Bool) (d : VReg) (a b e : Src)
  /- Instructions: Team -/
  | tsync (stall : BitVec 4)
  | tslide (c : Ctl) (down : Bool) (t : ITy) (fill : Fill) (d : VReg) (a b : Src)
  | tshfl (c : Ctl) (byXor : Bool) (t : ITy) (d : VReg) (a b e : Src)
  | tbcast (c : Ctl) (t : ITy) (d : VReg) (a : Src) (k : Src)
  | tscan (c : Ctl) (op : TOp) (ex : Bool) (t : TTy) (sat : Bool) (r : Option RM) (d : VReg) (a : Src)
  | tred (c : Ctl) (op : TOp) (t : TTy) (sat : Bool) (r : Option RM) (d : VReg) (a : Src)
  | tvote (c : Ctl) (op : VoteOp) (d : PReg) (a : PReg)
  | tballot (c : Ctl) (k : BitVec 2) (d : VReg) (a : PReg)
  | tmatch (c : Ctl) (k : BitVec 2) (t : ITy) (d : VReg) (a : Src)
  | telect (c : Ctl) (d : PReg)
  /- Instructions: Memory and capability -/
  | ld (c : Ctl) (t : ITy) (m : MMod) (d : VReg) (p : MemOp)
  | st (c : Ctl) (t : ITy) (m : MMod) (p : MemOp) (v : Src)
  | ldv (c : Ctl) (four : Bool) (m : MMod) (d : VReg) (p : MemOp)
  | stv (c : Ctl) (four : Bool) (m : MMod) (p : MemOp) (v : RSrc)
  | pref (c : Ctl) (l2 : Bool) (hint : Hint) (p : MemOp)
  | ldc (c : Ctl) (m : MMod) (d : CReg) (p : MemOp)
  | stc (c : Ctl) (m : MMod) (p : MemOp) (v : CSrc)
  | cderive (c : Ctl) (d : CReg) (a : CSrc) (b e : Src)
  | cperm (c : Ctl) (d : CReg) (a : CSrc) (b : Src)
  | cget (c : Ctl) (f : CapField) (d : VReg) (a : CSrc)
  | caddr (c : Ctl) (d : VReg) (a : CSrc) (b : Src)
  | cmov (c : Ctl) (d : CReg) (a : CSrc)
  | ctest (c : Ctl) (d : PReg) (a : CSrc) (b e : Src) (mask : Byte)
  /- Instructions: Fabric -/
  | amo (c : Ctl) (op : AmoOp) (t : ITy) (m : MMod) (d : VReg) (p : MemOp) (v : Src)
  | cas (c : Ctl) (t : ITy) (m : MMod) (d : VReg) (p : MemOp) (v : RSrc)
  | cas16 (c : Ctl) (m : MMod) (d : VReg) (p : MemOp) (v : RSrc)
  | amof (c : Ctl) (op : AmofOp) (m : MMod) (d : VReg) (p : MemOp) (v : Src)
  | fence (c : Ctl) (order : Order) (scope : Scope)
  | barinit (c : Ctl) (scope : Scope) (p : MemOp) (v : Src)
  | bararr (c : Ctl) (scope : Scope) (d : VReg) (p : MemOp)
  | bartx (c : Ctl) (scope : Scope) (d : VReg) (p : MemOp) (v : Src)
  | barwait (c : Ctl) (scope : Scope) (p : MemOp) (v : Src)
  | bartest (c : Ctl) (scope : Scope) (d : PReg) (p : MemOp) (v : Src)
  | mwait (c : Ctl) (ge : Bool) (t : ITy) (m : MMod) (d : VReg) (p : MemOp) (v : Src)
  | stroke (c : Ctl)
  | lnflush (c : Ctl) (p : MemOp)
  | lninv (c : Ctl) (p : MemOp)
  | lnreclaim (c : Ctl) (m : MMod) (d : VReg) (p : MemOp) (v : RSrc)
  | lnstat (c : Ctl) (d : VReg) (p : MemOp)
  /- Instructions: Transfer -/
  | xfer (c : Ctl) (d : VReg) (t : Src) (b : Option RSrc)
  | xtpl (c : Ctl) (a : CSrc) (t : Src) (toSide : Bool)
  | xprom (c : Ctl) (d : VReg) (t : Src) (b : Option RSrc)
  | xwait (c : Ctl) (a : Src)
  | xcancel (c : Ctl) (d : VReg) (a : Src)
  | xstat (c : Ctl) (d : VReg) (a : Src)
  /- Instructions: Matrix -/
  | crew (stall : BitVec 4) (h : Bool) (a : Src)
  | mma (stall : BitVec 4) (t : MTy) (k : BitVec 2) (r : Option RM) (d : Tile) (fa : BitVec 1) (fb : BitVec 3) (s : Scales)
  | aclr (stall : BitVec 4) (d : Tile)
  | aload (stall : BitVec 4) (int : Bool) (d : Tile) (p : MemOp)
  | astore (stall : BitVec 4) (int : Bool) (d : Tile) (p : MemOp)
  | adrain (stall : BitVec 4) (int : Bool) (r : Option RM) (d : Tile) (a : RSrc)
  | adrainS (stall : BitVec 4) (int : Bool) (d : Tile) (cap : CSrc) (idx : Option RSrc) (bar : Word)
  | areduce (stall : BitVec 4) (int : Bool) (d : Tile) (n : Src) (bar : Word)
  | acmt (stall : BitVec 4) (d : Tile)
  | fqstat (c : Ctl) (d : VReg) (f : Fifo)
  | fqdrop (stall : BitVec 4) (f : Fifo)
  | aroll (stall : BitVec 4) (d : Tile) (fa : BitVec 1) (fb : BitVec 3)
  /- Instructions: Wire -/
  | rxtake (c : Ctl) (d : VReg) (r : Src)
  | rxrel (c : Ctl) (r o : Src)
  | txpost (c : Ctl) (d : VReg) (a : CSrc) (b : Option RSrc) (w : Src)
  | txpostTs2 (c : Ctl) (d : VReg) (a : CSrc) (b : Option RSrc) (w : Src)
  | txpostTs1 (c : Ctl) (d : VReg) (a : CSrc) (b : Option RSrc) (w : Src) (h : BitVec 14)
  | txstat (c : Ctl) (d : VReg) (a : Src)
  | ptprd (c : Ctl) (d : VReg)
  | tsrec (c : Ctl) (d : VReg) (a : Src)
  /- Instructions: Front end -/
  | launch (c : Ctl) (d : VReg) (p : MemOp)
  | cont (c : Ctl) (delta : BitVec 27)
  | garm (c : Ctl) (a : Src)
  | gcond (c : Ctl) (k v : Src)
  | signalWrite (c : Ctl) (p : MemOp) (v : Src)
  | signalAdd (c : Ctl) (p : MemOp) (v : Src)
  | cancel (c : Ctl) (l : Level) (d : VReg) (a : Src)
  | lvlq (c : Ctl) (l : Level) (d : VReg) (a : Src)
  | hpost (c : Ctl) (d : VReg) (h : Src) (v : RSrc)
  /- Instructions: Banking -/
  | bank (c : Ctl) (d : VReg) (p : MemOp) (v : RSrc)
  | plant (c : Ctl) (d : VReg) (p : MemOp)
  /- Instructions: Counters -/
  | evsel (c : Ctl) (a b : Src)
  | evrd (c : Ctl) (d : VReg) (a : Src)
  /- Events inside the device: Team -/
  | teamConvergenceTimeout (unit team : Nat)
  /- Events inside the device: Memory and capability -/
  | loadDataReturn (unit fid : Nat)
  | registerFill (unit fid : Nat)
  | batchRegroup (core part : Nat)
  | sleepExpiry (unit fid : Nat)
  /- Events inside the device: Fabric -/
  | monitorWake (unit fid : Nat)
  | monitorRereadTimer (unit fid : Nat)
  | coherenceRequest (line req : Nat) (write : Bool) (holder : Option Nat)
  | tokenArrival (line : Nat) (got : TokenLoad)
  | attemptTimeout (line req : Nat)
  | persistentRequest (line req : Nat)
  | persistentSatisfied (line req : Nat)
  | activationMessage (line : Nat) (dst : Activation)
  | ownerTimeout (line : Nat)
  | l2Eviction (line holder : Nat)
  | l1CopyExpiry (core line : Nat)
  | directoryEntryFree (line : Nat)
  | detRoundCommit (launch : Nat)
  /- Events inside the device: Transfer -/
  | transferAccept (core req : Nat)
  | transferComplete (core req : Nat)
  | sequenceStampWrite (core req : Nat)
  | fifoPushComplete (core req : Nat)
  | transferFault (core req : Nat) (why : XferFail)
  | transferPageResume (core req : Nat)
  | promiseExpiry (core req : Nat)
  /- Events inside the device: Matrix -/
  | crewCatch (core entry : Nat)
  | catchTimeout (core entry : Nat)
  | mmaPerform (core : Nat)
  | drainArrival (core drain : Nat)
  /- Events inside the device: Wire -/
  | frameLanding (ring : Nat)
  | frameTransmit (port : Nat)
  | ppsOutputSecond
  /- Events inside the device: Front end -/
  | commandParse (q : Nat)
  | preloadComplete (done : CopyEnd)
  | gangDispatch (launch gang : Nat) (cores : List Nat)
  | unitRetire (unit : Nat)
  | launchSettle (launch : Nat)
  | postCopiesDone (done : CopyEnd)
  | graphEvent (inst : Nat)
  | vectorTimeExpiry (func vec : Nat)
  | periodStart (q : Nat)
  | budgetExhausted (q : Nat)
  | preemptionDecision (launch gang : Nat)
  | drainBoundExpiry (launch gang : Nat)
  | prectlCopy
  | trapCoalesce (unit fid : Nat)
  | screenCompare (unit : Nat)
  /- Events inside the device: Banking -/
  | bankingStart (job : Nat)
  | bankPointsReached (job : Nat)
  | imageWritten (job : Nat)
  | planting (job : Nat)
  /- Events inside the device: Device -/
  | unassignedOpcode (reason : Nat)
  | variableLatencyResult (unit fid : Nat)
  | accessPerformed (unit fid k : Nat)
  /- Events from outside: Fabric -/
  | staleEpochDiscard (line msg : Nat)
  | pcieCompletion (unit fid : Nat) (status : CplStatus) (poisoned : Bool)
  | pcieCompletionTimeout (unit fid : Nat)
  | hostWrite (addr : Nat) (data : List Byte) (poisoned relaxed : Bool)
  | hostRead (src : HostAt) (len : Nat)
  | hostAtomicop (op : HostAtomic) (eight : Bool) (addr : Nat) (operand compare : DWord)
  | patrolScrub (line : Nat)
  /- Events from outside: Transfer -/
  | apertureStore (core offset size : Nat) (data : DWord)
  /- Events from outside: Wire -/
  | frameReceive (port : Nat) (frame : List Byte) (fcsBad : Bool)
  | ppsInputEdge
  /- Events from outside: Front end -/
  | qkick (q size offset : Nat) (v : DWord)
  | qstatErrClear (q : Nat) (v : Word)
  | qctl (func q : Nat) (v : Word)
  | qperQbudWrite (q : Nat) (bud : Bool) (v : Word)
  | qres (q : Nat) (v : Word)
  | ovcntClear (q : Nat)
  | hrhead (func ring : Nat) (v : DWord)
  | ivctl (func vec : Nat) (v : Word)
  | prectl (v : Word)
  | trapRecordDisposal (core : Nat) (answer : PageAnswer) (debugger : Bool)
  | scrctl (v : Word)
  /- Events from outside: Banking -/
  | pageCarriage (ctx page : Nat) (data : List Byte)
  | moveReport (launch done : Nat)
  /- Events from outside: Mailboxes -/
  | attestationReport
  | certificateChain
  | mailboxCancel
  | mailboxMap
  | mailboxUnmap
  | hostWindowEntry
  | poolTable
  | memberAdd
  | memberRemove
  | ownerTimeOutSet
  | flowEntry
  | clockSource
  | clockStep
  | portReset
  | mailboxBank
  | mailboxPlant
  | move
  | release
  | checkpoint
  | readLog
  | readCounters
  /- Events from outside: Device -/
  | pwrcap (v : Word)
  | registerWrite (func offset size : Nat) (v : DWord)
  | powerSample (watts tj : Nat)
  | thermalStop (die : Nat)
  | moduleReset
  | firmwareMeasured (core : Nat) (images : List (List Byte)) (signed : FirmSign) (version : Nat)
  | calibrationDone (failcode detail : Nat)
  | ready (failed : Bool)
  | functionLevelReset (vf : Nat)
  | flitReplay (link : Nat)
  | linkRetrain (link : Nat) (half : Bool) (news : LinkNews)
  | portLinkChange (port : Nat) (up : Bool)
  | lineStateStoreFault (line : Nat)
  | storedWordError (site : StoreSite) (flip : Word) (codeFlip : Byte)
  | debuggerAction (core : Nat) (act : DebugAct)
  | mailboxUnknownCommand (core : Nat)
  | hrctl (func ring : Nat) (v : Word)
  | linkStatusRead (link : Nat)
  | msixVectorUnmask (func vec : Nat)
  | hostConfigRequest (ask : ConfigAsk := {})
  deriving DecidableEq, Repr

end Sys2Proof
end

