-- ==== Sys2Proof/WellFormed.lean ====
section
/-! DEFINITION. Which instructions an encoding of spec 04 admits: the register alignments of R49, one IMM32
per word (R25), the constants 0 to 30 (R47), the predicate forms of R22 and R59, and what each instruction's
own description allows. An event has no encoding and is always well formed. -/

namespace Sys2Proof

/-- Whether an integer type is 64 bits wide (R26). -/
def ITy.wide : ITy → Bool
  | .i64 | .n64 => true
  | _ => false

/-- Whether an integer type is signed (R21). -/
def ITy.signed : ITy → Bool
  | .i8 | .i16 | .i32 | .i64 => true
  | _ => false

/-- The 32-bit and 64-bit types of R109. -/
def ITy.is3264 : ITy → Bool
  | .i32 | .n32 | .i64 | .n64 => true
  | _ => false

/-- `.i32` and `.n32`. -/
def ITy.is32 : ITy → Bool
  | .i32 | .n32 => true
  | _ => false

/-- `.n32` and `.n64`. -/
def ITy.isN : ITy → Bool
  | .n32 | .n64 => true
  | _ => false

/-- `.i32` and `.i64`. -/
def ITy.isS : ITy → Bool
  | .i32 | .i64 => true
  | _ => false

/-- `.i16` and `.n16`. -/
def ITy.is16 : ITy → Bool
  | .i16 | .n16 => true
  | _ => false

/-- `.i8` and `.n8`. -/
def ITy.is8 : ITy → Bool
  | .i8 | .n8 => true
  | _ => false

/-- A packed half type (R158). -/
def FTy.is16 : FTy → Bool
  | .f32 => false
  | _ => true

/-- A predicated instruction may not be written with the inverted `always` predicate (R22, R50). -/
def Ctl.wf (c : Ctl) : Bool := !(c.ps == 15 && c.pn)

/-- A register that starts an aligned group of `k` words and fits below v64 (R49, R122, R245). -/
def groupOk (n : VReg) (align words : Nat) : Bool := n.toNat % align == 0 && n.toNat + words ≤ 64

/-- A destination or source register of a 32-bit or 64-bit value (R26). -/
def wordsOk (n : VReg) (wide : Bool) : Bool := if wide then groupOk n 2 2 else true

/-- A general source at a width (R47, R49). -/
def Src.wf (a : Src) (wide : Bool) : Bool :=
  match a with
  | .reg n _ => wordsOk n wide
  | .const k => k != 31
  | .imm _ => true

/-- The IMM32 value a source needs, if any. -/
def Src.immOf : Src → Option Word
  | .imm v => some v
  | _ => none

/-- A source that may not select IMM32 (R107, R114, R132). -/
def Src.noImm : Src → Bool
  | .imm _ => false
  | _ => true

/-- A constant or IMM32 (R170). -/
def Src.isConst : Src → Bool
  | .reg _ _ => false
  | _ => true

/-- Two sources that both need IMM32 need the same value (R25). -/
def immAgree (a b : Src) : Bool :=
  match a, b with
  | .imm x, .imm y => x == y
  | _, _ => true

/-- A source beside a memory operand: the displacement takes IMM32 (R25). -/
def MemOp.immAgree (m : MemOp) (v : Src) : Bool :=
  match v with
  | .imm x => x == m.disp
  | _ => true

/-- A scope may be named only with an order (R52). -/
def MMod.wf (m : MMod) (orders : List Order) : Bool :=
  orders.contains m.order && (m.order != .plain || m.scope == .unit)

/-- Only `.keep` or no hint (R239). -/
def MMod.keepOnly (m : MMod) : Bool := m.hint != .stream

/-- No hint at all (R239). -/
def MMod.noHint (m : MMod) : Bool := m.hint == .dflt

/-- A barrier word of R308. -/
def barWordOk (g : Word) : Bool := g == 0 || (g.getLsbD 0 && !g.getLsbD 1 && !g.getLsbD 2)

/-- The types a scan or reduction takes (R171). -/
def TOp.tyOk (op : TOp) (t : TTy) : Bool :=
  match op, t with
  | .add, .int t => t.is3264
  | .min, .int t => t.is3264
  | .max, .int t => t.is3264
  | .add, .f32 => true
  | .min, .f32 => true
  | .max, .f32 => true
  | _, .int t => t.isN
  | _, .f32 => false

/-- Whether a scan's type is 64 bits wide. -/
def TTy.wide : TTy → Bool
  | .int t => t.wide
  | .f32 => false

/-- A scan or reduction: `.sat` only on integer adds, a rounding override only on `.f32` adds (R166, R171). -/
def scanOk (op : TOp) (t : TTy) (sat : Bool) (r : Option RM) : Bool :=
  op.tyOk t && (!sat || (op == .add && t != .f32)) && (r.isNone || (op == .add && t == .f32))

/-- The words the destination of a special register read takes (R104). -/
def SReg.dstOk (r : SReg) (d : VReg) : Bool :=
  match r with
  | .clk => groupOk d 2 2
  | .ptp => groupOk d 2 3
  | _ => true

/-- Two integer sources and a destination of one type. -/
def wf2 (c : Ctl) (wide : Bool) (d : VReg) (a b : Src) : Bool :=
  c.wf && wordsOk d wide && a.wf wide && b.wf wide && immAgree a b

/-- One source and a destination. -/
def wf1 (c : Ctl) (wide : Bool) (d : VReg) (a : Src) : Bool :=
  c.wf && wordsOk d wide && a.wf wide

/-- Three 32-bit sources and a 32-bit destination. -/
def wf3 (c : Ctl) (a b e : Src) : Bool :=
  c.wf && a.wf false && b.wf false && e.wf false && immAgree a b && immAgree a e && immAgree b e

/-- A shift: the amount is 32 bits wide (R110). -/
def wfShift (c : Ctl) (wide : Bool) (d : VReg) (a b : Src) : Bool :=
  c.wf && wordsOk d wide && a.wf wide && b.wf false && immAgree a b

/-- A predicate destination with two sources. -/
def wfCmp (c : Ctl) (wide : Bool) (a b : Src) : Bool :=
  c.wf && a.wf wide && b.wf wide && immAgree a b

/-- The register group of `CAS` (R245). -/
def casGroup (t : ITy) (v : RSrc) : Bool := if t.wide then groupOk v.n 4 4 else groupOk v.n 2 2

/-- Whether an instruction is one that an encoding admits. -/
def wf : Instr → Bool
  | .packedCode _ => true
  | .nop _ e => match e with | none => true | some s => s != 0
  | .bra c _ => c.wf
  | .brx c a => c.wf && groupOk a.n 2 2
  | .call c _ => c.wf
  | .callx c a => c.wf && groupOk a.n 2 2
  | .ret c => c.wf
  | .fork c _ a b t => c.wf && a.wf false && b.wf false && (match a, b with
      | .imm x, .imm y => x == (t.delta ++ t.slot) && y == (t.delta ++ t.slot)
      | .imm x, _ => x == (t.delta ++ t.slot)
      | _, .imm y => y == (t.delta ++ t.slot)
      | _, _ => true)
  | .fend c => c.wf
  | .exit c => c.wf
  | .exitSuccessor c _ => c.wf
  | .yield c => c.wf
  | .sleepu c a => c.wf && a.wf true
  | .trap c a => c.wf && a.wf false
  | .brk c a => c.wf && a.wf false
  | .trapret c => c.wf
  | .trapretResume c => c.wf
  | .wspill c _ _ n => c.wf && n.wf false && n.noImm
  | .wfill c _ _ n => c.wf && n.wf false && n.noImm
  | .pset c _ _ _ _ => c.wf
  | .pmovRd c _ => c.wf
  | .pmovWr c a => c.wf && a.wf false
  | .srd c d r => c.wf && r.dstOk d
  | .swr c r a => c.wf && a.wf false && (match a with
      | .imm x => x == (match r with | .rmode => 9 | .fstat => 10 | .prog => 11)
      | _ => true)
  | .loopd c _ _ => c.wf
  | .iadd c t _ d a b => t.is3264 && wf2 c t.wide d a b
  | .isub c t _ d a b => t.is3264 && wf2 c t.wide d a b
  | .imul c t _ d a b => t.is3264 && wf2 c t.wide d a b
  | .imulh c t d a b => t.is32 && wf2 c false d a b
  | .imad c t _ a b e => t.is32 && wf3 c a b e
  | .imadw c t d a b e => t.is32 && c.wf && wordsOk d true && a.wf false && b.wf false && e.wf true &&
      immAgree a b && immAgree a e && immAgree b e
  | .idiv c t d a b => t.is3264 && wf2 c t.wide d a b
  | .irem c t d a b => t.is3264 && wf2 c t.wide d a b
  | .imin c t d a b => t.is3264 && wf2 c t.wide d a b
  | .imax c t d a b => t.is3264 && wf2 c t.wide d a b
  | .iabs c t _ d a => t.isS && wf1 c t.wide d a
  | .ineg c t _ d a => t.isS && wf1 c t.wide d a
  | .iaddc c d a b _ => wf2 c false d a b
  | .isubb c d a b _ => wf2 c false d a b
  | .and c t d a b => t.is3264 && wf2 c t.wide d a b
  | .or c t d a b => t.is3264 && wf2 c t.wide d a b
  | .xor c t d a b => t.is3264 && wf2 c t.wide d a b
  | .andn c t d a b => t.is3264 && wf2 c t.wide d a b
  | .logt c t d a b e _ => t.isN && c.wf && wordsOk d t.wide && a.wf t.wide && b.wf t.wide && e.wf t.wide &&
      a.noImm && b.noImm && e.noImm
  | .shl c t d a b => t.is3264 && wfShift c t.wide d a b
  | .shr c t d a b => t.is3264 && wfShift c t.wide d a b
  | .sar c t d a b => t.is3264 && wfShift c t.wide d a b
  | .rot c t d a b => t.isN && wfShift c t.wide d a b
  | .bfx c t d a b => t.is32 && wf2 c false d a b
  | .bfi c _ a b e => wf3 c a b e
  | .popc c t _ a => t.isN && c.wf && a.wf t.wide
  | .clz c t _ a => t.isN && c.wf && a.wf t.wide
  | .ctz c t _ a => t.isN && c.wf && a.wf t.wide
  | .brev c t d a => t.isN && wf1 c t.wide d a
  | .icmp c cond t _ a b => t.is3264 && cond != .ord && cond != .uno && wfCmp c t.wide a b
  | .sel c t d k _ a b => t.is3264 && k != 15 && wf2 c t.wide d a b
  | .mov c t d a => t.is3264 && wf1 c t.wide d a
  | .fadd c _ _ d a b => wf2 c false d a b
  | .fsub c _ _ d a b => wf2 c false d a b
  | .fmul c _ _ d a b => wf2 c false d a b
  | .ffma c _ _ _ a b e => wf3 c a b e
  | .fdiv c _ _ d a b => wf2 c false d a b
  | .fsqrt c _ _ d a => wf1 c false d a
  | .fscale c _ _ d a b => wf2 c false d a b
  | .fmin c _ d a b => wf2 c false d a b
  | .fmax c _ d a b => wf2 c false d a b
  | .fcmp c _ _ _ a b => wfCmp c false a b
  | .fclass c _ d a => wf1 c false d a
  | .frcp c _ _ d a => wf1 c false d a
  | .frsq c _ _ d a => wf1 c false d a
  | .fexp2 c _ _ d a => wf1 c false d a
  | .flog2 c _ _ d a => wf1 c false d a
  | .fsin c _ _ d a => wf1 c false d a
  | .fcos c _ _ d a => wf1 c false d a
  | .ftanh c _ _ d a => wf1 c false d a
  | .frnd c _ _ d a => wf1 c false d a
  | .fcopys c _ d a b => wf2 c false d a b
  | .cvtfi c t _ _ d a => c.wf && wordsOk d t.wide && a.wf false
  | .cvtif c _ s _ _ a => c.wf && a.wf s.wide
  | .cvtff c t s _ d a => t != s && wf1 c false d a
  | .cvtl6 c _ _ _ a b e => wf3 c a b e
  | .cvt6f c _ d a b => wf2 c false d a b
  | .hadd2 c t _ d a b => t.is16 && wf2 c false d a b
  | .hmul2 c t _ d a b => t.is16 && wf2 c false d a b
  | .hfma2 c t _ _ a b e => t.is16 && wf3 c a b e
  | .hmnx2 c _ t d a b => t.is16 && wf2 c false d a b
  | .padd2 c t _ d a b => t.is16 && wf2 c false d a b
  | .psub2 c t _ d a b => t.is16 && wf2 c false d a b
  | .pmul2 c t _ d a b => t.is16 && wf2 c false d a b
  | .pmac2 c _ a b e => wf3 c a b e
  | .pmnx2 c _ t d a b => t.is16 && wf2 c false d a b
  | .pshr2 c _ d a b => wf2 c false d a b
  | .shrr c t nar d a b => t.is3264 && (nar != .to32 || t.wide) && c.wf &&
      wordsOk d (t.wide && nar == .none) && a.wf t.wide && b.wf false && immAgree a b
  | .pack2 c hi t sat d a b => ((t.is16 && !sat) || (t.is32 && sat && !hi)) && wf2 c false d a b
  | .unpk2 c _ t d a => t.is16 && wf1 c false d a
  | .ldot4 c _ _ a b e => wf3 c a b e
  | .idot4 c t _ _ a b e => t.is8 && wf3 c a b e
  | .tsync _ => true
  | .tslide c _ t fill d a b => (t.is16 || t.is3264) && wfShift c t.wide d a b && (match fill with
      | .fc e => e.wf t.wide && immAgree a e && immAgree b e
      | _ => true)
  | .tshfl c _ t d a b e => t.is3264 && wfShift c t.wide d a b && e.wf t.wide && immAgree a e && immAgree b e
  | .tbcast c t d a k => t.is3264 && wfShift c t.wide d a k && k.isConst
  | .tscan c op _ t sat r d a => scanOk op t sat r && wf1 c t.wide d a
  | .tred c op t sat r d a => scanOk op t sat r && wf1 c t.wide d a
  | .tvote c _ _ _ => c.wf
  | .tballot c _ _ _ => c.wf
  | .tmatch c _ t _ a => t.isN && c.wf && a.wf t.wide
  | .telect c _ => c.wf
  | .ld c t m d _ => c.wf && m.wf [.plain, .acq] && wordsOk d t.wide
  | .st c t m p v => c.wf && m.wf [.plain, .rel] && v.wf t.wide && p.immAgree v
  | .ldv c four m d _ => c.wf && m.wf [.plain, .acq] && (if four then groupOk d 4 4 else groupOk d 2 2)
  | .stv c four m _ v => c.wf && m.wf [.plain, .rel] && (if four then groupOk v.n 4 4 else groupOk v.n 2 2)
  | .pref c _ _ _ => c.wf
  | .ldc c m _ _ => c.wf && m.wf [.plain, .acq]
  | .stc c m _ _ => c.wf && m.wf [.plain, .rel]
  | .cderive c _ _ b e => c.wf && b.wf false && e.wf false && immAgree b e
  | .cperm c _ _ b => c.wf && b.wf false
  | .cget c f d _ => c.wf && (match f with | .base | .len => groupOk d 2 2 | _ => true)
  | .caddr c d _ b => c.wf && groupOk d 2 2 && b.wf false
  | .cmov c _ _ => c.wf
  | .ctest c _ _ b e _ => c.wf && b.wf false && e.wf false && b.noImm && e.noImm
  | .amo c _ t m d p v => t.is3264 && c.wf && m.wf [.plain, .acq, .rel, .ar] && m.keepOnly && wordsOk d t.wide &&
      v.wf t.wide && p.immAgree v
  | .cas c t m d _ v => t.is3264 && c.wf && m.wf [.plain, .acq, .rel, .ar] && m.keepOnly && wordsOk d t.wide &&
      casGroup t v
  | .cas16 c m d _ v => c.wf && m.wf [.plain, .acq, .rel, .ar] && m.noHint && groupOk d 4 4 && groupOk v.n 8 8
  | .amof c _ m _ p v => c.wf && m.wf [.plain, .acq, .rel, .ar] && m.keepOnly && v.wf false && p.immAgree v
  | .fence c o _ => c.wf && o != .plain
  | .barinit c _ p v => c.wf && v.wf false && p.immAgree v
  | .bararr c _ _ _ => c.wf
  | .bartx c _ _ p v => c.wf && v.wf false && p.immAgree v
  | .barwait c _ p v => c.wf && v.wf false && p.immAgree v
  | .bartest c _ _ p v => c.wf && v.wf false && p.immAgree v
  | .mwait c _ t m d p v => t.isN && c.wf && m.wf [.plain, .acq] && m.keepOnly && wordsOk d t.wide &&
      v.wf t.wide && p.immAgree v
  | .stroke c => c.wf
  | .lnflush c _ => c.wf
  | .lninv c _ => c.wf
  | .lnreclaim c m _ _ v => c.wf && m.wf [.plain, .rel] && m.noHint && groupOk v.n 16 16
  | .lnstat c _ _ => c.wf
  | .xfer c d t b => c.wf && groupOk d 2 3 && t.wf false && (match b with | none => true | some r => groupOk r.n 2 2)
  | .xtpl c _ t _ => c.wf && t.wf false
  | .xprom c d t b => c.wf && groupOk d 2 2 && t.wf false && (match b with | none => true | some r => groupOk r.n 2 2)
  | .xwait c a => c.wf && a.wf false
  | .xcancel c _ a => c.wf && a.wf false
  | .xstat c d a => c.wf && groupOk d 2 2 && a.wf false
  | .crew _ _ a => a.wf false
  | .mma _ t k r _ _ fb s => (t == .l6 || k == 0) && decide (fb.toNat < 6) && (match t with
      | .l6 => (match s with | .zero => true | .reg v => groupOk v.n 2 2)
      | .i8 | .n8 => r.isNone && s == .zero
      | _ => s == .zero)
  | .aclr _ _ => true
  | .aload _ _ _ _ => true
  | .astore _ _ _ _ => true
  | .adrain _ _ _ _ a => groupOk a.n 2 2
  | .adrainS _ _ _ _ _ g => barWordOk g
  | .areduce _ _ _ n g => n.wf false && n.noImm && barWordOk g
  | .acmt _ _ => true
  | .fqstat c _ _ => c.wf
  | .fqdrop _ _ => true
  | .aroll _ _ _ fb => decide (fb.toNat < 6)
  | .rxtake c d r => c.wf && groupOk d 2 2 && r.wf false
  | .rxrel c r o => c.wf && r.wf false && o.wf false && immAgree r o
  | .txpost c _ _ _ w => c.wf && w.wf false && (match w with | .imm v => v == 0 | _ => true)
  | .txpostTs2 c _ _ _ w => c.wf && w.wf false && (match w with | .imm v => v == 0 | _ => true)
  | .txpostTs1 c _ _ _ w h => c.wf && w.wf false && (match w with | .imm v => v == h.setWidth 32 | _ => true)
  | .txstat c _ a => c.wf && a.wf false
  | .ptprd c d => c.wf && groupOk d 2 3
  | .tsrec c d a => c.wf && groupOk d 2 3 && a.wf false
  | .launch c _ _ => c.wf
  | .cont c _ => c.wf
  | .garm c a => c.wf && a.wf false
  | .gcond c k v => c.wf && k.wf false && v.wf true && immAgree k v
  | .signalWrite c p v => c.wf && v.wf true && p.immAgree v
  | .signalAdd c p v => c.wf && v.wf true && p.immAgree v
  | .cancel c _ _ a => c.wf && a.wf false
  | .lvlq c _ d a => c.wf && groupOk d 2 2 && a.wf false
  | .hpost c _ h v => c.wf && h.wf false && groupOk v.n 8 8
  | .bank c d _ v => c.wf && groupOk d 2 2 && groupOk v.n 2 2
  | .plant c _ _ => c.wf
  | .evsel c a b => c.wf && a.wf false && b.wf false && immAgree a b
  | .evrd c d a => c.wf && groupOk d 2 2 && a.wf false
  | .teamConvergenceTimeout .. | .loadDataReturn .. | .registerFill .. | .batchRegroup .. | .sleepExpiry ..
  | .monitorWake .. | .monitorRereadTimer .. | .coherenceRequest .. | .tokenArrival .. | .attemptTimeout ..
  | .persistentRequest .. | .persistentSatisfied .. | .activationMessage .. | .ownerTimeout .. | .l2Eviction ..
  | .l1CopyExpiry .. | .directoryEntryFree .. | .detRoundCommit .. | .transferAccept .. | .transferComplete ..
  | .sequenceStampWrite .. | .fifoPushComplete .. | .transferFault .. | .transferPageResume ..
  | .promiseExpiry .. | .crewCatch .. | .catchTimeout .. | .mmaPerform .. | .drainArrival .. | .frameLanding ..
  | .frameTransmit .. | .ppsOutputSecond | .commandParse .. | .preloadComplete .. | .gangDispatch ..
  | .unitRetire .. | .launchSettle .. | .postCopiesDone .. | .graphEvent .. | .vectorTimeExpiry ..
  | .periodStart .. | .budgetExhausted .. | .preemptionDecision .. | .drainBoundExpiry .. | .prectlCopy
  | .trapCoalesce .. | .screenCompare .. | .bankingStart .. | .bankPointsReached .. | .imageWritten ..
  | .planting .. | .unassignedOpcode .. | .variableLatencyResult .. | .accessPerformed .. | .staleEpochDiscard ..
  | .pcieCompletion .. | .pcieCompletionTimeout .. | .hostWrite .. | .hostRead .. | .hostAtomicop ..
  | .patrolScrub .. | .apertureStore .. | .frameReceive .. | .ppsInputEdge | .qkick .. | .qstatErrClear ..
  | .qctl .. | .qperQbudWrite .. | .qres .. | .ovcntClear .. | .hrhead .. | .ivctl .. | .prectl ..
  | .trapRecordDisposal .. | .scrctl .. | .pageCarriage .. | .moveReport .. | .attestationReport
  | .certificateChain | .mailboxCancel | .mailboxMap | .mailboxUnmap | .hostWindowEntry | .poolTable | .memberAdd
  | .memberRemove | .ownerTimeOutSet | .flowEntry | .clockSource | .clockStep | .portReset | .mailboxBank
  | .mailboxPlant | .move | .release | .checkpoint | .readLog | .readCounters | .pwrcap .. | .registerWrite ..
  | .powerSample .. | .thermalStop .. | .moduleReset | .firmwareMeasured .. | .calibrationDone .. | .ready ..
  | .functionLevelReset .. | .flitReplay .. | .linkRetrain .. | .portLinkChange .. | .lineStateStoreFault ..
  | .storedWordError .. | .debuggerAction .. | .mailboxUnknownCommand .. | .hrctl .. | .linkStatusRead ..
  | .msixVectorUnmask .. | .hostConfigRequest .. => true

/-- An instruction that an encoding admits. -/
abbrev WellFormed (i : Instr) : Prop := wf i = true

end Sys2Proof
end

