-- ==== Sys2Proof/Decode.lean ====
section
/-! DEFINITION. Decoding (spec 04 R38 to R62): the fields of the 96-bit word, the form of every opcode, the
ILLEGAL reasons, the instruction a legal word stands for; the encoder of the same tables; and the fetch line. -/

namespace Sys2Proof

/-! ### The word's fields (R46, R47) -/

/-- What a 7-bit source selector names (R47). -/
inductive Sel where
  | v (n : VReg)
  | c (n : CReg)
  | bad (n : BitVec 4)
  | k (n : BitVec 5)
  deriving DecidableEq, Repr, Inhabited

/-- A source field: its selector and its L bit. `k 31` is the selector 0x7F, IMM32. -/
structure Fld where
  sel : Sel
  last : Bool
  deriving DecidableEq, Repr, Inhabited

/-- The fields of the word (R46). -/
structure Raw where
  op : BitVec 8
  mod : BitVec 4
  stall : BitVec 4
  pn : Bool
  ps : BitVec 4
  d : BitVec 6
  sa : Fld
  sb : Fld
  sc : Fld
  x13 : BitVec 13
  imm : BitVec 32
  deriving DecidableEq, Repr, Inhabited

/-- The selector of R47 from its seven bits. -/
def selOf (s : BitVec 7) : Sel :=
  if s.getLsbD 6 = false then .v (s.extractLsb' 0 6)
  else if s.getLsbD 5 then .k (s.extractLsb' 0 5)
  else if s.getLsbD 4 then .bad (s.extractLsb' 0 4)
  else .c (s.extractLsb' 0 4)

/-- The seven bits of a selector. -/
def selBits : Sel → BitVec 7
  | .v n => 0#1 ++ n
  | .c n => 4#3 ++ n
  | .bad n => 5#3 ++ n
  | .k n => 3#2 ++ n

/-- A source field from its eight bits. -/
def fldOf (b : BitVec 8) : Fld := { sel := selOf (b.extractLsb' 0 7), last := b.getLsbD 7 }

/-- The eight bits of a source field. -/
def fldBits (f : Fld) : BitVec 8 := BitVec.ofBool f.last ++ selBits f.sel

/-- The fields of a word (R46). -/
def unpack (w : IWord) : Raw where
  op := w.extractLsb' 88 8
  mod := w.extractLsb' 84 4
  stall := w.extractLsb' 80 4
  pn := w.getLsbD 79
  ps := w.extractLsb' 75 4
  d := w.extractLsb' 69 6
  sa := fldOf (w.extractLsb' 61 8)
  sb := fldOf (w.extractLsb' 53 8)
  sc := fldOf (w.extractLsb' 45 8)
  x13 := w.extractLsb' 32 13
  imm := w.extractLsb' 0 32

/-- The word of its fields (R46). -/
def pack (r : Raw) : IWord :=
  r.op ++ r.mod ++ r.stall ++ BitVec.ofBool r.pn ++ r.ps ++ r.d ++ fldBits r.sa ++ fldBits r.sb ++
    fldBits r.sc ++ r.x13 ++ r.imm

/-! ### X13 (R52) -/

/-- TYPE, in layouts A and M. -/
def Raw.ty (r : Raw) : BitVec 4 := r.x13.extractLsb' 9 4
/-- SAT, layout A. -/
def Raw.sat (r : Raw) : Bool := r.x13.getLsbD 8
/-- RND, layout A. -/
def Raw.rnd (r : Raw) : BitVec 3 := r.x13.extractLsb' 5 3
/-- SEL, layout A. -/
def Raw.sel (r : Raw) : BitVec 5 := r.x13.extractLsb' 0 5
/-- SCOPE, layout M. -/
def Raw.scope (r : Raw) : BitVec 2 := r.x13.extractLsb' 7 2
/-- HINT, layout M. -/
def Raw.hint (r : Raw) : BitVec 2 := r.x13.extractLsb' 5 2
/-- ORDER, layout M. -/
def Raw.order (r : Raw) : BitVec 2 := r.x13.extractLsb' 3 2

/-- X13 of layout A. -/
def xA (ty : BitVec 4) (sat : Bool) (rnd : BitVec 3) (sel : BitVec 5) : BitVec 13 :=
  ty ++ BitVec.ofBool sat ++ rnd ++ sel

/-- X13 of layout M. -/
def xM (ty : BitVec 4) (scope hint order : BitVec 2) : BitVec 13 := ty ++ scope ++ hint ++ order ++ 0#3

/-! ### The codes of R21, R27, R52, R53 -/

/-- TYPE of an integer type. -/
def ITy.code : ITy → BitVec 4
  | .i8 => 0 | .i16 => 1 | .i32 => 2 | .i64 => 3 | .n8 => 4 | .n16 => 5 | .n32 => 6 | .n64 => 7

/-- The integer type of a TYPE code below 8. -/
def ityOf (c : BitVec 4) : ITy :=
  match c.toNat with
  | 0 => .i8 | 1 => .i16 | 2 => .i32 | 3 => .i64 | 4 => .n8 | 5 => .n16 | 6 => .n32 | _ => .n64

/-- TYPE of a floating type. -/
def FTy.code : FTy → BitVec 4
  | .f32 => 8 | .f16 => 9 | .bf16 => 10

/-- The floating type of a TYPE code from 8 to 10. -/
def ftyOf (c : BitVec 4) : FTy :=
  match c.toNat with
  | 8 => .f32 | 9 => .f16 | _ => .bf16

/-- The source format of CVTFI and CVTFF (R153). -/
def FTy.modCode : FTy → BitVec 4
  | .f32 => 0 | .f16 => 1 | .bf16 => 2

/-- The source format a MOD4 names. -/
def fmodOf (c : BitVec 4) : FTy :=
  match c.toNat with
  | 0 => .f32 | 1 => .f16 | _ => .bf16

/-- TYPE of a matrix multiply. -/
def MTy.code : MTy → BitVec 4
  | .l6 => 11 | .f16 => 9 | .bf16 => 10 | .i8 => 0 | .n8 => 4

/-- The matrix type of a TYPE code. -/
def mtyOf (c : BitVec 4) : MTy :=
  match c.toNat with
  | 11 => .l6 | 9 => .f16 | 10 => .bf16 | 0 => .i8 | _ => .n8

/-- TYPE of a scan. -/
def TTy.code : TTy → BitVec 4
  | .int t => t.code
  | .f32 => 8

/-- The scan type of a TYPE code. -/
def ttyOf (c : BitVec 4) : TTy := if c == 8 then .f32 else .int (ityOf c)

/-- RND of a rounding override; 0 is none. -/
def rmCode : Option RM → BitVec 3
  | none => 0 | some .rne => 1 | some .rtz => 2 | some .rdn => 3 | some .rup => 4 | some .rna => 5

/-- The override of an RND code. -/
def rmOf (c : BitVec 3) : Option RM :=
  match c.toNat with
  | 0 => none | 1 => some .rne | 2 => some .rtz | 3 => some .rdn | 4 => some .rup | _ => some .rna

/-- SEL of a condition (R53). -/
def Cond.code : Cond → BitVec 5
  | .eq => 0 | .ne => 1 | .lt => 2 | .le => 3 | .gt => 4 | .ge => 5 | .ord => 6 | .uno => 7

/-- The condition of a SEL code. -/
def condOf (c : BitVec 5) : Cond :=
  match c.toNat with
  | 0 => .eq | 1 => .ne | 2 => .lt | 3 => .le | 4 => .gt | 5 => .ge | 6 => .ord | _ => .uno

/-- SCOPE code. -/
def Scope.code : Scope → BitVec 2
  | .unit => 0 | .gang => 1 | .dev => 2 | .sys => 3

/-- The scope of a code. -/
def scopeOf (c : BitVec 2) : Scope :=
  match c.toNat with
  | 0 => .unit | 1 => .gang | 2 => .dev | _ => .sys

/-- ORDER code. -/
def Order.code : Order → BitVec 2
  | .plain => 0 | .acq => 1 | .rel => 2 | .ar => 3

/-- The order of a code. -/
def orderOf (c : BitVec 2) : Order :=
  match c.toNat with
  | 0 => .plain | 1 => .acq | 2 => .rel | _ => .ar

/-- HINT code. -/
def Hint.code : Hint → BitVec 2
  | .dflt => 0 | .stream => 1 | .keep => 2

/-- The hint of a code below 3. -/
def hintOf (c : BitVec 2) : Hint :=
  match c.toNat with
  | 0 => .dflt | 1 => .stream | _ => .keep

/-- X13 of a memory instruction. -/
def MMod.x13 (m : MMod) (ty : BitVec 4) : BitVec 13 := xM ty m.scope.code m.hint.code m.order.code

/-- The order, scope and hint of a word. -/
def Raw.mmod (r : Raw) : MMod := { order := orderOf r.order, scope := scopeOf r.scope, hint := hintOf r.hint }

/-- The number of a special register (R27). -/
def SReg.num : SReg → BitVec 32
  | .fid => 0 | .tid => 1 | .tw => 2 | .team => 3 | .unit => 4 | .gang => 5 | .nunits => 6 | .clk => 7
  | .ptp => 8 | .rmode => 9 | .fstat => 10 | .prog => 11 | .launch => 12

/-- The special register of a number below 13. -/
def sregOf (n : BitVec 32) : SReg :=
  match n.toNat with
  | 0 => .fid | 1 => .tid | 2 => .tw | 3 => .team | 4 => .unit | 5 => .gang | 6 => .nunits | 7 => .clk
  | 8 => .ptp | 9 => .rmode | 10 => .fstat | 11 => .prog | _ => .launch

/-- The number of a writable special register. -/
def WSReg.num : WSReg → BitVec 32
  | .rmode => 9 | .fstat => 10 | .prog => 11

/-- The writable special register of a number from 9 to 11. -/
def wsregOf (n : BitVec 32) : WSReg :=
  match n.toNat with
  | 9 => .rmode | 10 => .fstat | _ => .prog

/-- MOD4 of `CGET`. -/
def CapField.code : CapField → BitVec 4
  | .base => 0 | .len => 1 | .perms => 2 | .space => 3 | .gen => 4 | .tag => 5

/-- The field a MOD4 of `CGET` names. -/
def capFieldOf (c : BitVec 4) : CapField :=
  match c.toNat with
  | 0 => .base | 1 => .len | 2 => .perms | 3 => .space | 4 => .gen | _ => .tag

/-- MOD4 of `AMO`. -/
def AmoOp.code : AmoOp → BitVec 4
  | .add => 0 | .and => 1 | .or => 2 | .xor => 3 | .min => 4 | .max => 5 | .swap => 6

/-- The variant of `AMO`. -/
def amoOf (c : BitVec 4) : AmoOp :=
  match c.toNat with
  | 0 => .add | 1 => .and | 2 => .or | 3 => .xor | 4 => .min | 5 => .max | _ => .swap

/-- MOD4 of `AMOF`. -/
def AmofOp.code : AmofOp → BitVec 4
  | .add => 0 | .min => 1 | .max => 2

/-- The variant of `AMOF`. -/
def amofOf (c : BitVec 4) : AmofOp :=
  match c.toNat with
  | 0 => .add | 1 => .min | _ => .max

/-- The operation code of a scan (R171). -/
def TOp.code : TOp → BitVec 3
  | .add => 0 | .min => 1 | .max => 2 | .and => 3 | .or => 4 | .xor => 5

/-- The operation of a scan. -/
def topOf (c : BitVec 3) : TOp :=
  match c.toNat with
  | 0 => .add | 1 => .min | 2 => .max | 3 => .and | 4 => .or | _ => .xor

/-- MOD4 of a vote. -/
def VoteOp.code : VoteOp → BitVec 4
  | .all => 0 | .any => 1 | .uni => 2

/-- The vote of a MOD4. -/
def voteOf (c : BitVec 4) : VoteOp :=
  match c.toNat with
  | 0 => .all | 1 => .any | _ => .uni

/-- SEL of a narrowing (R162). -/
def Narrow.code : Narrow → BitVec 5
  | .none => 0 | .to16 => 1 | .to8 => 2 | .to32 => 3

/-- The narrowing of a SEL. -/
def narrowOf (c : BitVec 5) : Narrow :=
  match c.toNat with
  | 0 => .none | 1 => .to16 | 2 => .to8 | _ => .to32

/-- SEL of a fill (R168). -/
def Fill.code : Fill → BitVec 5
  | .fz => 0 | .fc _ => 1 | .fw => 2 | .fe => 3

/-- MOD4 of a level (R381). -/
def Level.code : Level → BitVec 4
  | .unit => 0 | .launch => 1 | .graph => 2 | .phase => 3 | .job => 4

/-- The level of a MOD4. -/
def levelOf (c : BitVec 4) : Level :=
  match c.toNat with
  | 0 => .unit | 1 => .launch | 2 => .graph | 3 => .phase | _ => .job

/-- A one-bit MOD4. -/
def bitMod (b : Bool) : BitVec 4 := if b then 1 else 0

/-! ### The form of every opcode (R58 and the chapters of the engines) -/

/-- What a source field takes. -/
inductive SK where
  /-- unused: 0x60 with L = 0 -/
  | none
  /-- unused beside a barrier word in IMM32: a selector of 0x7F is reason 3 (R308) -/
  | noneB
  /-- a register (64-bit ones even), a constant or IMM32 -/
  | any (wide : Bool)
  /-- as `any`, 32 bits, without IMM32 -/
  | noImm
  /-- as `any`, of a given width, without IMM32 -/
  | noImmW (wide : Bool)
  /-- a register that starts a group aligned to `align` -/
  | reg (align : Nat)
  /-- such a register, or the constant 0 -/
  | regOr0 (align : Nat)
  /-- a capability register -/
  | cap
  /-- a constant or IMM32 -/
  | konst
  /-- a constant below `n` -/
  | below (n : Nat)
  /-- the register that D names, with L = 0 (R88) -/
  | sameAsD
  deriving DecidableEq, Repr

/-- What D names (R48, R49, R307). -/
inductive DK where
  | none
  /-- a window register aligned to `align` with `words` words in range -/
  | v (align words : Nat)
  | pred
  | cap
  | tile
  deriving DecidableEq, Repr

/-- What IMM32 may hold. -/
inductive IK where
  /-- zero unless a selector is 0x7F -/
  | sel
  /-- any value -/
  | any
  /-- a value that satisfies the instruction's own form -/
  | ok (b : Bool)
  deriving DecidableEq, Repr

/-- The X13 layout with what the opcode accepts in it. -/
inductive LK where
  | n
  | a (tyOk satOk rndOk selOk : Bool)
  | m (tyOk hintOk orderOk scopeOk : Bool)
  deriving DecidableEq, Repr

/-- The form of one opcode, for the MOD4 and the type the word holds. -/
structure Form where
  modOk : Bool := true
  unpred : Bool := false
  d : DK := .none
  a : SK := .none
  b : SK := .none
  c : SK := .none
  imm : IK := .sel
  lay : LK := .n
  deriving DecidableEq, Repr

/-- The type code names a 64-bit type. -/
def tyWide (c : BitVec 4) : Bool := c == 3 || c == 7
/-- `.i32`, `.n32`, `.i64`, `.n64`. -/
def ty3264 (c : BitVec 4) : Bool := c == 2 || c == 6 || c == 3 || c == 7
/-- `.i32`, `.n32`. -/
def ty32 (c : BitVec 4) : Bool := c == 2 || c == 6
/-- `.n32`, `.n64`. -/
def tyN (c : BitVec 4) : Bool := c == 6 || c == 7
/-- `.i32`, `.i64`. -/
def tyS (c : BitVec 4) : Bool := c == 2 || c == 3
/-- `.i16`, `.n16`. -/
def ty16 (c : BitVec 4) : Bool := c == 1 || c == 5
/-- `.i8`, `.n8`. -/
def ty8 (c : BitVec 4) : Bool := c == 0 || c == 4
/-- `.f32`, `.f16`, `.bf16`. -/
def tyF (c : BitVec 4) : Bool := c == 8 || c == 9 || c == 10
/-- `.f16`, `.bf16`. -/
def tyH (c : BitVec 4) : Bool := c == 9 || c == 10
/-- An integer type. -/
def tyInt (c : BitVec 4) : Bool := c.toNat < 8
/-- `.f32` or `.i32`, the tile types of R308. -/
def tyTile (c : BitVec 4) : Bool := c == 8 || c == 2

/-- A 32-bit or, for a wide type, 64-bit destination. -/
def DK.wide (w : Bool) : DK := if w then .v 2 2 else .v 1 1

/-- The RND codes that override (R52). -/
def rndFine (r : Raw) : Bool := r.rnd.toNat < 6
/-- No override. -/
def rnd0 (r : Raw) : Bool := r.rnd == 0
/-- No saturation. -/
def sat0 (r : Raw) : Bool := !r.sat
/-- SEL 0. -/
def sel0 (r : Raw) : Bool := r.sel == 0
/-- SEL below 4. -/
def sel2 (r : Raw) : Bool := r.sel.toNat < 4

/-- The branch field, or zero in its slot bits (R98). -/
def slot0 (r : Raw) : Bool := (r.imm.extractLsb' 0 5) == 0

/-- Layout A of an integer instruction (R109). -/
def layI (r : Raw) (tyOk satOk : Bool) : LK := .a tyOk (satOk || sat0 r) (rnd0 r) (sel0 r)
/-- Layout A of a floating instruction (R145). -/
def layF (r : Raw) (tyOk rnd : Bool) : LK := .a tyOk (sat0 r) (if rnd then rndFine r else rnd0 r) (sel0 r)

/-- Layout M of an ordered access: the accepted orders, the accepted hints. -/
def layM (r : Raw) (tyOk : Bool) (orders : List Nat) (hintOk : Bool) : LK :=
  .m tyOk hintOk (orders.contains r.order.toNat) (r.order != 0 || r.scope == 0)
/-- Layout M of a fabric instruction that always names a scope. -/
def laySc (r : Raw) (tyOk : Bool) (orders : List Nat) : LK :=
  .m tyOk (r.hint == 0) (orders.contains r.order.toNat) true
/-- HINT 0 to 2. -/
def hintFine (r : Raw) : Bool := r.hint != 3
/-- HINT 0 or 2 (R239). -/
def hintKeep (r : Raw) : Bool := r.hint == 0 || r.hint == 2

/-- The entry word or zero in a NOP (R89, R95). -/
def nopImmOk (r : Raw) : Bool :=
  r.imm == 0 || (r.imm.extractLsb' 6 26 == 0x2000000 && r.imm.extractLsb' 0 6 != 0)

/-- Control and fibre, 0x00 to 0x14. -/
def formControl (r : Raw) : Nat → Option Form
  | 0x00 => some { modOk := r.mod == 0, unpred := true, imm := .ok (nopImmOk r) }
  | 0x01 => some { modOk := r.mod == 0, imm := .any }
  | 0x02 => some { modOk := r.mod == 0, a := .reg 2 }
  | 0x03 => some { modOk := r.mod == 0, imm := .any }
  | 0x04 => some { modOk := r.mod == 0, a := .reg 2 }
  | 0x05 => some { modOk := r.mod == 0 }
  | 0x06 => some { modOk := r.mod == 0, d := .v 1 1, a := .any false, b := .any false, imm := .any }
  | 0x07 => some { modOk := r.mod == 0 }
  | 0x08 => some { modOk := r.mod == 0 || r.mod == 1, imm := if r.mod == 1 then .ok (slot0 r) else .sel }
  | 0x09 => some { modOk := r.mod == 0 }
  | 0x0A => some { modOk := r.mod == 0, a := .any true }
  | 0x0B => some { modOk := r.mod == 0, a := .any false }
  | 0x0C => some { modOk := r.mod == 0, a := .any false }
  | 0x0D => some { modOk := r.mod == 0 || r.mod == 1 }
  | 0x0E => some { modOk := r.mod == 0, d := .v 1 1, a := .cap, b := .regOr0 1, c := .noImm, imm := .any }
  | 0x0F => some { modOk := r.mod == 0, d := .v 1 1, a := .cap, b := .regOr0 1, c := .noImm, imm := .any }
  | 0x10 => some { d := .pred, a := .below 16, b := .below 16 }
  | 0x11 => if r.mod == 1 then some { a := .any false } else some { modOk := r.mod == 0, d := .v 1 1 }
  | 0x12 => some { modOk := r.mod == 0
                   d := if r.imm == 7 then .v 2 2 else if r.imm == 8 then .v 2 3 else .v 1 1
                   imm := .ok (r.imm.toNat < 13) }
  | 0x13 => some { modOk := r.mod == 0, a := .any false, imm := .ok (r.imm.toNat < 12 && 8 < r.imm.toNat) }
  | 0x14 => some { modOk := r.mod == 0, d := .v 1 1, a := .sameAsD, imm := .any }
  | _ => none

/-- Integer instructions of two sources, width by type. -/
def formI2 (r : Raw) (tyOk satOk : Bool) : Option Form :=
  some { modOk := r.mod == 0, d := .wide (tyWide r.ty), a := .any (tyWide r.ty), b := .any (tyWide r.ty)
         lay := layI r tyOk satOk }
/-- Integer instructions of one source, width by type. -/
def formI1 (r : Raw) (tyOk satOk : Bool) : Option Form :=
  some { modOk := r.mod == 0, d := .wide (tyWide r.ty), a := .any (tyWide r.ty), lay := layI r tyOk satOk }
/-- Counting instructions: a 32-bit destination. -/
def formCount (r : Raw) : Option Form :=
  some { modOk := r.mod == 0, d := .v 1 1, a := .any (tyWide r.ty), lay := layI r (tyN r.ty) false }
/-- Shifts: a 32-bit amount. -/
def formShift (r : Raw) (tyOk : Bool) : Option Form :=
  some { modOk := r.mod == 0, d := .wide (tyWide r.ty), a := .any (tyWide r.ty), b := .any false
         lay := layI r tyOk false }
/-- Three 32-bit sources and a 32-bit destination. -/
def formI3 (r : Raw) (tyOk : Bool) : Option Form :=
  some { modOk := r.mod == 0, d := .v 1 1, a := .any false, b := .any false, c := .any false
         lay := layI r tyOk false }

/-- Integer, 0x20 to 0x3F (R110). -/
def formInteger (r : Raw) : Nat → Option Form
  | 0x20 => formI2 r (ty3264 r.ty) true
  | 0x21 => formI2 r (ty3264 r.ty) true
  | 0x22 => formI2 r (ty3264 r.ty) true
  | 0x23 => some { modOk := r.mod == 0, d := .v 1 1, a := .any false, b := .any false, lay := layI r (ty32 r.ty) false }
  | 0x24 => formI3 r (ty32 r.ty)
  | 0x25 => some { modOk := r.mod == 0, d := .v 2 2, a := .any false, b := .any false, c := .any true
                   lay := layI r (ty32 r.ty) false }
  | 0x26 => formI2 r (ty3264 r.ty) false
  | 0x27 => formI2 r (ty3264 r.ty) false
  | 0x28 => formI2 r (ty3264 r.ty) false
  | 0x29 => formI2 r (ty3264 r.ty) false
  | 0x2A => formI1 r (tyS r.ty) true
  | 0x2B => formI1 r (tyS r.ty) true
  | 0x2C => some { modOk := r.mod == 0, d := .v 1 1, a := .any false, b := .any false
                   lay := .a (r.ty == 6) (sat0 r) (rnd0 r) (r.sel.toNat < 16) }
  | 0x2D => some { modOk := r.mod == 0, d := .v 1 1, a := .any false, b := .any false
                   lay := .a (r.ty == 6) (sat0 r) (rnd0 r) (r.sel.toNat < 16) }
  | 0x2E => formI2 r (ty3264 r.ty) false
  | 0x2F => formI2 r (ty3264 r.ty) false
  | 0x30 => formI2 r (ty3264 r.ty) false
  | 0x31 => formI2 r (ty3264 r.ty) false
  | 0x32 => some { modOk := r.mod == 0, d := .wide (tyWide r.ty), a := .noImmW (tyWide r.ty)
                   b := .noImmW (tyWide r.ty), c := .noImmW (tyWide r.ty)
                   imm := .ok (r.imm.toNat < 256), lay := layI r (tyN r.ty) false }
  | 0x33 => formShift r (ty3264 r.ty)
  | 0x34 => formShift r (ty3264 r.ty)
  | 0x35 => formShift r (ty3264 r.ty)
  | 0x36 => formShift r (tyN r.ty)
  | 0x37 => some { modOk := r.mod == 0, d := .v 1 1, a := .any false, b := .any false, lay := layI r (ty32 r.ty) false }
  | 0x38 => formI3 r (r.ty == 6)
  | 0x39 => formCount r
  | 0x3A => formCount r
  | 0x3B => formCount r
  | 0x3C => formI1 r (tyN r.ty) false
  | 0x3D => some { modOk := r.mod == 0, d := .pred, a := .any (tyWide r.ty), b := .any (tyWide r.ty)
                   lay := .a (ty3264 r.ty) (sat0 r) (rnd0 r) (r.sel.toNat < 6) }
  | 0x3E => some { modOk := r.mod == 0, d := .wide (tyWide r.ty), a := .any (tyWide r.ty), b := .any (tyWide r.ty)
                   lay := .a (ty3264 r.ty) (sat0 r) (rnd0 r) (r.sel.extractLsb' 0 4 != 15) }
  | 0x3F => formI1 r (ty3264 r.ty) false
  | _ => none

/-- Floating instructions of one, two and three sources. -/
def formF1 (r : Raw) (rnd : Bool) : Option Form :=
  some { modOk := r.mod == 0, d := .v 1 1, a := .any false, lay := layF r (tyF r.ty) rnd }
/-- Two sources. -/
def formF2 (r : Raw) (rnd : Bool) : Option Form :=
  some { modOk := r.mod == 0, d := .v 1 1, a := .any false, b := .any false, lay := layF r (tyF r.ty) rnd }
/-- Packed halves of two sources. -/
def formH2 (r : Raw) (rnd modOk : Bool) : Option Form :=
  some { modOk := modOk, d := .v 1 1, a := .any false, b := .any false, lay := layF r (tyH r.ty) rnd }

/-- Floating, 0x40 to 0x5C. -/
def formFloat (r : Raw) : Nat → Option Form
  | 0x40 => formF2 r true
  | 0x41 => formF2 r true
  | 0x42 => formF2 r true
  | 0x43 => some { modOk := r.mod == 0, d := .v 1 1, a := .any false, b := .any false, c := .any false
                   lay := layF r (tyF r.ty) true }
  | 0x44 => formF2 r false
  | 0x45 => formF2 r false
  | 0x46 => some { modOk := r.mod == 0, d := .pred, a := .any false, b := .any false
                   lay := .a (tyF r.ty) (sat0 r) (rnd0 r) (r.sel.toNat < 8) }
  | 0x47 => formF1 r false
  | 0x48 => formF1 r true
  | 0x49 => formF1 r true
  | 0x4A => formF1 r true
  | 0x4B => formF2 r true
  | 0x4C => formF1 r true
  | 0x4D => formF1 r true
  | 0x4E => formF1 r true
  | 0x4F => formF1 r true
  | 0x50 => formF1 r true
  | 0x51 => formF1 r true
  | 0x52 => some { modOk := r.mod.toNat < 3, d := .wide (tyWide r.ty), a := .any false, lay := layF r (tyInt r.ty) true }
  | 0x53 => some { modOk := r.mod.toNat < 8, d := .v 1 1, a := .any (tyWide r.mod), lay := layF r (tyF r.ty) true }
  | 0x54 => some { modOk := r.mod.toNat < 3, d := .v 1 1, a := .any false
                   lay := layF r (tyF r.ty && r.ty != r.mod + 8) true }
  | 0x55 => some { modOk := r.mod == 0, d := .v 1 1, a := .any false, b := .any false, c := .any false
                   lay := .a (r.ty == 11) (sat0 r) (rndFine r) (sel2 r) }
  | 0x56 => some { modOk := r.mod == 0, d := .v 1 1, a := .any false, b := .any false
                   lay := .a (r.ty == 8) (sat0 r) (rnd0 r) (sel2 r) }
  | 0x57 => formH2 r true (r.mod == 0)
  | 0x58 => formH2 r true (r.mod == 0)
  | 0x59 => some { modOk := r.mod == 0, d := .v 1 1, a := .any false, b := .any false, c := .any false
                   lay := layF r (tyH r.ty) true }
  | 0x5A => formH2 r false (r.mod.toNat < 2)
  | 0x5B => formF2 r true
  | 0x5C => formF2 r false
  | _ => none

/-- Packed integers of two sources (R159). -/
def formP2 (r : Raw) (modOk tyOk satOk : Bool) : Option Form :=
  some { modOk := modOk, d := .v 1 1, a := .any false, b := .any false, lay := layI r tyOk satOk }

/-- Packed integer and dot, 0x60 to 0x6A. -/
def formPacked (r : Raw) : Nat → Option Form
  | 0x60 => formP2 r (r.mod == 0) (ty16 r.ty) true
  | 0x61 => formP2 r (r.mod == 0) (ty16 r.ty) true
  | 0x62 => formP2 r (r.mod == 0) (ty16 r.ty) true
  | 0x63 => formI3 r (r.ty == 1)
  | 0x64 => formP2 r (r.mod.toNat < 2) (ty16 r.ty) false
  | 0x65 => formP2 r (r.mod.toNat < 2) (r.ty == (if r.mod == 0 then 5 else 1)) false
  | 0x66 => some { modOk := r.mod == 0, d := .wide (tyWide r.ty && r.sel.extractLsb' 0 2 == 0)
                   a := .any (tyWide r.ty), b := .any false
                   lay := .a (ty3264 r.ty) (sat0 r) (rnd0 r) (sel2 r && (r.sel != 3 || tyWide r.ty)) }
  | 0x67 => formP2 r (if r.sat && ty32 r.ty then r.mod == 0 else r.mod.toNat < 2)
              (ty16 r.ty || (ty32 r.ty && r.sat)) (!ty16 r.ty)
  | 0x68 => some { modOk := r.mod.toNat < 2, d := .v 1 1, a := .any false, lay := layI r (ty16 r.ty) false }
  | 0x69 => some { modOk := r.mod == 0, d := .v 1 1, a := .any false, b := .any false, c := .any false
                   lay := layF r (r.ty == 8) true }
  | 0x6A => some { modOk := r.mod == 0, d := .v 1 1, a := .any false, b := .any false, c := .any false
                   lay := layI r (ty8 r.ty) true }
  | _ => none

/-- Whether a scan's TYPE fits its operation (R171): `op` is MOD4[2:0]. -/
def scanTyOk (r : Raw) : Bool :=
  if (r.mod.extractLsb' 0 3).toNat < 3 then ty3264 r.ty || r.ty == 8 else tyN r.ty

/-- The form of a scan or reduction: `.sat` is allowed with `.add` alone. DEDUCED: log 96. -/
def formScan (r : Raw) (modOk : Bool) : Option Form :=
  some { modOk := modOk, d := .wide (tyWide r.ty), a := .any (tyWide r.ty)
         lay := .a (scanTyOk r) (sat0 r || (r.mod.extractLsb' 0 3 == 0 && r.ty != 8))
           (if r.mod.extractLsb' 0 3 == 0 && r.ty == 8 then rndFine r else rnd0 r) (sel0 r) }

/-- Team, 0x70 to 0x79. -/
def formTeam (r : Raw) : Nat → Option Form
  | 0x70 => some { modOk := r.mod == 0, unpred := true, lay := layI r (r.ty == 0) false }
  | 0x71 => some { modOk := r.mod.toNat < 2, d := .wide (tyWide r.ty), a := .any (tyWide r.ty), b := .any false
                   c := if r.sel.extractLsb' 0 2 == 1 then .any (tyWide r.ty) else .none
                   lay := .a (ty16 r.ty || ty3264 r.ty) (sat0 r) (rnd0 r) (sel2 r) }
  | 0x72 => some { modOk := r.mod.toNat < 2, d := .wide (tyWide r.ty), a := .any (tyWide r.ty), b := .any false
                   c := .any (tyWide r.ty), lay := layI r (ty3264 r.ty) false }
  | 0x73 => some { modOk := r.mod == 0, d := .wide (tyWide r.ty), a := .any (tyWide r.ty), b := .konst
                   lay := layI r (ty3264 r.ty) false }
  | 0x74 => formScan r ((r.mod.extractLsb' 0 3).toNat < 6)
  | 0x75 => formScan r (r.mod.toNat < 6)
  | 0x76 => some { modOk := r.mod.toNat < 3, d := .pred, a := .below 16, lay := layI r (r.ty == 0) false }
  | 0x77 => some { modOk := r.mod == 0, d := .v 1 1, a := .below 16
                   lay := .a (r.ty == 0) (sat0 r) (rnd0 r) (sel2 r) }
  | 0x78 => some { modOk := r.mod == 0, d := .v 1 1, a := .any (tyWide r.ty)
                   lay := .a (tyN r.ty) (sat0 r) (rnd0 r) (sel2 r) }
  | 0x79 => some { modOk := r.mod == 0, d := .pred, lay := layI r (r.ty == 0) false }
  | _ => none

/-- A form with a memory operand in SA, SB and IMM32 (R117). -/
def memForm (modOk : Bool) (d : DK) (c : SK) (lay : LK) : Option Form :=
  some { modOk := modOk, d := d, a := .cap, b := .regOr0 1, c := c, imm := .any, lay := lay }

/-- Memory and capability, 0x80 to 0x8C. -/
def formMemory (r : Raw) : Nat → Option Form
  | 0x80 => memForm (r.mod == 0) (.wide (tyWide r.ty)) .none (layM r (tyInt r.ty) [0, 1] (hintFine r))
  | 0x81 => memForm (r.mod == 0) .none (.any (tyWide r.ty)) (layM r (tyInt r.ty) [0, 2] (hintFine r))
  | 0x82 => memForm (r.mod.toNat < 2) (if r.mod == 1 then .v 4 4 else .v 2 2) .none
              (layM r (r.ty == 6) [0, 1] (hintFine r))
  | 0x83 => memForm (r.mod.toNat < 2) .none (.reg (if r.mod == 1 then 4 else 2))
              (layM r (r.ty == 6) [0, 2] (hintFine r))
  | 0x84 => memForm (r.mod.toNat < 2) .none .none (layM r (r.ty == 6) [0] (hintFine r))
  | 0x85 => memForm (r.mod == 0) .cap .none (layM r (r.ty == 6) [0, 1] (hintFine r))
  | 0x86 => memForm (r.mod == 0) .none .cap (layM r (r.ty == 6) [0, 2] (hintFine r))
  | 0x87 => some { modOk := r.mod == 0, d := .cap, a := .cap, b := .any false, c := .any false }
  | 0x88 => some { modOk := r.mod == 0, d := .cap, a := .cap, b := .any false }
  | 0x89 => some { modOk := r.mod.toNat < 6, d := .wide (r.mod.toNat < 2), a := .cap }
  | 0x8A => some { modOk := r.mod == 0, d := .v 2 2, a := .cap, b := .any false }
  | 0x8B => some { modOk := r.mod == 0, d := .cap, a := .cap }
  | 0x8C => some { modOk := r.mod == 0, d := .pred, a := .cap, b := .noImm, c := .noImm
                   imm := .ok (r.imm.toNat < 256) }
  | _ => none

/-- Fabric, 0xA0 to 0xAF (R239). -/
def formFabric (r : Raw) : Nat → Option Form
  | 0xA0 => memForm (r.mod.toNat < 7) (.wide (tyWide r.ty)) (.any (tyWide r.ty))
              (layM r (ty3264 r.ty) [0, 1, 2, 3] (hintKeep r))
  | 0xA1 => memForm (r.mod == 0) (.wide (tyWide r.ty)) (.reg (if tyWide r.ty then 4 else 2))
              (layM r (ty3264 r.ty) [0, 1, 2, 3] (hintKeep r))
  | 0xA2 => memForm (r.mod == 0) (.v 4 4) (.reg 8) (layM r (r.ty == 6) [0, 1, 2, 3] (r.hint == 0))
  | 0xA3 => memForm (r.mod.toNat < 3) (.v 1 1) (.any false) (layM r (r.ty == 8) [0, 1, 2, 3] (hintKeep r))
  | 0xA4 => some { modOk := r.mod == 0, lay := laySc r (r.ty == 0) [1, 2, 3] }
  | 0xA5 => memForm (r.mod == 0) .none (.any false) (laySc r (r.ty == 7) [0])
  | 0xA6 => memForm (r.mod == 0) (.v 1 1) .none (laySc r (r.ty == 7) [0])
  | 0xA7 => memForm (r.mod == 0) (.v 1 1) (.any false) (laySc r (r.ty == 7) [0])
  | 0xA8 => memForm (r.mod == 0) .none (.any false) (laySc r (r.ty == 7) [0])
  | 0xA9 => memForm (r.mod == 0) .pred (.any false) (laySc r (r.ty == 7) [0])
  | 0xAA => memForm (r.mod.toNat < 2) (.wide (tyWide r.ty)) (.any (tyWide r.ty))
              (layM r (tyN r.ty) [0, 1] (hintKeep r))
  | 0xAB => some { modOk := r.mod == 0, lay := layM r (r.ty == 0) [0] (r.hint == 0) }
  | 0xAC => memForm (r.mod == 0) .none .none (layM r (r.ty == 0) [0] (r.hint == 0))
  | 0xAD => memForm (r.mod == 0) .none .none (layM r (r.ty == 0) [0] (r.hint == 0))
  | 0xAE => memForm (r.mod == 0) (.v 1 1) (.reg 16) (layM r (r.ty == 7) [0, 2] (r.hint == 0))
  | 0xAF => memForm (r.mod == 0) (.v 1 1) .none (layM r (r.ty == 0) [0] (r.hint == 0))
  | _ => none

/-- Transfer, 0xC0 to 0xC5 (R297). -/
def formTransfer (r : Raw) : Nat → Option Form
  | 0xC0 => some { modOk := r.mod == 0, d := .v 2 3, a := .any false, b := .regOr0 2 }
  | 0xC1 => some { modOk := r.mod == 0, a := .cap, b := .any false, c := .below 2 }
  | 0xC2 => some { modOk := r.mod == 0, d := .v 2 2, a := .any false, b := .regOr0 2 }
  | 0xC3 => some { modOk := r.mod == 0, a := .any false }
  | 0xC4 => some { modOk := r.mod == 0, d := .v 1 1, a := .any false }
  | 0xC5 => some { modOk := r.mod == 0, d := .v 2 2, a := .any false }
  | _ => none

/-- The types of `MMA`. -/
def mmaTy (c : BitVec 4) : Bool := c == 11 || tyH c || ty8 c

/-- A barrier word in IMM32 (R308). -/
def barImm (r : Raw) : IK := .ok (barWordOk r.imm)

/-- Matrix, 0xD0 to 0xDA (R308). -/
def formMatrix (r : Raw) : Nat → Option Form
  | 0xD0 => some { modOk := r.mod == 0, unpred := true, a := .any false
                   lay := .a (r.ty == 0) (sat0 r) (rnd0 r) (r.sel.toNat < 2) }
  | 0xD1 => some { modOk := r.mod == 0, unpred := true, d := .tile, a := .below 2, b := .below 6
                   c := if r.ty == 11 then .regOr0 2 else .none
                   lay := .a (mmaTy r.ty) (sat0 r) (if ty8 r.ty then rnd0 r else rndFine r)
                     (if r.ty == 11 then sel2 r else sel0 r) }
  | 0xD2 => some { modOk := r.mod == 0, unpred := true, d := .tile, lay := layI r (r.ty == 0) false }
  | 0xD3 => some { modOk := r.mod == 0, unpred := true, d := .tile, a := .cap, b := .regOr0 1, imm := .any
                   lay := layI r (tyTile r.ty) false }
  | 0xD4 => some { modOk := r.mod == 0, unpred := true, d := .tile, a := .cap, b := .regOr0 1, imm := .any
                   lay := layI r (tyTile r.ty) false }
  | 0xD5 => if r.mod == 1 then
      some { unpred := true, d := .tile, a := .cap, b := .regOr0 1, c := .noneB, imm := barImm r
             lay := layI r (tyTile r.ty) false }
    else some { modOk := r.mod == 0, unpred := true, d := .tile, a := .reg 2, lay := layF r (tyTile r.ty) true }
  | 0xD6 => some { modOk := r.mod == 0, unpred := true, d := .tile, a := .noImm, b := .noneB, c := .noneB, imm := barImm r
                   lay := layI r (tyTile r.ty) false }
  | 0xD7 => some { modOk := r.mod == 0, unpred := true, d := .tile, lay := layI r (r.ty == 0) false }
  | 0xD8 => some { modOk := r.mod == 0, d := .v 1 1, a := .below 8, lay := layI r (r.ty == 0) false }
  | 0xD9 => some { modOk := r.mod == 0, unpred := true, a := .below 8, lay := layI r (r.ty == 0) false }
  | 0xDA => some { modOk := r.mod == 0, unpred := true, d := .tile, a := .below 2, b := .below 6
                   lay := layI r (r.ty == 0) false }
  | _ => none

/-- IMM32 of `TXPOST` (R352, R354). -/
def txImm (r : Raw) : IK := .ok (if r.mod == 2 then r.imm.toNat < 0x4000 else r.imm == 0)

/-- Wire, 0xE0 to 0xE5, and front end, 0xE8 to 0xEF (R352, R381). -/
def formWire (r : Raw) : Nat → Option Form
  | 0xE0 => some { modOk := r.mod == 0, d := .v 2 2, a := .any false }
  | 0xE1 => some { modOk := r.mod == 0, a := .any false, b := .any false }
  | 0xE2 => some { modOk := r.mod.toNat < 3, d := .v 1 1, a := .cap, b := .regOr0 1, c := .any false, imm := txImm r }
  | 0xE3 => some { modOk := r.mod == 0, d := .v 1 1, a := .any false }
  | 0xE4 => some { modOk := r.mod == 0, d := .v 2 3 }
  | 0xE5 => some { modOk := r.mod == 0, d := .v 2 3, a := .any false }
  | 0xE8 => memForm (r.mod == 0) (.v 1 1) .none .n
  | 0xE9 => some { modOk := r.mod == 0, imm := .ok (slot0 r) }
  | 0xEA => some { modOk := r.mod == 0, a := .any false }
  | 0xEB => some { modOk := r.mod == 0, a := .any false, c := .any true }
  | 0xEC => memForm (r.mod.toNat < 2) .none (.any true) .n
  | 0xED => some { modOk := r.mod.toNat < 5, d := .v 1 1, a := .any false }
  | 0xEE => some { modOk := r.mod.toNat < 5, d := .v 2 2, a := .any false }
  | 0xEF => some { modOk := r.mod == 0, d := .v 1 1, a := .any false, c := .reg 8 }
  | _ => none

/-- System, 0xF0 to 0xF3 (R439, R458). -/
def formSystem (r : Raw) : Nat → Option Form
  | 0xF0 => memForm (r.mod == 0) (.v 2 2) (.reg 2) .n
  | 0xF1 => memForm (r.mod == 0) (.v 1 1) .none .n
  | 0xF2 => some { modOk := r.mod == 0, a := .any false, b := .any false }
  | 0xF3 => some { modOk := r.mod == 0, d := .v 2 2, a := .any false }
  | _ => none

/-- The form of the word's opcode; none for an opcode of R61. -/
def formOf (r : Raw) : Option Form :=
  match (r.op.extractLsb' 4 4).toNat with
  | 0x0 => formControl r r.op.toNat
  | 0x1 => formControl r r.op.toNat
  | 0x2 => formInteger r r.op.toNat
  | 0x3 => formInteger r r.op.toNat
  | 0x4 => formFloat r r.op.toNat
  | 0x5 => formFloat r r.op.toNat
  | 0x6 => formPacked r r.op.toNat
  | 0x7 => formTeam r r.op.toNat
  | 0x8 => formMemory r r.op.toNat
  | 0xA => formFabric r r.op.toNat
  | 0xC => formTransfer r r.op.toNat
  | 0xD => formMatrix r r.op.toNat
  | 0xE => formWire r r.op.toNat
  | 0xF => formSystem r r.op.toNat
  | _ => none

/-! ### The ILLEGAL reasons (R62) -/

/-- A reason that applies unless a condition holds. -/
def need (ok : Bool) (reason : Nat) : List Nat := if ok then [] else [reason]

/-- The reasons a source field gives (R47, R49). -/
def srcReasons (k : SK) (d : BitVec 6) (f : Fld) : List Nat :=
  match f.sel with
  | .bad _ => [3]
  | .c _ => need (k == .cap) 3
  | .v n => match k with
    | .none => [5]
    | .noneB => [5]
    | .any wide => need (!wide || n.toNat % 2 == 0) 7
    | .noImm => []
    | .noImmW wide => need (!wide || n.toNat % 2 == 0) 7
    | .reg al => need (n.toNat % al == 0) 7
    | .regOr0 al => need (n.toNat % al == 0) 7
    | .sameAsD => need (n == d && !f.last) 3
    | .cap => [3]
    | .konst => [3]
    | .below _ => [3]
  | .k c => need (!f.last) 4 ++ match k with
    | .none => need (c == 0) 5
    | .noneB => if c == 31 then [3] else need (c == 0) 5
    | .any _ => []
    | .noImm => need (c != 31) 3
    | .noImmW _ => need (c != 31) 3
    | .regOr0 _ => need (c == 0) 3
    | .konst => []
    | .below m => need (decide (c.toNat < m)) 3
    | .reg _ => [3]
    | .cap => [3]
    | .sameAsD => [3]

/-- The reasons D gives (R48, R49, R307). -/
def dReasons (k : DK) (d : BitVec 6) : List Nat :=
  match k with
  | .none => need (d == 0) 6
  | .v al words => need (groupOk d al words) 7
  | .pred => need (decide (d.toNat < 16)) 6
  | .cap => need (decide (d.toNat < 16)) 6
  | .tile => need (decide (d.toNat < 32)) 6

/-- A selector that reads IMM32. -/
def Fld.isImm (f : Fld) : Bool := f.sel == .k 31

/-- The reason IMM32 gives (R47). -/
def immReasons (k : IK) (r : Raw) : List Nat :=
  match k with
  | .sel => need (r.imm == 0 || r.sa.isImm || r.sb.isImm || r.sc.isImm) 5
  | .any => []
  | .ok b => need b 5

/-- The reasons X13 gives (R52). -/
def layReasons (k : LK) (r : Raw) : List Nat :=
  match k with
  | .n => need (r.x13 == 0) 10
  | .a ty sat rnd sel => need ty 8 ++ need rnd 9 ++ need (sat && sel) 10
  | .m ty hint order scope => need ty 8 ++ need (hint && order && scope) 9 ++ need (r.x13.extractLsb' 0 3 == 0) 10

/-- The reason the predicate gives (R50, R59). -/
def predReasons (unpred : Bool) (r : Raw) : List Nat :=
  need (if unpred then r.ps == 15 && !r.pn else !(r.ps == 15 && r.pn)) 13

/-- A selector of a window or capability register. -/
def Fld.isReg (f : Fld) : Bool :=
  match f.sel with
  | .v _ => true
  | .c _ => true
  | _ => false

/-- Whether the instruction uses the heavy port (R51). -/
def Raw.heavy (r : Raw) : Bool := decide (0xA0 ≤ r.op.toNat) || (r.sa.isReg && r.sb.isReg && r.sc.isReg)

/-- Every reason that applies to a word with its PAIR bit. -/
def reasons (r : Raw) (pair : Bool) : List Nat :=
  match formOf r with
  | none => [1]
  | some f => need f.modOk 2 ++ srcReasons f.a r.d r.sa ++ srcReasons f.b r.d r.sb ++ srcReasons f.c r.d r.sc ++
      immReasons f.imm r ++ dReasons f.d r.d ++ layReasons f.lay r ++ predReasons f.unpred r ++
      need (pair == r.heavy) 14

/-- The smallest of the reasons (R62). -/
def smallest : List Nat → Option Nat
  | [] => none
  | x :: xs => match smallest xs with
    | none => some x
    | some y => some (min x y)

/-! ### The instruction of a legal word -/

/-- A general source. -/
def Raw.src (r : Raw) (f : Fld) : Src :=
  match f.sel with
  | .v n => .reg n f.last
  | .k c => if c == 31 then .imm r.imm else .const c
  | .c n => .reg (n.setWidth 6) f.last
  | .bad n => .reg (n.setWidth 6) f.last

/-- A register source. -/
def Fld.rsrc (f : Fld) : RSrc :=
  match f.sel with
  | .v n => { n := n, last := f.last }
  | .c n => { n := n.setWidth 6, last := f.last }
  | .bad n => { n := n.setWidth 6, last := f.last }
  | .k c => { n := c.setWidth 6, last := f.last }

/-- A register, or the constant 0. -/
def Fld.rsrc? (f : Fld) : Option RSrc :=
  match f.sel with
  | .v n => some { n := n, last := f.last }
  | _ => none

/-- A capability source. -/
def Fld.csrc (f : Fld) : CSrc :=
  match f.sel with
  | .c n => { n := n, last := f.last }
  | .v n => { n := n.setWidth 4, last := f.last }
  | .bad n => { n := n, last := f.last }
  | .k c => { n := c.setWidth 4, last := f.last }

/-- A constant selector's value. -/
def Fld.k (f : Fld) : BitVec 5 :=
  match f.sel with
  | .k c => c
  | _ => 0

/-- A predicate input, selector 0x60 + a (R102). -/
def Fld.pr (f : Fld) : BitVec 4 := f.k.setWidth 4

/-- The memory operand in SA, SB and IMM32. -/
def Raw.mem (r : Raw) : MemOp := { cap := r.sa.csrc, idx := r.sb.rsrc?, disp := r.imm }

/-- The branch field of IMM32. -/
def Raw.br (r : Raw) : BrField := { delta := r.imm.extractLsb' 5 27, slot := r.imm.extractLsb' 0 5 }

/-- The stall count and predicate. -/
def Raw.ctl (r : Raw) : Ctl := { stall := r.stall, pn := r.pn, ps := r.ps }

/-- D as a predicate or capability number. -/
def Raw.d4 (r : Raw) : BitVec 4 := r.d.extractLsb' 0 4
/-- D as a tile. -/
def Raw.d5 (r : Raw) : BitVec 5 := r.d.extractLsb' 0 5

/-- Control and fibre. -/
def buildControl (r : Raw) : Nat → Option Instr
  | 0x00 => some (.nop r.stall (if r.imm == 0 then none else some (r.imm.extractLsb' 0 6)))
  | 0x01 => some (.bra r.ctl r.br)
  | 0x02 => some (.brx r.ctl r.sa.rsrc)
  | 0x03 => some (.call r.ctl r.br)
  | 0x04 => some (.callx r.ctl r.sa.rsrc)
  | 0x05 => some (.ret r.ctl)
  | 0x06 => some (.fork r.ctl r.d (r.src r.sa) (r.src r.sb) r.br)
  | 0x07 => some (.fend r.ctl)
  | 0x08 => some (if r.mod == 1 then .exitSuccessor r.ctl (r.imm.extractLsb' 5 27) else .exit r.ctl)
  | 0x09 => some (.yield r.ctl)
  | 0x0A => some (.sleepu r.ctl (r.src r.sa))
  | 0x0B => some (.trap r.ctl (r.src r.sa))
  | 0x0C => some (.brk r.ctl (r.src r.sa))
  | 0x0D => some (if r.mod == 1 then .trapretResume r.ctl else .trapret r.ctl)
  | 0x0E => some (.wspill r.ctl r.d r.mem (r.src r.sc))
  | 0x0F => some (.wfill r.ctl r.d r.mem (r.src r.sc))
  | 0x10 => some (.pset r.ctl r.mod r.d4 r.sa.pr r.sb.pr)
  | 0x11 => some (if r.mod == 1 then .pmovWr r.ctl (r.src r.sa) else .pmovRd r.ctl r.d)
  | 0x12 => some (.srd r.ctl r.d (sregOf r.imm))
  | 0x13 => some (.swr r.ctl (wsregOf r.imm) (r.src r.sa))
  | 0x14 => some (.loopd r.ctl r.d r.br)
  | _ => none

/-- Integer. -/
def buildInteger (r : Raw) : Nat → Option Instr
  | 0x20 => some (.iadd r.ctl (ityOf r.ty) r.sat r.d (r.src r.sa) (r.src r.sb))
  | 0x21 => some (.isub r.ctl (ityOf r.ty) r.sat r.d (r.src r.sa) (r.src r.sb))
  | 0x22 => some (.imul r.ctl (ityOf r.ty) r.sat r.d (r.src r.sa) (r.src r.sb))
  | 0x23 => some (.imulh r.ctl (ityOf r.ty) r.d (r.src r.sa) (r.src r.sb))
  | 0x24 => some (.imad r.ctl (ityOf r.ty) r.d (r.src r.sa) (r.src r.sb) (r.src r.sc))
  | 0x25 => some (.imadw r.ctl (ityOf r.ty) r.d (r.src r.sa) (r.src r.sb) (r.src r.sc))
  | 0x26 => some (.idiv r.ctl (ityOf r.ty) r.d (r.src r.sa) (r.src r.sb))
  | 0x27 => some (.irem r.ctl (ityOf r.ty) r.d (r.src r.sa) (r.src r.sb))
  | 0x28 => some (.imin r.ctl (ityOf r.ty) r.d (r.src r.sa) (r.src r.sb))
  | 0x29 => some (.imax r.ctl (ityOf r.ty) r.d (r.src r.sa) (r.src r.sb))
  | 0x2A => some (.iabs r.ctl (ityOf r.ty) r.sat r.d (r.src r.sa))
  | 0x2B => some (.ineg r.ctl (ityOf r.ty) r.sat r.d (r.src r.sa))
  | 0x2C => some (.iaddc r.ctl r.d (r.src r.sa) (r.src r.sb) (r.sel.extractLsb' 0 4))
  | 0x2D => some (.isubb r.ctl r.d (r.src r.sa) (r.src r.sb) (r.sel.extractLsb' 0 4))
  | 0x2E => some (.and r.ctl (ityOf r.ty) r.d (r.src r.sa) (r.src r.sb))
  | 0x2F => some (.or r.ctl (ityOf r.ty) r.d (r.src r.sa) (r.src r.sb))
  | 0x30 => some (.xor r.ctl (ityOf r.ty) r.d (r.src r.sa) (r.src r.sb))
  | 0x31 => some (.andn r.ctl (ityOf r.ty) r.d (r.src r.sa) (r.src r.sb))
  | 0x32 => some (.logt r.ctl (ityOf r.ty) r.d (r.src r.sa) (r.src r.sb) (r.src r.sc) (r.imm.extractLsb' 0 8))
  | 0x33 => some (.shl r.ctl (ityOf r.ty) r.d (r.src r.sa) (r.src r.sb))
  | 0x34 => some (.shr r.ctl (ityOf r.ty) r.d (r.src r.sa) (r.src r.sb))
  | 0x35 => some (.sar r.ctl (ityOf r.ty) r.d (r.src r.sa) (r.src r.sb))
  | 0x36 => some (.rot r.ctl (ityOf r.ty) r.d (r.src r.sa) (r.src r.sb))
  | 0x37 => some (.bfx r.ctl (ityOf r.ty) r.d (r.src r.sa) (r.src r.sb))
  | 0x38 => some (.bfi r.ctl r.d (r.src r.sa) (r.src r.sb) (r.src r.sc))
  | 0x39 => some (.popc r.ctl (ityOf r.ty) r.d (r.src r.sa))
  | 0x3A => some (.clz r.ctl (ityOf r.ty) r.d (r.src r.sa))
  | 0x3B => some (.ctz r.ctl (ityOf r.ty) r.d (r.src r.sa))
  | 0x3C => some (.brev r.ctl (ityOf r.ty) r.d (r.src r.sa))
  | 0x3D => some (.icmp r.ctl (condOf r.sel) (ityOf r.ty) r.d4 (r.src r.sa) (r.src r.sb))
  | 0x3E => some (.sel r.ctl (ityOf r.ty) r.d (r.sel.extractLsb' 0 4) (r.sel.getLsbD 4) (r.src r.sa) (r.src r.sb))
  | 0x3F => some (.mov r.ctl (ityOf r.ty) r.d (r.src r.sa))
  | _ => none

/-- Floating. -/
def buildFloat (r : Raw) : Nat → Option Instr
  | 0x40 => some (.fadd r.ctl (ftyOf r.ty) (rmOf r.rnd) r.d (r.src r.sa) (r.src r.sb))
  | 0x41 => some (.fsub r.ctl (ftyOf r.ty) (rmOf r.rnd) r.d (r.src r.sa) (r.src r.sb))
  | 0x42 => some (.fmul r.ctl (ftyOf r.ty) (rmOf r.rnd) r.d (r.src r.sa) (r.src r.sb))
  | 0x43 => some (.ffma r.ctl (ftyOf r.ty) (rmOf r.rnd) r.d (r.src r.sa) (r.src r.sb) (r.src r.sc))
  | 0x44 => some (.fmin r.ctl (ftyOf r.ty) r.d (r.src r.sa) (r.src r.sb))
  | 0x45 => some (.fmax r.ctl (ftyOf r.ty) r.d (r.src r.sa) (r.src r.sb))
  | 0x46 => some (.fcmp r.ctl (condOf r.sel) (ftyOf r.ty) r.d4 (r.src r.sa) (r.src r.sb))
  | 0x47 => some (.fclass r.ctl (ftyOf r.ty) r.d (r.src r.sa))
  | 0x48 => some (.frcp r.ctl (ftyOf r.ty) (rmOf r.rnd) r.d (r.src r.sa))
  | 0x49 => some (.frsq r.ctl (ftyOf r.ty) (rmOf r.rnd) r.d (r.src r.sa))
  | 0x4A => some (.fsqrt r.ctl (ftyOf r.ty) (rmOf r.rnd) r.d (r.src r.sa))
  | 0x4B => some (.fdiv r.ctl (ftyOf r.ty) (rmOf r.rnd) r.d (r.src r.sa) (r.src r.sb))
  | 0x4C => some (.fexp2 r.ctl (ftyOf r.ty) (rmOf r.rnd) r.d (r.src r.sa))
  | 0x4D => some (.flog2 r.ctl (ftyOf r.ty) (rmOf r.rnd) r.d (r.src r.sa))
  | 0x4E => some (.fsin r.ctl (ftyOf r.ty) (rmOf r.rnd) r.d (r.src r.sa))
  | 0x4F => some (.fcos r.ctl (ftyOf r.ty) (rmOf r.rnd) r.d (r.src r.sa))
  | 0x50 => some (.ftanh r.ctl (ftyOf r.ty) (rmOf r.rnd) r.d (r.src r.sa))
  | 0x51 => some (.frnd r.ctl (ftyOf r.ty) (rmOf r.rnd) r.d (r.src r.sa))
  | 0x52 => some (.cvtfi r.ctl (ityOf r.ty) (fmodOf r.mod) (rmOf r.rnd) r.d (r.src r.sa))
  | 0x53 => some (.cvtif r.ctl (ftyOf r.ty) (ityOf r.mod) (rmOf r.rnd) r.d (r.src r.sa))
  | 0x54 => some (.cvtff r.ctl (ftyOf r.ty) (fmodOf r.mod) (rmOf r.rnd) r.d (r.src r.sa))
  | 0x55 => some (.cvtl6 r.ctl (r.sel.extractLsb' 0 2) (rmOf r.rnd) r.d (r.src r.sa) (r.src r.sb) (r.src r.sc))
  | 0x56 => some (.cvt6f r.ctl (r.sel.extractLsb' 0 2) r.d (r.src r.sa) (r.src r.sb))
  | 0x57 => some (.hadd2 r.ctl (ftyOf r.ty) (rmOf r.rnd) r.d (r.src r.sa) (r.src r.sb))
  | 0x58 => some (.hmul2 r.ctl (ftyOf r.ty) (rmOf r.rnd) r.d (r.src r.sa) (r.src r.sb))
  | 0x59 => some (.hfma2 r.ctl (ftyOf r.ty) (rmOf r.rnd) r.d (r.src r.sa) (r.src r.sb) (r.src r.sc))
  | 0x5A => some (.hmnx2 r.ctl (r.mod == 1) (ftyOf r.ty) r.d (r.src r.sa) (r.src r.sb))
  | 0x5B => some (.fscale r.ctl (ftyOf r.ty) (rmOf r.rnd) r.d (r.src r.sa) (r.src r.sb))
  | 0x5C => some (.fcopys r.ctl (ftyOf r.ty) r.d (r.src r.sa) (r.src r.sb))
  | _ => none

/-- Packed integer and dot. -/
def buildPacked (r : Raw) : Nat → Option Instr
  | 0x60 => some (.padd2 r.ctl (ityOf r.ty) r.sat r.d (r.src r.sa) (r.src r.sb))
  | 0x61 => some (.psub2 r.ctl (ityOf r.ty) r.sat r.d (r.src r.sa) (r.src r.sb))
  | 0x62 => some (.pmul2 r.ctl (ityOf r.ty) r.sat r.d (r.src r.sa) (r.src r.sb))
  | 0x63 => some (.pmac2 r.ctl r.d (r.src r.sa) (r.src r.sb) (r.src r.sc))
  | 0x64 => some (.pmnx2 r.ctl (r.mod == 1) (ityOf r.ty) r.d (r.src r.sa) (r.src r.sb))
  | 0x65 => some (.pshr2 r.ctl (r.mod == 1) r.d (r.src r.sa) (r.src r.sb))
  | 0x66 => some (.shrr r.ctl (ityOf r.ty) (narrowOf r.sel) r.d (r.src r.sa) (r.src r.sb))
  | 0x67 => some (.pack2 r.ctl (r.mod == 1) (ityOf r.ty) r.sat r.d (r.src r.sa) (r.src r.sb))
  | 0x68 => some (.unpk2 r.ctl (r.mod == 1) (ityOf r.ty) r.d (r.src r.sa))
  | 0x69 => some (.ldot4 r.ctl (rmOf r.rnd) r.d (r.src r.sa) (r.src r.sb) (r.src r.sc))
  | 0x6A => some (.idot4 r.ctl (ityOf r.ty) r.sat r.d (r.src r.sa) (r.src r.sb) (r.src r.sc))
  | _ => none

/-- The fill of a `TSLIDE`. -/
def Raw.fill (r : Raw) : Fill :=
  match (r.sel.extractLsb' 0 2).toNat with
  | 0 => .fz | 1 => .fc (r.src r.sc) | 2 => .fw | _ => .fe

/-- Team. -/
def buildTeam (r : Raw) : Nat → Option Instr
  | 0x70 => some (.tsync r.stall)
  | 0x71 => some (.tslide r.ctl (r.mod == 1) (ityOf r.ty) r.fill r.d (r.src r.sa) (r.src r.sb))
  | 0x72 => some (.tshfl r.ctl (r.mod == 1) (ityOf r.ty) r.d (r.src r.sa) (r.src r.sb) (r.src r.sc))
  | 0x73 => some (.tbcast r.ctl (ityOf r.ty) r.d (r.src r.sa) (r.src r.sb))
  | 0x74 => some (.tscan r.ctl (topOf (r.mod.extractLsb' 0 3)) (r.mod.getLsbD 3) (ttyOf r.ty) r.sat (rmOf r.rnd)
                   r.d (r.src r.sa))
  | 0x75 => some (.tred r.ctl (topOf (r.mod.extractLsb' 0 3)) (ttyOf r.ty) r.sat (rmOf r.rnd) r.d (r.src r.sa))
  | 0x76 => some (.tvote r.ctl (voteOf r.mod) r.d4 r.sa.pr)
  | 0x77 => some (.tballot r.ctl (r.sel.extractLsb' 0 2) r.d r.sa.pr)
  | 0x78 => some (.tmatch r.ctl (r.sel.extractLsb' 0 2) (ityOf r.ty) r.d (r.src r.sa))
  | 0x79 => some (.telect r.ctl r.d4)
  | _ => none

/-- Memory and capability. -/
def buildMemory (r : Raw) : Nat → Option Instr
  | 0x80 => some (.ld r.ctl (ityOf r.ty) r.mmod r.d r.mem)
  | 0x81 => some (.st r.ctl (ityOf r.ty) r.mmod r.mem (r.src r.sc))
  | 0x82 => some (.ldv r.ctl (r.mod == 1) r.mmod r.d r.mem)
  | 0x83 => some (.stv r.ctl (r.mod == 1) r.mmod r.mem r.sc.rsrc)
  | 0x84 => some (.pref r.ctl (r.mod == 1) (hintOf r.hint) r.mem)
  | 0x85 => some (.ldc r.ctl r.mmod r.d4 r.mem)
  | 0x86 => some (.stc r.ctl r.mmod r.mem r.sc.csrc)
  | 0x87 => some (.cderive r.ctl r.d4 r.sa.csrc (r.src r.sb) (r.src r.sc))
  | 0x88 => some (.cperm r.ctl r.d4 r.sa.csrc (r.src r.sb))
  | 0x89 => some (.cget r.ctl (capFieldOf r.mod) r.d r.sa.csrc)
  | 0x8A => some (.caddr r.ctl r.d r.sa.csrc (r.src r.sb))
  | 0x8B => some (.cmov r.ctl r.d4 r.sa.csrc)
  | 0x8C => some (.ctest r.ctl r.d4 r.sa.csrc (r.src r.sb) (r.src r.sc) (r.imm.extractLsb' 0 8))
  | _ => none

/-- Fabric. -/
def buildFabric (r : Raw) : Nat → Option Instr
  | 0xA0 => some (.amo r.ctl (amoOf r.mod) (ityOf r.ty) r.mmod r.d r.mem (r.src r.sc))
  | 0xA1 => some (.cas r.ctl (ityOf r.ty) r.mmod r.d r.mem r.sc.rsrc)
  | 0xA2 => some (.cas16 r.ctl r.mmod r.d r.mem r.sc.rsrc)
  | 0xA3 => some (.amof r.ctl (amofOf r.mod) r.mmod r.d r.mem (r.src r.sc))
  | 0xA4 => some (.fence r.ctl (orderOf r.order) (scopeOf r.scope))
  | 0xA5 => some (.barinit r.ctl (scopeOf r.scope) r.mem (r.src r.sc))
  | 0xA6 => some (.bararr r.ctl (scopeOf r.scope) r.d r.mem)
  | 0xA7 => some (.bartx r.ctl (scopeOf r.scope) r.d r.mem (r.src r.sc))
  | 0xA8 => some (.barwait r.ctl (scopeOf r.scope) r.mem (r.src r.sc))
  | 0xA9 => some (.bartest r.ctl (scopeOf r.scope) r.d4 r.mem (r.src r.sc))
  | 0xAA => some (.mwait r.ctl (r.mod == 1) (ityOf r.ty) r.mmod r.d r.mem (r.src r.sc))
  | 0xAB => some (.stroke r.ctl)
  | 0xAC => some (.lnflush r.ctl r.mem)
  | 0xAD => some (.lninv r.ctl r.mem)
  | 0xAE => some (.lnreclaim r.ctl r.mmod r.d r.mem r.sc.rsrc)
  | 0xAF => some (.lnstat r.ctl r.d r.mem)
  | _ => none

/-- Transfer. -/
def buildTransfer (r : Raw) : Nat → Option Instr
  | 0xC0 => some (.xfer r.ctl r.d (r.src r.sa) r.sb.rsrc?)
  | 0xC1 => some (.xtpl r.ctl r.sa.csrc (r.src r.sb) (r.sc.k == 1))
  | 0xC2 => some (.xprom r.ctl r.d (r.src r.sa) r.sb.rsrc?)
  | 0xC3 => some (.xwait r.ctl (r.src r.sa))
  | 0xC4 => some (.xcancel r.ctl r.d (r.src r.sa))
  | 0xC5 => some (.xstat r.ctl r.d (r.src r.sa))
  | _ => none

/-- The scales of an L6 `MMA`. -/
def Raw.scales (r : Raw) : Scales :=
  match r.sc.rsrc? with
  | none => .zero
  | some s => .reg s

/-- Matrix. -/
def buildMatrix (r : Raw) : Nat → Option Instr
  | 0xD0 => some (.crew r.stall (r.sel == 1) (r.src r.sa))
  | 0xD1 => some (.mma r.stall (mtyOf r.ty) (r.sel.extractLsb' 0 2) (rmOf r.rnd) r.d5 (r.sa.k.extractLsb' 0 1)
                   (r.sb.k.extractLsb' 0 3) r.scales)
  | 0xD2 => some (.aclr r.stall r.d5)
  | 0xD3 => some (.aload r.stall (r.ty == 2) r.d5 r.mem)
  | 0xD4 => some (.astore r.stall (r.ty == 2) r.d5 r.mem)
  | 0xD5 => some (if r.mod == 1 then .adrainS r.stall (r.ty == 2) r.d5 r.sa.csrc r.sb.rsrc? r.imm
      else .adrain r.stall (r.ty == 2) (rmOf r.rnd) r.d5 r.sa.rsrc)
  | 0xD6 => some (.areduce r.stall (r.ty == 2) r.d5 (r.src r.sa) r.imm)
  | 0xD7 => some (.acmt r.stall r.d5)
  | 0xD8 => some (.fqstat r.ctl r.d (r.sa.k.extractLsb' 0 3))
  | 0xD9 => some (.fqdrop r.stall (r.sa.k.extractLsb' 0 3))
  | 0xDA => some (.aroll r.stall r.d5 (r.sa.k.extractLsb' 0 1) (r.sb.k.extractLsb' 0 3))
  | _ => none

/-- `TXPOST` by its MOD4. -/
def buildTxpost (r : Raw) : Instr :=
  if r.mod == 2 then .txpostTs1 r.ctl r.d r.sa.csrc r.sb.rsrc? (r.src r.sc) (r.imm.extractLsb' 0 14)
  else if r.mod == 1 then .txpostTs2 r.ctl r.d r.sa.csrc r.sb.rsrc? (r.src r.sc)
  else .txpost r.ctl r.d r.sa.csrc r.sb.rsrc? (r.src r.sc)

/-- Wire and front end. -/
def buildWire (r : Raw) : Nat → Option Instr
  | 0xE0 => some (.rxtake r.ctl r.d (r.src r.sa))
  | 0xE1 => some (.rxrel r.ctl (r.src r.sa) (r.src r.sb))
  | 0xE2 => some (buildTxpost r)
  | 0xE3 => some (.txstat r.ctl r.d (r.src r.sa))
  | 0xE4 => some (.ptprd r.ctl r.d)
  | 0xE5 => some (.tsrec r.ctl r.d (r.src r.sa))
  | 0xE8 => some (.launch r.ctl r.d r.mem)
  | 0xE9 => some (.cont r.ctl (r.imm.extractLsb' 5 27))
  | 0xEA => some (.garm r.ctl (r.src r.sa))
  | 0xEB => some (.gcond r.ctl (r.src r.sa) (r.src r.sc))
  | 0xEC => some (if r.mod == 1 then .signalAdd r.ctl r.mem (r.src r.sc) else .signalWrite r.ctl r.mem (r.src r.sc))
  | 0xED => some (.cancel r.ctl (levelOf r.mod) r.d (r.src r.sa))
  | 0xEE => some (.lvlq r.ctl (levelOf r.mod) r.d (r.src r.sa))
  | 0xEF => some (.hpost r.ctl r.d (r.src r.sa) r.sc.rsrc)
  | _ => none

/-- System. -/
def buildSystem (r : Raw) : Nat → Option Instr
  | 0xF0 => some (.bank r.ctl r.d r.mem r.sc.rsrc)
  | 0xF1 => some (.plant r.ctl r.d r.mem)
  | 0xF2 => some (.evsel r.ctl (r.src r.sa) (r.src r.sb))
  | 0xF3 => some (.evrd r.ctl r.d (r.src r.sa))
  | _ => none

/-- The instruction of a word that no reason refuses. -/
def build (r : Raw) : Option Instr :=
  match (r.op.extractLsb' 4 4).toNat with
  | 0x0 => buildControl r r.op.toNat
  | 0x1 => buildControl r r.op.toNat
  | 0x2 => buildInteger r r.op.toNat
  | 0x3 => buildInteger r r.op.toNat
  | 0x4 => buildFloat r r.op.toNat
  | 0x5 => buildFloat r r.op.toNat
  | 0x6 => buildPacked r r.op.toNat
  | 0x7 => buildTeam r r.op.toNat
  | 0x8 => buildMemory r r.op.toNat
  | 0xA => buildFabric r r.op.toNat
  | 0xC => buildTransfer r r.op.toNat
  | 0xD => buildMatrix r r.op.toNat
  | 0xE => buildWire r r.op.toNat
  | 0xF => buildSystem r r.op.toNat
  | _ => none

/-- What a word decodes to: an instruction, or the reason of R62 for which it is illegal. -/
inductive Decoded where
  | ok (i : Instr)
  | illegal (reason : Nat)
  deriving DecidableEq, Repr

/-- Decoding a word with its PAIR bit: checks 1 to 10, 13 and 14 of R62.
DEDUCED: log 18, 19, 20. -/
def decode (w : IWord) (pair : Bool) : Decoded :=
  match smallest (reasons (unpack w) pair) with
  | some n => .illegal n
  | none => match build (unpack w) with
    | some i => .ok i
    | none => .illegal 1

/-- The word of twelve bytes, the first lowest (R46). -/
def wordOfBytes : List Byte → IWord
  | [] => 0
  | b :: bs => (wordOfBytes bs <<< 8) ||| b.setWidth 96

/-- Decoding on bytes: fewer than twelve bytes are no instruction word. -/
def decodeBytes (bs : List Byte) (pair : Bool) : Option Decoded :=
  if bs.length < 12 then none else some (decode (wordOfBytes (bs.take 12)) pair)

/-- The twelve bytes of a word as the hardware stores them (R46). -/
def bytesOfWord (w : IWord) : List Byte := (List.range 12).map fun i => w.extractLsb' (8 * i) 8

/-! ### The encoder -/

/-- A constant field. -/
def kf (n : BitVec 5) : Fld := { sel := .k n, last := false }
/-- An unused field. -/
def f0 : Fld := kf 0
/-- The field of a general source. -/
def Src.fld : Src → Fld
  | .reg n l => { sel := .v n, last := l }
  | .const k => kf k
  | .imm _ => kf 31
/-- The field of a register source. -/
def RSrc.fld (r : RSrc) : Fld := { sel := .v r.n, last := r.last }
/-- The field of a register or the constant 0. -/
def optFld : Option RSrc → Fld
  | none => f0
  | some r => r.fld
/-- The field of a capability. -/
def CSrc.fld (c : CSrc) : Fld := { sel := .c c.n, last := c.last }
/-- The field of a predicate input. -/
def prFld (p : PReg) : Fld := kf (p.setWidth 5)

/-- IMM32 of up to three sources. -/
def immOf3 (a b c : Src) : Word := (a.immOf.getD (b.immOf.getD (c.immOf.getD 0)))
/-- IMM32 of two sources. -/
def immOf2 (a b : Src) : Word := a.immOf.getD (b.immOf.getD 0)
/-- IMM32 of one source. -/
def immOf1 (a : Src) : Word := a.immOf.getD 0

/-- A raw word with the fields every instruction has. -/
def Ctl.raw (c : Ctl) (op : BitVec 8) (mod : BitVec 4) (d : BitVec 6) (a b e : Fld) (x13 : BitVec 13) (imm : Word) :
    Raw :=
  { op := op, mod := mod, stall := c.stall, pn := c.pn, ps := c.ps, d := d, sa := a, sb := b, sc := e, x13 := x13
    imm := imm }

/-- The stall count of an unpredicated instruction (R59). -/
def unpredCtl (stall : BitVec 4) : Ctl := { stall := stall, pn := false, ps := 15 }

/-- X13 of an integer instruction. -/
def ITy.x (t : ITy) (sat : Bool) : BitVec 13 := xA t.code sat 0 0
/-- X13 of a floating instruction. -/
def FTy.x (t : FTy) (r : Option RM) : BitVec 13 := xA t.code false (rmCode r) 0
/-- X13 of a tile instruction. -/
def tileX (int : Bool) (r : Option RM) : BitVec 13 := xA (if int then 2 else 8) false (rmCode r) 0
/-- D of a predicate or capability. -/
def d4 (p : BitVec 4) : BitVec 6 := p.setWidth 6
/-- D of a tile. -/
def d5 (t : Tile) : BitVec 6 := t.setWidth 6
/-- IMM32 of a branch field. -/
def BrField.imm (b : BrField) : Word := b.delta ++ b.slot

/-- The fields of the word of an integer instruction of two sources. -/
def rI2 (c : Ctl) (op : BitVec 8) (x : BitVec 13) (d : VReg) (a b : Src) : Raw :=
  c.raw op 0 d a.fld b.fld f0 x (immOf2 a b)
/-- One source. -/
def rI1 (c : Ctl) (op : BitVec 8) (x : BitVec 13) (d : VReg) (a : Src) : Raw :=
  c.raw op 0 d a.fld f0 f0 x (immOf1 a)
/-- Three sources. -/
def rI3 (c : Ctl) (op : BitVec 8) (mod : BitVec 4) (x : BitVec 13) (d : VReg) (a b e : Src) : Raw :=
  c.raw op mod d a.fld b.fld e.fld x (immOf3 a b e)
/-- A memory operand with a field in SC. -/
def rM (c : Ctl) (op : BitVec 8) (mod : BitVec 4) (d : BitVec 6) (p : MemOp) (e : Fld) (x : BitVec 13) : Raw :=
  c.raw op mod d p.cap.fld (optFld p.idx) e x p.disp

/-- The fields of an instruction's word; none for an event, and for a packed code, which has no word of its own. -/
def toRaw : Instr → Option Raw
  | .nop st e => some ((unpredCtl st).raw 0x00 0 0 f0 f0 f0 0 (match e with | none => 0 | some s => 0x2000000#26 ++ s))
  | .bra c t => some (c.raw 0x01 0 0 f0 f0 f0 0 t.imm)
  | .brx c a => some (c.raw 0x02 0 0 a.fld f0 f0 0 0)
  | .call c t => some (c.raw 0x03 0 0 f0 f0 f0 0 t.imm)
  | .callx c a => some (c.raw 0x04 0 0 a.fld f0 f0 0 0)
  | .ret c => some (c.raw 0x05 0 0 f0 f0 f0 0 0)
  | .fork c d a b t => some (c.raw 0x06 0 d a.fld b.fld f0 0 t.imm)
  | .fend c => some (c.raw 0x07 0 0 f0 f0 f0 0 0)
  | .exit c => some (c.raw 0x08 0 0 f0 f0 f0 0 0)
  | .exitSuccessor c dl => some (c.raw 0x08 1 0 f0 f0 f0 0 (dl ++ 0#5))
  | .yield c => some (c.raw 0x09 0 0 f0 f0 f0 0 0)
  | .sleepu c a => some (rI1 c 0x0A 0 0 a)
  | .trap c a => some (rI1 c 0x0B 0 0 a)
  | .brk c a => some (rI1 c 0x0C 0 0 a)
  | .trapret c => some (c.raw 0x0D 0 0 f0 f0 f0 0 0)
  | .trapretResume c => some (c.raw 0x0D 1 0 f0 f0 f0 0 0)
  | .wspill c f m n => some (rM c 0x0E 0 f m n.fld 0)
  | .wfill c f m n => some (rM c 0x0F 0 f m n.fld 0)
  | .pset c k d a b => some (c.raw 0x10 k (d4 d) (prFld a) (prFld b) f0 0 0)
  | .pmovRd c d => some (c.raw 0x11 0 d f0 f0 f0 0 0)
  | .pmovWr c a => some (c.raw 0x11 1 0 a.fld f0 f0 0 (immOf1 a))
  | .srd c d r => some (c.raw 0x12 0 d f0 f0 f0 0 r.num)
  | .swr c r a => some (c.raw 0x13 0 0 a.fld f0 f0 0 r.num)
  | .loopd c d t => some (c.raw 0x14 0 d { sel := .v d, last := false } f0 f0 0 t.imm)
  | .iadd c t s d a b => some (rI2 c 0x20 (t.x s) d a b)
  | .isub c t s d a b => some (rI2 c 0x21 (t.x s) d a b)
  | .imul c t s d a b => some (rI2 c 0x22 (t.x s) d a b)
  | .imulh c t d a b => some (rI2 c 0x23 (t.x false) d a b)
  | .imad c t d a b e => some (rI3 c 0x24 0 (t.x false) d a b e)
  | .imadw c t d a b e => some (rI3 c 0x25 0 (t.x false) d a b e)
  | .idiv c t d a b => some (rI2 c 0x26 (t.x false) d a b)
  | .irem c t d a b => some (rI2 c 0x27 (t.x false) d a b)
  | .imin c t d a b => some (rI2 c 0x28 (t.x false) d a b)
  | .imax c t d a b => some (rI2 c 0x29 (t.x false) d a b)
  | .iabs c t s d a => some (rI1 c 0x2A (t.x s) d a)
  | .ineg c t s d a => some (rI1 c 0x2B (t.x s) d a)
  | .iaddc c d a b k => some (rI2 c 0x2C (xA 6 false 0 (k.setWidth 5)) d a b)
  | .isubb c d a b k => some (rI2 c 0x2D (xA 6 false 0 (k.setWidth 5)) d a b)
  | .and c t d a b => some (rI2 c 0x2E (t.x false) d a b)
  | .or c t d a b => some (rI2 c 0x2F (t.x false) d a b)
  | .xor c t d a b => some (rI2 c 0x30 (t.x false) d a b)
  | .andn c t d a b => some (rI2 c 0x31 (t.x false) d a b)
  | .logt c t d a b e tab => some (c.raw 0x32 0 d a.fld b.fld e.fld (t.x false) (tab.setWidth 32))
  | .shl c t d a b => some (rI2 c 0x33 (t.x false) d a b)
  | .shr c t d a b => some (rI2 c 0x34 (t.x false) d a b)
  | .sar c t d a b => some (rI2 c 0x35 (t.x false) d a b)
  | .rot c t d a b => some (rI2 c 0x36 (t.x false) d a b)
  | .bfx c t d a b => some (rI2 c 0x37 (t.x false) d a b)
  | .bfi c d a b e => some (rI3 c 0x38 0 (xA 6 false 0 0) d a b e)
  | .popc c t d a => some (rI1 c 0x39 (t.x false) d a)
  | .clz c t d a => some (rI1 c 0x3A (t.x false) d a)
  | .ctz c t d a => some (rI1 c 0x3B (t.x false) d a)
  | .brev c t d a => some (rI1 c 0x3C (t.x false) d a)
  | .icmp c cond t d a b => some (rI2 c 0x3D (xA t.code false 0 cond.code) (d4 d) a b)
  | .sel c t d k inv a b => some (rI2 c 0x3E (xA t.code false 0 (BitVec.ofBool inv ++ k)) d a b)
  | .mov c t d a => some (rI1 c 0x3F (t.x false) d a)
  | .fadd c t r d a b => some (rI2 c 0x40 (t.x r) d a b)
  | .fsub c t r d a b => some (rI2 c 0x41 (t.x r) d a b)
  | .fmul c t r d a b => some (rI2 c 0x42 (t.x r) d a b)
  | .ffma c t r d a b e => some (rI3 c 0x43 0 (t.x r) d a b e)
  | .fmin c t d a b => some (rI2 c 0x44 (t.x none) d a b)
  | .fmax c t d a b => some (rI2 c 0x45 (t.x none) d a b)
  | .fcmp c cond t d a b => some (rI2 c 0x46 (xA t.code false 0 cond.code) (d4 d) a b)
  | .fclass c t d a => some (rI1 c 0x47 (t.x none) d a)
  | .frcp c t r d a => some (rI1 c 0x48 (t.x r) d a)
  | .frsq c t r d a => some (rI1 c 0x49 (t.x r) d a)
  | .fsqrt c t r d a => some (rI1 c 0x4A (t.x r) d a)
  | .fdiv c t r d a b => some (rI2 c 0x4B (t.x r) d a b)
  | .fexp2 c t r d a => some (rI1 c 0x4C (t.x r) d a)
  | .flog2 c t r d a => some (rI1 c 0x4D (t.x r) d a)
  | .fsin c t r d a => some (rI1 c 0x4E (t.x r) d a)
  | .fcos c t r d a => some (rI1 c 0x4F (t.x r) d a)
  | .ftanh c t r d a => some (rI1 c 0x50 (t.x r) d a)
  | .frnd c t r d a => some (rI1 c 0x51 (t.x r) d a)
  | .cvtfi c t s r d a => some (c.raw 0x52 s.modCode d a.fld f0 f0 (xA t.code false (rmCode r) 0) (immOf1 a))
  | .cvtif c t s r d a => some (c.raw 0x53 s.code d a.fld f0 f0 (t.x r) (immOf1 a))
  | .cvtff c t s r d a => some (c.raw 0x54 s.modCode d a.fld f0 f0 (t.x r) (immOf1 a))
  | .cvtl6 c i r d a b e => some (rI3 c 0x55 0 (xA 11 false (rmCode r) (i.setWidth 5)) d a b e)
  | .cvt6f c i d a b => some (rI2 c 0x56 (xA 8 false 0 (i.setWidth 5)) d a b)
  | .hadd2 c t r d a b => some (rI2 c 0x57 (t.x r) d a b)
  | .hmul2 c t r d a b => some (rI2 c 0x58 (t.x r) d a b)
  | .hfma2 c t r d a b e => some (rI3 c 0x59 0 (t.x r) d a b e)
  | .hmnx2 c mx t d a b => some (c.raw 0x5A (bitMod mx) d a.fld b.fld f0 (t.x none) (immOf2 a b))
  | .fscale c t r d a b => some (rI2 c 0x5B (t.x r) d a b)
  | .fcopys c t d a b => some (rI2 c 0x5C (t.x none) d a b)
  | .padd2 c t s d a b => some (rI2 c 0x60 (t.x s) d a b)
  | .psub2 c t s d a b => some (rI2 c 0x61 (t.x s) d a b)
  | .pmul2 c t s d a b => some (rI2 c 0x62 (t.x s) d a b)
  | .pmac2 c d a b e => some (rI3 c 0x63 0 (xA 1 false 0 0) d a b e)
  | .pmnx2 c mx t d a b => some (c.raw 0x64 (bitMod mx) d a.fld b.fld f0 (t.x false) (immOf2 a b))
  | .pshr2 c ar d a b => some (c.raw 0x65 (bitMod ar) d a.fld b.fld f0 (xA (if ar then 1 else 5) false 0 0) (immOf2 a b))
  | .shrr c t nar d a b => some (rI2 c 0x66 (xA t.code false 0 nar.code) d a b)
  | .pack2 c hi t s d a b => some (c.raw 0x67 (bitMod hi) d a.fld b.fld f0 (t.x s) (immOf2 a b))
  | .unpk2 c hi t d a => some (c.raw 0x68 (bitMod hi) d a.fld f0 f0 (t.x false) (immOf1 a))
  | .ldot4 c r d a b e => some (rI3 c 0x69 0 (xA 8 false (rmCode r) 0) d a b e)
  | .idot4 c t s d a b e => some (rI3 c 0x6A 0 (t.x s) d a b e)
  | .tsync st => some ((unpredCtl st).raw 0x70 0 0 f0 f0 f0 0 0)
  | .tslide c dn t fill d a b => some (match fill with
      | .fc e => rI3 c 0x71 (bitMod dn) (xA t.code false 0 1) d a b e
      | f => c.raw 0x71 (bitMod dn) d a.fld b.fld f0 (xA t.code false 0 f.code) (immOf2 a b))
  | .tshfl c x t d a b e => some (rI3 c 0x72 (bitMod x) (t.x false) d a b e)
  | .tbcast c t d a k => some (rI2 c 0x73 (t.x false) d a k)
  | .tscan c op ex t s r d a => some (c.raw 0x74 (BitVec.ofBool ex ++ op.code) d a.fld f0 f0 (xA t.code s (rmCode r) 0) (immOf1 a))
  | .tred c op t s r d a => some (c.raw 0x75 (0#1 ++ op.code) d a.fld f0 f0 (xA t.code s (rmCode r) 0) (immOf1 a))
  | .tvote c op d a => some (c.raw 0x76 op.code (d4 d) (prFld a) f0 f0 0 0)
  | .tballot c k d a => some (c.raw 0x77 0 d (prFld a) f0 f0 (xA 0 false 0 (k.setWidth 5)) 0)
  | .tmatch c k t d a => some (rI1 c 0x78 (xA t.code false 0 (k.setWidth 5)) d a)
  | .telect c d => some (c.raw 0x79 0 (d4 d) f0 f0 f0 0 0)
  | .ld c t m d p => some (rM c 0x80 0 d p f0 (m.x13 t.code))
  | .st c t m p v => some (rM c 0x81 0 0 p v.fld (m.x13 t.code))
  | .ldv c four m d p => some (rM c 0x82 (bitMod four) d p f0 (m.x13 6))
  | .stv c four m p v => some (rM c 0x83 (bitMod four) 0 p v.fld (m.x13 6))
  | .pref c l2 h p => some (rM c 0x84 (bitMod l2) 0 p f0 (xM 6 0 h.code 0))
  | .ldc c m d p => some (rM c 0x85 0 (d4 d) p f0 (m.x13 6))
  | .stc c m p v => some (rM c 0x86 0 0 p v.fld (m.x13 6))
  | .cderive c d a b e => some (c.raw 0x87 0 (d4 d) a.fld b.fld e.fld 0 (immOf2 b e))
  | .cperm c d a b => some (c.raw 0x88 0 (d4 d) a.fld b.fld f0 0 (immOf1 b))
  | .cget c f d a => some (c.raw 0x89 f.code d a.fld f0 f0 0 0)
  | .caddr c d a b => some (c.raw 0x8A 0 d a.fld b.fld f0 0 (immOf1 b))
  | .cmov c d a => some (c.raw 0x8B 0 (d4 d) a.fld f0 f0 0 0)
  | .ctest c d a b e mask => some (c.raw 0x8C 0 (d4 d) a.fld b.fld e.fld 0 (mask.setWidth 32))
  | .amo c op t m d p v => some (rM c 0xA0 op.code d p v.fld (m.x13 t.code))
  | .cas c t m d p v => some (rM c 0xA1 0 d p v.fld (m.x13 t.code))
  | .cas16 c m d p v => some (rM c 0xA2 0 d p v.fld (m.x13 6))
  | .amof c op m d p v => some (rM c 0xA3 op.code d p v.fld (m.x13 8))
  | .fence c o s => some (c.raw 0xA4 0 0 f0 f0 f0 (xM 0 s.code 0 o.code) 0)
  | .barinit c s p v => some (rM c 0xA5 0 0 p v.fld (xM 7 s.code 0 0))
  | .bararr c s d p => some (rM c 0xA6 0 d p f0 (xM 7 s.code 0 0))
  | .bartx c s d p v => some (rM c 0xA7 0 d p v.fld (xM 7 s.code 0 0))
  | .barwait c s p v => some (rM c 0xA8 0 0 p v.fld (xM 7 s.code 0 0))
  | .bartest c s d p v => some (rM c 0xA9 0 (d4 d) p v.fld (xM 7 s.code 0 0))
  | .mwait c ge t m d p v => some (rM c 0xAA (bitMod ge) d p v.fld (m.x13 t.code))
  | .stroke c => some (c.raw 0xAB 0 0 f0 f0 f0 0 0)
  | .lnflush c p => some (rM c 0xAC 0 0 p f0 0)
  | .lninv c p => some (rM c 0xAD 0 0 p f0 0)
  | .lnreclaim c m d p v => some (rM c 0xAE 0 d p v.fld (m.x13 7))
  | .lnstat c d p => some (rM c 0xAF 0 d p f0 0)
  | .xfer c d t b => some (c.raw 0xC0 0 d t.fld (optFld b) f0 0 (immOf1 t))
  | .xtpl c a t side => some (c.raw 0xC1 0 0 a.fld t.fld (kf (if side then 1 else 0)) 0 (immOf1 t))
  | .xprom c d t b => some (c.raw 0xC2 0 d t.fld (optFld b) f0 0 (immOf1 t))
  | .xwait c a => some (rI1 c 0xC3 0 0 a)
  | .xcancel c d a => some (rI1 c 0xC4 0 d a)
  | .xstat c d a => some (rI1 c 0xC5 0 d a)
  | .crew st h a => some ((unpredCtl st).raw 0xD0 0 0 a.fld f0 f0 (xA 0 false 0 (if h then 1 else 0)) (immOf1 a))
  | .mma st t k r d fa fb s => some ((unpredCtl st).raw 0xD1 0 (d5 d) (kf (fa.setWidth 5)) (kf (fb.setWidth 5))
      (match s with | .zero => f0 | .reg v => v.fld)
      (xA t.code false (rmCode r) (if t == .l6 then k.setWidth 5 else 0)) 0)
  | .aclr st d => some ((unpredCtl st).raw 0xD2 0 (d5 d) f0 f0 f0 0 0)
  | .aload st i d p => some (rM (unpredCtl st) 0xD3 0 (d5 d) p f0 (tileX i none))
  | .astore st i d p => some (rM (unpredCtl st) 0xD4 0 (d5 d) p f0 (tileX i none))
  | .adrain st i r d a => some ((unpredCtl st).raw 0xD5 0 (d5 d) a.fld f0 f0 (tileX i r) 0)
  | .adrainS st i d cap idx g => some ((unpredCtl st).raw 0xD5 1 (d5 d) cap.fld (optFld idx) f0 (tileX i none) g)
  | .areduce st i d n g => some ((unpredCtl st).raw 0xD6 0 (d5 d) n.fld f0 f0 (tileX i none) g)
  | .acmt st d => some ((unpredCtl st).raw 0xD7 0 (d5 d) f0 f0 f0 0 0)
  | .fqstat c d f => some (c.raw 0xD8 0 d (kf (f.setWidth 5)) f0 f0 0 0)
  | .fqdrop st f => some ((unpredCtl st).raw 0xD9 0 0 (kf (f.setWidth 5)) f0 f0 0 0)
  | .aroll st d fa fb => some ((unpredCtl st).raw 0xDA 0 (d5 d) (kf (fa.setWidth 5)) (kf (fb.setWidth 5)) f0 0 0)
  | .rxtake c d a => some (rI1 c 0xE0 0 d a)
  | .rxrel c a b => some (rI2 c 0xE1 0 0 a b)
  | .txpost c d a b w => some (c.raw 0xE2 0 d a.fld (optFld b) w.fld 0 0)
  | .txpostTs2 c d a b w => some (c.raw 0xE2 1 d a.fld (optFld b) w.fld 0 0)
  | .txpostTs1 c d a b w h => some (c.raw 0xE2 2 d a.fld (optFld b) w.fld 0 (h.setWidth 32))
  | .txstat c d a => some (rI1 c 0xE3 0 d a)
  | .ptprd c d => some (c.raw 0xE4 0 d f0 f0 f0 0 0)
  | .tsrec c d a => some (rI1 c 0xE5 0 d a)
  | .launch c d p => some (rM c 0xE8 0 d p f0 0)
  | .cont c dl => some (c.raw 0xE9 0 0 f0 f0 f0 0 (dl ++ 0#5))
  | .garm c a => some (rI1 c 0xEA 0 0 a)
  | .gcond c k v => some (c.raw 0xEB 0 0 k.fld f0 v.fld 0 (immOf2 k v))
  | .signalWrite c p v => some (rM c 0xEC 0 0 p v.fld 0)
  | .signalAdd c p v => some (rM c 0xEC 1 0 p v.fld 0)
  | .cancel c l d a => some (c.raw 0xED l.code d a.fld f0 f0 0 (immOf1 a))
  | .lvlq c l d a => some (c.raw 0xEE l.code d a.fld f0 f0 0 (immOf1 a))
  | .hpost c d h v => some (c.raw 0xEF 0 d h.fld f0 v.fld 0 (immOf1 h))
  | .bank c d p v => some (rM c 0xF0 0 d p v.fld 0)
  | .plant c d p => some (rM c 0xF1 0 d p f0 0)
  | .evsel c a b => some (rI2 c 0xF2 0 0 a b)
  | .evrd c d a => some (rI1 c 0xF3 0 d a)
  | .packedCode .. | .teamConvergenceTimeout .. | .loadDataReturn .. | .registerFill .. | .batchRegroup ..
  | .sleepExpiry .. | .monitorWake .. | .monitorRereadTimer .. | .coherenceRequest .. | .tokenArrival ..
  | .attemptTimeout .. | .persistentRequest .. | .persistentSatisfied .. | .activationMessage ..
  | .ownerTimeout .. | .l2Eviction .. | .l1CopyExpiry .. | .directoryEntryFree .. | .detRoundCommit ..
  | .transferAccept .. | .transferComplete .. | .sequenceStampWrite .. | .fifoPushComplete .. | .transferFault ..
  | .transferPageResume .. | .promiseExpiry .. | .crewCatch .. | .catchTimeout .. | .mmaPerform ..
  | .drainArrival .. | .frameLanding .. | .frameTransmit .. | .ppsOutputSecond | .commandParse ..
  | .preloadComplete .. | .gangDispatch .. | .unitRetire .. | .launchSettle .. | .postCopiesDone ..
  | .graphEvent .. | .vectorTimeExpiry .. | .periodStart .. | .budgetExhausted .. | .preemptionDecision ..
  | .drainBoundExpiry .. | .prectlCopy | .trapCoalesce .. | .screenCompare .. | .bankingStart ..
  | .bankPointsReached .. | .imageWritten .. | .planting .. | .unassignedOpcode .. | .variableLatencyResult ..
  | .accessPerformed .. | .staleEpochDiscard .. | .pcieCompletion .. | .pcieCompletionTimeout .. | .hostWrite ..
  | .hostRead .. | .hostAtomicop .. | .patrolScrub .. | .apertureStore .. | .frameReceive .. | .ppsInputEdge
  | .qkick .. | .qstatErrClear .. | .qctl .. | .qperQbudWrite .. | .qres .. | .ovcntClear .. | .hrhead ..
  | .ivctl .. | .prectl .. | .trapRecordDisposal .. | .scrctl .. | .pageCarriage .. | .moveReport ..
  | .attestationReport | .certificateChain | .mailboxCancel | .mailboxMap | .mailboxUnmap | .hostWindowEntry
  | .poolTable | .memberAdd | .memberRemove | .ownerTimeOutSet | .flowEntry | .clockSource | .clockStep
  | .portReset | .mailboxBank | .mailboxPlant | .move | .release | .checkpoint | .readLog | .readCounters
  | .pwrcap .. | .registerWrite .. | .powerSample .. | .thermalStop .. | .moduleReset | .firmwareMeasured ..
  | .calibrationDone .. | .ready .. | .functionLevelReset .. | .flitReplay .. | .linkRetrain ..
  | .portLinkChange .. | .lineStateStoreFault .. | .storedWordError .. | .debuggerAction ..
  | .mailboxUnknownCommand .. | .hrctl .. | .linkStatusRead .. | .msixVectorUnmask .. | .hostConfigRequest .. => none

/-- The instruction word of an instruction (R46). -/
def encode (i : Instr) : Option IWord := (toRaw i).map pack

/-- The PAIR bit that goes with the word (R51). -/
def pairOf (w : IWord) : Bool := (unpack w).heavy

/-! ### The fetch line (R38 to R43) -/

/-- The opcode-table's word: `w` numbered from its least significant bit, laid out as twelve bytes and decoded. -/
def decodeTableWord (_nbits w : Nat) : Option Instr :=
  match decodeBytes (bytesOfWord (BitVec.ofNat 96 w)) (pairOf (BitVec.ofNat 96 w)) with
  | some (.ok i) => some i
  | _ => none

end Sys2Proof
end

