-- ==== Sys2Proof/Config.lean ====
section
/-! DEFINITION. What the spec fixes as a number of the part, and the values it leaves open: a free value is an
opaque constant applied to the model's own counter or to the operands it depends on, so no proof can know it. -/

namespace Sys2Proof.Config

/-! ### Figures of the part -/

/-- Cores of the device (R4). -/
def cores : Nat := 96
/-- Partitions of a core (R67). -/
def partitions : Nat := 32
/-- Seats of a partition (R67). -/
def seatsPerPartition : Nat := 8
/-- Lanes of a seat (R67). -/
def lanes : Nat := 32
/-- Register rows of a partition (R74). -/
def rows : Nat := 512
/-- Scratchpad bytes of a core (R16, R186). -/
def scratchBytes : Nat := 2097152
/-- Cycles a team waits before TEAMSTALL (R80) and a crew before CATCHTIMEOUT (R313). -/
def stallBound : Nat := 1048576
/-- Waiting count at which a fibre goes first (R69). -/
def waitBound : Nat := 64
/-- Instructions of a DET stroke (R234). -/
def strokeInsns : Nat := 4096
/-- Granules of a DET stroke (R234). -/
def strokeGranules : Nat := 32
/-- Entries of a core's range scoreboard (R13). -/
def scoreboardEntries : Nat := 32
/-- Entries of a transfer queue (R278) and requests of the matrix engine's queue (R307). -/
def queueEntries : Nat := 16
/-- Requests of a transfer queue moving at once (R279). -/
def movingEntries : Nat := 4
/-- Finished requests whose flags XSTAT keeps (R304). -/
def keptRequests : Nat := 64
/-- Slots of a FIFO (R311). -/
def fifoSlots : Nat := 12
/-- Log entries at which a FIFO's consumers are committed (R320). -/
def retainedBound : Nat := 8
/-- Open records of a trap coalescer (R400). -/
def openRecords : Nat := 16
/-- Posts of a port's queue, and posts whose state it keeps (R344, R353). -/
def portPosts : Nat := 256
/-- Entries of the lost-line directory (R206). -/
def lostEntries : Nat := 1024
/-- Unsettled launches and graph instances of the device (R370). -/
def maxLaunches : Nat := 4096
/-- Graph instances of the device (R370). -/
def maxGraphs : Nat := 256
/-- Relaunches of a gang in one launch (R403). -/
def maxRelaunch : Nat := 3
/-- Tokens of a line (R200). -/
def tokens : Nat := 32
/-- Lines of an L2 slice: 4 MiB (R4, R16). -/
def sliceLines : Nat := 65536
/-- Monitor entries of an L2 slice (R256). -/
def monitorEntries : Nat := 256
/-- The life of an L1 copy in units of 2^-16 ns: 8 microseconds (R216). -/
def l1Life : Nat := 8000 * 65536
/-- One attempt of a token request, 500 ns, in units of 2^-16 ns (R202). -/
def attemptTime : Nat := 500 * 65536
/-- The bound after which a requester asks persistently: 2 microseconds (R202). -/
def persistAfter : Nat := 2000 * 65536
/-- The cycles after which a ready gang starts on reserved cores that are free: 3,400 (R394), less the 64 in which its units
come to issue. -/
def startBound : Nat := 3400 - 64
/-- The cycles after which a ready gang starts at the latest: 12 microseconds (R394), less the same 64. -/
def bothBound : Nat := 20400 - 64
/-- The cycles in which a save frees its cores, images of 2 MiB and below: 6 microseconds (R398), less the same 64. -/
def saveBound : Nat := 10200 - 64
/-- The cycles in which the last byte of a frame makes its slot takeable (R349), less the one in which it does. -/
def landBound : Nat := 1020 - 1
/-- The cycles in which the frame at the head of a port's queue begins to leave (R349), less the one in which it does. -/
def sendBound : Nat := 680 - 1
/-- One microsecond in units of 2^-16 ns. -/
def usec : Nat := 1000 * 65536
/-- The numeric behaviour version (R1). -/
def numVersion : Nat := 1
/-- FEAT of the CK312 (R420). -/
def feat : Nat := 0x7F
/-- Vendor ID (R1). -/
def vendorId : BitVec 16 := 0x1F5E
/-- Class code (R1). -/
def classCode : BitVec 24 := 0x120000
/-- Device ID of a virtual function (R1). -/
def virtualId : BitVec 16 := 0x0313
/-- Device ID of the CK312 (R1). -/
def deviceId : BitVec 16 := 0x0312
/-- Revision ID of stepping B0 (R1, R420). -/
def revisionId : BitVec 8 := 0x20

/-! ### Open values

Each is applied to the counter `freeCtr` of the state, which the step that uses it advances, or to operands. -/

/-- The value of a correctly rounded function whose rounding the model's interval arithmetic cannot decide:
the function's number and the operand's bits (R150).
DESIGN CHOICE: log 14. -/
opaque freeRound : Nat → Nat → BitVec 32
/-- Whether an eligible unit is screened, by the hardware random source (R406).
DESIGN CHOICE: log 15. -/
opaque screenPick : Nat → Bool
/-- The 8-byte serial number (R452).
DESIGN CHOICE: log 16. -/
opaque serial : BitVec 64
/-- The fused minimum security version (R451).
DESIGN CHOICE: log 16. -/
opaque minVersion : Nat
/-- A byte of the Ed25519 or ML-DSA-65 signature of a report (R452): the counter and the byte's index.
DESIGN CHOICE: log 16. -/
opaque signatureByte : Nat → Nat → BitVec 8
/-- A byte of the certificate chain (R452), and its length.
DESIGN CHOICE: log 16. -/
opaque certByte : Nat → BitVec 8
/-- The length in bytes of the certificate chain.
DESIGN CHOICE: log 16. -/
opaque certLength : Nat
/-- A choice among alternatives the spec leaves to the part: the counter; reduced by the user.
DESIGN CHOICE: log 2. -/
opaque freeNat : Nat → Nat
/-- How far a core's copy of the PTP clock stands from the clock, reduced by its user (R347): it never changes.
DESIGN CHOICE: log 15. -/
opaque ptpSkew : Nat → Nat
/-- The L2 slice that holds a line, of the sixteen of its die, reduced by its user (R460): it never changes.
DESIGN CHOICE: log 26. -/
opaque sliceOf : Nat → Nat
/-- How far the PTP clock goes for 2^32 units of device time while its source disciplines it: the source and the counter (R347).
DESIGN CHOICE: log 76. -/
opaque clockRate : Nat → Nat → Nat
/-- Whether WFILL stops at a fetched word whose code is uncorrectable (R108), or moves it as it is (R85): it never changes.
DESIGN CHOICE: log 88. -/
opaque fillChecks : Bool
/-- The identifier of a function that no kernel descriptor names (R430): bits [63:0] of the SHA-384 of its scalar level, from the
digest of its container and how far its entry lies beyond a kernel's.
DESIGN CHOICE: log 42. -/
opaque functionId : List (BitVec 8) → Nat → BitVec 64
/-- The fused SHA-384 digests of the Ed25519 and the ML-DSA-65 public key for firmware images (R451).
DESIGN CHOICE: log 16. -/
opaque edKeyDigest : List (BitVec 8)
/-- That of the ML-DSA-65 key.
DESIGN CHOICE: log 16. -/
opaque mlKeyDigest : List (BitVec 8)
/-- Whether an Ed25519 signature verifies (R451): the public key, the message and the signature.
DESIGN CHOICE: log 16. -/
opaque ed25519Verifies : List (BitVec 8) → List (BitVec 8) → List (BitVec 8) → Bool
/-- Whether an ML-DSA-65 signature verifies (R451): the public key, the message and the signature.
DESIGN CHOICE: log 16. -/
opaque mlDsa65Verifies : List (BitVec 8) → List (BitVec 8) → List (BitVec 8) → Bool
/-- The microcode revision (R432).
DESIGN CHOICE: log 16. -/
opaque microcode : BitVec 32
/-- The translator's version (R432).
DESIGN CHOICE: log 16. -/
opaque translator : BitVec 32

end Sys2Proof.Config
end

