-- ==== Sys2Proof/Machine/State.lean ====
section
/-! DEFINITION. The state of the CK312: everything the spec gives the machine, as plain data, and the state
after reset. Sparse tables are lists of entries with a key; an absent entry stands for the value the table's
docstring names. -/

namespace Sys2Proof.Machine

/-! ### Why a step can stop -/

/-- The reasons a step stops. -/
inductive Fault where
  /-- An instruction row is executed while `cur` names no live fibre of a resident unit: no fibre issues it, so the
  spec gives it no meaning. Raised by every instruction row. Safe: the machine stops where nothing is stated.
  DESIGN CHOICE: log 5. -/
  | noFibre
  deriving DecidableEq, Repr

/-- The reasons an instruction is refused. -/
inductive Refusal where
  /-- The instruction's arm has no meaning yet. Raised by the dispatcher only. Safe. -/
  | notModelled (mnemonic : String)
  deriving DecidableEq, Repr

/-! ### Memory -/

/-- Memory as one space of bytes. A key is `region * 2^80 + address`; the regions are those of `Ops`. `cells` holds
the bytes, strictly rising, none equal to the 0 an unlisted address reads as; `synd` holds, for a word's key, the
stored check code XOR the code of the word where that is not 0 (R194, R195); `tags` holds the keys of the tagged
16-byte granules (R182), strictly rising. DESIGN CHOICE: log 6. -/
structure Memory where
  cells : List Host.Cell
  synd : List Host.Cell
  tags : List Nat
  deriving DecidableEq, Repr, Inhabited

/-- A word with its check code (R194). -/
structure Reg where
  val : Word
  code : Byte
  deriving DecidableEq, Repr, Inhabited

/-- A capability register: 128 bits and the tag (R181). `bad` says that its stored code is uncorrectable (R85). -/
structure CapReg where
  bits : BitVec 128
  tag : Bool
  bad : Bool
  deriving DecidableEq, Repr, Inhabited

/-- One line's tokens at a slice, named by its requester number of R201 less the slice, which is the line's own: R460 leaves
the slice of a line open. DESIGN CHOICE: log 26. -/
structure Holder where
  req : Nat
  tokens : Nat
  owner : Bool
  valid : Bool
  dirty : Bool
  /-- the last activation number the slice has recorded for the line, and the requester it forwards to (R203) -/
  seen : Nat
  forward : Option Nat
  epoch : Nat
  deriving DecidableEq, Repr, Inhabited

/-- Tokens on their way (R200): `dst` is a requester, or none for the home; `away` says that another member sent them. -/
structure TokenMsg where
  id : Nat
  dst : Option Nat
  tokens : Nat
  owner : Bool
  data : Bool
  epoch : Nat
  away : Bool
  deriving DecidableEq, Repr, Inhabited

/-- A requester's attempts for a line (R202), and the cores whose L1 a prefetch fills when its data comes (R124). -/
structure Attempt where
  req : Nat
  write : Bool
  count : Nat
  first : Nat
  sent : Nat
  persistent : Bool
  fill : List Nat
  deriving DecidableEq, Repr, Inhabited

/-- An activation or deactivation message on its way (R203). -/
structure ActMsg where
  dst : Nat
  num : Nat
  active : Option Nat
  deriving DecidableEq, Repr, Inhabited

/-- The coherence state of a line of spaces 0 and 5, by the line's key divided by 64 (R200 to R207). A line with no
entry has all 32 tokens and the owner token at its home, at epoch 0. DESIGN CHOICE: log 26. -/
structure Line where
  line : Nat
  /-- the pool that the line belongs to, for its member slices and its owner time-out (R208, R210) -/
  pool : Option Nat
  homeTokens : Nat
  homeOwner : Bool
  /-- the stale value of home memory while a slice holds the line dirty: 16 words with codes -/
  homeData : Option (List Reg)
  holders : List Holder
  msgs : List TokenMsg
  attempts : List Attempt
  active : Option Nat
  queue : List Nat
  actNum : Nat
  actMsgs : List ActMsg
  /-- transient requests on their way: the requester, whether it writes, and the holder that the home forwards it to, or none
  for the home (R201) -/
  asks : List (Nat × Bool × Option Nat)
  /-- persistent requests on their way to the home (R202) -/
  pleas : List Nat
  lastServed : Nat
  timer : Option Nat
  hints : List Nat
  epoch : Nat
  lost : Bool
  poisoned : Bool
  /-- another member has been able to write the line since its data last came here: the next data from there tells its
  value (R200) -/
  afar : Bool
  deriving DecidableEq, Repr, Inhabited

/-- A write that some agents do not see yet (R14, R213, R224): its bytes, which lie in one 8-byte granule, what their words
held before, the agents that see it (a core by its number, the host as 96), whether every core does, and when it was
performed; the core whose fibre stored it, if one did, and the tag of its 16-byte granule before it. -/
structure Lag where
  key : Nat
  size : Nat
  old : List Reg
  tag : Bool
  src : Option Nat
  seen : List Nat
  cores : Bool
  made : Nat
  deriving DecidableEq, Repr, Inhabited

/-- A word that a commit of a DET launch has written and the system does not see yet (R235): its key, what the system sees in
its place, and what the commit wrote. -/
structure Hidden where
  launch : Nat
  key : Nat
  old : Reg
  new : Reg
  deriving DecidableEq, Repr, Inhabited

/-- An L1 copy of a line of spaces 0, 3 or 5: sixteen words with codes, and the time it was filled (R192, R216). -/
structure L1Line where
  line : Nat
  data : List Reg
  filled : Nat
  deriving DecidableEq, Repr, Inhabited

/-- A page of a device context (R190): rights are read, write and execute in bits 0 to 2. -/
structure Page where
  ctx : Nat
  va : Nat
  sizeCode : Nat
  phys : Nat
  rights : BitVec 3
  /-- the core whose transfer aperture the page begins with (R282), or none for memory -/
  aperture : Option Nat
  /-- mapped as absent until it is carried (R435) -/
  absent : Bool
  dirty : Bool
  deriving DecidableEq, Repr, Inhabited

/-- An entry of a function's host window table (R187, R241). -/
structure HostWin where
  func : Nat
  entry : Nat
  pcie : Nat
  atomics : Bool
  deriving DecidableEq, Repr, Inhabited

/-- A granule of a pool (R189): `home` is the home device's member index. A pool is named by 32 times its device context
and its number in it. DESIGN CHOICE: log 27. -/
structure PoolGranule where
  pool : Nat
  granule : Nat
  home : Nat
  range : Nat
  deriving DecidableEq, Repr, Inhabited

/-- A pool: its member devices, this device's index, its owner time-out register (R208, R210), and the members that answer
nothing (R272). -/
structure Pool where
  pool : Nat
  members : List Nat
  self : Nat
  ownerTime : Nat
  silent : List Nat
  deriving DecidableEq, Repr, Inhabited

/-- An extent of `const` sections of a context in space 3 (R31, R187). -/
structure ConstExtent where
  ctx : Nat
  lo : Nat
  hi : Nat
  deriving DecidableEq, Repr, Inhabited

/-! ### A fibre (R65) -/

/-- A destination of a result: an absolute stack slot, a predicate or a capability register. -/
inductive Dest where
  | slot (n : Nat)
  | pred (p : PReg)
  | cap (c : CReg)
  deriving DecidableEq, Repr, Inhabited

/-- A value for a destination. -/
inductive DVal where
  | reg (r : Reg)
  | bit (b : Bool)
  | cap (c : CapReg)
  deriving DecidableEq, Repr, Inhabited

/-- A fixed-latency result in flight (R54, R56). -/
structure Flight where
  dest : Dest
  val : DVal
  land : Nat
  deriving DecidableEq, Repr, Inhabited

/-- A variable-latency result: its pending bit, and its value once the producer has it (R54). -/
structure Pending where
  dest : Dest
  val : Option DVal
  deriving DecidableEq, Repr, Inhabited

/-- A call record (R91). -/
structure CallRec where
  shift : BitVec 6
  rpc : BitVec 57
  /-- the entry of the function that was called (R430) -/
  entry : BitVec 57
  deriving DecidableEq, Repr, Inhabited

/-- What a parked fibre waits for (R70). It stands at its instruction, which is issued again when the wait ends.
DEDUCED: log 17. -/
inductive Wait where
  /-- a load miss on the byte at a key, by its space and address: LOAD_DATA_RETURN serves it -/
  | load (i : Instr) (key space adr : Nat)
  /-- a read of host memory outstanding at IO0 since a time (R188) -/
  | hostRead (i : Instr) (since : Nat)
  /-- a fill of spilled slots (R78) -/
  | fill (slots : List Nat)
  /-- a pending variable-latency result (R54) -/
  | result
  /-- the range scoreboard (R13) -/
  | scoreboard
  /-- `SLEEPU` until a clock value (R101); `planted` says that it then goes on at the instruction after it (R415) -/
  | sleep (till : Nat) (planted : Bool)
  /-- `BARWAIT` on the object at a key until its phase differs (R252) -/
  | barrier (key : Nat) (phase : Bool)
  /-- `MWAIT` (R255): the word's key, whether a monitor entry is held, whether a wake is due, the time of the read -/
  | monitor (key : Nat) (held : Bool) (read : Nat)
  /-- a team operation (R80): its address and the cycle of arrival -/
  | team (pc : BitVec 57) (since : Nat)
  /-- `XWAIT` (R302) -/
  | xwait (tag : Word)
  /-- `TSREC` (R353) -/
  | tsrec (tag : Word)
  /-- acceptance of a request by an engine, or room in a ring (R279, R344, R383): the waits are served in the order of
  their numbers -/
  | accept (i : Instr) (seq : Nat)
  /-- a fence, or an ordered access, waiting for earlier accesses (R248) -/
  | fence
  /-- the acquire half of an atomic, by the request's number (R222) -/
  | acquire (seq : Nat)
  /-- `YIELD`: ready at the next regroup (R100) -/
  | regroup
  /-- a trap that its handler takes once every result in flight is written (R56) -/
  | entering (cause : Byte) (arg : Word) (addr : Option (Nat × Nat))
  /-- a trap on its way to the trap coalescer (R400) -/
  | trapped (cause : Byte) (arg : Word) (addr : Option (Nat × Nat))
  /-- covered by a coalescer record (R402) -/
  | record
  /-- the end of a DET stroke (R234, R237): 0 when the stroke is full, else the step of R235 that performs the ending
  instruction: 2, 3 or 4; 5 for a wait, which the start of the next round may satisfy -/
  | stroke (step : Nat)
  /-- stopped at a bank point while its gang is banked or ended (R416, R372) -/
  | stopped
  deriving DecidableEq, Repr

/-- What ends the wait of a buffered fault: where it is delivered (R209, R294, R333, R352, R381, R441). -/
inductive FaultClass where
  | store | transfer | matrix | wire | frontEnd | plant | late
  deriving DecidableEq, Repr, Inhabited

/-- A fault found after acceptance, waiting to be taken. -/
structure Deferred where
  cls : FaultClass
  cause : Byte
  arg : Word
  /-- the space and full address, where it carries one (R400) -/
  addr : Option (Nat × Nat)
  /-- a promised time's request, for XLATE (R293) -/
  req : Option Nat
  deriving DecidableEq, Repr, Inhabited

/-- The class of an access in the ordering matrices (R218). -/
inductive AccClass where
  | st | at | rel | ba | none
  deriving DecidableEq, Repr, Inhabited

/-- What an accepted access does when it is performed. -/
inductive ReqKind where
  /-- store bytes; `codes` gives the carried code of each word of a 32-bit or wider store -/
  | store (bytes : List Byte) (codes : List Byte)
  /-- store a capability with its tag (R126) -/
  | storeCap (c : CapReg)
  | amo (op : AmoOp) (signed : Bool) (operand : DWord)
  | amof (op : AmofOp) (operand : Word) (rmode : Word)
  | cas (expected new : List Byte)
  | barinit (w : Word)
  | bararr
  | bartx (granules : Nat)
  | lninv
  | lnreclaim (bytes : List Byte)
  | lnflush
  deriving DecidableEq, Repr, Inhabited

/-- An access accepted by the fabric and not yet performed (R217, R248). -/
structure Req where
  seq : Nat
  kind : ReqKind
  cls : AccClass
  acquire : Bool
  scope : Scope
  space : Nat
  /-- the address in the space, and the key of the byte once it is known -/
  addr : Nat
  key : Nat
  size : Nat
  dests : List Nat
  creg : CReg
  /-- the PCIe request of an atomic in space 4 has left (R241) -/
  sent : Bool
  /-- the instruction's PC, the cycle it issued, and the registers its L bits released: a fault found after
  acceptance is raised on that instruction, which has no effect (R264) -/
  pc : BitVec 57
  issued : Nat
  undo : List (Nat × Reg)
  /-- the time it was accepted, or left IO0 (R188, R208) -/
  time : Nat
  deriving DecidableEq, Repr, Inhabited

/-- Stroke progress of a fibre of a DET launch (R234, R237). -/
structure Stroke where
  insns : Nat
  granules : List Nat
  /-- the buffered plain stores, oldest first -/
  stores : List Req
  /-- the ending instruction is passed by the commit, or by the start of a round (R235, R237) -/
  pass : Bool
  deriving DecidableEq, Repr, Inhabited

/-- The physical side of a fibre's seat that shows in time only is kept by the core (R78); this is the fibre. -/
structure Fibre where
  fid : Nat
  live : Bool
  pc : BitVec 57
  preds : BitVec 15
  base : Nat
  fstat : Word
  rmode : Word
  prog : Word
  caps : Vector CapReg 16
  stack : List (Nat × Reg)
  calls : List CallRec
  handler : Bool
  floor : Nat
  marks : Option (BitVec 57 × BitVec 57)
  stroke : Stroke
  stamp : Nat
  /-- the cycle in which the fibre reached the address of its PC (R80) -/
  came : Nat
  flights : List Flight
  pending : List Pending
  ready : Nat
  wait : Option Wait
  /-- the wait has been served: the instruction is performed when it is issued again -/
  served : Bool
  /-- the instruction has issued and waits: it is issued again (R293) -/
  again : Bool
  waiting : Nat
  outst : List Req
  faults : List Deferred
  /-- the slots that its instruction has read into the operand stage after a fill (R78) -/
  staged : List Nat
  /-- the half of a 16-byte load that has been read: whether it is the upper one, and its words (R123) -/
  half : Option (Bool × List Reg)
  /-- the bits that its vector unit gets wrong in the next result that the shadow check covers (R143): the unit's failure
  comes from outside the rules, and 0 is none -/
  strike : Word
  deriving DecidableEq, Repr

/-! ### Units, gangs, launches (R11) -/

/-- A kernel descriptor (R99) with its address. -/
structure KDesc where
  addr : Nat
  teamLog2 : Nat
  matrix : Bool
  front : Bool
  idemp : Bool
  det : Bool
  dict : Bool
  hasHandler : Bool
  fibres : Nat
  frame : Nat
  frameMax : Nat
  stack : Nat
  args : Nat
  scratch : Nat
  shelf : Nat
  handlerBr : Word
  dictAddr : Nat
  tplAddr : Nat
  layAddr : Nat
  funcId : DWord
  deriving DecidableEq, Repr, Inhabited

/-- Per template of a unit (R280, R300, R302). DESIGN CHOICE: log 61. -/
structure TplState where
  seq : Nat
  wmark : Nat
  /-- finished requests above the watermark -/
  finished : List Nat
  from? : Option CapReg
  to? : Option CapReg
  deriving DecidableEq, Repr, Inhabited

/-- What XSTAT keeps of a finished request (R304). -/
structure XDone where
  tmpl : Nat
  seq : Nat
  late : Bool
  cancel : Bool
  fault : Byte
  /-- it completed: neither cancelled nor faulted -/
  ok : Bool
  deriving DecidableEq, Repr, Inhabited

/-- A team's crew register and count (R312, R313). -/
structure Team where
  idx : Nat
  set : Bool
  mask : Word
  h : Bool
  count : Nat
  deriving DecidableEq, Repr, Inhabited

/-- A unit's recorded next stage (R98, R384). -/
structure NextStage where
  cont : Bool
  desc : KDesc
  /-- the time of issue (R391) -/
  issued : Nat
  deriving DecidableEq, Repr, Inhabited

/-- The record of one write of a fibre, for the signature of a screened unit (R407): the fibre by index and creation
stamp, the number that orders it, and the bytes the signature is taken over. -/
structure WriteRec where
  fid : Nat
  stamp : Nat
  seq : Nat
  bytes : List Byte
  deriving DecidableEq, Repr, Inhabited

/-- A resident unit. -/
structure Unit where
  key : Nat
  launch : Nat
  no : Nat
  gang : Nat
  idx : Nat
  core : Nat
  /-- partition and seat of each group of 32 fibres (R67) -/
  seats : List (Nat × Nat)
  desc : KDesc
  shadow : Bool
  gen : Word
  allocBase : Nat
  /-- the base of its fibres' backing areas (R79), in device memory that no capability reaches -/
  backing : Nat
  fibres : List Fibre
  teams : List Team
  templates : List (BitVec 128)
  layouts : List (BitVec 256)
  tpl : List TplState
  xdone : List XDone
  ring : Option Nat
  channel : Option Nat
  next : Option NextStage
  /-- fibres ended in the unit, for R371 -/
  ended : Nat
  /-- a fibre has executed an opcode of 0xE0 to 0xEF (R396) -/
  usedFront : Bool
  /-- ended at its next bank point by cancel or failure (R372) -/
  ending : Bool
  dispatched : Nat
  /-- the absolute deadline it is scheduled by (R391) -/
  deadline : Option Nat
  /-- one of two copies whose signatures are compared, and its writes so far (R406, R407) -/
  screened : Bool
  writes : List WriteRec
  deriving DecidableEq, Repr

/-- A placed gang (R186, R392). -/
structure Gang where
  launch : Nat
  idx : Nat
  gen : Word
  cluster : Nat
  /-- time resident before the present residence, for R396 -/
  resident : Nat
  /-- being drained as a victim until a time (R398) -/
  drainTill : Option Nat
  /-- being banked: 0 not, 1 advancing to bank points, 2 copied to staging (R416) -/
  banking : Nat
  shadow : Bool
  deriving DecidableEq, Repr, Inhabited

/-- A copy descriptor (R363). -/
structure Copy where
  src : DWord
  dst : DWord
  len : Nat
  deriving DecidableEq, Repr, Inhabited

/-- A signal part (R366). -/
structure SignalPart where
  addr : DWord
  value : DWord
  add : Bool
  irq : Bool
  deriving DecidableEq, Repr, Inhabited

/-- A launch part (R364), with its 64 bytes as read. -/
structure LaunchPart where
  raw : List Byte
  kdesc : Nat
  grid : Nat
  gang : Nat
  det : Bool
  chk : Bool
  sys : Bool
  gangIdem : Bool
  raceFree : Bool
  ring : Nat
  bindRing : Bool
  bindChan : Bool
  args : Nat
  capMask : DWord
  ringDesc : DWord
  signExt : Bool
  detw : Nat
  deriving DecidableEq, Repr, Inhabited

/-- Where a launch stands (R362, R369). -/
inductive Stage where
  | preload | ready | settled | posting | done
  deriving DecidableEq, Repr, Inhabited

/-- What became of a unit of a launch that has left the cores (R371, R372). -/
inductive UnitEnd where
  | complete | dropped | ended
  deriving DecidableEq, Repr, Inhabited

/-- A unit that has left the cores, with the fibres that ended in it, for its word (R371). -/
structure UnitDone where
  no : Nat
  how : UnitEnd
  fibres : Nat
  /-- how long it was resident, and whether a fibre of it executed an opcode of 0xE0 to 0xEF (R396) -/
  resident : Nat
  front : Bool
  deriving DecidableEq, Repr, Inhabited

/-- A launch (R364 to R369). `key` never recurs; `id` is the `$launch` the front end gave it. -/
structure Launch where
  key : Nat
  id : Word
  func : Nat
  ctx : Nat
  queue : Nat
  job : Nat
  phase : Nat
  graph : Option (Nat × Nat)
  tag : DWord
  /-- the header's index in its queue; none for `LAUNCH` and graph nodes -/
  hdr : Option Nat
  part : LaunchPart
  desc : KDesc
  sys : Bool
  det : Bool
  preloads : List Copy
  posts : List Copy
  signal : Option SignalPart
  stage : Stage
  deadline : Option Nat
  parsed : Nat
  startT : BitVec 96
  started : Bool
  endT : BitVec 96
  nextUnit : Nat
  /-- gangs returned to the head of the unstarted units (R398), relaunched or continued ones included -/
  returned : List Nat
  /-- continuations that wait to start, with their absolute deadlines: the unit keeps its core -/
  conts : List (Nat × Option Nat)
  ends : List UnitDone
  done : Nat
  /-- units that completed elsewhere after a move (R437) -/
  moved : Option Nat
  cancelled : Bool
  failed : Bool
  cause : Byte
  errArg : Word
  kills : List (Nat × Nat)
  /-- the cluster on which a gang was last killed (R403) -/
  shun : List (Nat × Nat)
  /-- DET rounds (R235, R236): the round, and the round in which each unit completed -/
  round : Nat
  roundEnds : List (Nat × Nat)
  /-- engine contributions to barrier objects that wait for the commit, by key and granules (R235 step 5) -/
  contribs : List (Nat × Nat)
  /-- steps 1 to 4 of a commit are done or under way: steps 5 and 6 come next (R235) -/
  committing : Bool
  /-- the fibres, by unit key and index, that the commit has still to let perform the instructions that end their strokes, in
  the order of its steps 2 to 4 -/
  passQ : List (Nat × Nat)
  /-- the present round has a fence or release of `.sys` scope (R235) -/
  sysRound : Bool
  /-- the present round has begun (R236) -/
  begun : Bool
  /-- screened units of which a copy has retired: unit number, whether it was the shadow, its cluster and its
  signature (R407) -/
  screens : List (Nat × Bool × Nat × DWord)
  /-- gangs banked and not planted (R439) -/
  banked : List Nat
  chan : Option Nat
  deriving DecidableEq, Repr, Inhabited

/-! ### Transfer engine (R278 to R304) -/

/-- A transfer request that has not finished. -/
structure XReq where
  id : Nat
  unit : Nat
  fid : Option Nat
  chan : Option Nat
  tmpl : Nat
  x0 : BitVec 16
  x1 : BitVec 16
  x2 : BitVec 16
  rmode : Word
  seq : Nat
  store : Bool
  promise : Nat
  late : Bool
  lateRaised : Bool
  /-- the capabilities of the two sides as bound at acceptance -/
  src : CapReg
  dst : CapReg
  work : Nat
  accepted : Nat
  /-- a page fault holds it: the faulting address (R294) -/
  fault : Option Nat
  /-- every payload byte has been performed; the stamp is still due (R291) -/
  written : Bool
  /-- the PC of the instruction that made it -/
  pc : BitVec 57
  /-- the payload bytes that it has written when its gang is banked (R416 step 4) -/
  progress : Nat
  deriving DecidableEq, Repr, Inhabited

/-- An aperture store that waits for room in its queue (R279, R282): the channel, the unit bound to it, the request
word, and its place in the order of arrival. -/
structure ApStore where
  seq : Nat
  chan : Nat
  unit : Nat
  word : DWord
  deriving DecidableEq, Repr, Inhabited

/-- A range-scoreboard entry (R13): `who` is a transfer request, matrix request or transmit post number. -/
structure RangeEntry where
  lo : Nat
  hi : Nat
  write : Bool
  who : Nat
  deriving DecidableEq, Repr, Inhabited

/-! ### Matrix engine (R306 to R332) -/

/-- A tile's format (R309). -/
inductive TileFmt where
  | clear | fp32 | int32
  deriving DecidableEq, Repr, Inhabited

/-- An entry of a tile's log (R314): places are the sequence numbers of the FIFO tiles it consumed. -/
structure LogEntry where
  fa : Nat
  fb : Nat
  a : Nat
  b : Nat
  ty : MTy
  rm : RM
  daz : Bool
  ftz : Bool
  scales : List Byte
  deriving DecidableEq, Repr, Inhabited

/-- An accumulator tile (R309): the words that differ from the zero word with code 0, by index, strictly rising. -/
structure TileState where
  words : List (Nat × Reg)
  fmt : TileFmt
  zero : Bool
  log : List LogEntry
  /-- an open reduction: count, next rank, barrier word (R324) -/
  red : Option (Nat × Nat × Word)
  deriving DecidableEq, Repr, Inhabited

/-- A tile in a FIFO: sequence number, size, words with codes. -/
structure FifoTile where
  num : Nat
  size : Nat
  words : List Reg
  deriving DecidableEq, Repr, Inhabited

/-- A FIFO (R311): retained and ready tiles, oldest first; pushes filling; the next sequence number. -/
structure FifoState where
  retained : List FifoTile
  readyT : List FifoTile
  filling : List (Nat × Nat)
  nextNum : Nat
  deriving DecidableEq, Repr, Inhabited

/-- A crew arrival in the catch latch (R313): the instruction as accepted, the sampled `$rmode`, the 64 B column scales
and the 64 A row scales of R316, the crew's teams in rank order, its ordinal, and the cycle of arrival. -/
structure MxReq where
  num : Nat
  unit : Nat
  team : Nat
  instr : Instr
  rmode : Word
  scales : List Byte
  crew : List Nat
  ord : Nat
  since : Nat
  deriving DecidableEq, Repr

/-- An operation that the engine has accepted, or caught, and not performed: `scales` per rank of the crew; the team
that asked, for an operation of one team; the ordinal of a crew's and the arrivals that met in it (R313); and the space,
address, capability register and descriptor it names. -/
structure MxOp where
  num : Nat
  ord : Nat
  arrivals : List MxReq
  unit : Nat
  instr : Instr
  crew : List Nat
  rmode : Word
  scales : List (List Byte)
  team : Nat
  space : Nat
  adr : Nat
  creg : CReg
  opA : DWord
  deriving DecidableEq, Repr

/-- A drained tile on its way, in the reduction buffer or held at its sender (R323, R325). -/
structure Drain where
  num : Nat
  sender : Nat
  team : Nat
  launch : Nat
  desc : DWord
  int : Bool
  rm : RM
  daz : Bool
  ftz : Bool
  words : List (Nat × Reg)
  /-- in the target's reduction buffer -/
  buffered : Bool
  /-- refused by the target for want of room, and held at the sender -/
  held : Bool
  shadow : Bool
  deriving DecidableEq, Repr, Inhabited

/-- A core's matrix engine. -/
structure Matrix where
  owner : Option Nat
  tiles : List TileState
  fifos : List FifoState
  latch : List MxReq
  ops : List MxOp
  deriving DecidableEq, Repr

/-! ### Cores -/

/-- A partition's spilled rows, as (seat, slot) pairs (R78). The rows it holds are those of the live slots of its
seats that are not spilled (R74). -/
structure PartRows where
  part : Nat
  spilled : List (Nat × Nat)
  deriving DecidableEq, Repr, Inhabited

/-- A partition's current batch: (unit, fibre) pairs (R69), and whether it lost the heavy port (R72). -/
structure Batch where
  part : Nat
  fibres : List (Nat × Nat)
  lost : Bool
  deriving DecidableEq, Repr, Inhabited

/-- A fault of a request whose fibre has ended, on its way to the trap coalescer (R400): the unit with its launch and
number, the fibre with its seat and the PC of the request, and the cycle in which the fault was found. -/
structure LateTrap where
  unit : Nat
  launch : Nat
  no : Nat
  fid : Nat
  seat : Nat
  pc : BitVec 57
  cause : Byte
  arg : Word
  addr : Option (Nat × Nat)
  clk : Nat
  deriving DecidableEq, Repr, Inhabited

/-- A record of the trap coalescer (R401), with the launches and the parked fibres it covers, and the units of the fibres
that had ended. -/
structure TrapRec where
  num : Nat
  cause : Byte
  units : List (Word × Nat)
  more : Bool
  arg : Word
  page : Nat
  count : Nat
  pc : Word
  first : Nat
  seats : BitVec 256
  covers : List (Nat × Nat)
  launches : List Nat
  late : List Nat
  /-- a completion error of host memory is among its traps, which no page mends (R188, R241) -/
  fatal : Bool
  ctx : Nat
  addr : Option (Nat × Nat)
  /-- taken and held for a debugger (R402) -/
  held : Bool
  deriving DecidableEq, Repr, Inhabited

/-- An event counter (R457). -/
structure Counter where
  sel : BitVec 16
  val : DWord
  deriving DecidableEq, Repr, Inhabited

/-- A core. -/
structure Core where
  idx : Nat
  scoreboard : List RangeEntry
  loadQ : List XReq
  storeQ : List XReq
  apWait : List ApStore
  matrix : Matrix
  rows : List PartRows
  batches : List Batch
  lateTraps : List LateTrap
  records : List TrapRec
  l1 : List L1Line
  channels : List (Nat × Nat)
  counters : List Counter
  deriving DecidableEq, Repr

/-! ### Wire engine (R335 to R354) -/

/-- A flow-table entry (R337). -/
structure Flow where
  idx : Nat
  valid : Bool
  ports : BitVec 2
  ipv6 : Bool
  daddr : BitVec 128
  dplen : Nat
  saddr : BitVec 128
  splen : Nat
  dport : Option (BitVec 16)
  sport : Option (BitVec 16)
  ring : Nat
  payload : Bool
  keepBad : Bool
  deriving DecidableEq, Repr, Inhabited

/-- A slot's state (R342). -/
inductive SlotState where
  | free | landed | taken | released
  deriving DecidableEq, Repr, Inhabited

/-- A landing in progress (R339): the slot and the bytes to write with its header, and the cycle of the frame's last byte
(R349). -/
structure Landing where
  slot : Nat
  bytes : List Byte
  dlen : Nat
  since : Nat
  deriving DecidableEq, Repr, Inhabited

/-- A ring (R338): bound to a unit, or reserved for a launch. -/
structure Ring where
  idx : Nat
  unit : Option Nat
  reserved : Option Nat
  desc : DWord
  slots : List SlotState
  nextSlot : Nat
  rseq : Nat
  drops : Nat
  landings : List Landing
  /-- frames dropped while unbound, counted by firmware core 6 (R341) -/
  unboundDrops : Nat
  deriving DecidableEq, Repr, Inhabited

/-- A transmit post (R354). -/
structure Post where
  num : Nat
  tag : Word
  unit : Nat
  fid : Nat
  key : Nat
  off : Nat
  len : Nat
  mode : Nat
  h : Nat
  /-- the holder's number of its scoreboard entry -/
  sb : Nat
  /-- the PC of the instruction that made it, and the cycle of its acceptance -/
  pc : BitVec 57
  made : Nat
  deriving DecidableEq, Repr, Inhabited

/-- What a port keeps of a post (R353). -/
structure PostRec where
  num : Nat
  state : Nat
  fail : Bool
  reason : Nat
  mode : Nat
  ts : Option (BitVec 96)
  deriving DecidableEq, Repr, Inhabited

/-- A frame that has been read and is being sent (R344, R353): its post, its bytes as they leave, and its timestamp. -/
structure Sending where
  post : Post
  bytes : List Byte
  bad : Bool
  ts : BitVec 96
  deriving DecidableEq, Repr, Inhabited

/-- A port (R335, R344). -/
structure Port where
  up : Bool
  posts : List Post
  sending : Option Sending
  postNo : Nat
  hist : List PostRec
  drops : Nat
  pauses : Nat
  ptp : Nat
  /-- the last frame handed to the wire, as bytes with its FCS -/
  sent : List Byte
  sentCount : Nat
  /-- the cycle in which its last frame left (R349) -/
  freeAt : Nat
  deriving DecidableEq, Repr, Inhabited

/-- The wire engine and the clock (R346, R347). -/
structure Wire where
  flows : List Flow
  rings : List Ring
  ports : List Port
  /-- the PTP time: seconds, nanoseconds, fraction -/
  ptp : BitVec 96
  clockSource : Nat
  /-- how far the clock goes for 2^32 of device time, and what is left of the last cycle (R347) -/
  rate : Nat
  rateRem : Nat
  steps : Nat
  ppsEdge : Option (BitVec 96)
  ppsOut : Nat
  /-- the clock time for which the 1PPS output stays high -/
  ppsLeft : Nat
  deriving DecidableEq, Repr, Inhabited

/-! ### Front end (R356 to R408) -/

/-- A queue's registers (R356, R389); a queue with no entry has every register 0. -/
structure Queue where
  idx : Nat
  base : DWord
  ctl : Word
  kick : DWord
  ridx : DWord
  recBase : DWord
  err : Nat
  per : Nat
  bud : Nat
  dl : Nat
  rcores : Nat
  ovcnt : Nat
  /-- the current period's length and end, the remaining budget in core microseconds, in units of 2^-16 ns -/
  period : Nat
  periodEnd : Nat
  budget : Nat
  overrun : Bool
  deriving DecidableEq, Repr, Inhabited

/-- A node of a graph instance (R374): its 64 bytes, pending count and fired flag. -/
structure Node where
  idx : Nat
  raw : List Byte
  pendingN : Nat
  fired : Bool
  deriving DecidableEq, Repr, Inhabited

/-- A graph instance (R375). -/
structure Graph where
  inst : Nat
  ctx : Nat
  queue : Nat
  job : Nat
  phase : Nat
  hdr : Nat
  tag : DWord
  deadline : DWord
  nodes : List Node
  regs : List DWord
  iter : Nat
  records : Nat
  failed : Bool
  cancelled : Bool
  /-- it contains a launch that failed, or one that was cut short (R371) -/
  hasFailed : Bool
  hasCut : Bool
  cause : Byte
  errArg : Word
  startT : BitVec 96
  done : Nat
  active : Nat
  /-- completions given and not yet applied, in order (R375) -/
  events : List Nat
  signal : Option SignalPart
  settled : Bool
  /-- its queue was best-effort when its command was parsed (R391) -/
  best : Bool
  /-- the space and address of a page fault that one of its nodes waits on (R375) -/
  fault : Option (Nat × Nat)
  deriving DecidableEq, Repr, Inhabited

/-- A phase or job of a context (R370, R371): `phase` none is the job itself. -/
structure LevelRec where
  ctx : Nat
  job : Nat
  phase : Option Nat
  done : Nat
  active : Nat
  closed : Bool
  cancelled : Bool
  failed : Bool
  deriving DecidableEq, Repr, Inhabited

/-- The word of a settled launch or graph kept for `LVLQ` and `CANCEL` (R387). -/
structure LevelMemo where
  graph : Bool
  id : Nat
  ctx : Nat
  job : Nat
  word : DWord
  /-- a graph's condition registers and iteration count as they ended (R375) -/
  regs : List DWord
  iter : Nat
  deriving DecidableEq, Repr, Inhabited

/-- A host ring (R377); an absent one has every register 0. -/
structure HostRing where
  func : Nat
  idx : Nat
  base : DWord
  ctl : Word
  head : DWord
  tail : DWord
  deriving DecidableEq, Repr, Inhabited

/-- An MSI-X vector (R379, R380); an absent one has TIME 0 and CNT 1. -/
structure Vec where
  func : Nat
  idx : Nat
  time : Nat
  cnt : Nat
  pendingN : Nat
  oldest : Nat
  masked : Bool
  pbit : Bool
  /-- messages sent -/
  sent : Nat
  deriving DecidableEq, Repr, Inhabited

/-- An entry of a firmware core's log. -/
structure LogRec where
  core : Nat
  cause : Byte
  arg : Word
  info : Nat
  deriving DecidableEq, Repr, Inhabited

/-- A gang within the conditions of R394: the cycle since which it is ready, and that since which reserved cores of its
queue have been free for it. -/
structure WaitingGang where
  launch : Nat
  gang : Nat
  ready : Nat
  free : Option Nat
  deriving DecidableEq, Repr, Inhabited

/-- The front end. -/
structure FrontEnd where
  queues : List Queue
  rings : List HostRing
  vecs : List Vec
  launches : List Launch
  graphs : List Graph
  levels : List LevelRec
  memos : List LevelMemo
  nextLaunch : Word
  nextKey : Nat
  nextGraph : Nat
  nextGen : Word
  /-- the generation of the next gang (R186) -/
  nextGangGen : Word
  /-- the ready gangs whose start R394 bounds -/
  waitingGangs : List WaitingGang
  prectl : Word
  prectlCopy : Word
  scrctl : Word
  /-- the cores that the queues' reservations hold, with the queue (R389) -/
  reserve : List (Nat × Nat)
  /-- differences per cluster, and clusters excluded (R407) -/
  diffs : List (Nat × Nat)
  excluded : List Nat
  log : List LogRec
  /-- the trap records that firmware has taken, of 128 bytes (R401) -/
  taken : List (List Byte)
  /-- events counted by firmware: discarded completions, overdue launches, kinds by number -/
  counts : List (Nat × Nat)
  deriving DecidableEq, Repr, Inhabited

/-! ### Banking (R415 to R441) -/

/-- Where an image goes (R439): an address of space 0 of a context, or of the host window of a function, or, with
`pcie`, at a PCIe address. -/
structure BankDest where
  ctx : Nat
  func : Nat
  space : Nat
  adr : Nat
  pcie : Bool
  deriving DecidableEq, Repr, Inhabited

/-- A banking in progress or an image kept inside the device. -/
structure BankJob where
  num : Nat
  launch : Nat
  gangs : List Nat
  whole : Bool
  /-- where the image goes: none for a pre-emption save -/
  dest : Option BankDest
  /-- 0 started, 1 at bank points and copied, 2 image written -/
  step : Nat
  /-- the image as bytes once it is formed -/
  image : List Byte
  /-- planted from staging, or waiting to be -/
  ready : Bool
  /-- the cycle in which it was started (R398) -/
  since : Nat
  /-- a save's gangs with their time resident so far (R396), and the faults recorded on their fibres, by unit number -/
  resident : List (Nat × Nat)
  faults : List (Nat × Nat × Deferred)
  /-- the units of a save of which a fibre has executed an opcode of 0xE0 to 0xEF (R396) -/
  fronts : List Nat
  /-- the units of a save with the time at which the next stage that they hold was issued (R391) -/
  issues : List (Nat × Nat)
  /-- of an accepted image: its spaces' recorded generations and the new ones (R434 step 1); none of a save -/
  gens : List (Nat × Word × Word)
  deriving DecidableEq, Repr, Inhabited

/-- A page that this device keeps for the reader of an image (R435): the launch, the page, and whether the target has fetched
it. -/
structure CarriedPage where
  launch : Nat
  ctx : Nat
  va : Nat
  fetched : Bool
  deriving DecidableEq, Repr, Inhabited

/-- A move in progress (R437). -/
structure MoveRec where
  launch : Nat
  target : Nat
  /-- the units sent to the target, and the image that was sent -/
  sent : Nat
  image : List Byte
  reported : Nat
  deriving DecidableEq, Repr, Inhabited

/-- The banking engine and firmware core 7. -/
structure Banking where
  jobs : List BankJob
  nextJob : Nat
  moves : List MoveRec
  /-- container digest of each context's code (R431): 48 bytes -/
  containers : List (Nat × List Byte)
  /-- functions of a context's containers: the identifier and the entry of each -/
  functions : List (Nat × DWord × Nat)
  /-- pages kept for carriage (R435) -/
  carried : List CarriedPage
  prevManifest : List (Nat × List Byte)
  /-- DIGESTs of the images that this device has written -/
  written : List (List Byte)
  /-- DIGESTs of images planted here, with the key of the launch -/
  planted : List (List Byte × Nat)
  /-- the keys of each context's cache of translations (R432); the translation of a scalar level is the code itself -/
  cache : List (Nat × List Byte)
  deriving DecidableEq, Repr, Inhabited

/-! ### Device life (R449 to R457) -/

/-- A mailbox (R453): request and reply bytes, BUSY and LOST. -/
structure Mailbox where
  req : List Byte
  reply : List Byte
  busy : Bool
  lost : Bool
  deriving DecidableEq, Repr, Inhabited

/-- A link status register (R455). -/
structure Link where
  up : Bool
  half : Bool
  retrain : Nat
  replay : Nat
  deriving DecidableEq, Repr, Inhabited

/-- Power-up, trust, mailboxes, links, power and the dies' counters. -/
structure DeviceLife where
  readyFlag : Bool
  stage : Nat
  failCode : Nat
  detail : Nat
  /-- device memory written in stage 3: bytes (R449) -/
  zeroed : Nat
  measure : List (List Byte)
  /-- the lowest security version among the loaded images (R452) -/
  lowVersion : Option Nat
  mailboxes : List Mailbox
  links : List Link
  pwrcap : Nat
  power : Nat
  /-- the power samples of the last millisecond, newest first (R456) -/
  samples : List Nat
  tj : Nat
  mhz : Nat
  dieCounters : List Counter
  /-- configuration requests answered with Configuration Request Retry Status (R450) -/
  configRetries : Nat
  /-- what the last completion to the host carried, and whether it, or the last write to it, was marked poisoned (R197,
  R225) -/
  hostData : List Byte
  hostEp : Bool
  /-- the completion timeouts set in the functions' Device Control 2 registers, as the codes of PCIe; 0 where none is (R188) -/
  cplTimes : List (Nat × Nat)
  deriving DecidableEq, Repr, Inhabited

/-- The memory fabric outside the cores. -/
structure Fabric where
  lines : List Line
  pages : List Page
  hostWin : List HostWin
  granules : List PoolGranule
  pools : List Pool
  consts : List ConstExtent
  /-- the owner time-out of space 0 in microseconds (R208) -/
  ownerTime : Nat
  /-- lines in the lost-line directory (R206) -/
  lostDir : List Nat
  nextMsg : Nat
  /-- writes that some agents do not see yet, oldest first (R14, R224) -/
  lags : List Lag
  /-- words of commits that have not reached `.sys` scope (R235) -/
  hidden : List Hidden
  deriving DecidableEq, Repr, Inhabited

/-! ### The machine -/

/-- The state of the CK312. `clk` is `$clk`; `time` is device time in units of 2^-16 ns with the remainder of the
last cycle in `timeRem`. `agenda` holds the events that happen next, first to last, the outside world's among
them; `issuing` the fibres of this cycle's batches still to issue; `cur` the fibre that issues; `ir` a packed
code's word on its way to decoding. `freeCtr` and `seqCtr` are the model's own counters.
DESIGN CHOICE: log 59. -/
structure State where
  clk : Nat
  time : Nat
  timeRem : Nat
  mem : Memory
  fabric : Fabric
  units : List Unit
  gangs : List Gang
  cores : List Core
  drains : List Drain
  wire : Wire
  fe : FrontEnd
  bank : Banking
  life : DeviceLife
  /-- The events of the outside world and of firmware that are still to happen. DESIGN CHOICE: log 4. -/
  agenda : List Instr
  issuing : List (Nat × Nat)
  cur : Nat × Nat
  ir : Option (IWord × Bool)
  freeCtr : Nat
  seqCtr : Nat
  deriving DecidableEq, Repr

/-! ### Reset (R449, R450 and the reset columns) -/

/-- A counter at reset (R457). -/
def Counter.reset : Counter := { sel := 0, val := 0 }
/-- A tile at reset: the spec gives no contents; clear and zero. DESIGN CHOICE: log 9. -/
def TileState.reset : TileState := { words := [], fmt := .clear, zero := true, log := [], red := none }
/-- A FIFO at reset: twelve free slots (R329). -/
def FifoState.reset : FifoState := { retained := [], readyT := [], filling := [], nextNum := 0 }
/-- A matrix engine at reset. -/
def Matrix.reset : Matrix :=
  { owner := none, tiles := List.replicate 32 TileState.reset, fifos := List.replicate 8 FifoState.reset, latch := []
    ops := [] }
/-- A core at reset. -/
def Core.reset (n : Nat) : Core :=
  { idx := n, scoreboard := [], loadQ := [], storeQ := [], apWait := [], matrix := Matrix.reset, rows := [], batches := []
    lateTraps := [], records := [], l1 := [], channels := [], counters := List.replicate 16 Counter.reset }
/-- A port at reset: its link is not up until it trains. -/
def Port.reset : Port :=
  { up := false, posts := [], sending := none, postNo := 0, hist := [], drops := 0, pauses := 0, ptp := 0, sent := [], sentCount := 0
    freeAt := 0 }
/-- A mailbox at reset (R453). -/
def Mailbox.reset : Mailbox :=
  { req := List.replicate 64 0, reply := List.replicate 64 0, busy := false, lost := false }
/-- A link at reset (R455). -/
def Link.reset : Link := { up := false, half := false, retrain := 0, replay := 0 }

/-- The machine right after reset: stage 0, nothing ready, nothing bound, memory with nothing listed.
DESIGN CHOICE: log 7, 10, 62. -/
def State.reset : State where
  clk := 0
  time := 0
  timeRem := 0
  mem := { cells := [], synd := [], tags := [] }
  fabric :=
    { lines := [], pages := [], hostWin := [], granules := [], pools := [], consts := [], ownerTime := 200
      lostDir := [], nextMsg := 0, lags := [], hidden := [] }
  units := []
  gangs := []
  cores := (List.range 96).map Core.reset
  drains := []
  wire :=
    { flows := [], rings := [], ports := [Port.reset, Port.reset], ptp := 0, clockSource := 0, rate := 2 ^ 32
      rateRem := 0, steps := 0, ppsEdge := none, ppsOut := 0, ppsLeft := 0 }
  fe :=
    { queues := [], rings := [], vecs := [], launches := [], graphs := [], levels := []
      memos := [], nextLaunch := 1, nextKey := 1, nextGraph := 1, nextGen := 1, nextGangGen := 1
      waitingGangs := []
      prectl := 75#32 <<< 17 ||| 25#32 <<< 10 ||| 40#32
      prectlCopy := 75#32 <<< 17 ||| 25#32 <<< 10 ||| 40#32
      scrctl := 10, reserve := [], diffs := [], excluded := [], log := [], taken := [], counts := [] }
  bank :=
    { jobs := [], nextJob := 1, moves := [], containers := [], functions := [], carried := [], prevManifest := []
      written := [], planted := []
      cache := [] }
  life :=
    { readyFlag := false, stage := 0, failCode := 0, detail := 0, zeroed := 0, measure := List.replicate 8 (List.replicate 48 0)
      lowVersion := none, mailboxes := List.replicate 8 Mailbox.reset, links := List.replicate 12 Link.reset
      pwrcap := 3000, power := 0, samples := [], tj := 0, mhz := 1700, dieCounters := List.replicate 256 Counter.reset
      configRetries := 0, hostData := [], hostEp := false, cplTimes := [] }
  agenda := []
  issuing := []
  cur := (0, 0)
  ir := none
  freeCtr := 0
  seqCtr := 0

end Sys2Proof.Machine
end

