-- ==== Sys2Proof/Machine/Mem.lean ====
section
/-! DEFINITION. Bytes, words, check codes and tags: the operations over `Memory` (spec 09 R182, R194 to R198) and
the plain list tables the rest of the model is built from. Byte order is little-endian everywhere (R2). -/

namespace Sys2Proof.Machine

/-! ### Lists used as tables -/

/-- Apply `f` to the entry at a position. -/
def updAt (l : List α) (n : Nat) (f : α → α) : List α :=
  match l, n with
  | [], _ => []
  | x :: xs, 0 => f x :: xs
  | x :: xs, n + 1 => x :: updAt xs n f

/-- Apply `f` to every entry that satisfies `p`. -/
def updIf (l : List α) (p : α → Bool) (f : α → α) : List α := l.map fun x => if p x then f x else x

/-- Insert into a strictly rising list of numbers. -/
def insNat (l : List Nat) (n : Nat) : List Nat :=
  match l with
  | [] => [n]
  | x :: xs => if n < x then n :: x :: xs else if n = x then x :: xs else x :: insNat xs n

/-- The value of a sparse table: a rising list of keys, `dflt` where a key is not listed. -/
def tget (l : List (Nat × α)) (k : Nat) : Option α :=
  match l with
  | [] => none
  | (j, v) :: xs => if j = k then some v else tget xs k

/-- Set a key of a sparse table with rising keys. -/
def tset (l : List (Nat × α)) (k : Nat) (v : α) : List (Nat × α) :=
  match l with
  | [] => [(k, v)]
  | (j, w) :: xs => if k < j then (k, v) :: (j, w) :: xs else if k = j then (k, v) :: xs else (j, w) :: tset xs k v

/-- Remove a key of a sparse table. -/
def tdel (l : List (Nat × α)) (k : Nat) : List (Nat × α) := l.filter fun e => e.1 != k

/-- Add `n` to a counted key. -/
def tbump (l : List (Nat × Nat)) (k n : Nat) : List (Nat × Nat) := tset l k ((tget l k).getD 0 + n)

/-- The smallest number of a list. -/
def minOf (l : List Nat) : Option Nat :=
  l.foldl (fun m x => match m with | none => some x | some y => some (min x y)) none

/-- Whether two ranges, each a start and a size, share a member. -/
def overlaps (a m b n : Nat) : Bool := decide (a < b + n) && decide (b < a + m)

/-! ### Bits and bytes -/

/-- The parity of a word: the exclusive OR of its bits. -/
def parity (w : Word) : Bool :=
  let a := w ^^^ (w >>> 16)
  let b := a ^^^ (a >>> 8)
  let c := b ^^^ (b >>> 4)
  let d := c ^^^ (c >>> 2)
  (d ^^^ (d >>> 1)).getLsbD 0

/-- The mask Mi of the check code (R194). -/
def codeMask : Nat → Word
  | 0 => 0x4991A1C1 | 1 => 0x92234383 | 2 => 0x25468607 | 3 => 0x4A8C0D0E
  | 4 => 0x94191A1C | 5 => 0x29323438 | 6 => 0x52646870 | _ => 0xA4C8D0E0

/-- The check code of a word (R194). -/
def codeOf (w : Word) : Byte :=
  (List.range 8).foldl (fun c i => if parity (w &&& codeMask i) then c ||| (1#8 <<< i) else c) 0

/-- A word with a fresh code (R64). -/
def fresh (w : Word) : Reg := { val := w, code := codeOf w }

/-- The zero word with code 0x00 (R76). -/
def Reg.zero : Reg := { val := 0, code := 0 }

/-- The position of the only set bit of a byte, if there is one. -/
def oneBit (b : Byte) : Option Nat := (List.range 8).find? fun i => b == 1#8 <<< i

/-- The data bit whose column is a syndrome (R195): the column of bit j has bit i set when Mi has bit j. -/
def columnBit (s : Byte) : Option Nat := (List.range 32).find? fun j => s == codeOf (1#32 <<< j)

/-- What a consumer makes of a stored word (R195): the word to use and whether it was corrected; none when the
error is uncorrectable. -/
def checkWord (r : Reg) : Option (Word × Bool) :=
  let s := r.code ^^^ codeOf r.val
  if s == 0 then some (r.val, false)
  else if (oneBit s).isSome then some (r.val, true)
  else match columnBit s with
    | some j => some (r.val ^^^ (1#32 <<< j), true)
    | none => none

/-- The byte at a position of a word. -/
def wordByte (w : Word) (i : Nat) : Byte := w.extractLsb' (8 * i) 8

/-- A word from four bytes. -/
def wordOf4 (a b c d : Byte) : Word := d ++ c ++ b ++ a

/-- A number from bytes, lowest first. -/
def natOfBytes : List Byte → Nat
  | [] => 0
  | b :: bs => b.toNat + 256 * natOfBytes bs

/-- The lowest `n` bytes of a number, lowest first. -/
def bytesOfNat (n x : Nat) : List Byte :=
  match n with
  | 0 => []
  | n + 1 => BitVec.ofNat 8 x :: bytesOfNat n (x / 256)

/-- A field of a list of bytes read as a number. -/
def field (bs : List Byte) (off n : Nat) : Nat := natOfBytes ((bs.drop off).take n)

/-! ### Memory -/

/-- A byte of a canonical table: 0 where none is listed. DESIGN CHOICE: log 7. -/
def cget (l : List Host.Cell) (k : Nat) : Byte :=
  match l with
  | [] => 0
  | (j, v) :: xs => if j = k then v else if k < j then 0 else cget xs k

/-- Write a byte of a canonical table; 0 removes the entry. -/
def cset (l : List Host.Cell) (k : Nat) (b : Byte) : List Host.Cell :=
  match l with
  | [] => if b = 0 then [] else [(k, b)]
  | (j, v) :: xs =>
    if k < j then (if b = 0 then (j, v) :: xs else (k, b) :: (j, v) :: xs)
    else if k = j then (if b = 0 then xs else (k, b) :: xs)
    else (j, v) :: cset xs k b

/-- The canonical form of a table of bytes: keys strictly rising, no entry 0. -/
def cellsWf : List Host.Cell → Bool
  | [] => true
  | [(_, v)] => v != 0
  | (j, v) :: (k, w) :: xs => v != 0 && decide (j < k) && cellsWf ((k, w) :: xs)

/-- A list of numbers is strictly rising. -/
def risingWf : List Nat → Bool
  | [] => true
  | [_] => true
  | j :: k :: xs => decide (j < k) && risingWf (k :: xs)

/-- The canonical form of memory. DESIGN CHOICE: log 6. -/
def Memory.wf (m : Memory) : Bool := cellsWf m.cells && cellsWf m.synd && risingWf m.tags

/-- The byte at a key. DESIGN CHOICE: log 7. -/
def Memory.byte (m : Memory) (k : Nat) : Byte := cget m.cells k

/-- The aligned key of the word that holds a byte. -/
def wordKey (k : Nat) : Nat := k / 4 * 4

/-- The word at an aligned key, without its code. -/
def Memory.val (m : Memory) (k : Nat) : Word :=
  wordOf4 (m.byte k) (m.byte (k + 1)) (m.byte (k + 2)) (m.byte (k + 3))

/-- The word at an aligned key, with its stored code. DESIGN CHOICE: log 6. -/
def Memory.word (m : Memory) (k : Nat) : Reg :=
  { val := m.val k, code := codeOf (m.val k) ^^^ cget m.synd k }

/-- Write one byte, leaving codes and tags. -/
def Memory.poke (m : Memory) (k : Nat) (b : Byte) : Memory := { m with cells := cset m.cells k b }

/-- Clear the tag of the granule that holds a byte (R125). -/
def Memory.clearTag (m : Memory) (k : Nat) : Memory := { m with tags := m.tags.filter fun t => t != k / 16 * 16 }

/-- Set the tag of a granule. -/
def Memory.setTag (m : Memory) (k : Nat) : Memory := { m with tags := insNat m.tags (k / 16 * 16) }

/-- The tag of the granule that holds a byte. -/
def Memory.tag (m : Memory) (k : Nat) : Bool := m.tags.contains (k / 16 * 16)

/-- Write the four bytes of a word. -/
def Memory.pokeWord (m : Memory) (k : Nat) (w : Word) : Memory :=
  (((m.poke k (wordByte w 0)).poke (k + 1) (wordByte w 1)).poke (k + 2) (wordByte w 2)).poke (k + 3) (wordByte w 3)

/-- Write a whole word with its code, clearing the granule's tag. -/
def Memory.setWord (m : Memory) (k : Nat) (r : Reg) : Memory :=
  ({ m.pokeWord k r.val with synd := cset m.synd k (r.code ^^^ codeOf r.val) }).clearTag k

/-- The word that holds a byte after the merge's check: corrected where one bit is in error (R121, R195). -/
def Memory.fixWord (m : Memory) (k : Nat) : Memory :=
  if cget m.synd k == 0 then m
  else match checkWord (m.word k) with
    | some (w, _) => { m.pokeWord k w with synd := cset m.synd k 0 }
    | none => m

/-- Write one byte into its word and give the merged word a fresh code (R121); the granule's tag is cleared. -/
def Memory.setByte (m : Memory) (k : Nat) (b : Byte) : Memory :=
  let m := m.fixWord (wordKey k)
  ({ m.poke k b with synd := cset m.synd (wordKey k) 0 }).clearTag k

/-- Write words one after another. -/
def Memory.setWords (m : Memory) (k : Nat) : List Reg → Memory
  | [] => m
  | r :: rs => (m.setWord k r).setWords (k + 4) rs

/-- Write bytes one after another, with fresh codes. -/
def Memory.setBytes (m : Memory) (k : Nat) : List Byte → Memory
  | [] => m
  | b :: bs => (m.setByte k b).setBytes (k + 1) bs

/-- Read `n` words. -/
def Memory.words (m : Memory) (k n : Nat) : List Reg := (List.range n).map fun i => m.word (k + 4 * i)

/-- Read `n` bytes. -/
def Memory.bytes (m : Memory) (k n : Nat) : List Byte := (List.range n).map fun i => m.byte (k + i)

/-- Read a number of `n` bytes. -/
def Memory.num (m : Memory) (k n : Nat) : Nat := natOfBytes (m.bytes k n)

/-- The first word of a range of bytes whose code is uncorrectable, by key. -/
def Memory.badWord (m : Memory) (k n : Nat) : Option Nat :=
  let first := wordKey k
  let count := (k + n + 3 - first) / 4
  ((List.range count).map fun i => first + 4 * i).find? fun j => (checkWord (m.word j)).isNone

/-- Whether some word of a range needs a correction. -/
def Memory.anyCorrected (m : Memory) (k n : Nat) : Bool :=
  let first := wordKey k
  let count := (k + n + 3 - first) / 4
  (List.range count).any fun i => match checkWord (m.word (first + 4 * i)) with
    | some (_, c) => c
    | none => false

/-- A word as a consumer reads it; the stored value when it is uncorrectable, which its callers rule out. -/
def Memory.good (m : Memory) (k : Nat) : Word :=
  match checkWord (m.word k) with
  | some (w, _) => w
  | none => m.val k

/-- The bytes of a range as a consumer reads them, after correction. -/
def Memory.goodBytes (m : Memory) (k n : Nat) : List Byte :=
  (List.range n).map fun i => wordByte (m.good (wordKey (k + i))) ((k + i) % 4)

/-- Clear a range to zero words of code 0x00 with no tag. -/
def Memory.clearRange (m : Memory) (lo hi : Nat) : Memory :=
  { cells := m.cells.filter fun c => !(decide (lo ≤ c.1) && decide (c.1 < hi))
    synd := m.synd.filter fun c => !(decide (lo ≤ c.1) && decide (c.1 < hi))
    tags := m.tags.filter fun t => !(decide (lo ≤ t) && decide (t < hi)) }

end Sys2Proof.Machine
end

