-- ==== Sys2Proof/Machine/Ops.lean ====
section
/-! DEFINITION. The named operations over the state: finding and updating units, fibres and cores; registers,
results in flight and releases (spec 04 R54 to R57, 05 R68 to R76); address keys and translation (09 R183 to R190);
fetch lines (04 R38 to R44); taking a trap and delivering it in the fibre (05 R82, R83); and the one shared form in
which an instruction is issued (04 R50). -/

namespace Sys2Proof.Machine

/-! ### Finding and updating -/

/-- A unit by its key. -/
def State.unit? (s : State) (k : Nat) : Option Unit := s.units.find? fun u => u.key == k
/-- A fibre of a unit by its index. -/
def Unit.fibre? (u : Unit) (fid : Nat) : Option Fibre := u.fibres.find? fun f => f.fid == fid
/-- A launch by its key. -/
def State.launch? (s : State) (k : Nat) : Option Launch := s.fe.launches.find? fun l => l.key == k
/-- A gang of a launch. -/
def State.gang? (s : State) (l i : Nat) : Option Gang := s.gangs.find? fun g => g.launch == l && g.idx == i
/-- A core by its number. -/
def State.core? (s : State) (n : Nat) : Option Core := s.cores[n]?

/-- Change one unit. -/
def State.modUnit (s : State) (k : Nat) (f : Unit → Unit) : State :=
  { s with units := updIf s.units (fun u => u.key == k) f }
/-- Change one fibre of a unit. -/
def Unit.modFibre (u : Unit) (fid : Nat) (f : Fibre → Fibre) : Unit :=
  { u with fibres := updIf u.fibres (fun x => x.fid == fid) f }
/-- Change one fibre. -/
def State.modFibre (s : State) (k fid : Nat) (f : Fibre → Fibre) : State := s.modUnit k fun u => u.modFibre fid f
/-- Change the fibre that issues. -/
def State.modCur (s : State) (f : Fibre → Fibre) : State := s.modFibre s.cur.1 s.cur.2 f
/-- Change one core. -/
def State.modCore (s : State) (n : Nat) (f : Core → Core) : State := { s with cores := updAt s.cores n f }
/-- Change one launch. -/
def State.modLaunch (s : State) (k : Nat) (f : Launch → Launch) : State :=
  { s with fe := { s.fe with launches := updIf s.fe.launches (fun l => l.key == k) f } }
/-- Change one gang. -/
def State.modGang (s : State) (l i : Nat) (f : Gang → Gang) : State :=
  { s with gangs := updIf s.gangs (fun g => g.launch == l && g.idx == i) f }
/-- Put an event at the head of the agenda: it is the next thing that happens. -/
def State.next (s : State) (i : Instr) : State := { s with agenda := i :: s.agenda }

/-- The device context of a unit's launch (R35). -/
def State.ctxOf (s : State) (u : Unit) : Nat := ((s.launch? u.launch).map Launch.ctx).getD 0
/-- The PCIe function that owns the launch's queue. -/
def State.funcOf (s : State) (u : Unit) : Nat := ((s.launch? u.launch).map Launch.func).getD 0
/-- Whether a unit's launch carries CHK (R57). -/
def State.chkOf (s : State) (u : Unit) : Bool := ((s.launch? u.launch).map fun l => l.part.chk).getD false
/-- Whether a unit's launch carries SYS (R60). -/
def State.sysOf (s : State) (u : Unit) : Bool := ((s.launch? u.launch).map Launch.sys).getD false
/-- Whether a unit's launch carries DET (R234). -/
def State.detOf (s : State) (u : Unit) : Bool := ((s.launch? u.launch).map Launch.det).getD false

/-- Add to the core's counters that select an event (R457). DESIGN CHOICE: log 58. -/
def State.count (s : State) (core : Nat) (ev : BitVec 16) (n : Nat) : State :=
  if n = 0 then s
  else s.modCore core fun c => { c with
    counters := c.counters.map fun x => if x.sel == ev then { x with val := x.val + BitVec.ofNat 64 n } else x }

/-- Add to a die's counters that select an event (R457). DESIGN CHOICE: log 58. -/
def State.countDie (s : State) (die : Nat) (ev : BitVec 16) (n : Nat) : State :=
  if n = 0 then s
  else { s with life := { s.life with
    dieCounters := s.life.dieCounters.mapIdx fun i x =>
      if i / 64 == die && x.sel == ev then { x with val := x.val + BitVec.ofNat 64 n } else x } }

/-- The die of a core (R5). -/
def dieOf (core : Nat) : Nat := core / 24
/-- The cluster of a core (R5). -/
def clusterOf (core : Nat) : Nat := core / 4

/-- The value of the free counter, and the state in which it has advanced. -/
def State.draw (s : State) : Nat × State := (s.freeCtr, { s with freeCtr := s.freeCtr + 1 })

/-- Count an event that firmware counts or logs. -/
def State.note (s : State) (kind : Nat) : State := { s with fe := { s.fe with counts := tbump s.fe.counts kind 1 } }

/-- Append an entry to a firmware core's log. -/
def State.logRec (s : State) (core : Nat) (cause : Byte) (arg : Word) (info : Nat) : State :=
  { s with fe := { s.fe with log := s.fe.log ++ [{ core := core, cause := cause, arg := arg, info := info }] } }

/-! ### The PTP clock (R346, R347) -/

/-- A second in units of 2^-16 ns. -/
def ptpSecond : Nat := 1000000000 * 65536

/-- A 96-bit time as a number of 2^-16 ns. -/
def ptpUnits (t : BitVec 96) : Nat :=
  (t.extractLsb' 48 48).toNat * ptpSecond + (t.extractLsb' 0 48).toNat

/-- The 96-bit time of a number of 2^-16 ns (R346). -/
def ptpOf (n : Nat) : BitVec 96 := BitVec.ofNat 48 (n / ptpSecond) ++ BitVec.ofNat 48 (n % ptpSecond)

/-- A time moved by `k` units of 2^-16 ns less `back`. -/
def ptpShift (t : BitVec 96) (k back : Nat) : BitVec 96 := ptpOf (ptpUnits t + k - back)

/-- A core's copy of the clock: within 8 ns of it (R347), by an amount that is the part's.
DESIGN CHOICE: log 15. -/
def State.ptpAt (s : State) (core : Nat) : BitVec 96 :=
  ptpShift s.wire.ptp (Config.ptpSkew core % (16 * 65536 + 1)) (8 * 65536)

/-- A timestamp taken now: within 4 ns of the clock (R348), by an amount that is the part's.
DESIGN CHOICE: log 15. -/
def State.stampNow (s : State) : BitVec 96 × State :=
  let (n, s1) := s.draw
  (ptpShift s.wire.ptp (Config.freeNat n % (8 * 65536 + 1)) (4 * 65536), s1)

/-! ### Registers of a fibre -/

/-- A predicate's value; 15 is always true (R46). -/
def Fibre.pred (f : Fibre) (p : PReg) : Bool := p == 15 || f.preds.getLsbD p.toNat
/-- Set a predicate; 15 discards (R48). -/
def Fibre.setPred (f : Fibre) (p : PReg) (b : Bool) : Fibre :=
  if p == 15 then f
  else { f with preds := if b then f.preds ||| (1#15 <<< p.toNat) else f.preds &&& ~~~(1#15 <<< p.toNat) }
/-- A capability register. -/
def Fibre.cap (f : Fibre) (c : CReg) : CapReg := f.caps[c.toNat]
/-- Set a capability register. -/
def Fibre.setCap (f : Fibre) (c : CReg) (v : CapReg) : Fibre := { f with caps := f.caps.set c.toNat v }
/-- A window register as an absolute slot (R73). -/
def Fibre.slotOf (f : Fibre) (n : Nat) : Nat := f.base + n
/-- A window register; a released slot reads as the zero word with code 0x00 (R76). -/
def Fibre.reg (f : Fibre) (n : Nat) : Reg := (tget f.stack (f.base + n)).getD Reg.zero
/-- Whether a window register's slot is released. -/
def Fibre.released (f : Fibre) (n : Nat) : Bool := (tget f.stack (f.base + n)).isNone
/-- Write a window register at once. -/
def Fibre.setReg (f : Fibre) (n : Nat) (r : Reg) : Fibre := { f with stack := tset f.stack (f.base + n) r }
/-- Release a window register's slot (R75). -/
def Fibre.release (f : Fibre) (n : Nat) : Fibre := { f with stack := tdel f.stack (f.base + n) }
/-- Release every slot from `top` upwards, with every result on its way there (R73). -/
def Fibre.releaseFrom (f : Fibre) (top : Nat) : Fibre :=
  let keep : Dest → Bool := fun d => match d with | .slot n => decide (n < top) | _ => true
  { f with
    stack := f.stack.filter fun e => decide (e.1 < top)
    flights := f.flights.filter fun x => keep x.dest
    pending := f.pending.filter fun x => keep x.dest }

/-- Put a value into its destination. -/
def Fibre.put (f : Fibre) (d : Dest) (v : DVal) : Fibre :=
  match d, v with
  | .slot n, .reg r => { f with stack := tset f.stack n r }
  | .pred p, .bit b => f.setPred p b
  | .cap c, .cap x => f.setCap c x
  | _, _ => f

/-- Write the fixed-latency results that have landed by cycle `clk` (R54, R56). -/
def Fibre.settle (f : Fibre) (clk : Nat) : Fibre :=
  let g := f.flights.foldl (fun (g : Fibre) x => if x.land ≤ clk then g.put x.dest x.val else g) f
  { g with flights := f.flights.filter fun x => decide (clk < x.land) }

/-- Write every result in flight at once (R56, before a handler and at a bank point): those of fixed latency, and those of
variable latency whose values are known. -/
def Fibre.settleAll (f : Fibre) : Fibre :=
  let g := f.flights.foldl (fun (g : Fibre) x => g.put x.dest x.val) f
  let g := f.pending.foldl (fun (g : Fibre) x => match x.val with | some v => g.put x.dest v | none => g) g
  { g with flights := [], pending := f.pending.filter fun x => x.val.isNone }

/-- A fixed-latency result that lands at cycle `land`: an earlier one that would land no sooner is discarded (R56). -/
def Fibre.fly (f : Fibre) (land : Nat) (d : Dest) (v : DVal) : Fibre :=
  { f with flights := (f.flights.filter fun x => !(x.dest == d && decide (land ≤ x.land))) ++
      [{ dest := d, val := v, land := land }] }

/-- A variable-latency result: its pending bit is set; earlier results in flight to the destination are discarded. -/
def Fibre.pend (f : Fibre) (d : Dest) (v : Option DVal) : Fibre :=
  { f with
    flights := f.flights.filter fun x => !(x.dest == d)
    pending := f.pending ++ [{ dest := d, val := v }] }

/-- Give a pending result its value. -/
def Fibre.fill (f : Fibre) (d : Dest) (v : DVal) : Fibre :=
  { f with pending := updIf f.pending (fun x => x.dest == d && x.val.isNone) fun x => { x with val := some v } }

/-- Whether a result of the fibre is on its way whose value its producer does not have yet (R54). -/
def Fibre.awaits (f : Fibre) : Bool := f.pending.any fun p => p.val.isNone

/-- Whether a destination is pending (R54). -/
def Fibre.isPending (f : Fibre) (d : Dest) : Bool := f.pending.any fun x => x.dest == d
/-- Whether a fixed-latency result for a destination is still in flight. -/
def Fibre.inFlight (f : Fibre) (d : Dest) : Bool := f.flights.any fun x => x.dest == d

/-- The slots that hold or await a value, for the rows of R74. -/
def Fibre.liveSlots (f : Fibre) : List Nat :=
  f.stack.map (·.1) ++ (f.flights.filterMap fun x => match x.dest with | .slot n => some n | _ => none) ++
    (f.pending.filterMap fun x => match x.dest with | .slot n => some n | _ => none)

/-! ### Address keys and translation -/

/-- The start of a region of keys. -/
def region (r : Nat) : Nat := r * 2 ^ 80
/-- The key of a scratchpad byte of a core. DESIGN CHOICE: log 6. -/
def keyScratch (core off : Nat) : Nat := region 1 + core * 2 ^ 21 + off
/-- The key of a byte of host memory at a PCIe address. -/
def keyHost (pcie : Nat) : Nat := region 2 + pcie
/-- The key of a byte of a pool whose home is another member: of that member's range. DESIGN CHOICE: log 27. -/
def keyPool (pool home off : Nat) : Nat := region 8 + (pool * 16 + home) * 2 ^ 80 + off
/-- The key of a byte of a launch's argument block. -/
def keyArg (launch off : Nat) : Nat := region 4 + launch * 2 ^ 20 + off
/-- The key of a byte of the `const` sections of a context. -/
def keyConst (ctx off : Nat) : Nat := region 5 + ctx * 2 ^ 57 + off
/-- The key of a byte of a core's transfer aperture (R282). -/
def keyAperture (core off : Nat) : Nat := region 6 + core * 512 + off
/-- The key of a byte of the backing areas, device memory that no capability reaches (R79). DESIGN CHOICE: log 66. -/
def keyBacking (off : Nat) : Nat := region 7 + off
/-- Whether a key lies in a scratchpad, and whose. -/
def scratchCore (k : Nat) : Option Nat := if region 1 ≤ k && k < region 2 then some ((k - region 1) / 2 ^ 21) else none
/-- Whether a key lies in a line that tokens keep coherent (R183). -/
def tokenKey (k : Nat) : Bool := k < region 1 || region 8 ≤ k

/-- Read right, write right, execute right of a page (R190). -/
def rightR : BitVec 3 := 1
/-- Write. -/
def rightW : BitVec 3 := 2
/-- Execute. -/
def rightX : BitVec 3 := 4

/-- The bytes of a page by its size code (R190). -/
def pageBytes (c : Nat) : Nat := match c with | 0 => 65536 | 1 => 2097152 | _ => 1073741824

/-- The page of a context that holds a virtual address. -/
def State.page? (s : State) (ctx va : Nat) : Option Page :=
  s.fabric.pages.find? fun p => p.ctx == ctx && decide (p.va ≤ va) && decide (va < p.va + pageBytes p.sizeCode)

/-- Translate a virtual address that needs some rights (R184, R190). DESIGN CHOICE: log 56 and 89. -/
def State.vaKey (s : State) (ctx va : Nat) (need : BitVec 3) : Option Nat :=
  if va < 2 ^ 57 then
    match s.page? ctx va with
    | some p => if p.absent || p.aperture.isSome || (p.rights &&& need) != need then none else some (p.phys + (va - p.va))
    | none => none
  else none

/-- The byte of space 3 at an address (R187). -/
def State.constKey (s : State) (u : Unit) (adr : Nat) : Option Nat :=
  if adr < u.desc.args then some (keyArg u.launch adr)
  else if s.fabric.consts.any fun e => e.ctx == s.ctxOf u && decide (e.lo ≤ adr) && decide (adr < e.hi) then
    some (keyConst (s.ctxOf u) adr)
  else none

/-- The byte of the host window of a function at an offset (R184, R187), with whether its entry allows atomics. -/
def State.hostKey (s : State) (func adr : Nat) : Option (Nat × Bool) :=
  if adr < 2 ^ 48 then
    (s.fabric.hostWin.find? fun w => w.func == func && w.entry == adr / 2097152).map fun w =>
      (keyHost (w.pcie + adr % 2097152), w.atomics)
  else none

/-- This device's member index in a pool (R189). -/
def State.selfIn (s : State) (pool : Option Nat) : Nat :=
  match pool with
  | none => 0
  | some p => ((s.fabric.pools.find? fun x => x.pool == p).map Pool.self).getD 0

/-- The byte of a pool at a space 5 address (R184, R189): translated by this device's tables where it is the home.
DESIGN CHOICE: log 27. -/
def State.poolKey (s : State) (ctx adr : Nat) (need : BitVec 3) : Option Nat :=
  if adr < 2 ^ 57 then
    let pool := 32 * ctx + adr / 2 ^ 52
    let off := adr % 2 ^ 52
    match s.fabric.granules.find? fun g => g.pool == pool && g.granule == off / 2 ^ 30 with
    | none => none
    | some g =>
      if g.home == s.selfIn (some pool) then s.vaKey ctx (g.range + off % 2 ^ 30) need
      else some (keyPool pool g.home (g.range + off % 2 ^ 30))
  else none

/-- The unit of a unit's gang that holds an index (R186); a shadow copy finds itself at its own index (R406). -/
def State.gangUnit (s : State) (u : Unit) (idx : Nat) : Option Unit :=
  if u.shadow && u.idx == idx then some u
  else s.units.find? fun v => v.launch == u.launch && v.gang == u.gang && v.idx == idx && !v.shadow

/-- The team width of a kernel (R27). -/
def KDesc.team (d : KDesc) : Nat := 2 ^ d.teamLog2

/-- The bytes of space 1 that a unit's capabilities reach (R185). -/
def KDesc.reach (d : KDesc) : Nat := d.scratch - 16384 * d.shelf

/-- The key of the byte at an address of a space for a unit; none raises PAGEFAULT (R190). -/
def State.locate (s : State) (u : Unit) (space adr : Nat) (need : BitVec 3) : Option Nat :=
  match space with
  | 0 => s.vaKey (s.ctxOf u) adr need
  | 1 => some (keyScratch u.core (u.allocBase + adr))
  | 2 => (s.gangUnit u (adr / 2097152)).map fun v => keyScratch v.core (v.allocBase + adr % 2097152)
  | 3 => if need == rightR then s.constKey u adr else none
  | 4 => (s.hostKey (s.funcOf u) adr).map (·.1)
  | 5 => s.poolKey (s.ctxOf u) adr need
  | _ => none

/-- The pool that a line of device memory belongs to (R189): the page that maps it lies in the range of a granule whose home
is this device. -/
def State.poolOf (s : State) (line : Nat) : Option Nat :=
  s.fabric.granules.findSome? fun g =>
    if g.home == s.selfIn (some g.pool) && s.fabric.pages.any fun p =>
        p.ctx == g.pool / 32 && decide (p.phys ≤ 64 * line) && decide (64 * line < p.phys + pageBytes p.sizeCode) &&
          decide (g.range ≤ p.va + (64 * line - p.phys)) && decide (p.va + (64 * line - p.phys) < g.range + 2 ^ 30) then
      some g.pool else none

/-- The byte of a transfer aperture that a space 0 address of a context names (R282): a page of apertures holds that of
its first core, then those of the next. DESIGN CHOICE: log 56. -/
def State.apertureKey (s : State) (ctx va : Nat) : Option Nat :=
  (s.page? ctx va).bind fun p => p.aperture.map fun core => keyAperture core (va - p.va)

/-- The key of a byte that a store names: memory, or a transfer aperture in space 0. -/
def State.storeKey (s : State) (u : Unit) (space adr : Nat) : Option Nat :=
  match s.locate u space adr rightW with
  | some k => some k
  | none => if space = 0 then s.apertureKey (s.ctxOf u) adr else none

/-! ### Screened copies (R406, R407) -/

/-- Whether a write of a unit is never performed: a shadow copy's outside its own scratchpad (R406). -/
def Unit.phantom (u : Unit) (key : Nat) : Bool :=
  u.shadow && !(decide (keyScratch u.core u.allocBase ≤ key) && decide (key < keyScratch u.core (u.allocBase + u.desc.scratch)))

/-- Record a write of a fibre for the signature of a screened unit (R407): space, offset, size and bytes. -/
def State.sigWrite (s : State) (u : Unit) (fid seq space adr : Nat) (bs : List Byte) : State :=
  if u.screened then
    let stamp := ((u.fibre? fid).map Fibre.stamp).getD 0
    s.modUnit u.key fun v => { v with writes := v.writes ++
      [{ fid := fid, stamp := stamp, seq := seq
         bytes := bytesOfNat 1 space ++ bytesOfNat 8 adr ++ bytesOfNat 1 bs.length ++ bs }] }
  else s

/-- Whether a unit's fibres read their own buffered stores (R237, R406). -/
def State.overlaid (s : State) (u : Unit) : Bool := s.detOf u || u.shadow

/-! ### Traps as data -/

/-- A trap: its cause, its argument, and the space and full address where it carries one (R400). -/
structure TrapInfo where
  cause : Byte
  arg : Word
  addr : Option (Nat × Nat)
  deriving DecidableEq, Repr, Inhabited

/-- A trap that carries no address. -/
def trapOf (cause : Byte) (arg : Word) : TrapInfo := { cause := cause, arg := arg, addr := none }

/-- PAGEFAULT at an address of a space (R190). -/
def pageFault (space adr : Nat) : TrapInfo :=
  { cause := 0x24, arg := BitVec.ofNat 32 (adr / 65536), addr := some (space, adr) }
/-- CHECKFAIL in the address form (R197). -/
def checkFail (space adr : Nat) : TrapInfo :=
  { cause := 0x26, arg := BitVec.ofNat 32 (adr / 4 * 4), addr := some (space, adr) }
/-- LINELOST of the line of an address (R211). -/
def lineLost (space adr : Nat) : TrapInfo :=
  { cause := 0x27, arg := BitVec.ofNat 32 (adr / 64 * 64), addr := some (space, adr) }
/-- POISON of the line of an address (R211). -/
def poisonAt (space adr : Nat) : TrapInfo :=
  { cause := 0x28, arg := BitVec.ofNat 32 (adr / 64 * 64), addr := some (space, adr) }
/-- ILLEGAL with a reason (R62). -/
def illegal (reason : Nat) : TrapInfo := trapOf 0x01 (BitVec.ofNat 32 reason)
/-- BADTARGET of a target PC (R44). -/
def badTarget (t : Nat) : TrapInfo := trapOf 0x02 (BitVec.ofNat 32 t)

/-- The containment causes (R82, R211, R333). -/
def containment (cause : Byte) : Bool := cause == 0x0A || cause == 0x26 || cause == 0x28 || cause == 0x52

/-- Whether a trap is recoverable, so that a handler may take it (R82 and the cause tables of the engines). -/
def recoverable (t : TrapInfo) : Bool :=
  match t.cause.toNat with
  | 0x03 | 0x04 | 0x07 | 0x08 | 0x20 | 0x21 | 0x22 | 0x23 | 0x25 | 0x27 | 0x40 | 0x42 | 0x50 | 0x61 | 0x71 => true
  | 0x60 => t.arg.setWidth 8 == 1#8
  | _ => false

/-! ### Fetch lines -/

/-- A fetched line: its 64 bytes. -/
structure FetchLine where
  bytes : List Byte
  deriving DecidableEq, Repr, Inhabited

/-- The line word (R38). -/
def FetchLine.word (l : FetchLine) : Word := BitVec.ofNat 32 (field l.bytes 60 4)
/-- The body as a number (R38). -/
def FetchLine.body (l : FetchLine) : BitVec 480 := BitVec.ofNat 480 (natOfBytes (l.bytes.take 60))
/-- The packed form (R38). -/
def FetchLine.packed (l : FetchLine) : Bool := l.word.getLsbD 31
/-- The last slot of the line (R43). -/
def FetchLine.lastSlot (l : FetchLine) : Nat := if l.packed then 29 else 4
/-- Whether a slot is marked (R39, R40). -/
def FetchLine.marked (l : FetchLine) (slot : Nat) : Bool :=
  if l.packed then decide (slot % 8 = 0) && l.word.getLsbD (27 + slot / 8) else l.word.getLsbD (26 + slot)

/-- The parity of 60 bits. -/
def parity60 (x : BitVec 60) : Bool := parity ((x.extractLsb' 0 32) ^^^ ((x.extractLsb' 32 28).setWidth 32))

/-- The mask of groups that fail their parity (R42). -/
def FetchLine.parityMask (l : FetchLine) : Byte :=
  (List.range 8).foldl (fun m i =>
    if parity60 (l.body.extractLsb' (60 * i) 60) != l.word.getLsbD i then m ||| (1#8 <<< i) else m) 0

/-- The line address of a PC (R43). -/
def lineAddr (pc : BitVec 57) : Nat := pc.toNat / 64 * 64
/-- The slot of a PC (R43). -/
def slotOfPc (pc : BitVec 57) : Nat := pc.toNat % 32

/-- Fetch the line that holds a PC in a context: PAGEFAULT at the PC, or the line (R43).
DEDUCED: log 31. -/
def State.fetchLine (s : State) (ctx : Nat) (pc : BitVec 57) : Except TrapInfo FetchLine :=
  match s.vaKey ctx (lineAddr pc) rightX with
  | none => .error (pageFault 0 pc.toNat)
  | some k => .ok { bytes := s.mem.goodBytes k 64 }

/-- The sequential successor of a PC (R43). -/
def State.seqNext (s : State) (ctx : Nat) (pc : BitVec 57) : BitVec 57 :=
  let last := match s.fetchLine ctx pc with
    | .ok l => l.lastSlot
    | .error _ => 4
  if slotOfPc pc < last then pc + 1 else BitVec.ofNat 57 (lineAddr pc + 64)

/-- The target of a branch field (R44). -/
def branchTarget (pc : BitVec 57) (b : BrField) : BitVec 57 :=
  BitVec.ofInt 57 ((lineAddr pc : Int) + 64 * b.delta.toInt + b.slot.toNat)

/-- Check a target of a transfer of control (R44): its line, or the trap. `pcs` are return marks that count as
marked (R83). DESIGN CHOICE: log 84. -/
def State.checkTarget (s : State) (ctx : Nat) (t : BitVec 57) (pcs : List (BitVec 57)) : Except TrapInfo FetchLine :=
  match s.fetchLine ctx t with
  | .error e => .error e
  | .ok l =>
    if l.parityMask != 0 then .error (trapOf 0x0B (l.parityMask.setWidth 32))
    else if t.getLsbD 5 || decide (l.lastSlot < slotOfPc t) || !(l.marked (slotOfPc t) || pcs.contains t) then
      .error (badTarget t.toNat)
    else .ok l

/-! ### Taking a trap (R82, R83) -/

/-- A fibre that a commit let pass has ended its stroke with a trap (R235): what it does next belongs to the next stroke. -/
def Fibre.endPass (f : Fibre) : Fibre :=
  if f.stroke.pass then { f with stroke := { f.stroke with insns := 0, granules := [], pass := false } } else f

/-- The handler entry of a kernel. -/
def KDesc.handlerPc (d : KDesc) : BitVec 57 :=
  branchTarget (BitVec.ofNat 57 d.addr) { delta := d.handlerBr.extractLsb' 5 27, slot := d.handlerBr.extractLsb' 0 5 }

/-- Deliver a trap in the fibre (R83), given the sequential successor of its PC and the handler's entry. -/
def Fibre.enterHandler (f : Fibre) (t : TrapInfo) (next entry : BitVec 57) (clk : Nat) : Fibre :=
  let g := f.settleAll
  let g := { g with base := g.base + 64, handler := true, floor := g.calls.length, marks := some (f.pc, next) }
  let pc64 : DWord := f.pc.setWidth 64
  let g := g.setReg 0 (fresh (pairLo pc64))
  let g := g.setReg 1 (fresh (pairHi pc64))
  let g := g.setReg 2 (fresh (t.cause.setWidth 32))
  let g := g.setReg 3 (fresh t.arg)
  let g := g.setReg 4 (fresh (g.preds.setWidth 32))
  { g.endPass with
    pc := entry, came := clk, ready := clk + 1, wait := none, served := false, again := false, waiting := 0
    staged := [], half := none }

/-- Send a trap beyond the core: the fibre parks and the trap goes to the coalescer next (R82, R400). -/
def State.beyond (s : State) (k fid : Nat) (t : TrapInfo) : State :=
  (s.modFibre k fid fun f =>
    { f.endPass with
      wait := some (.trapped t.cause t.arg t.addr), served := false, ready := s.clk, staged := [], half := none }).next
    (.trapCoalesce k fid)

/-- A trap is delivered in its fibre: the handler starts once every result in flight is written (R56, R83). -/
def State.deliver (s : State) (u : Unit) (f : Fibre) (t : TrapInfo) : State :=
  s.modFibre u.key f.fid fun f =>
    if f.awaits then
      { f.endPass with wait := some (.entering t.cause t.arg t.addr), served := false, staged := [], half := none }
    else f.enterHandler t (s.seqNext (s.ctxOf u) f.pc) u.desc.handlerPc s.clk

/-- Take a trap of a fibre (R82): containment goes beyond the core; a recoverable trap enters the kernel's handler
when there is one and the window has room; any other trap goes beyond the core. The check of the handler's entry
under R44 can itself send its own trap beyond the core. -/
def State.takeTrap (s : State) (k fid : Nat) (t : TrapInfo) : State :=
  match s.unit? k with
  | none => s
  | some u => match u.fibre? fid with
    | none => s
    | some f =>
      if !containment t.cause && recoverable t && u.desc.hasHandler && !f.handler &&
          decide (f.base + 128 ≤ u.desc.stack) then
        match s.checkTarget (s.ctxOf u) u.desc.handlerPc [] with
        | .ok _ => s.deliver u f t
        | .error e => s.beyond k fid e
      else s.beyond k fid t

/-- The trap whose handler a fibre waits to enter, where nothing is on its way to it any more (R56). -/
def Fibre.entry? (f : Fibre) : Option TrapInfo :=
  match f.wait with
  | some (.entering cause arg addr) => if f.awaits then none else some { cause := cause, arg := arg, addr := addr }
  | _ => none

/-- Start the handlers that wait for results which have now been written (R56). -/
def State.startHandlers (s : State) : State :=
  if s.units.any fun u => u.fibres.any fun f => f.entry?.isSome then
    s.units.foldl (fun s u => u.fibres.foldl (fun s f => match f.entry? with
      | some t => (s.modFibre u.key f.fid fun g => { g with wait := none }).takeTrap u.key f.fid t
      | none => s) s) s
  else s

/-! ### The shared form of an instruction (R50) -/

/-- A read that an instruction makes (R57): a predicate; a window register through a field (0 where none names it),
checked where the instruction computes from it (R85), quiet where a released slot is no fault (R108); a capability
register. -/
inductive Rd where
  | pred (p : PReg)
  | reg (field n : Nat) (check quiet : Bool)
  | cap (field : Nat) (c : CReg) (check : Bool)
  deriving DecidableEq, Repr

/-- What an instruction reads, releases and writes: the reads in the order of R57, the window registers its L bits
release, its destinations, the step of R235 that performs it where it ends a DET stroke (0 otherwise), and the
classes of recorded faults that are taken at it; `front` marks the opcodes of R396. -/
structure Op where
  ctl : Ctl
  reads : List Rd
  last : List Nat
  regs : List Nat
  preds : List PReg
  caps : List CReg
  ends : Nat
  takes : List FaultClass
  front : Bool
  deriving DecidableEq, Repr

/-- What the effect of an instruction comes to: the next state; a trap that discards everything; a trap that keeps
the state and the fibre given (R108); or a wait, in the state given, with the fibre standing at the instruction, as it
stood or as given. -/
inductive Fx where
  | done (s : State)
  | trap (t : TrapInfo)
  | trapKeep (s : State) (f : Fibre) (t : TrapInfo)
  | wait (s : State) (w : Wait)
  | waitKeep (s : State) (f : Fibre) (w : Wait)
  deriving DecidableEq

/-- What the effect of an instruction is given: its unit, and its fibre as it stood when the sources were read. -/
structure Ctx where
  u : Unit
  f : Fibre
  deriving DecidableEq

/-- The trap argument of a window register read (R57, R85). -/
def regArg (field n : Nat) : Word := BitVec.ofNat 32 (field + 4 * n)
/-- The trap argument of a capability register read (R57, R85). -/
def capArg (field : Nat) (c : CReg) : Word := BitVec.ofNat 32 (field + 4 * c.toNat + 256)
/-- The trap argument of a predicate read (R57). -/
def predArg (p : PReg) : Word := BitVec.ofNat 32 (p.toNat + 512)

/-- The destination a read looks at, if it looks at one. -/
def Rd.dest (f : Fibre) : Rd → Option Dest
  | .pred p => if p == 15 then none else some (.pred p)
  | .reg _ n _ _ => some (.slot (f.base + n))
  | .cap _ c _ => some (.cap c)

/-- The trap of one read under CHK: STALLSHORT for an early read, RRD for a released one (R57). -/
def Rd.chkTrap (f : Fibre) (r : Rd) : Option TrapInfo :=
  match r with
  | .pred p => if p != 15 && f.inFlight (.pred p) then some (trapOf 0x03 (predArg p)) else none
  | .reg fl n _ q =>
    if f.inFlight (.slot (f.base + n)) then some (trapOf 0x03 (regArg fl n))
    else if !q && f.released n then some (trapOf 0x04 (regArg fl n)) else none
  | .cap fl c _ => if f.inFlight (.cap c) then some (trapOf 0x03 (capArg fl c)) else none

/-- The trap of one read whose word is uncorrectable (R85). -/
def Rd.codeTrap (f : Fibre) (r : Rd) : Option TrapInfo :=
  match r with
  | .pred _ => none
  | .reg fl n c _ => if c && (checkWord (f.reg n)).isNone then some (trapOf 0x26 (regArg fl n)) else none
  | .cap fl c k => if k && (f.cap c).bad then some (trapOf 0x26 (capArg fl c)) else none

/-- The first trap that the reads raise: under CHK first, then the codes. -/
def Fibre.readTrap (f : Fibre) (chk : Bool) (rs : List Rd) : Option TrapInfo :=
  match (if chk then rs.findSome? (Rd.chkTrap f) else none) with
  | some t => some t
  | none => rs.findSome? (Rd.codeTrap f)

/-- The destinations of an instruction. -/
def Op.dests (o : Op) (f : Fibre) : List Dest :=
  o.regs.map (fun n => .slot (f.base + n)) ++
    ((o.preds.filter fun p => p != 15).map fun p => .pred p) ++ o.caps.map fun c => .cap c

/-- Whether an instruction reads or writes a pending destination (R54). -/
def Op.blocked (o : Op) (f : Fibre) : Bool :=
  (o.reads.any fun r => match r.dest f with | some d => f.isPending d | none => false) ||
    (o.dests f).any fun d => f.isPending d

/-- The spilled slots that an instruction reads and has not read into the operand stage (R78). -/
def Op.spilledReads (o : Op) (f : Fibre) (spilled : List Nat) : List Nat :=
  o.reads.filterMap fun r => match r with
    | .reg _ n _ _ =>
      if spilled.contains (f.base + n) && !f.staged.contains (f.base + n) then some (f.base + n) else none
    | _ => none

/-- Correct the checked registers that have one bit in error (R85): the fibre, and how many were corrected. -/
def Fibre.scrub (f : Fibre) (rs : List Rd) : Fibre × Nat :=
  rs.foldl (fun (a : Fibre × Nat) r => match r with
    | .reg _ n true _ => match checkWord (a.1.reg n) with
      | some (w, true) => (a.1.setReg n (fresh w), a.2 + 1)
      | _ => a
    | _ => a) (f, 0)

/-- Whether some read that is not quiet finds a released slot (R76). -/
def Fibre.readsReleased (f : Fibre) (rs : List Rd) : Bool :=
  rs.any fun r => match r with
    | .reg _ n _ q => !q && f.released n
    | _ => false

/-- Set bits of `$fstat` (R68). -/
def Fibre.raise (f : Fibre) (m : Word) : Fibre := { f with fstat := f.fstat ||| (m &&& 0x7F) }

/-- The seat of a fibre: its partition and seat number (R67). -/
def Unit.seatOf (u : Unit) (fid : Nat) : Nat × Nat := u.seats.getD (fid / 32) (0, 0)

/-- The slots of a fibre's seat that are spilled (R78). -/
def State.spilledOf (s : State) (u : Unit) (fid : Nat) : List Nat :=
  let ps := u.seatOf fid
  match s.core? u.core with
  | none => []
  | some c => match c.rows.find? fun r => r.part == ps.1 with
    | none => []
    | some r => (r.spilled.filter fun e => e.1 == ps.2).map (·.2)

/-- The cycles that a stall count takes (R55). -/
def stallOf (n : BitVec 4) : Nat := max n.toNat 1

/-- The fibre after it has passed an instruction: the PC at its successor, the marked sources released, the stall
count begun, and one more instruction of its stroke. -/
def Fibre.pass (f : Fibre) (last : List Nat) (next : BitVec 57) (clk : Nat) (stall : BitVec 4) : Fibre :=
  let g := last.foldl (fun (g : Fibre) n => g.release n) f
  { g with
    pc := next, came := clk, ready := clk + stallOf stall, wait := none, served := false, again := false
    staged := [], half := none
    stroke := { g.stroke with insns := g.stroke.insns + 1 } }

/-- Park the fibre that issues, at its instruction. -/
def State.park (s : State) (f : Fibre) (w : Wait) : State :=
  s.modCur fun _ => { f with wait := some w, served := false }

/-- The end of a stroke in a DET launch (R234): a fibre that has just passed the instruction that ends its stroke
begins the next one; a fibre whose stroke is full waits for the commit. -/
def State.endStroke (s : State) (ends : Bool) : State :=
  s.modCur fun f =>
    if ends then
      { f with stroke := { f.stroke with insns := 0, granules := [], pass := false } }
    else if decide (Config.strokeInsns ≤ f.stroke.insns) && f.live && (f.wait.isNone || f.wait == some .regroup) then
      { f with wait := some (.stroke 0) }
    else f

/-- The oldest recorded fault of the classes given, with the others that remain (R209). -/
def takeFault (fs : List Deferred) (cls : List FaultClass) : Option (Deferred × List Deferred) :=
  match fs with
  | [] => none
  | d :: ds =>
    if cls.contains d.cls then some (d, ds)
    else (takeFault ds cls).map fun r => (r.1, d :: r.2)

/-- The trap of a recorded fault. -/
def Deferred.trap (d : Deferred) : TrapInfo := { cause := d.cause, arg := d.arg, addr := d.addr }

/-- Perform an instruction for a fibre that has reached it (R50). `f` is the fibre with its landed results written.
DEDUCED: log 17. -/
def State.issueOn (s : State) (u : Unit) (f : Fibre) (o : Op) (eff : Ctx → State → Fx) : State :=
  let next := s.seqNext (s.ctxOf u) f.pc
  let det := s.detOf u
  match (if f.again then none else takeFault f.faults [.late]) with
  | some (d, ds) => (s.modCur fun _ => { f with faults := ds }).takeTrap u.key f.fid d.trap
  | none =>
  if o.ctl.ps != 15 && f.isPending (.pred o.ctl.ps) then s.park f .result
  else match f.readTrap (s.chkOf u) [.pred o.ctl.ps] with
  | some t => (s.modCur fun _ => f).takeTrap u.key f.fid t
  | none =>
    if f.pred o.ctl.ps == o.ctl.pn then
      let s1 := s.modCur fun _ => f.pass o.last next s.clk o.ctl.stall
      if det then s1.endStroke false else s1
    else match takeFault f.faults o.takes with
    | some (d, ds) => (s.modCur fun _ => { f with faults := ds }).takeTrap u.key f.fid d.trap
    | none =>
    if o.blocked f then s.park f .result
    else if !(o.spilledReads f (s.spilledOf u f.fid)).isEmpty then
      s.modCur fun _ => { f with wait := some (.fill (o.spilledReads f (s.spilledOf u f.fid))) }
    else match f.readTrap (s.chkOf u) o.reads with
    | some t => (s.modCur fun _ => f).takeTrap u.key f.fid t
    | none =>
      if det && o.ends != 0 && !f.stroke.pass then
        s.park f (.stroke o.ends)
      else
        let (f0, fixed) := f.scrub o.reads
        let f1 := if f0.readsReleased o.reads then f0.raise 0x40 else f0
        let s1 := s.modCur fun _ => f1.pass o.last next s.clk o.ctl.stall
        match eff { u := u, f := f0 } s1 with
        | .done s2 =>
          let s3 := (s2.count u.core 0x000B fixed).count u.core 0x0003 1
          let s3 := if o.front then s3.modUnit u.key fun v => { v with usedFront := true } else s3
          if det then s3.endStroke (o.ends != 0) else s3
        | .trap t => (s.modCur fun _ => f).takeTrap u.key f.fid t
        | .trapKeep s2 g t => (s2.modCur fun _ => g).takeTrap u.key f.fid t
        | .wait s2 w => s2.modCur fun _ => { f with wait := some w, served := false, again := true }
        | .waitKeep s2 g w => s2.modCur fun _ => { g with wait := some w, served := false, again := true }

/-- The unit and fibre that issue, if the fibre is live. DESIGN CHOICE: log 5. -/
def State.current? (s : State) : Option (Unit × Fibre) :=
  match s.unit? s.cur.1 with
  | none => none
  | some u => match u.fibre? s.cur.2 with
    | none => none
    | some f => if f.live then some (u, f) else none

/-- The fibre that issues traps ILLEGAL with a reason found in its word (R62). -/
def State.trapIllegal (s : State) (reason : Nat) : Host.Outcome State Fault Refusal :=
  match s.current? with
  | none => .fault .noFibre
  | some (u, f) => .next (s.takeTrap u.key f.fid (illegal reason))

/-- Issue an instruction for the current fibre. -/
def State.issue (s : State) (o : Op) (eff : Ctx → State → Fx) : Host.Outcome State Fault Refusal :=
  match s.current? with
  | none => .fault .noFibre
  | some (u, f) => .next (s.issueOn u (f.settle s.clk) o eff)

end Sys2Proof.Machine
end

