-- ==== Sys2Proof/Machine/Rows.lean ====
section
/-! DEFINITION. The register rows of a partition (spec 05 R74, R77 to R79): which slots hold rows, how a row is found for a
slot that is written or filled, and the backing areas that spilled rows go to. -/

namespace Sys2Proof.Machine

/-- The resident units of a core. -/
def State.unitsOn (s : State) (core : Nat) : List Unit := s.units.filter fun u => u.core == core

/-- The fibres of a seat of a partition. -/
def State.seatFibres (s : State) (core part seat : Nat) : List (Unit × Fibre) :=
  (s.unitsOn core).flatMap fun u => (u.fibres.filter fun f => f.live && u.seatOf f.fid == (part, seat)).map fun f => (u, f)

/-- The slots of a seat that some lane holds, or awaits a value in, in ascending order (R74). -/
def seatSlots (ms : List (Unit × Fibre)) : List Nat := ms.foldl (fun l m => m.2.liveSlots.foldl insNat l) []

/-- The slots of a fibre that a result is on its way to. -/
def Fibre.awaited (f : Fibre) : List Nat :=
  let slot (d : Dest) : Option Nat := match d with | .slot n => some n | _ => none
  (f.flights.filterMap fun x => slot x.dest) ++ f.pending.filterMap fun x => slot x.dest

/-- The spilled slots of a partition. -/
def State.spilledIn (s : State) (core part : Nat) : List (Nat × Nat) :=
  (((s.core? core).bind fun c => c.rows.find? fun r => r.part == part).map PartRows.spilled).getD []

/-- Set the spilled slots of a partition. -/
def State.setSpilled (s : State) (core part : Nat) (l : List (Nat × Nat)) : State :=
  s.modCore core fun c => { c with
    rows := c.rows.filter (fun r => r.part != part) ++ (if l.isEmpty then [] else [{ part := part, spilled := l }]) }

/-- A partition's spilled slots without those of some seats. -/
def PartRows.without (seats : List (Nat × Nat)) (r : PartRows) : PartRows :=
  { r with spilled := r.spilled.filter fun e => !seats.contains (r.part, e.1) }

/-- The rows that a seat holds (R74). -/
def State.rowsOf (s : State) (core part seat : Nat) : List Nat :=
  let gone := s.spilledIn core part
  (seatSlots (s.seatFibres core part seat)).filter fun n => !gone.contains (seat, n)

/-- The rows of a partition that are held. -/
def State.rowsHeld (s : State) (core part : Nat) : Nat :=
  ((List.range Config.seatsPerPartition).map fun k => (s.rowsOf core part k).length).sum

/-- The rows that a seat reserves (R77). -/
def State.reserved (s : State) (core part seat : Nat) : Nat :=
  (((s.seatFibres core part seat).head?).map fun m => m.1.desc.frame).getD 0

/-- The seat that gives up a row for a writing seat (R78 steps 1 and 2). -/
def State.victimSeat (s : State) (core part writer : Nat) : Nat :=
  let excess (n : Nat) : Int := ((s.rowsOf core part n).length : Int) - s.reserved core part n
  if (s.rowsOf core part writer).length < s.reserved core part writer then
    (List.range Config.seatsPerPartition).foldl (fun b n => if excess b ≤ excess n then n else b) 0
  else writer

/-- The row that a seat gives up (R78 step 3): never one of `keep`, which the instruction is writing, nor one that awaits a
result. -/
def State.victimRow (s : State) (core part seat : Nat) (keep : List Nat) : Option Nat :=
  let ms := s.seatFibres core part seat
  let busy := ms.flatMap fun m => m.2.awaited
  let rows := (s.rowsOf core part seat).filter fun n => !busy.contains n && !keep.contains n
  match rows.find? fun n => ms.all fun m => decide (n < m.2.base) with
  | some n => some n
  | none => rows.getLast?

/-- The key of a slot in the backing area of a fibre (R79). DESIGN CHOICE: log 66. -/
def Unit.backingKey (u : Unit) (fid slot : Nat) : Nat := keyBacking (u.backing + (fid * u.desc.stack + slot) * 4)

/-- Spill a row (R78 step 4): its live lanes go to their fibres' backing areas with their codes; the live bits stay. -/
def State.spillRow (s : State) (core part seat slot : Nat) : State :=
  let s1 := (s.seatFibres core part seat).foldl (fun (s : State) m => match tget m.2.stack slot with
    | some r => { s with mem := s.mem.setWord (m.1.backingKey m.2.fid slot) r }
    | none => s) s
  (s1.setSpilled core part ((seat, slot) :: s1.spilledIn core part)).count core 0x0009 1

/-- Fill the live lanes of a row from the backing areas, but for the lanes that `hit` names (R78 step 5). -/
def State.fillRow (s : State) (core part seat slot : Nat) (hit : Nat → Nat → Bool) : State :=
  (s.seatFibres core part seat).foldl (fun (s : State) m =>
    if hit m.1.key m.2.fid || (tget m.2.stack slot).isNone then s
    else s.modFibre m.1.key m.2.fid fun f =>
      { f with stack := tset f.stack slot (s.mem.word (m.1.backingKey m.2.fid slot)) }) s

/-- A fibre with its spilled slots as its backing area holds them (R78, R79). -/
def State.wholeFibre (s : State) (u : Unit) (f : Fibre) : Fibre :=
  let gone := s.spilledOf u f.fid
  { f with stack := f.stack.map fun e => if gone.contains e.1 then (e.1, s.mem.word (u.backingKey f.fid e.1)) else e }

/-- Write the lanes of a slot that `hit` names to their backing areas: no row can be found for them. -/
def State.sendLanes (s : State) (core part seat slot : Nat) (hit : Nat → Nat → Bool) : State :=
  (s.seatFibres core part seat).foldl (fun (s : State) m => match tget m.2.stack slot with
    | some r => if hit m.1.key m.2.fid then { s with mem := s.mem.setWord (m.1.backingKey m.2.fid slot) r } else s
    | none => s) s

/-- Find a row for a slot that holds none (R78): one is freed where the partition has none, and the slot is spilled no
longer. Where every row of the victim awaits a result or is being written, the lanes that `hit` names go to the backing
areas at once, so that a partition never holds more rows than it has. DESIGN CHOICE: log 49. -/
def State.giveRow (s : State) (core part seat : Nat) (keep : List Nat) (slot : Nat) (hit : Nat → Nat → Bool) : State :=
  let take (s : State) : State := s.setSpilled core part ((s.spilledIn core part).filter fun e => e != (seat, slot))
  if s.rowsHeld core part < Config.rows then take s
  else
    let victim := s.victimSeat core part seat
    match s.victimRow core part victim (if victim == seat then keep else []) with
    | some row => take (s.spillRow core part victim row)
    | none => s.sendLanes core part seat slot hit

/-- Whether a lane's slot has been written since the fibre stood as `was`: a release writes nothing. -/
def Fibre.wrote (f : Fibre) (was : Option Fibre) (slot : Nat) : Bool :=
  f.awaited.contains slot ||
    ((tget f.stack slot).isSome && tget f.stack slot != was.bind fun g => tget g.stack slot)

/-- The slots that one write names at most (R122, R126): an instruction that writes more writes them one after another. -/
def writeWidth : Nat := 4

/-- Settle the rows of one seat after a step from `s0` (R74, R78): a slot that no lane holds is spilled no longer, and every
slot that the step has written, and that held no row, is given one. DESIGN CHOICE: log 49. -/
def State.settleSeat (s0 : State) (core : Nat) (s : State) (ps : Nat × Nat) : State :=
  let was := s0.seatFibres core ps.1 ps.2
  let now := s.seatFibres core ps.1 ps.2
  let hit (k fid n : Nat) : Bool := (now.find? fun m => m.1.key == k && m.2.fid == fid).any fun m =>
    m.2.wrote ((was.find? fun x => x.1.key == k && x.2.fid == fid).map (·.2)) n
  let old := seatSlots was
  let slots := seatSlots now
  let gone := s.spilledIn core ps.1
  let need := slots.filter fun n =>
    !old.contains n || (gone.contains (ps.2, n) && now.any fun m => hit m.1.key m.2.fid n)
  let left := gone.filter fun e => e.1 != ps.2 || slots.contains e.2
  if need.isEmpty && left == gone then s
  else if gone.isEmpty && s.rowsHeld core ps.1 ≤ Config.rows then s
  else
    let fresh := need.filter fun n => !left.contains (ps.2, n)
    let s1 := s.setSpilled core ps.1 (fresh.map (fun n => (ps.2, n)) ++ left)
    let keep (n : Nat) : List Nat := if need.length ≤ writeWidth then need else [n]
    need.foldl (fun s n =>
      let s2 := s.giveRow core ps.1 ps.2 (keep n) n fun k fid => hit k fid n
      if left.contains (ps.2, n) && !(s2.spilledIn core ps.1).contains (ps.2, n) then
        s2.fillRow core ps.1 ps.2 n fun k fid => hit k fid n
      else s2) s1

/-- Settle the rows of a unit's seats after a step from `s0`. -/
def State.settleRows (s : State) (s0 : State) (unit : Nat) : State :=
  match s.unit? unit with
  | none => s
  | some u => u.seats.foldl (s0.settleSeat u.core) s

end Sys2Proof.Machine
end

