-- ==== Sys2Proof/Machine/Operands.lean ====
section
/-! DEFINITION. Operand forms: sources, groups, memory operands and destinations, read once for every family (spec 03, 04). -/

namespace Sys2Proof
open Machine

/-- The reads of a register group through a field. -/
def groupReads (field n count : Nat) (check : Bool) : List Rd :=
  (List.range count).map fun i => .reg field (n + i) check false

/-- The words a width takes. -/
def wordsOf (wide : Bool) : Nat := if wide then 2 else 1

/-- The reads of a source (R47). -/
def Src.reads (a : Src) (field : Nat) (wide check : Bool) : List Rd :=
  match a with
  | .reg n _ => groupReads field n.toNat (wordsOf wide) check
  | _ => []

/-- The window registers that a source's L bit releases (R84). -/
def Src.lastRegs (a : Src) (wide : Bool) : List Nat :=
  match a with
  | .reg n true => (List.range (wordsOf wide)).map (n.toNat + ·)
  | _ => []

/-- The window registers that the L bit of a register group releases. -/
def RSrc.lastRegs (a : RSrc) (count : Nat) : List Nat :=
  if a.last then (List.range count).map (a.n.toNat + ·) else []

/-- The width of an integer type in a register (R84): 64 for the 64-bit types, else 32. -/
def ITy.regBits (t : ITy) : Nat := if t.wide then 64 else 32

/-- An integer of a type from a register's bits (R110): signed or unsigned as the type says. -/
def ITy.toInt (t : ITy) (x : DWord) : Int :=
  if t.wide then (if t.signed then x.toInt else (x.toNat : Int))
  else (if t.signed then (x.setWidth 32).toInt else ((x.setWidth 32).toNat : Int))

/-- The reads of a memory operand. -/
def MemOp.reads (m : MemOp) : List Rd :=
  .cap 1 m.cap.n true :: (match m.idx with | some r => [.reg 2 r.n.toNat true false] | none => [])

/-- The registers a memory operand's L bits release (R117). -/
def MemOp.lastRegs (m : MemOp) : List Nat :=
  match m.idx with
  | some r => r.lastRegs 1
  | none => []

end Sys2Proof

/-! DEFINITION. Operand forms (spec 02 R25, R26, 04 R47 to R49, 06 R84, R85, R117): what a source field reads and
releases, its value at a width, and how a destination is written. -/

namespace Sys2Proof.Machine

/-! ### Sources -/

/-- A 32-bit source with its code (R84). -/
def Fibre.srcReg (f : Fibre) (a : Src) : Reg :=
  match a with
  | .reg n _ => f.reg n.toNat
  | .const k => fresh (k.setWidth 32)
  | .imm v => fresh v

/-- A 32-bit source. -/
def Fibre.src32 (f : Fibre) (a : Src) : Word := (f.srcReg a).val

/-- A 64-bit source as its two words with codes; IMM32 is sign-extended where `signed` (R47).
DEDUCED: log 13. -/
def Fibre.srcPair (f : Fibre) (signed : Bool) (a : Src) : Reg × Reg :=
  match a with
  | .reg n _ => (f.reg n.toNat, f.reg (n.toNat + 1))
  | .const k => (fresh (k.setWidth 32), fresh 0)
  | .imm v => (fresh v, fresh (if signed && v.msb then 0xFFFFFFFF else 0))

/-- A 64-bit source. -/
def Fibre.src64 (f : Fibre) (signed : Bool) (a : Src) : DWord :=
  let p := f.srcPair signed a
  joinPair p.1.val p.2.val

/-- A source at the width of an integer type, as its words with codes. -/
def Fibre.srcRegs (f : Fibre) (t : ITy) (a : Src) : List Reg :=
  if t.wide then let p := f.srcPair t.signed a; [p.1, p.2] else [f.srcReg a]

/-- A source at the width of an integer type, zero-extended to 64 bits. -/
def Fibre.srcBits (f : Fibre) (t : ITy) (a : Src) : DWord :=
  if t.wide then f.src64 t.signed a else (f.src32 a).setWidth 64

/-- A source as an exact integer. -/
def Fibre.srcInt (f : Fibre) (t : ITy) (a : Src) : Int := t.toInt (f.srcBits t a)

/-- An even register pair as a 64-bit number (R26). -/
def Fibre.pairAt (f : Fibre) (n : Nat) : DWord := joinPair (f.reg n).val (f.reg (n + 1)).val

/-- The index of a memory operand as a signed integer (R117); 0 where it is the constant 0. -/
def Fibre.index (f : Fibre) (m : MemOp) : Int :=
  match m.idx with
  | some r => (f.reg r.n.toNat).val.toInt
  | none => 0

/-- The offset of a memory operand (R117). -/
def Fibre.offset (f : Fibre) (m : MemOp) : Int := f.index m + m.disp.toInt

/-! ### Destinations -/

/-- The window registers of a destination of a width. -/
def dstRegs (d : VReg) (count : Nat) : List Nat := (List.range count).map (d.toNat + ·)

/-- Two words of a 64-bit value with fresh codes, low word first. -/
def regs64 (x : DWord) : List Reg := [fresh (pairLo x), fresh (pairHi x)]

/-- The words of a value at a width. -/
def regsAt (wide : Bool) (x : DWord) : List Reg := if wide then regs64 x else [fresh (pairLo x)]

/-- Fixed-latency results for consecutive slots. -/
def Fibre.flyRegs (f : Fibre) (land slot : Nat) : List Reg → Fibre
  | [] => f
  | r :: rs => (f.fly land (.slot slot) (.reg r)).flyRegs land (slot + 1) rs

/-- Variable-latency results with their values for consecutive slots. -/
def Fibre.pendRegs (f : Fibre) (slot : Nat) : List Reg → Fibre
  | [] => f
  | r :: rs => (f.pend (.slot slot) (some (.reg r))).pendRegs (slot + 1) rs

/-- Variable-latency results without values yet. -/
def Fibre.pendEmpty (f : Fibre) (slot count : Nat) : Fibre :=
  match count with
  | 0 => f
  | n + 1 => (f.pend (.slot slot) none).pendEmpty (slot + 1) n

/-- Give pending consecutive slots their values. -/
def Fibre.fillRegs (f : Fibre) (slot : Nat) : List Reg → Fibre
  | [] => f
  | r :: rs => (f.fill (.slot slot) (.reg r)).fillRegs (slot + 1) rs

/-- An effect that only changes the issuing fibre. -/
def fx (g : Ctx → Nat → Fibre → Fibre) : Ctx → State → Fx := fun x s => .done (s.modCur (g x s.clk))

/-- An effect that writes window registers after a fixed latency (R54). -/
def fxFixed (lat : Nat) (d : VReg) (v : Fibre → List Reg) : Ctx → State → Fx :=
  fx fun x clk f => f.flyRegs (clk + lat) (x.f.slotOf d.toNat) (v x.f)

/-- An effect that writes window registers after a fixed latency and raises flags of `$fstat`. -/
def fxFlags (lat : Nat) (d : VReg) (v : Fibre → List Reg × Word) : Ctx → State → Fx :=
  fx fun x clk f => (f.flyRegs (clk + lat) (x.f.slotOf d.toNat) (v x.f).1).raise (v x.f).2

/-- An effect that writes window registers with variable latency. DESIGN CHOICE: log 60. -/
def fxVar (d : VReg) (v : Fibre → List Reg) : Ctx → State → Fx :=
  fx fun x _ f => f.pendRegs (x.f.slotOf d.toNat) (v x.f)

/-- An effect that writes window registers with variable latency and raises flags. -/
def fxVarFlags (d : VReg) (v : Fibre → List Reg × Word) : Ctx → State → Fx :=
  fx fun x _ f => (f.pendRegs (x.f.slotOf d.toNat) (v x.f).1).raise (v x.f).2

/-- An effect that writes a predicate after a fixed latency; 15 discards it (R48). -/
def fxPred (lat : Nat) (p : PReg) (v : Fibre → Bool) : Ctx → State → Fx :=
  fx fun x clk f => if p == 15 then f else f.fly (clk + lat) (.pred p) (.bit (v x.f))

/-- The latency of the integer class (R54). -/
def latInt : Nat := 4
/-- The latency of the floating and packed class (R54). -/
def latFloat : Nat := 6
/-- The latency of the dot class (R54). -/
def latDot : Nat := 8

/-! ### Forms of instructions -/

/-- An instruction with no operands. -/
def op0 (c : Ctl) : Op :=
  { ctl := c, reads := [], last := [], regs := [], preds := [], caps := [], ends := 0, takes := [], front := false }

/-- The classes of faults that the engines deliver at `FENCE`, `BARWAIT`, `MWAIT`, `SLEEPU`, `FEND` and `EXIT`
(R294, R333, R352, R381, R441). -/
def engineFaults : List FaultClass := [.transfer, .matrix, .wire, .frontEnd, .plant]

/-- One source and a destination group. -/
def op1 (c : Ctl) (a : Src) (aw check : Bool) (regs : List Nat) : Op :=
  { op0 c with reads := a.reads 1 aw check, last := a.lastRegs aw, regs := regs }

/-- Two sources and a destination group. -/
def op2 (c : Ctl) (a : Src) (aw : Bool) (b : Src) (bw : Bool) (check : Bool) (regs : List Nat) : Op :=
  { op0 c with
    reads := a.reads 1 aw check ++ b.reads 2 bw check
    last := a.lastRegs aw ++ b.lastRegs bw, regs := regs }

/-- Three sources and a destination group. -/
def op3 (c : Ctl) (a : Src) (aw : Bool) (b : Src) (bw : Bool) (e : Src) (ew : Bool) (regs : List Nat) : Op :=
  { op0 c with
    reads := a.reads 1 aw true ++ b.reads 2 bw true ++ e.reads 3 ew true
    last := a.lastRegs aw ++ b.lastRegs bw ++ e.lastRegs ew, regs := regs }

/-- A memory operand with further reads through SC. -/
def opM (c : Ctl) (m : MemOp) (sc : List Rd) (scLast : List Nat) (regs : List Nat) (ends : Nat) : Op :=
  { op0 c with reads := m.reads ++ sc, last := m.lastRegs ++ scLast, regs := regs, ends := ends }

end Sys2Proof.Machine
end

