-- ==== Sys2Proof/Machine/Flags.lean ====
section
/-! DEFINITION. Narrowing and saturation of integers (spec 06 R110), the comparison conditions (04 R53), the bits of
`$fstat` (05 R68) and the fields of `$rmode` (07 R139). -/

namespace Sys2Proof.Machine

/-! ### `$fstat` (R68) -/

/-- Inexact. -/
def flagNX : Word := 1
/-- Underflow. -/
def flagUF : Word := 2
/-- Overflow. -/
def flagOF : Word := 4
/-- Division by zero. -/
def flagDZ : Word := 8
/-- Invalid operation. -/
def flagNV : Word := 16
/-- Saturation. -/
def flagSAT : Word := 32
/-- Released read. -/
def flagRRD : Word := 64

end Sys2Proof.Machine

namespace Sys2Proof
open Machine

/-! ### Integer results (R110) -/

/-- The least value of a type. -/
def ITy.minVal : ITy → Int
  | .i8 => -128 | .i16 => -32768 | .i32 => -2147483648 | .i64 => -9223372036854775808
  | _ => 0

/-- The greatest value of a type. -/
def ITy.maxVal : ITy → Int
  | .i8 => 127 | .i16 => 32767 | .i32 => 2147483647 | .i64 => 9223372036854775807
  | .n8 => 255 | .n16 => 65535 | .n32 => 4294967295 | .n64 => 18446744073709551615

/-- `sat(x, lo, hi)` (R63). -/
def clampInt (lo hi x : Int) : Int := if x < lo then lo else if hi < x then hi else x

/-- The low 64 bits of an exact integer. -/
def bits64 (x : Int) : DWord := BitVec.ofInt 64 x
/-- The low 32 bits of an exact integer. -/
def bits32 (x : Int) : Word := BitVec.ofInt 32 x

/-- The result of an integer instruction: the exact value narrowed or saturated, as words, and the flags raised. -/
def ITy.result (t : ITy) (sat : Bool) (x : Int) : List Reg × Word :=
  let y := if sat then clampInt t.minVal t.maxVal x else x
  (regsAt t.wide (bits64 y), if sat && y != x then flagSAT else 0)

/-! ### Conditions (R53) -/

/-- A condition on the order of two values; none is unordered. -/
def Cond.holds (c : Cond) (o : Option Ordering) : Bool :=
  match c, o with
  | .eq, some .eq => true
  | .ne, some .eq => false
  | .ne, _ => true
  | .lt, some .lt => true
  | .le, some .lt => true
  | .le, some .eq => true
  | .gt, some .gt => true
  | .ge, some .gt => true
  | .ge, some .eq => true
  | .ord, some _ => true
  | .uno, none => true
  | _, _ => false

end Sys2Proof

namespace Sys2Proof.Machine

/-! ### `$rmode` (R139) -/

/-- The rounding mode of a code, RNE for a reserved one. -/
def rmOfNat : Nat → RM
  | 1 => .rtz | 2 => .rdn | 3 => .rup | 4 => .rna | _ => .rne

end Sys2Proof.Machine
end

