-- ==== Sys2Proof/Machine/FloatFmt.lean ====
section
/-! DEFINITION. The number formats and the one rounding function (spec 07 R133 to R142, R459): every floating
result is an exact dyadic value, or an exact integer part with a mark that something lies below it, brought back to
a format by `roundMag`. -/

namespace Sys2Proof
open Machine

/-! ### Formats (R133) -/

/-- The precision of a format, the hidden bit included. -/
def FTy.prec : FTy → Nat
  | .f32 => 24 | .f16 => 11 | .bf16 => 8
/-- The bits of the exponent field. -/
def FTy.expBits : FTy → Nat
  | .f32 => 8 | .f16 => 5 | .bf16 => 8
/-- The exponent of the smallest normal number. -/
def FTy.emin : FTy → Int
  | .f32 => -126 | .f16 => -14 | .bf16 => -126
/-- The exponent of the largest finite number. -/
def FTy.emax : FTy → Int
  | .f32 => 127 | .f16 => 15 | .bf16 => 127
/-- The width of a format. -/
def FTy.bits (t : FTy) : Nat := t.prec + t.expBits
/-- The canonical NaN (R141). -/
def FTy.nan (t : FTy) : Nat := (2 ^ t.expBits - 1) * 2 ^ (t.prec - 1) + 2 ^ (t.prec - 2)
/-- The sign bit's weight. -/
def FTy.signBit (t : FTy) : Nat := 2 ^ (t.bits - 1)
/-- Infinity of a sign. -/
def FTy.inf (t : FTy) (neg : Bool) : Nat := (2 ^ t.expBits - 1) * 2 ^ (t.prec - 1) + (if neg then t.signBit else 0)
/-- The largest finite number of a sign. -/
def FTy.big (t : FTy) (neg : Bool) : Nat := (2 ^ t.expBits - 1) * 2 ^ (t.prec - 1) - 1 + (if neg then t.signBit else 0)
/-- Zero of a sign. -/
def FTy.zero (t : FTy) (neg : Bool) : Nat := if neg then t.signBit else 0

end Sys2Proof

namespace Sys2Proof.Machine

/-- A value of a floating format: a finite one is `(-1)^neg * m * 2^e`. -/
inductive FVal where
  | nan (signalling : Bool)
  | inf (neg : Bool)
  | fin (neg : Bool) (m : Nat) (e : Int)
  deriving DecidableEq, Repr

/-- Read the bits of a format; `daz` reads a subnormal as zero of its sign (R140). -/
def fread (t : FTy) (daz : Bool) (x : Nat) : FVal :=
  let x := x % 2 ^ t.bits
  let neg := decide (t.signBit ≤ x)
  let ex := x / 2 ^ (t.prec - 1) % 2 ^ t.expBits
  let fr := x % 2 ^ (t.prec - 1)
  if ex = 2 ^ t.expBits - 1 then (if fr = 0 then .inf neg else .nan (decide (fr < 2 ^ (t.prec - 2))))
  else if ex = 0 then .fin neg (if daz then 0 else fr) (t.emin - (t.prec - 1))
  else .fin neg (fr + 2 ^ (t.prec - 1)) (ex - 1 + t.emin - (t.prec - 1))

/-- Whether a value is a NaN. -/
def FVal.isNan : FVal → Bool
  | .nan _ => true
  | _ => false
/-- Whether a value is a signalling NaN. -/
def FVal.isSnan : FVal → Bool
  | .nan s => s
  | _ => false
/-- Whether a value is an infinity. -/
def FVal.isInf : FVal → Bool
  | .inf _ => true
  | _ => false
/-- Whether a value is a zero. -/
def FVal.isZero : FVal → Bool
  | .fin _ m _ => m == 0
  | _ => false
/-- The sign. -/
def FVal.neg : FVal → Bool
  | .nan _ => false
  | .inf n => n
  | .fin n _ _ => n

/-- How an effective rounding mode and the two subnormal settings stand at issue (R138 to R140). -/
structure Round where
  rm : RM
  ftz : Bool
  daz : Bool
  deriving DecidableEq, Repr

/-- The settings of a `$rmode` value with an override (R138, R139). -/
def roundOf (rmode : Word) (r : Option RM) : Round :=
  { rm := r.getD (rmOfNat (rmode.extractLsb' 0 3).toNat), ftz := rmode.getLsbD 3, daz := rmode.getLsbD 4 }

/-- The settings of a fibre with an override (R139). -/
def Fibre.rounding (f : Fibre) (r : Option RM) : Round := roundOf f.rmode r

/-- The number of bits of a magnitude. -/
def bitLen (n : Nat) : Nat := if n = 0 then 0 else Nat.log2 n + 1

/-- Whether a magnitude with a remainder is rounded up: `half` compares the remainder with half a unit. -/
def roundsUp (rm : RM) (neg odd exact : Bool) (half : Ordering) : Bool :=
  match rm with
  | .rne => half == .gt || (half == .eq && odd)
  | .rna => half != .lt
  | .rtz => false
  | .rdn => neg && !exact
  | .rup => !neg && !exact

/-- A magnitude `(m + δ) * 2^e`, with 0 < δ < 1 exactly when `sticky`, as a multiple of `2^q` under a rounding mode:
the multiple, and whether it is exact. -/
def roundAt (rm : RM) (neg : Bool) (m : Nat) (e : Int) (sticky : Bool) (q : Int) : Nat × Bool :=
  if q ≤ e then
    -- nothing lies below but δ, which is under half a unit only when the unit is coarser; callers keep q above e then
    (m * 2 ^ (e - q).toNat + (if sticky && roundsUp rm neg (m % 2 == 1) false .lt then 1 else 0), !sticky)
  else
    let k := (q - e).toNat
    let lo := m % 2 ^ k
    let hi := m / 2 ^ k
    let exact := lo == 0 && !sticky
    let half := if 2 * lo == 2 ^ k then (if sticky then .gt else .eq) else compare (2 * lo) (2 ^ k)
    (hi + (if roundsUp rm neg (hi % 2 == 1) exact half then 1 else 0), exact)

/-- `round(x, fmt, rm)` of a nonzero magnitude with its flags (R63, R140, R142). -/
def roundMag (t : FTy) (r : Round) (neg : Bool) (m : Nat) (e : Int) (sticky : Bool) : Nat × Word :=
  let sgn := if neg then t.signBit else 0
  let top : Int := (bitLen m : Int) - 1 + e
  let q0 := t.emin - (t.prec - 1)
  let q := max (top - (t.prec - 1)) q0
  let (sig, exact) := roundAt r.rm neg m e sticky q
  -- rounded with unbounded exponent, for the tiny test
  let (sigU, _) := roundAt r.rm neg m e sticky (top - (t.prec - 1))
  let tiny := decide (top < t.emin) && !(decide (top = t.emin - 1) && decide (2 ^ t.prec ≤ sigU))
  let enc := if sig < 2 ^ (t.prec - 1) then sig else ((q - q0).toNat + 1) * 2 ^ (t.prec - 1) + (sig - 2 ^ (t.prec - 1))
  if (2 ^ t.expBits - 1) * 2 ^ (t.prec - 1) ≤ enc then
    let toInf := match r.rm with
      | .rne => true | .rna => true | .rtz => false | .rdn => neg | .rup => !neg
    (if toInf then t.inf neg else t.big neg, flagOF ||| flagNX)
  else if r.ftz && decide (sig < 2 ^ (t.prec - 1)) && decide (0 < sig) then (sgn, flagUF ||| flagNX)
  else (sgn + enc, (if exact then 0 else flagNX) ||| (if tiny && !exact then flagUF else 0))

/-- A sum of signed dyadic terms: the exact sum as an integer and an exponent. -/
def sumDy (ts : List (Bool × Nat × Int)) : Int × Int :=
  match ts with
  | [] => (0, 0)
  | t :: rest =>
    let emin := rest.foldl (fun (a : Int) x => min a x.2.2) t.2.2
    ((t :: rest).foldl (fun (a : Int) x =>
      let v : Int := (x.2.1 * 2 ^ (x.2.2 - emin).toNat : Nat)
      if x.1 then a - v else a + v) 0, emin)

/-! ### Exact results (R142, R143) -/

/-- The exact result of an operation, before it is brought to a format: a NaN or an infinity with the flags that the
operation raises, a zero of a sign, a magnitude `(m + δ) * 2^e` with 0 < δ < 1 exactly when `sticky`, or a value that
lies within `err` of `v * 2^e` with the bits and flags that a rounding gives it (R150). -/
inductive Exact where
  | nan (flags : Word)
  | inf (neg : Bool) (flags : Word)
  | zero (neg : Bool)
  | mag (neg : Bool) (m : Nat) (e : Int) (sticky : Bool)
  | near (neg : Bool) (v : Nat) (e : Int) (out : Nat × Word)
  deriving DecidableEq, Repr

/-- The bits and flags that a unit delivers for an exact result (R140 to R142). -/
def deliver (t : FTy) (r : Round) : Exact → Nat × Word
  | .nan fl => (t.nan, fl)
  | .inf n fl => (t.inf n, fl)
  | .zero n => (t.zero n, 0)
  | .mag n m e st => roundMag t r n m e st
  | .near _ _ _ out => out

/-- An exact sum of terms, a zero sum taking its sign by R459. -/
def sumExact (rm : RM) (ts : List (Bool × Nat × Int)) : Exact :=
  let (v, e) := sumDy ts
  if v = 0 then .zero (ts.all (fun x => x.1 && x.2.1 == 0) || (rm == .rdn))
  else .mag (decide (v < 0)) v.natAbs e false

/-- Round an exact sum of terms. -/
def roundSum (t : FTy) (r : Round) (ts : List (Bool × Nat × Int)) : Nat × Word := deliver t r (sumExact r.rm ts)

/-- The flag of signalling operands (R142). -/
def snanFlag (vs : List FVal) : Word := if vs.any FVal.isSnan then flagNV else 0

/-- A magnitude that may be zero. -/
def magExact (neg : Bool) (m : Nat) (e : Int) : Exact := if m = 0 then .zero neg else .mag neg m e false

/-- The sum of two values (R146). -/
def addExact (rm : RM) (a b : FVal) : Exact :=
  match a, b with
  | .nan _, _ => .nan (snanFlag [a, b])
  | _, .nan _ => .nan (snanFlag [a, b])
  | .inf x, .inf y => if x == y then .inf x 0 else .nan flagNV
  | .inf x, _ => .inf x 0
  | _, .inf y => .inf y 0
  | .fin x m e, .fin y n k => sumExact rm [(x, m, e), (y, n, k)]

/-- FADD of two values (R146). -/
def fadd (t : FTy) (r : Round) (a b : FVal) : Nat × Word := deliver t r (addExact r.rm a b)

/-- The negation of a value. -/
def FVal.negate : FVal → FVal
  | .nan s => .nan s
  | .inf n => .inf !n
  | .fin n m e => .fin (!n) m e

/-- The product of two values (R146). -/
def mulExact (a b : FVal) : Exact :=
  match a, b with
  | .nan _, _ => .nan (snanFlag [a, b])
  | _, .nan _ => .nan (snanFlag [a, b])
  | .inf x, .inf y => .inf (x != y) 0
  | .inf x, .fin y n _ => if n = 0 then .nan flagNV else .inf (x != y) 0
  | .fin x m _, .inf y => if m = 0 then .nan flagNV else .inf (x != y) 0
  | .fin x m e, .fin y n k => magExact (x != y) (m * n) (e + k)

/-- FMUL of two values (R146). -/
def fmul (t : FTy) (r : Round) (a b : FVal) : Nat × Word := deliver t r (mulExact a b)

/-- The fused product and sum of three values (R146): a product 0 × ∞ sets NV whatever the addend (R142). -/
def fmaExact (rm : RM) (a b c : FVal) : Exact :=
  let bad := (a.isZero && b.isInf) || (a.isInf && b.isZero)
  let nv := snanFlag [a, b, c] ||| (if bad then flagNV else 0)
  match a, b, c with
  | .nan _, _, _ => .nan nv
  | _, .nan _, _ => .nan nv
  | .fin x m e, .fin y n k, c =>
    (match c with
      | .nan _ => .nan nv
      | .inf z => .inf z 0
      | .fin z p l => sumExact rm [(x != y, m * n, e + k), (z, p, l)])
  | a, b, c =>
    if bad then .nan nv
    else match c with
      | .nan _ => .nan nv
      | .inf z => if z == (a.neg != b.neg) then .inf z 0 else .nan flagNV
      | .fin _ _ _ => .inf (a.neg != b.neg) 0

/-- FFMA of three values (R146). -/
def ffma (t : FTy) (r : Round) (a b c : FVal) : Nat × Word := deliver t r (fmaExact r.rm a b c)

/-- The quotient of two magnitudes with a sticky mark: `p` bits at least. -/
def quotMag (neg : Bool) (m : Nat) (e : Int) (n : Nat) (k : Int) (p : Nat) : Exact :=
  let sh := p + 2 + bitLen n
  .mag neg (m * 2 ^ sh / n) (e - k - sh) (m * 2 ^ sh % n != 0)

/-- The quotient of two values (R146, R150). -/
def divExact (p : Nat) (a b : FVal) : Exact :=
  match a, b with
  | .nan _, _ => .nan (snanFlag [a, b])
  | _, .nan _ => .nan (snanFlag [a, b])
  | .inf _, .inf _ => .nan flagNV
  | .inf x, .fin y _ _ => .inf (x != y) 0
  | .fin x _ _, .inf y => .zero (x != y)
  | .fin x m e, .fin y n k =>
    if n = 0 then (if m = 0 then .nan flagNV else .inf (x != y) flagDZ)
    else if m = 0 then .zero (x != y)
    else quotMag (x != y) m e n k p

/-- FDIV of two values (R146, R150). -/
def fdiv (t : FTy) (r : Round) (a b : FVal) : Nat × Word := deliver t r (divExact t.prec a b)

/-- The square root of a magnitude: it is widened to at least `2 * p` bits and an even exponent. -/
def sqrtMag (m : Nat) (e : Int) (p : Nat) : Exact :=
  let sh := 2 * (p + 2)
  let sh := if (e - sh) % 2 = 0 then sh else sh + 1
  let w := m * 2 ^ sh
  let q := Nat.sqrt w
  .mag false q ((e - sh) / 2) (q * q != w)

/-- The flag of one operand that is a NaN (R142). -/
def nanOf (signalling : Bool) : Exact := .nan (if signalling then flagNV else 0)

/-- The square root of a value (R146). -/
def sqrtExact (p : Nat) (a : FVal) : Exact :=
  match a with
  | .nan s => nanOf s
  | .inf n => if n then .nan flagNV else .inf false 0
  | .fin n m e => if m = 0 then .zero n else if n then .nan flagNV else sqrtMag m e p

/-- FSQRT (R146). -/
def fsqrt (t : FTy) (r : Round) (a : FVal) : Nat × Word := deliver t r (sqrtExact t.prec a)

/-- The reciprocal of a value (R150). -/
def rcpExact (p : Nat) (a : FVal) : Exact :=
  match a with
  | .nan s => nanOf s
  | .inf n => .zero n
  | .fin n m e => if m = 0 then .inf n flagDZ else quotMag n 1 0 m e p

/-- FRCP (R150). -/
def frcp (t : FTy) (r : Round) (a : FVal) : Nat × Word := deliver t r (rcpExact t.prec a)

/-- The reciprocal square root of a value (R150): `1 / √(m * 2^e)` is `√(2^(2k) / m)` scaled, with the exponent made
even. -/
def rsqExact (p : Nat) (a : FVal) : Exact :=
  match a with
  | .nan s => nanOf s
  | .inf n => if n then .nan flagNV else .zero false
  | .fin n m e =>
    if m = 0 then .inf n flagDZ
    else if n then .nan flagNV
    else
      let (m, e) := if e % 2 = 0 then (m, e) else (2 * m, e - 1)
      let k := 2 * p + bitLen m
      let q := Nat.sqrt (2 ^ (2 * k) / m)
      .mag false q (-(e / 2) - k) (q * q * m != 2 ^ (2 * k))

/-- FRSQ (R150). -/
def frsq (t : FTy) (r : Round) (a : FVal) : Nat × Word := deliver t r (rsqExact t.prec a)

/-- A value times a power of two (R146): beyond the bounds of the clamp every further factor overflows or underflows
alike. -/
def scaleExact (a : FVal) (b : Int) : Exact :=
  match a with
  | .nan s => nanOf s
  | .inf n => .inf n 0
  | .fin n m e => magExact n m (e + clampInt (-2000) 2000 b)

/-- FSCALE (R146). -/
def fscale (t : FTy) (r : Round) (a : FVal) (b : Int) : Nat × Word := deliver t r (scaleExact a b)

/-- The order of two values, none when one is a NaN; zeros are equal (R148). -/
def fcompare (a b : FVal) : Option Ordering :=
  match a, b with
  | .nan _, _ => none
  | _, .nan _ => none
  | .inf x, .inf y => some (if x == y then .eq else if x then .lt else .gt)
  | .inf x, _ => some (if x then .lt else .gt)
  | _, .inf y => some (if y then .gt else .lt)
  | .fin x m e, .fin y n k =>
    let d := (sumDy [(x, m, e), (!y, n, k)]).1
    some (compare d 0)

/-- The bits of a value as read (R147). -/
def fbits (t : FTy) (daz : Bool) (x : Nat) : Nat :=
  match fread t daz x with
  | .nan _ => t.nan
  | .inf n => t.inf n
  | .fin n m _ => if m = 0 then t.zero n else x % 2 ^ t.bits

/-- FMIN and FMAX on bits (R147): −0 orders below +0, a NaN yields to a number. -/
def fminmax (t : FTy) (daz max : Bool) (x y : Nat) : Nat × Word :=
  let a := fread t daz x
  let b := fread t daz y
  let nv := snanFlag [a, b]
  if a.isNan then (if b.isNan then t.nan else fbits t daz y, nv)
  else if b.isNan then (fbits t daz x, nv)
  else
    let less := match fcompare a b with
      | some .lt => true
      | some .eq => a.neg && !b.neg
      | _ => false
    (if less != max then fbits t daz x else fbits t daz y, nv)

/-- The mask of FCLASS (R149). -/
def fclass (t : FTy) (x : Nat) : Nat :=
  match fread t false x with
  | .nan true => 256
  | .nan false => 512
  | .inf true => 1
  | .inf false => 128
  | .fin n m _ =>
    if m = 0 then (if n then 8 else 16)
    else if m < 2 ^ (t.prec - 1) then (if n then 4 else 32)
    else (if n then 2 else 64)

/-- Round a value to an integer under a mode: the signed integer, and whether it is exact. -/
def roundInt (rm : RM) (neg : Bool) (m : Nat) (e : Int) : Int × Bool :=
  let (q, exact) := roundAt rm neg m e false (max 0 e)
  let q := if 0 ≤ e then m * 2 ^ e.toNat else q
  (if neg then -(q : Int) else q, if 0 ≤ e then true else exact)

/-- FRND (R151). -/
def frnd (t : FTy) (r : Round) (x : Nat) : Nat × Word :=
  match fread t r.daz x with
  | .nan s => (t.nan, if s then flagNV else 0)
  | .inf n => (t.inf n, 0)
  | .fin n m e =>
    let (v, exact) := roundInt r.rm n m e
    if exact then (fbits t r.daz x, 0)
    else if v = 0 then (t.zero n, 0)
    else ((roundMag t { r with ftz := false } n v.natAbs 0 false).1, 0)

/-- CVTFI (R153): the integer and the flags. -/
def cvtfi (t : ITy) (r : Round) (a : FVal) : Int × Word :=
  match a with
  | .nan _ => (0, flagNV)
  | .inf n => (if n then t.minVal else t.maxVal, flagNV)
  | .fin n m e =>
    let (v, exact) := roundInt r.rm n m (clampInt (-2000) 2000 e)
    if v < t.minVal || t.maxVal < v then (clampInt t.minVal t.maxVal v, flagNV)
    else (v, if exact then 0 else flagNX)

/-- An integer (R154). -/
def intExact (v : Int) : Exact := magExact (decide (v < 0)) v.natAbs 0

/-- CVTIF (R154). -/
def cvtif (t : FTy) (r : Round) (v : Int) : Nat × Word := deliver t r (intExact v)

/-- A value as it is (R155). -/
def valExact (a : FVal) : Exact :=
  match a with
  | .nan s => nanOf s
  | .inf n => .inf n 0
  | .fin n m e => magExact n m e

/-- CVTFF (R155). -/
def cvtff (t : FTy) (r : Round) (a : FVal) : Nat × Word := deliver t r (valExact a)

/-! ### The shadow check (R143, R144) -/

/-- The class of a number's bits with its sign (R143): quiet and signalling NaNs are one class. -/
def shadowClass (t : FTy) (x : Nat) : Nat := let c := fclass t x; if c = 512 then 256 else c

/-- A magnitude rounded to 8 significant bits by RNE with an unbounded exponent: the multiple, of 8 bits, and the exponent of
its 8th significant bit. -/
def eightBits (m : Nat) (e : Int) (sticky : Bool) : Nat × Int :=
  let q := (bitLen m : Int) - 8 + e
  let n := if q < e then m * 2 ^ (e - q).toNat else (roundAt .rne false m e sticky q).1
  if n = 256 then (128, q + 1) else (n, q)

/-- Whether two magnitudes lie within two units of `2^q` (R143). -/
def withinTwo (m : Nat) (e : Int) (h : Nat) (q : Int) : Bool :=
  let k := min e q
  let d : Int := ((m * 2 ^ (e - k).toNat : Nat) : Int) - ((h * 2 ^ (q - k).toNat : Nat) : Int)
  decide (d.natAbs ≤ 2 * 2 ^ (q - k).toNat)

/-- Whether delivered bits have a class that a shadow value of magnitude `h * 2^q` has, or the class on the other side of a
threshold that lies within two units of it (R143): the classes at the two ends of that range, and just outside them. -/
def classPasses (t : FTy) (r : Round) (neg : Bool) (h : Nat) (q : Int) (m : Nat) : Bool :=
  let cls (n : Nat) (e : Int) (more : Bool) : Nat := shadowClass t (roundMag t r neg n e more).1
  [cls ((h - 2) * 2 ^ 64 - 1) (q - 64) true, cls (h - 2) q false, cls h q false, cls (h + 2) q false, cls (h + 2) q true].contains
    (shadowClass t m)

/-- Whether delivered bits pass against a shadow value of magnitude `h * 2^q`: by their class, and by a magnitude within two
units. -/
def passesMag (t : FTy) (r : Round) (neg : Bool) (h : Nat) (q : Int) (m : Nat) : Bool :=
  classPasses t r neg h q m &&
    (match fread t false m with
      | .fin _ k e => if k = 0 then true else
        let g := eightBits k e false
        withinTwo g.1 g.2 h q
      | _ => true)

/-- Whether the shadow passes delivered bits `m` for an exact result (R143). DESIGN CHOICE: log 64. -/
def shadowPasses (t : FTy) (r : Round) (x : Exact) (m : Nat) : Bool :=
  match x with
  | .mag n v e st => let h := eightBits v e st; passesMag t r n h.1 h.2 m
  | .near n v e _ => let h := eightBits v e true; passesMag t r n h.1 h.2 m
  | x => shadowClass t m == shadowClass t (deliver t r x).1

/-- A result on its way to a register: its format, its settings and its exact value. -/
structure FRes where
  t : FTy
  r : Round
  x : Exact
  deriving DecidableEq, Repr

/-- What a unit delivers for a result. -/
def FRes.out (f : FRes) : Nat × Word := deliver f.t f.r f.x

/-- Whether the shadow fails delivered bits: a result that follows the rules never fails (R144). DESIGN CHOICE: log 64. -/
def FRes.fails (f : FRes) (m : Nat) : Bool := m != f.out.1 && !shadowPasses f.t f.r f.x m

/-! ### L6 (R135 to R137) -/

/-- T of R137. -/
def l6T : Nat → Nat
  | 0 => 4096 | 1 => 4871 | 2 => 5793 | _ => 6889

/-- An L6 element: none is NaN; `some none` is zero; otherwise the sign and q (R135). -/
def l6read (c : BitVec 6) : Option (Option (Bool × Int)) :=
  let q := (c.extractLsb' 0 5).toInt
  if q = -16 then (if c.getLsbD 5 then none else some none) else some (some (c.getLsbD 5, q))

/-- The exact value `(-1)^neg * T[f] * 2^(k-12)` of a log in quarters (R137). -/
def l6mag (neg : Bool) (l : Int) : Bool × Nat × Int := (neg, l6T (l % 4).toNat, l / 4 - 12)

/-- The product of two elements under their scales (R137): none is NaN; a zero is the term +0 (R459). -/
def l6prod (a : BitVec 6) (sa : Byte) (b : BitVec 6) (sb : Byte) : Option (Bool × Nat × Int) :=
  match l6read a, l6read b with
  | none, _ => none
  | _, none => none
  | some none, _ => some (false, 0, 0)
  | _, some none => some (false, 0, 0)
  | some (some (x, q)), some (some (y, p)) => some (l6mag (x != y) (q + p + sa.toInt + sb.toInt))

/-- CVTL6's code and flags (R156): comparisons of powers, exact on integers. An infinity sets NX with SAT, since no integer is
its logarithm. DEDUCED: log 94. -/
def cvtl6 (r : Round) (a : FVal) (sc : Byte) : BitVec 6 × Word :=
  match a with
  | .nan s => (0x30, if s then flagNV else 0)
  | .inf n => ((if n then 0x20 else 0) ||| 0x0F, flagSAT ||| flagNX)
  | .fin n m e =>
    if m = 0 then (0x10, 0)
    else
      let sv := sc.toInt
      -- ⌊4 log2|a|⌋ and ⌊8 log2|a|⌋
      let l4 : Int := (Nat.log2 (m ^ 4) : Int) + 4 * e
      let l8 : Int := (Nat.log2 (m ^ 8) : Int) + 8 * e
      let exact := m == 2 ^ Nat.log2 m
      let lo := l4 - sv
      let near := (l8 - 2 * sv + 1) / 2
      let up := if exact then lo else lo + 1
      let q := match r.rm with
        | .rne => near | .rna => near | .rtz => lo
        | .rup => if n then lo else up
        | .rdn => if n then up else lo
      let nx : Word := if exact then 0 else flagNX
      let sgn : BitVec 6 := if n then 0x20 else 0
      if 15 < q then (sgn ||| 0x0F, nx ||| flagSAT)
      else if q < -15 then (0x10, flagUF ||| flagNX)
      else (sgn ||| (BitVec.ofInt 5 q).setWidth 6, nx)

/-- CVT6F's FP32 bits (R157). -/
def cvt6f (c : BitVec 6) (sc : Byte) : Nat :=
  match l6read c with
  | none => FTy.f32.nan
  | some none => 0
  | some (some (n, q)) =>
    let (s, m, e) := l6mag n (q + sc.toInt)
    (roundMag .f32 { rm := .rne, ftz := false, daz := false } s m e false).1

end Sys2Proof.Machine
end

