-- ==== Sys2Proof/Machine/Control.lean ====
section
/-! DEFINITION. The control and fibre instructions but for the window moves: branches, calls, traps, fibre life,
predicates and special registers (spec 06 R86 to R106). -/

namespace Sys2Proof.Machine

/-! ### Capabilities as fields (R181, R182) -/

/-- The fields of a capability. -/
def CapReg.base (c : CapReg) : Nat := (c.bits.extractLsb' 0 64).toNat
/-- The length exponent. -/
def CapReg.exp (c : CapReg) : Nat := (c.bits.extractLsb' 64 6).toNat
/-- The length mantissa. -/
def CapReg.mant (c : CapReg) : Nat := (c.bits.extractLsb' 70 14).toNat
/-- The permissions under the mask order of R119. -/
def CapReg.perms (c : CapReg) : Byte := c.bits.extractLsb' 84 8
/-- The space. -/
def CapReg.space (c : CapReg) : Nat := (c.bits.extractLsb' 92 4).toNat
/-- The generation. -/
def CapReg.gen (c : CapReg) : Word := c.bits.extractLsb' 96 32
/-- The length in bytes (R182). -/
def CapReg.length (c : CapReg) : Nat := c.mant * 2 ^ c.exp

/-- Build the 128 bits of a capability. -/
def capBits (gen : Word) (space : Nat) (perms : Byte) (mant exp base : Nat) : BitVec 128 :=
  gen ++ BitVec.ofNat 4 space ++ perms ++ BitVec.ofNat 14 mant ++ BitVec.ofNat 6 exp ++ BitVec.ofNat 64 base

/-- The smallest exponent of R127 for a length: the least e with ⌈len / 2^e⌉ ≤ 16383. -/
def lenExp (len : Nat) : Nat := ((List.range 64).find? fun e => decide ((len + 2 ^ e - 1) / 2 ^ e ≤ 16383)).getD 63
/-- The mantissa of R127 for a length. -/
def lenMant (len : Nat) : Nat := (len + 2 ^ lenExp len - 1) / 2 ^ lenExp len

/-- A tagged capability of a space (R37). DESIGN CHOICE: log 82. -/
def mkCap (gen : Word) (space : Nat) (perms : Byte) (len base : Nat) : CapReg :=
  { bits := capBits gen space perms (lenMant len) (lenExp len) base, tag := true, bad := false }

/-- An empty capability register (R37). -/
def CapReg.empty : CapReg := { bits := 0, tag := false, bad := false }

/-- The permission masks of R119. -/
def permR : Byte := 1
/-- Write. -/
def permW : Byte := 2
/-- Atomics. -/
def permA : Byte := 4
/-- Load a capability. -/
def permL : Byte := 8
/-- Store a capability. -/
def permS : Byte := 16
/-- Derive. -/
def permD : Byte := 32
/-- Use by the transfer engine. -/
def permX : Byte := 64
/-- Leave the gang. -/
def permG : Byte := 128

/-! ### The start of a fibre (R37) -/

/-- A fibre that begins (R37): its identity, PC and stamp, and the three capabilities of its entry. -/
def Fibre.start (fid : Nat) (pc : BitVec 57) (stamp : Nat) (c0 c1 c2 : CapReg) : Fibre :=
  { fid := fid, live := true, pc := pc, preds := 0, base := 0, fstat := 0, rmode := 0, prog := 0
    caps := (((Vector.replicate 16 CapReg.empty).set 0 c0).set 1 c1).set 2 c2
    stack := [], calls := [], handler := false, floor := 0, marks := none
    stroke := { insns := 0, granules := [], stores := [], pass := false }
    stamp := stamp, came := stamp, flights := [], pending := [], ready := stamp + 1, wait := none, served := false, again := false
    waiting := 0, outst := [], faults := [], staged := [], half := none, strike := 0 }

/-- The units of a gang: the launch's units per gang, fewer in a last gang cut short by the grid (R364). -/
def State.unitsIn (s : State) (u : Unit) : Nat :=
  match s.launch? u.launch with
  | some l => min l.part.gang (l.part.grid - u.gang * l.part.gang)
  | none => 1

/-- The generation of a unit's gang (R186). -/
def State.gangGen (s : State) (u : Unit) : Word := ((s.gangs.find? fun g =>
  g.launch == u.launch && g.idx == u.gang && g.shadow == u.shadow).map Gang.gen).getD 0

/-- c0 at entry (R37). DESIGN CHOICE: log 81. -/
def Unit.cap0 (u : Unit) : CapReg := mkCap 0 3 (permR ||| permL ||| permD) u.desc.args 0
/-- c1 at entry (R37). -/
def Unit.cap1 (u : Unit) : CapReg := mkCap u.gen 1 0x7F u.desc.reach 0
/-- c2 at entry (R37, R186). -/
def State.cap2 (s : State) (u : Unit) : CapReg := mkCap (s.gangGen u) 2 0x7F (s.unitsIn u * 2097152) 0

/-- A fibre of a unit as it begins in this cycle (R37, R66). -/
def State.newFibre (s : State) (u : Unit) (fid : Nat) (pc : BitVec 57) : Fibre :=
  Fibre.start fid pc s.clk u.cap0 u.cap1 (s.cap2 u)

/-! ### Instruction words in memory (R40, R41, R89) -/

/-- The bytes of code at a virtual address. DESIGN CHOICE: log 83. -/
def State.codeBytes (s : State) (ctx va n : Nat) (need : BitVec 3) : Option (List Byte) :=
  (List.range n).mapM fun i => (s.vaKey ctx (va + i) need).map fun k => wordByte (s.mem.good (wordKey k)) (k % 4)

/-- The fixed NOP (R58). -/
def fixedNop : IWord := 0x0000780C0C0C000000000000

/-- A dictionary entry's word and pair bit (R41). DESIGN CHOICE: log 83. -/
def State.dictEntry (s : State) (ctx : Nat) (d : KDesc) (index : Nat) : Except TrapInfo (IWord × Bool) :=
  if index = 0 then .ok (fixedNop, false)
  else match s.codeBytes ctx (d.dictAddr + 12 * index) 12 rightX, s.codeBytes ctx (d.dictAddr + 12288 + index / 8) 1 rightX with
    | some w, some p => .ok (wordOfBytes w, (p.headD 0).getLsbD (index % 8))
    | none, _ => .error (pageFault 0 (d.dictAddr + 12 * index))
    | _, none => .error (pageFault 0 (d.dictAddr + 12288 + index / 8))

/-- The word of a full line's slot. -/
def FetchLine.slotWord (l : FetchLine) (slot : Nat) : IWord := wordOfBytes ((l.bytes.drop (12 * slot)).take 12)
/-- The code of a packed line's slot. -/
def FetchLine.slotCode (l : FetchLine) (slot : Nat) : BitVec 16 := BitVec.ofNat 16 (field l.bytes (2 * slot) 2)

/-- A packed code's word: the entry with LAST ORed into its L bits and its STALL replaced (R40). -/
def packWord (w : IWord) (code : BitVec 16) : IWord :=
  let last := code.extractLsb' 10 3
  let stall : BitVec 96 := (code.extractLsb' 13 3).setWidth 96
  let l (b : Bool) (n : Nat) : BitVec 96 := if b then 1#96 <<< n else 0
  ((w &&& ~~~(0xF#96 <<< 80)) ||| (stall <<< 80)) ||| l (last.getLsbD 0) 68 ||| l (last.getLsbD 1) 60 |||
    l (last.getLsbD 2) 52

/-- The word that a slot of a line executes, for reading an entry word at a call's target (R89). DEDUCED: log 86. -/
def State.wordAt (s : State) (ctx : Nat) (d : KDesc) (l : FetchLine) (slot : Nat) : Option IWord :=
  if l.packed then
    if d.dict then
      match s.dictEntry ctx d ((l.slotCode slot).extractLsb' 0 10).toNat with
      | .ok (w, _) => some w
      | .error _ => none
    else none
  else some (l.slotWord slot)

/-- The shift that an entry word declares (R89). -/
def entryShift (w : IWord) : Option Nat :=
  match decode w false with
  | .ok (.nop _ (some sh)) => some sh.toNat
  | _ => none

/-! ### Kernel descriptors (R99) -/

/-- Read a kernel descriptor's fields from its 64 bytes. -/
def parseDesc (addr : Nat) (b : List Byte) : KDesc :=
  let fl := field b 11 1
  { addr := addr, teamLog2 := field b 10 1, matrix := fl % 2 == 1, front := fl / 2 % 2 == 1, idemp := fl / 4 % 2 == 1
    det := fl / 8 % 2 == 1, dict := fl / 16 % 2 == 1, hasHandler := fl / 32 % 2 == 1
    fibres := field b 12 2, frame := field b 14 1, frameMax := field b 15 1, stack := field b 16 2, args := field b 18 2
    scratch := field b 20 4, shelf := field b 24 1, handlerBr := BitVec.ofNat 32 (field b 28 4)
    dictAddr := field b 32 8, tplAddr := field b 40 8, layAddr := field b 48 8
    funcId := BitVec.ofNat 64 (field b 56 8) }

/-- Whether the 64 bytes are a valid descriptor (R99). -/
def descValid (b : List Byte) : Bool :=
  let d := parseDesc 0 b
  field b 0 8 == 0x53444E52454B585A && field b 8 2 == 1 && decide (3 ≤ d.teamLog2) && decide (d.teamLog2 ≤ 7) &&
    decide (field b 11 1 < 64) && decide (8 ≤ d.fibres) && decide (d.fibres ≤ 2048) && d.fibres % d.team == 0 &&
    decide (8 ≤ d.frame) && decide (d.frame ≤ 64) && d.frame % 8 == 0 && decide (d.frameMax ≤ 63) &&
    decide (64 ≤ d.stack) && decide (d.stack ≤ 1024) && decide (d.args ≤ 4096) && d.args % 8 == 0 &&
    decide (d.scratch ≤ 2097152) && d.scratch % 4096 == 0 && decide (d.shelf ≤ 32) &&
    decide (16384 * d.shelf ≤ d.scratch) && field b 25 3 == 0 && (d.hasHandler || d.handlerBr == 0) &&
    (d.dict || d.dictAddr == 0)

/-- Read the descriptor at an address of a context: none where a byte cannot be read or it is not valid. -/
def State.readDesc (s : State) (ctx addr : Nat) : Option KDesc :=
  match s.codeBytes ctx addr 64 rightR with
  | some b => if descValid b then some (parseDesc addr b) else none
  | none => none

/-- The first slot of a kernel (R98). -/
def KDesc.entryPc (d : KDesc) : BitVec 57 := BitVec.ofNat 57 (d.addr + 64)

/-! ### Branches (R86 to R88) -/

/-- Transfer control to a checked target. -/
def goto (x : Ctx) (s : State) (t : BitVec 57) (marks : List (BitVec 57)) (g : Fibre → Fibre) : Fx :=
  match s.checkTarget (s.ctxOf x.u) t marks with
  | .error e => .trap e
  | .ok _ => .done (s.modCur fun f => { g f with pc := t })

/-- NOP (R95). -/
def execNop (stall : BitVec 4) (_entry : Option (BitVec 6)) (s : State) : Host.Outcome State Fault Refusal :=
  s.issue (op0 (unpredCtl stall)) fun _ s => .done s

/-- BRA (R86). -/
def execBra (c : Ctl) (t : BrField) (s : State) : Host.Outcome State Fault Refusal :=
  s.issue (op0 c) fun x s => goto x s (branchTarget x.f.pc t) [] id

/-- The reads of an even register pair through SA. -/
def opPairA (c : Ctl) (a : RSrc) : Op :=
  { op0 c with reads := groupReads 1 a.n.toNat 2 true, last := a.lastRegs 2 }

/-- BRX (R87). -/
def execBrx (c : Ctl) (a : RSrc) (s : State) : Host.Outcome State Fault Refusal :=
  s.issue (opPairA c a) fun x s =>
    let t := x.f.pairAt a.n.toNat
    if t.extractLsb' 57 7 != 0 then .trap (badTarget t.toNat) else goto x s (t.setWidth 57) [] id

/-- LOOPD (R88). -/
def execLoopd (c : Ctl) (d : VReg) (t : BrField) (s : State) : Host.Outcome State Fault Refusal :=
  s.issue { op0 c with reads := groupReads 1 d.toNat 1 true, regs := dstRegs d 1 } fun x s =>
    let n := (x.f.reg d.toNat).val - 1
    let put (f : Fibre) : Fibre := f.flyRegs (s.clk + latInt) (x.f.slotOf d.toNat) [fresh n]
    if n == 0 then .done (s.modCur put) else goto x s (branchTarget x.f.pc t) [] put

/-! ### Calls and returns (R89 to R92) -/

/-- The steps of a call from line 003 (R90). -/
def doCall (x : Ctx) (s : State) (t : BitVec 57) : Fx :=
  match s.checkTarget (s.ctxOf x.u) t [] with
  | .error e => .trap e
  | .ok l =>
    match (s.wordAt (s.ctxOf x.u) x.u.desc l (slotOfPc t)).bind entryShift with
    | none => .trap (badTarget t.toNat)
    | some sh =>
      if x.u.desc.frameMax < sh then .trap (trapOf 0x06 (BitVec.ofNat 32 sh))
      else if x.u.desc.stack < x.f.base + sh + 64 then .trap (trapOf 0x05 (BitVec.ofNat 32 (x.f.base + sh)))
      else .done (s.modCur fun f => { f with
        calls := { shift := BitVec.ofNat 6 sh, rpc := s.seqNext (s.ctxOf x.u) x.f.pc, entry := t } :: f.calls
        base := f.base + sh, pc := t })

/-- CALL (R90). -/
def execCall (c : Ctl) (t : BrField) (s : State) : Host.Outcome State Fault Refusal :=
  s.issue (op0 c) fun x s => doCall x s (branchTarget x.f.pc t)

/-- CALLX (R90). -/
def execCallx (c : Ctl) (a : RSrc) (s : State) : Host.Outcome State Fault Refusal :=
  s.issue (opPairA c a) fun x s =>
    let t := x.f.pairAt a.n.toNat
    if t.extractLsb' 57 7 != 0 then .trap (badTarget t.toNat) else doCall x s (t.setWidth 57)

/-- The number of call records that a `RET` may not pop (R92). -/
def Fibre.floorNow (f : Fibre) : Nat := if f.handler then f.floor else 0

/-- RET (R92). -/
def execRet (c : Ctl) (s : State) : Host.Outcome State Fault Refusal :=
  s.issue (op0 c) fun x s =>
    match x.f.calls with
    | [] => .trap (trapOf 0x05 0)
    | r :: rest =>
      if x.f.calls.length ≤ x.f.floorNow then .trap (trapOf 0x05 0)
      else if x.f.base < r.shift.toNat then .trap (trapOf 0x05 (BitVec.ofNat 32 x.f.base))
      else goto x s r.rpc [] fun f =>
        ({ f with calls := rest, base := f.base - r.shift.toNat }).releaseFrom (f.base - r.shift.toNat + 64)

/-! ### Traps (R93, R94) -/

/-- TRAP (R93): the argument is moved, not computed from (R85). -/
def execTrap (c : Ctl) (a : Src) (s : State) : Host.Outcome State Fault Refusal :=
  s.issue (op1 c a false false []) fun x _ => .trap (trapOf 0x08 (x.f.src32 a))

/-- BRK (R93). -/
def execBrk (c : Ctl) (a : Src) (s : State) : Host.Outcome State Fault Refusal :=
  s.issue (op1 c a false false []) fun x _ => .trap (trapOf 0x09 (x.f.src32 a))

/-- Every predicate number, in ascending order. -/
def allPreds : List PReg := (List.range 15).map (BitVec.ofNat 4)

/-- The operands of `TRAPRET` (R94): v0, v1 and v4 of the handler's window, where the fibre is in a handler, and the
predicates it restores. DEDUCED: log 87. -/
def opTrapret (c : Ctl) (s : State) : Op :=
  match s.current? with
  | some (_, f) =>
    if f.handler then
      { op0 c with reads := [.reg 0 0 false false, .reg 0 1 false false, .reg 0 4 false false], preds := allPreds }
    else op0 c
  | none => op0 c

/-- Leave the handler (R83, R94): the base, records, predicate word, flag and marks. -/
def Fibre.leaveHandler (f : Fibre) (preds : Word) : Fibre :=
  let g := f.releaseFrom (f.base - 64 + 64)
  { g with
    base := f.base - 64, handler := false, marks := none, preds := preds.setWidth 15
    calls := f.calls.drop (f.calls.length - f.floor)
    flights := g.flights.filter fun x => match x.dest with | .pred _ => false | _ => true }

/-- The common part of the two returns: `succ` resumes at the sequential successor (R83).
DESIGN CHOICE: log 54. -/
def doTrapret (succ : Bool) (x : Ctx) (s : State) : Fx :=
  if !x.f.handler then .trap (illegal 15)
  else
    let t := x.f.pairAt 0
    if t.extractLsb' 57 7 != 0 then .trap (badTarget t.toNat)
    else
      let pc : BitVec 57 := t.setWidth 57
      let target := if succ then s.seqNext (s.ctxOf x.u) pc else pc
      let marks := match x.f.marks with | some (a, b) => [a, b] | none => []
      goto x s target marks fun f => f.leaveHandler (x.f.reg 4).val

/-- TRAPRET (R94). -/
def execTrapret (c : Ctl) (s : State) : Host.Outcome State Fault Refusal :=
  s.issue (opTrapret c s) fun x s => doTrapret false x s

/-- TRAPRET.1 (R94). -/
def execTrapretResume (c : Ctl) (s : State) : Host.Outcome State Fault Refusal :=
  s.issue (opTrapret c s) fun x s => doTrapret true x s

/-! ### Fibre life (R96 to R101) -/

/-- Put a created fibre into its unit: the record of an ended fibre of the index is replaced, and the requests and
buffered stores it left stand (R66). -/
def Unit.addFibre (u : Unit) (f : Fibre) : Unit :=
  match u.fibre? f.fid with
  | none => { u with fibres := u.fibres ++ [f] }
  | some old =>
    u.modFibre f.fid fun _ => { f with
      outst := old.outst
      stroke := { f.stroke with stores := old.stroke.stores } }

/-- FORK (R96). -/
def execFork (c : Ctl) (d : VReg) (a b : Src) (t : BrField) (s : State) : Host.Outcome State Fault Refusal :=
  s.issue (op2 c a false b false true (dstRegs d 1)) fun x s =>
    let target := branchTarget x.f.pc t
    match s.checkTarget (s.ctxOf x.u) target [] with
    | .error e => .trap e
    | .ok _ =>
      let n := (x.f.src32 a).toNat
      let status (w : Word) (s : State) : State := s.modCur fun f => f.pendRegs (x.f.slotOf d.toNat) [fresh w]
      if x.u.desc.fibres ≤ n then .done (status 2 s)
      else if ((x.u.fibre? n).map Fibre.live).getD false then .done (status 1 s)
      else
        let child := (s.newFibre x.u n target).setReg 0 (fresh (x.f.src32 b))
        .done (status 0 (s.modUnit x.u.key fun u => u.addFibre child))

/-- End a fibre (R66): its slots are released; its requests stand. -/
def Fibre.end (f : Fibre) : Fibre :=
  { f with live := false, stack := [], flights := [], pending := [], wait := none, served := false }

/-- End the fibre that issues, and count it in its unit (R371). -/
def State.endCur (s : State) : State :=
  (s.modCur Fibre.end).modUnit s.cur.1 fun u => { u with ended := u.ended + 1 }

/-- FEND (R97). DESIGN CHOICE: log 54. -/
def execFend (c : Ctl) (s : State) : Host.Outcome State Fault Refusal :=
  s.issue { op0 c with ends := 2, takes := engineFaults } fun _ s => .done s.endCur

/-- EXIT (R97). -/
def execExit (c : Ctl) (s : State) : Host.Outcome State Fault Refusal :=
  s.issue { op0 c with ends := 2, takes := .store :: engineFaults } fun _ s => .done s.endCur

/-- The descriptor that a line delta names (R98), with the checks of R98. DESIGN CHOICE: log 84. -/
def State.successor (s : State) (x : Ctx) (delta : BitVec 27) : Except TrapInfo KDesc :=
  let addr := (branchTarget x.f.pc { delta := delta, slot := 0 }).toNat
  match s.readDesc (s.ctxOf x.u) addr with
  | none =>
    if (s.codeBytes (s.ctxOf x.u) addr 64 rightR).isNone then .error (pageFault 0 addr) else .error (badTarget addr)
  | some d =>
    if d.fibres == x.u.desc.fibres && d.teamLog2 == x.u.desc.teamLog2 && d.scratch == x.u.desc.scratch &&
        d.shelf == x.u.desc.shelf then .ok d
    else .error (badTarget addr)

/-- Record a unit's next stage: the first stands, and a different later one is counted by firmware core 4 (R98). -/
def State.recordNext (s : State) (x : Ctx) (cont : Bool) (d : KDesc) : State :=
  match x.u.next with
  | none => s.modUnit x.u.key fun u => { u with next := some { cont := cont, desc := d, issued := s.time } }
  | some n => if n.desc.addr == d.addr && n.cont == cont then s else s.note 0

/-- EXIT with a successor (R98). -/
def execExitSuccessor (c : Ctl) (delta : BitVec 27) (s : State) : Host.Outcome State Fault Refusal :=
  s.issue { op0 c with ends := 2, takes := .store :: engineFaults } fun x s =>
    match s.successor x delta with
    | .error e => .trap e
    | .ok d => .done (s.recordNext x false d).endCur

/-- YIELD (R100). -/
def execYield (c : Ctl) (s : State) : Host.Outcome State Fault Refusal :=
  s.issue (op0 c) fun _ s => .done (s.modCur fun f => { f with wait := some .regroup })

/-- SLEEPU (R101). -/
def execSleepu (c : Ctl) (a : Src) (s : State) : Host.Outcome State Fault Refusal :=
  s.issue { op1 c a true true [] with ends := 2, takes := engineFaults } fun x s =>
    let till := (x.f.src64 false a).toNat
    if s.clk < till then .wait s (.sleep till false) else .done s

/-! ### Predicates and special registers (R102 to R106) -/

/-- Two predicates in ascending order (R57). -/
def sortPreds (a b : PReg) : List Rd :=
  if a.toNat ≤ b.toNat then [.pred a, .pred b] else [.pred b, .pred a]

/-- PSET (R102). -/
def execPset (c : Ctl) (k : BitVec 4) (d a b : PReg) (s : State) : Host.Outcome State Fault Refusal :=
  s.issue { op0 c with reads := sortPreds a b, preds := [d] } <|
    fxPred latInt d fun f => k.getLsbD (2 * (f.pred a).toNat + (f.pred b).toNat)

/-- PMOV reading the predicate word (R103). -/
def execPmovRd (c : Ctl) (d : VReg) (s : State) : Host.Outcome State Fault Refusal :=
  s.issue { op0 c with reads := allPreds.map .pred, regs := dstRegs d 1 } <|
    fxFixed latInt d fun f => [fresh (f.preds.setWidth 32)]

/-- The results of a predicate word in flight. -/
def Fibre.flyPreds (f : Fibre) (land : Nat) (w : Word) : Fibre :=
  allPreds.foldl (fun (g : Fibre) p => g.fly land (.pred p) (.bit (w.getLsbD p.toNat))) f

/-- PMOV writing the predicate word (R103). -/
def execPmovWr (c : Ctl) (a : Src) (s : State) : Host.Outcome State Fault Refusal :=
  s.issue { op1 c a false true [] with preds := allPreds } <|
    fx fun x clk f => f.flyPreds (clk + latInt) (x.f.src32 a)

/-- The words of a 96-bit value, low word first (R26). -/
def regs96 (x : BitVec 96) : List Reg :=
  [fresh (x.extractLsb' 0 32), fresh (x.extractLsb' 32 32), fresh (x.extractLsb' 64 32)]

/-- The value of a special register in this cycle (R27, R104). DESIGN CHOICE: log 80. -/
def State.sregVal (s : State) (x : Ctx) (r : SReg) : List Reg :=
  let w (n : Nat) : List Reg := [fresh (BitVec.ofNat 32 n)]
  match r with
  | .fid => w x.f.fid
  | .tid => w (x.f.fid % x.u.desc.team)
  | .tw => w x.u.desc.team
  | .team => w (x.f.fid / x.u.desc.team)
  | .unit => w x.u.idx
  | .gang => w x.u.gang
  | .nunits => w (s.unitsIn x.u)
  | .clk => regs64 (BitVec.ofNat 64 s.clk)
  | .ptp => regs96 (s.ptpAt x.u.core)
  | .rmode => [fresh x.f.rmode]
  | .fstat => [fresh x.f.fstat]
  | .prog => [fresh x.f.prog]
  | .launch => [fresh (((s.launch? x.u.launch).map Launch.id).getD 0)]

/-- The words that a special register takes (R104). -/
def sregWords : SReg → Nat
  | .clk => 2
  | .ptp => 3
  | _ => 1

/-- SRD (R104). -/
def execSrd (c : Ctl) (d : VReg) (r : SReg) (s : State) : Host.Outcome State Fault Refusal :=
  s.issue { op0 c with regs := dstRegs d (sregWords r) } fun x s =>
    .done (s.modCur fun f => f.pendRegs (x.f.slotOf d.toNat) (s.sregVal x r))

/-- What a write of `$rmode` stores (R138): reserved bits zero, RM 5 to 7 as 0. -/
def rmodeWrite (v : Word) : Word :=
  let m := v &&& 0x1F
  if 5 ≤ (m &&& 7).toNat then m &&& 0x18 else m

/-- SWR (R68, R105, R106, R138). -/
def execSwr (c : Ctl) (r : WSReg) (a : Src) (s : State) : Host.Outcome State Fault Refusal :=
  s.issue (op1 c a false true []) <| fx fun x _ f =>
    match r with
    | .rmode => { f with rmode := rmodeWrite (x.f.src32 a) }
    | .fstat => { f with fstat := x.f.src32 a &&& 0x7F }
    | .prog => { f with prog := x.f.src32 a &&& 0xFF }

end Sys2Proof.Machine
end

