-- ==== Sys2Proof/Machine/Tokens.lean ====
section
/-! DEFINITION. Token coherence of the lines of spaces 0 and 5 (spec 09 R198 to R210): requests, tokens on their way,
persistent requests, owner-lost, evictions, and the fault of an access whose line is lost. -/

namespace Sys2Proof.Machine

/-! ### Lines -/

/-- A line with all its tokens at its home, at epoch 0: the value of one that is homed elsewhere is not known here. -/
def Line.fresh (n : Nat) : Line :=
  { line := n, pool := none, homeTokens := Config.tokens, homeOwner := true, homeData := none, holders := [], msgs := []
    attempts := [], active := none, queue := [], actNum := 0, actMsgs := [], asks := [], pleas := [], lastServed := 0
    timer := none, hints := [], epoch := 0, lost := false, poisoned := false, afar := decide (region 8 ≤ 64 * n) }

/-- The pool that a line homed elsewhere belongs to: its key names it. -/
def keyedPool (n : Nat) : Option Nat := if region 8 ≤ 64 * n then some ((64 * n / 2 ^ 80 - 8) / 16) else none

/-- The line of a number; one with no entry belongs to the pool that its key or the tables name. -/
def State.line (s : State) (n : Nat) : Line :=
  (s.fabric.lines.find? fun l => l.line == n).getD
    { Line.fresh n with pool := match keyedPool n with | some p => some p | none => s.poolOf n }

/-- Put a line into a list kept in rising order of its number. -/
def putLine (ls : List Line) (l : Line) : List Line :=
  match ls with
  | [] => [l]
  | x :: xs => if l.line < x.line then l :: x :: xs else if l.line = x.line then l :: xs else x :: putLine xs l

/-- Store a line's coherence state. -/
def State.setLine (s : State) (l : Line) : State := { s with fabric := { s.fabric with lines := putLine s.fabric.lines l } }
/-- Change a line's coherence state. -/
def State.modLine (s : State) (n : Nat) (f : Line → Line) : State := s.setLine (f (s.line n))

/-- The slice of its die that holds a line (R460). -/
def sliceNo (n : Nat) : Nat := Config.sliceOf n % 16

/-- The requester number of R201 for a line, from the same less its slice. -/
def reqNumber (n base : Nat) : Nat := base + sliceNo n

/-- A requester number less its slice: of one die, only the slice of the line asks for it. -/
def reqBase (req : Nat) : Nat := req / 16 * 16

/-- The requester number of a die of this device for a line (R201), less its slice: a line's tables are kept by it, and its
requesters stand in the same order as by their numbers, which the events carry. DESIGN CHOICE: log 26. -/
def State.reqOf (s : State) (l : Line) (die : Nat) : Nat := 64 * s.selfIn l.pool + 16 * die

/-- A pool's entry. -/
def State.pool? (s : State) (pool : Option Nat) : Option Pool := pool.bind fun p => s.fabric.pools.find? fun x => x.pool == p

/-- Every slice that could hold tokens of a line (R203): the four dies, of every member for a pool line. -/
def State.slices (s : State) (l : Line) : List Nat :=
  let dies (m : Nat) : List Nat := (List.range 4).map fun d => 64 * m + 16 * d
  match l.pool with
  | none => dies 0
  | some _ => (((s.pool? l.pool).map Pool.members).getD []).flatMap dies

/-- Whether a requester is a slice of this device. -/
def State.isOwn (s : State) (l : Line) (req : Nat) : Bool := req / 64 == s.selfIn l.pool

/-- Whether a member answers: one that is silent, or has been removed from the pool, does not (R210, R272). -/
def State.answers (s : State) (l : Line) (member : Nat) : Bool :=
  match s.pool? l.pool with
  | some p => member == p.self || (p.members.contains member && !p.silent.contains member)
  | none => true

/-- The owner time-out that holds for a line, in units of 2^-16 ns (R208). -/
def State.ownerTimeOf (s : State) (l : Line) : Nat := ((s.pool? l.pool).map Pool.ownerTime).getD s.fabric.ownerTime * Config.usec

/-- Renumber the requesters of a line of space 0 that comes into a pool: all are of this device. -/
def Line.joinPool (l : Line) (pool self : Nat) : Line :=
  match l.pool with
  | some _ => l
  | none =>
    let r (n : Nat) : Nat := 64 * self + n
    { l with
      pool := some pool
      holders := l.holders.map fun h => { h with req := r h.req, forward := h.forward.map r }
      msgs := l.msgs.map fun m => { m with dst := m.dst.map r }
      attempts := l.attempts.map fun a => { a with req := r a.req }
      active := l.active.map r, queue := l.queue.map r
      actMsgs := l.actMsgs.map fun m => { m with dst := r m.dst, active := m.active.map r }
      asks := l.asks.map fun a => (r a.1, a.2.1, a.2.2.map r), pleas := l.pleas.map r
      lastServed := r l.lastServed, hints := l.hints.map r }

/-- Bring the lines into the pools that the tables now put them in (R189). -/
def State.rejoin (s : State) : State :=
  let join (l : Line) : Line := match s.poolOf l.line with
    | some p => l.joinPool p (s.selfIn (some p))
    | none => l
  { s with fabric := { s.fabric with lines := s.fabric.lines.map join } }

/-- A requester's holding. -/
def Line.holder (l : Line) (req : Nat) : Holder :=
  (l.holders.find? fun h => h.req == req).getD
    { req := req, tokens := 0, owner := false, valid := false, dirty := false, seen := 0, forward := none, epoch := l.epoch }

/-- Store a requester's holding. -/
def Line.setHolder (l : Line) (h : Holder) : Line :=
  if l.holders.any fun x => x.req == h.req then
    { l with holders := updIf l.holders (fun x => x.req == h.req) fun _ => h }
  else { l with holders := l.holders ++ [h] }

/-- Whether a slice may read the line (R200). -/
def Line.canRead (l : Line) (req : Nat) : Bool :=
  decide (1 ≤ (l.holder req).tokens) && (l.holder req).valid && (l.holder req).epoch == l.epoch
/-- Whether a slice may write the line (R200). -/
def Line.canWrite (l : Line) (req : Nat) : Bool :=
  (l.holder req).tokens == Config.tokens && (l.holder req).epoch == l.epoch
/-- Whether a slice holds what an access needs. -/
def Line.holds (l : Line) (req : Nat) (write : Bool) : Bool := if write then l.canWrite req else l.canRead req

/-- A requester's attempts. -/
def Line.attempt? (l : Line) (req : Nat) : Option Attempt := l.attempts.find? fun a => a.req == req
/-- End a requester's attempts that are not persistent. -/
def Line.endAttempt (l : Line) (req : Nat) : Line :=
  { l with attempts := l.attempts.filter fun a => !(a.req == req && !a.persistent) }

/-! ### Tokens on their way (R200, R201) -/

/-- The die whose HBM holds a line of this device: each die's stacks hold 192 GiB (R4, R460), the dies' ranges one after
another in the order of their numbers. DESIGN CHOICE: log 97. -/
def homeDie (n : Nat) : Nat := 64 * n / (192 * 2 ^ 30) % 4

/-- The member index of a line's home: for a line homed elsewhere its key names the member (R189). -/
def State.homeMember (s : State) (l : Line) : Nat :=
  if 64 * l.line < region 1 then s.selfIn l.pool else (64 * l.line / 2 ^ 80 - 8) % 16

/-- Whether a line's home answers. -/
def State.homeAnswers (s : State) (l : Line) : Bool := s.answers l (s.homeMember l)

/-- The die of this device that a message leaves from, if it leaves from this device. -/
def State.sendDie (s : State) (l : Line) (src : Option Nat) : Option Nat :=
  match src with
  | none => if s.homeMember l == s.selfIn l.pool then some (homeDie l.line) else none
  | some r => if r / 64 == s.selfIn l.pool then some (r % 64 / 16) else none

/-- Count the data that a message carries (R457): bytes read from HBM at the home, and bytes sent over Gyvan. -/
def State.countSend (s : State) (l : Line) (src dst : Option Nat) (data : Bool) : State :=
  match data, s.sendDie l src with
  | true, some d =>
    let s1 := if src.isNone then s.countDie d 0x0108 64 else s
    let to' := match dst with | some r => r / 64 | none => s.homeMember l
    if to' == s.selfIn l.pool then s1 else s1.countDie d 0x010A 64
  | _, _ => s

/-- Send tokens of an epoch of a line from the home or a requester; nothing is sent where there are none. -/
def State.sendTokens (s : State) (n : Nat) (src dst : Option Nat) (tokens : Nat) (owner data : Bool) (epoch : Nat) : State :=
  if tokens = 0 then s
  else
    let s0 := s.countSend (s.line n) src dst data
    let s1 := s0.modLine n fun l => { l with
      msgs := l.msgs ++ [{ id := s.fabric.nextMsg, dst := dst, tokens := tokens, owner := owner, data := data
                           epoch := epoch, away := (s.sendDie l src).isNone }]
      hints := match dst with
        | some r => if l.hints.contains r then l.hints else l.hints ++ [r]
        | none => l.hints }
    { s1 with fabric := { s1.fabric with nextMsg := s.fabric.nextMsg + 1 } }

/-- The words of a line as memory holds them. -/
def State.lineWords (s : State) (n : Nat) : List Reg := s.mem.words (64 * n) 16

/-- The home takes the line's data with the owner token: its memory is no longer stale. -/
def Line.writeBack (l : Line) : Line := { l with homeData := none, holders := l.holders.map fun h => { h with dirty := false } }

/-- A slice gives up every token it holds: to a requester or the home. -/
def State.giveAll (s : State) (n req : Nat) (dst : Option Nat) : State :=
  let h := (s.line n).holder req
  let s1 := s.modLine n fun l => l.setHolder { h with tokens := 0, owner := false, valid := false, dirty := false }
  s1.sendTokens n (some req) dst h.tokens h.owner h.owner h.epoch

/-- The home gives up every token it holds. -/
def State.homeGiveAll (s : State) (n req : Nat) : State :=
  let l := s.line n
  let s1 := s.modLine n fun l => { l with homeTokens := 0, homeOwner := false }
  s1.sendTokens n none (some req) l.homeTokens l.homeOwner l.homeOwner l.epoch

/-- Tokens that have come to the home or to a slice otherwise than by a message go on to the active requester, if there is
one (R203). DESIGN CHOICE: log 26. -/
def State.passOn (s : State) (n : Nat) : State :=
  match (s.line n).active with
  | none => s
  | some r => ((s.line n).holders.filter fun h =>
        h.forward == some r && h.req != r && h.epoch == (s.line n).epoch && s.answers (s.line n) (h.req / 64)).foldl
      (fun s h => s.giveAll n h.req (some r)) (s.homeGiveAll n r)

/-- Whether a holding of the present epoch can be had: its member answers. -/
def State.within (s : State) (l : Line) (h : Holder) : Bool := h.epoch == l.epoch && s.answers l (h.req / 64)

/-- Whether every token of a line can be gathered: none is held by a silent member, on its way to one, or gone with a member
that was removed (R210, R272). -/
def State.gatherable (s : State) (l : Line) : Bool :=
  s.homeAnswers l &&
    l.homeTokens + ((l.holders.filter (s.within l)).map Holder.tokens).sum +
      ((l.msgs.filter fun m => m.epoch == l.epoch && ((m.dst.map fun r => s.answers l (r / 64)).getD true)).map
        TokenMsg.tokens).sum == Config.tokens

/-- Whether an agent that acts at the home finds a line lost: it is, or its tokens cannot be gathered.
DESIGN CHOICE: log 70. -/
def State.gone (s : State) (n : Nat) : Bool := (s.line n).lost || !s.gatherable (s.line n)

/-- Gather every token at the home at once with the newest data; messages of earlier epochs stay on their way. -/
def State.gather (s : State) (n : Nat) : State :=
  if (s.fabric.lines.any fun l => l.line == n) && !s.gone n then
    s.modLine n fun l => { l with
      homeTokens := Config.tokens, homeOwner := true, homeData := none, msgs := l.msgs.filter fun m => m.epoch != l.epoch
      afar := false
      holders := l.holders.map fun h =>
        if h.epoch == l.epoch then { h with tokens := 0, owner := false, valid := false, dirty := false } else h }
  else s

/-- Gather every token at the home for an agent that acts there; they go on to the active requester.
DESIGN CHOICE: log 26. -/
def State.gatherHome (s : State) (n : Nat) : State :=
  let l := s.line n
  let dirty := l.homeData.isSome && !s.gone n && s.homeMember l == s.selfIn l.pool
  ((s.gather n).countDie (homeDie n) 0x0109 (if dirty then 64 else 0)).passOn n

/-- Gather every token at a slice at once, for the commit of a DET round (R235). -/
def State.gatherAt (s : State) (n req : Nat) : State :=
  if s.gone n then s
  else (s.gather n).modLine n fun l =>
    { (l.setHolder { l.holder req with
        tokens := Config.tokens, owner := true, valid := true, dirty := false, epoch := l.epoch }) with
      homeTokens := 0, homeOwner := false, hints := if l.hints.contains req then l.hints else l.hints ++ [req] }

/-- A slice that holds every token makes the line dirty: home memory keeps its stale value (R200, R205). -/
def State.dirtyLine (s : State) (n req : Nat) : State :=
  let old := s.lineWords n
  s.modLine n fun l => { (l.setHolder { l.holder req with dirty := true }) with
    homeData := match l.homeData with | some d => some d | none => some old }

/-! ### Writes that some agents do not see yet (R14, R213, R224, R265) -/

/-- The agent number of the host. -/
def hostAgent : Nat := Config.cores

/-- The 8-byte granules of a range. -/
def granulesOf (key size : Nat) : List Nat := (List.range ((key + size - 1) / 8 - key / 8 + 1)).map fun i => key / 8 + i

/-- Whether an agent sees a write. -/
def Lag.seenBy (e : Lag) (agent : Nat) : Bool := e.seen.contains agent || (e.cores && decide (agent < Config.cores))

/-- Whether a write is to some byte of a range. -/
def Lag.touches (e : Lag) (key size : Nat) : Bool := overlaps e.key e.size key size

/-- Whether an agent that sees the later write `x` sees `e` too: they share a byte (R215), or one core's fibres stored both
into one scratchpad (R220 note 3). -/
def Lag.before (e x : Lag) : Bool :=
  e.touches x.key x.size ||
    (e.src.isSome && e.src == x.src && (scratchCore e.key).isSome && scratchCore e.key == scratchCore x.key)

/-- The word at a key as it is without a write: its bytes as they were before it. -/
def Lag.under (e : Lag) (k : Nat) (w : Reg) : Reg :=
  if !e.touches k 4 then w
  else
    let o := e.old.getD ((k - wordKey e.key) / 4) Reg.zero
    if decide (e.key ≤ k) && decide (k + 4 ≤ e.key + e.size) then o
    else
      let b (i : Nat) : Byte := if e.touches (k + i) 1 then wordByte o.val i else wordByte w.val i
      fresh (wordOf4 (b 0) (b 1) (b 2) (b 3))

/-- The writes that an agent does not see yet, oldest first. -/
def State.unseen (s : State) (agent : Nat) : List Lag := s.fabric.lags.filter fun e => !e.seenBy agent

/-- A word as an agent sees it: without the writes that it does not see yet. -/
def State.viewWord (s : State) (agent k : Nat) : Reg := (s.unseen agent).foldr (fun e w => e.under k w) (s.mem.word k)

/-- A granule's tag as an agent sees it. -/
def State.viewTag (s : State) (agent k : Nat) : Bool :=
  (s.unseen agent).foldr (fun e t => if e.touches (k / 16 * 16) 16 then e.tag else t) (s.mem.tag k)

/-- The writes of a list, oldest first, that `p` picks, with those that are seen no later than they are (R215). -/
def closeLags (es : List Lag) (p : Lag → Bool) : List Lag :=
  es.foldr (fun e acc => if p e || acc.any e.before then e :: acc else acc) []

/-- Change the writes that some agents do not see yet. -/
def State.modLags (s : State) (f : List Lag → List Lag) : State := { s with fabric := { s.fabric with lags := f s.fabric.lags } }

/-- An agent comes to see some writes: it never goes back (R215). -/
def State.notice (s : State) (agent : Nat) (es : List Lag) : State :=
  s.modLags fun ls => ls.map fun e => if es.contains e then { e with seen := agent :: e.seen } else e

/-- A read by an agent fixes its value (R217): which of the writes to the range that it has not seen it comes to see is left
open (R14, R214, R224). DESIGN CHOICE: log 72. -/
def State.look (s : State) (agent key size : Nat) : State :=
  let hit := (s.unseen agent).filter fun e => e.touches key size
  if hit.isEmpty then s
  else
    let (k, s1) := s.draw
    let picked := (hit.zipIdx.filter fun x => (Config.freeNat k).testBit x.2).map (·.1)
    s1.notice agent (closeLags (s.unseen agent) picked.contains)

/-- An agent sees every write to a range: an atomic or a monitor wait has read it, or a store of its own follows. -/
def State.lookAll (s : State) (agent key size : Nat) : State :=
  if s.fabric.lags.isEmpty then s
  else s.notice agent (closeLags (s.unseen agent) fun e => e.touches key size)

/-- Every agent sees every write to a range. -/
def State.showAll (s : State) (key size : Nat) : State :=
  s.modLags fun ls => let shown := closeLags ls fun e => e.touches key size
    ls.filter fun e => !shown.contains e

/-- Every agent sees every write of the engines so far: a notification is on its way after them (R14, R291). -/
def State.showEngines (s : State) : State :=
  s.modLags fun ls => let shown := closeLags ls fun e => e.src.isNone
    ls.filter fun e => !shown.contains e

/-- An agent sees every write of an engine: it has observed the writer's notification (R14, R15). -/
def State.lookEngines (s : State) (agent : Nat) : State :=
  if s.fabric.lags.isEmpty then s
  else s.notice agent (closeLags (s.unseen agent) fun e => e.src.isNone)

/-- A store of a core's fibre is performed over `old`: other agents need not see it yet. A capability in a scratchpad is seen
whole with its tag (R214); otherwise each 8-byte granule is by itself. DESIGN CHOICE: log 72. -/
def State.lagStore (s : State) (old : Memory) (core key size : Nat) (whole : Bool) : State :=
  let lag (lo hi : Nat) : Lag :=
    { key := lo, size := hi - lo, old := old.words (wordKey lo) ((hi + 3) / 4 - lo / 4), tag := old.tag lo, src := some core
      seen := [core], cores := false, made := s.time }
  let new := if whole then [lag key (key + size)]
    else (granulesOf key size).map fun g => lag (max key (8 * g)) (min (key + size) (8 * g + 8))
  (s.lookAll core key size).modLags fun ls => ls ++ new

/-- An engine of a core has written words over `old`: each granule may be seen or not until the writer's notification is
observed (R14). What the core's range scoreboard covers is seen by its fibres, which wait for it (R13).
DESIGN CHOICE: log 72. -/
def State.lagWrite (s : State) (old : Memory) (core : Nat) (held : Bool) (keys : List Nat) : State :=
  let mine := keys.filter fun k => tokenKey k || ((scratchCore k).isSome && !(held && scratchCore k == some core))
  let lag (g : Nat) : Lag :=
    let ks := mine.filter fun k => k / 8 == g
    { key := ks.headD 0, size := 4 * ks.length, old := ks.map old.word, tag := old.tag (8 * g), src := none
      seen := if tokenKey (8 * g) then [core] else [], cores := false, made := s.time }
  s.modLags fun ls => ls ++ (mine.foldl (fun l k => insNat l (k / 8)) []).map lag

/-- What has been performed so far becomes visible to the agents of a scope, as a core's fibre performs a release, a fence or
a barrier arrival (R213, R221, R223, R224), or as a round commits (R235). -/
def State.settleLags (s : State) (core : Nat) (scope : Scope) : State :=
  match scope with
  | .unit => s
  | .gang => s.modLags fun ls => ls.map fun e => { e with seen := (List.range 4).map (4 * clusterOf core + ·) ++ e.seen }
  | .dev => s.modLags fun ls => ls.map fun e => { e with cores := true }
  | .sys => s.modLags fun _ => []

/-- Every write becomes visible (R216): here no later than the life of an L1 copy after it was performed.
DESIGN CHOICE: log 72. -/
def State.dropLags (s : State) : State :=
  s.modLags fun ls => ls.filter fun e => decide (s.time < e.made + Config.l1Life)

/-! ### Commits that the system does not see yet (R235) -/

/-- A fibre of a DET launch has written a range over `old`, at the commit of a round: the system sees the old words until a
fence or release of `.sys` scope, or the launch's end. DESIGN CHOICE: log 90. -/
def State.hide (s : State) (u : Unit) (old : Memory) (key size : Nat) : State :=
  if !s.detOf u || !tokenKey key then s
  else (List.range ((key + size - 1) / 4 - key / 4 + 1)).foldl (fun s i =>
    let k := 4 * (key / 4 + i)
    let new := s.mem.word k
    let mine (h : Hidden) : Bool := h.launch == u.launch && h.key == k && h.new == old.word k
    let before := ((s.fabric.hidden.find? mine).map Hidden.old).getD (old.word k)
    let keep := s.fabric.hidden.filter fun h => h.key != k
    { s with fabric := { s.fabric with hidden := keep ++ [{ launch := u.launch, key := k, old := before, new := new }] } }) s

/-- A fence or release of `.sys` scope of a DET launch, at the commit of a round: the whole commit reaches the system.
DESIGN CHOICE: log 90. -/
def State.sysRelease (s : State) (u : Unit) (scope : Scope) : State :=
  if scope == .sys && s.detOf u then s.modLaunch u.launch fun l => { l with sysRound := true } else s

/-- What a launch has committed reaches the system. DESIGN CHOICE: log 90. -/
def State.reveal (s : State) (launch : Nat) : State :=
  { s with fabric := { s.fabric with hidden := s.fabric.hidden.filter fun h => h.launch != launch } }

/-- A fibre's release or fence of a scope is performed (R223, R235). -/
def State.releaseTo (s : State) (u : Unit) (scope : Scope) : State := (s.settleLags u.core scope).sysRelease u scope

/-- Memory as the host sees it: a word that a commit hides, and that nothing has written since, is as it was before; and a
write that the host does not see yet has not happened. DESIGN CHOICE: log 72 and 90. -/
def State.hostMem (s : State) : Memory :=
  let m := s.fabric.hidden.foldl (fun m h => if s.mem.word h.key == h.new then m.setWord h.key h.old else m) s.mem
  (s.unseen hostAgent).foldr (fun e m =>
    (List.range ((e.key + e.size + 3) / 4 - e.key / 4)).foldl (fun m i =>
      let k := wordKey e.key + 4 * i
      m.setWord k (e.under k (m.word k))) m) m

/-! ### Copies (R192, R201, R216) -/

/-- Drop a core's L1 copy of a line. -/
def State.dropL1 (s : State) (core line : Nat) : State :=
  s.modCore core fun c => { c with l1 := c.l1.filter fun x => x.line != line }

/-- Drop every core's L1 copy of a line. -/
def State.dropL1All (s : State) (line : Nat) : State :=
  { s with cores := s.cores.map fun c => { c with l1 := c.l1.filter fun x => x.line != line } }

/-- Discard a core's L1 copies of lines of spaces 0 and 5 (R192). -/
def State.dropL1Shared (s : State) (core : Nat) : State :=
  s.modCore core fun c => { c with l1 := c.l1.filter fun x => !tokenKey (64 * x.line) }

/-- L1_COPY_EXPIRY (R216): a copy leaves no later than 8 µs after it was filled; ordinary eviction may take it sooner
(R192). DESIGN CHOICE: log 28. -/
def execL1CopyExpiry (core line : Nat) (s : State) : Host.Outcome State Fault Refusal := .next (s.dropL1 core line)

/-- Fill a core's L1 copy of a line as the core sees it. DESIGN CHOICE: log 28. -/
def State.fillL1 (s : State) (core line : Nat) : State :=
  let ws := (List.range 16).map fun i => s.viewWord core (64 * line + 4 * i)
  s.modCore core fun c => { c with
    l1 := (c.l1.filter fun x => x.line != line).drop ((c.l1.filter fun x => x.line != line).length - 4095) ++
      [{ line := line, data := ws, filled := s.time }] }

/-- A core's L1 copy of a line that is still within its life. DESIGN CHOICE: log 28. -/
def State.l1? (s : State) (core line : Nat) : Option L1Line :=
  (s.core? core).bind fun c => c.l1.find? fun x => x.line == line && decide (s.time < x.filled + Config.l1Life)

/-! ### Faults found after acceptance (R209, R264) -/

/-- A fibre ends its wait for its own requests. -/
def Fibre.wakeReq (f : Fibre) : Fibre :=
  match f.wait with
  | some .fence => { f with wait := none }
  | some (.acquire n) => if f.outst.any fun r => r.seq == n then f else { f with wait := none }
  | _ => f

/-- Remove a request from a fibre. -/
def Fibre.dropReq (f : Fibre) (seq : Nat) : Fibre :=
  ({ f with outst := f.outst.filter fun r => r.seq != seq }).wakeReq

/-- Undo an instruction that faults after acceptance: its released sources are held again where nothing has written them
since, and its results are no longer awaited. -/
def Fibre.undoReq (f : Fibre) (r : Req) : Fibre :=
  let g := f.dropReq r.seq
  { g with
    stack := r.undo.foldl (fun st e => if (tget st e.1).isNone then tset st e.1 e.2 else st) g.stack
    pending := g.pending.filter fun p => match p.dest with | .slot n => !(r.dests.contains n) | _ => true }

/-- Whether a request is a plain or releasing store, whose faults are deferred (R209). -/
def Req.isStore (r : Req) : Bool :=
  match r.kind with
  | .store _ _ => true
  | .storeCap _ => true
  | _ => false

/-- Whether a fibre is parked on a trap that has gone beyond the core. -/
def Fibre.trapped (f : Fibre) : Bool :=
  match f.wait with
  | some (.trapped _ _ _) => true
  | some .record => true
  | _ => false

/-- Take a trap on an instruction that a fibre has already passed (R209, R264): the trapping PC is the instruction's, and
nothing that the fibre has done since is undone (R9). A handler that resumes goes on where the fibre stood.
DESIGN CHOICE: log 71. -/
def State.takeTrapAt (s : State) (k fid : Nat) (pc : BitVec 57) (t : TrapInfo) : State :=
  match (s.unit? k).bind fun u => u.fibre? fid with
  | none => s
  | some f =>
    let s1 := (s.modFibre k fid fun f => { f with pc := pc, wait := none, served := false, again := false }).takeTrap k fid t
    s1.modFibre k fid fun g => if g.handler && !f.handler then { g with marks := some (pc, f.pc) } else g

/-- A fibre's seat among the 256 of its core: the seats of partition 0 first.
DESIGN CHOICE: log 25. -/
def Unit.seatNo (u : Unit) (fid : Nat) : Nat := (u.seatOf fid).1 * Config.seatsPerPartition + (u.seatOf fid).2

/-- Whether a request that was accepted in a cycle is a live fibre's own: an earlier fibre of its index can have made it
before the fibre's creation (R66). -/
def Fibre.owns (f : Fibre) (made : Nat) : Bool := f.live && decide (f.stamp ≤ made)

/-- Whether a port has still to read a frame that a fibre has posted (R350). -/
def State.unreadPosts (s : State) (u : Unit) (f : Fibre) : Bool :=
  (s.wire.ports.flatMap Port.posts).any fun p => p.unit == u.key && p.fid == f.fid && f.owns p.made

/-- The fault of a request whose fibre has ended goes beyond the core (R400), at the request's PC. -/
def State.lateTrap (s : State) (u : Unit) (fid : Nat) (pc : BitVec 57) (t : TrapInfo) : State :=
  let l : LateTrap :=
    { unit := u.key, launch := u.launch, no := u.no, fid := fid, seat := u.seatNo fid, pc := pc, cause := t.cause, arg := t.arg
      addr := t.addr, clk := s.clk }
  (s.modCore u.core fun c => { c with lateTraps := c.lateTraps ++ [l] }).next (.trapCoalesce u.key fid)

/-- The other half of a 16-byte store that was left as two requests (R123). -/
def Fibre.dropHalf (f : Fibre) (r : Req) : Fibre :=
  { f with outst := f.outst.filter fun q => !(q.isStore && r.size == 8 && q.size == 8 && q.issued == r.issued && q.pc == r.pc) }

/-- Whether a fibre has a trap of its own to take first: it is on its way beyond the core, or to its handler. -/
def Fibre.trapping (f : Fibre) : Bool :=
  f.trapped || (match f.wait with | some (.entering _ _ _) => true | _ => false)

/-- A request of a fibre fails after acceptance: a store is discarded and its fault recorded (R209); any other faults on
its instruction (R264), or is recorded too where the fibre has another trap to take first. The fault of a fibre that has ended
goes beyond the core (R400). DEDUCED: log 22. DESIGN CHOICE: log 71. -/
def State.failReq (s : State) (k fid : Nat) (r : Req) (t : TrapInfo) : State :=
  let dropped := s.modFibre k fid fun f =>
    if r.isStore then (f.dropReq r.seq).dropHalf r else if f.owns r.issued then f.undoReq r else f.dropReq r.seq
  match s.unit? k with
  | none => s
  | some u =>
    match (u.fibre? fid).filter fun f => f.owns r.issued with
    | none => dropped.lateTrap u fid r.pc t
    | some f =>
      if r.isStore || f.trapping then
        dropped.modFibre k fid fun f => { f with
          faults := f.faults ++ [{ cls := .store, cause := t.cause, arg := t.arg, addr := t.addr, req := none }] }
      else (s.modFibre k fid fun f => f.undoReq r).takeTrapAt k fid r.pc t

/-- A later request of a fibre fails with one that has just faulted: it has no effect, and its fault is recorded. -/
def State.failLater (s : State) (k fid : Nat) (r : Req) (t : TrapInfo) : State :=
  s.modFibre k fid fun f =>
    if f.outst.contains r then
      { f.undoReq r with faults := f.faults ++ [{ cls := .store, cause := t.cause, arg := t.arg, addr := t.addr, req := none }] }
    else f

/-- Whether a request waits for a line to be lost: `LNRECLAIM` restores it instead (R261). -/
def Req.failsLost (r : Req) : Bool :=
  match r.kind with
  | .lnreclaim _ => false
  | .lnflush => false
  | _ => true

/-- The requests of a fibre on a line, oldest first. -/
def Fibre.reqsOn (f : Fibre) (n : Nat) : List Req :=
  f.outst.filter fun r => tokenKey r.key && r.key / 64 == n && r.failsLost

/-- A fibre's requests and load on a lost line: its stores record their faults, oldest first, and the requests that an
earlier fibre of its index has left fault beyond the core; then its other requests fault, oldest first, each for itself
(R9, R264): the first is taken on its instruction, and the fibre takes the others after it. Where there is none, a parked load
faults. DESIGN CHOICE: log 71. -/
def State.failFibre (s : State) (k n : Nat) (f : Fibre) : State :=
  let rs := f.reqsOn n
  let held (s : State) (r : Req) : Bool := ((s.unit? k).bind fun u => u.fibre? f.fid).any fun g => g.outst.contains r
  let mine (r : Req) : Bool := !r.isStore && f.owns r.issued
  let fail (s : State) (r : Req) : State := if held s r then s.failReq k f.fid r (lineLost r.space r.addr) else s
  let s1 := (rs.filter fun r => !mine r).foldl fail s
  match rs.filter mine with
  | r :: later => later.foldl (fun s r => s.failLater k f.fid r (lineLost r.space r.addr)) (fail s1 r)
  | [] =>
    match f.wait with
    | some (.load _ key sp adr) =>
      if tokenKey key && key / 64 == n then
        (s1.modFibre k f.fid fun f => { f with wait := none }).takeTrap k f.fid (lineLost sp adr)
      else s1
    | _ => s1

/-- Answer LINELOST to the requesters given: every access of their dies on the line that waits for tokens faults (R203,
R205, R209). -/
def State.failLine (s : State) (n : Nat) (reqs : List Nat) : State :=
  let l := s.line n
  s.units.foldl (fun s u =>
    if reqs.contains (s.reqOf l (dieOf u.core)) then u.fibres.foldl (fun s f => s.failFibre u.key n f) s else s) s

/-! ### Requests (R201, R202) -/

/-- The home's answer to a transient request (R201). -/
def State.homeAnswer (s : State) (n req : Nat) (write : Bool) : State :=
  let l := s.line n
  if write then s.homeGiveAll n req
  else if l.homeOwner then
    if l.homeTokens = 1 then s.homeGiveAll n req
    else (s.modLine n fun l => { l with homeTokens := l.homeTokens - 1 }).sendTokens n none (some req) 1 false true l.epoch
  else if 1 ≤ l.homeTokens then
    (s.modLine n fun l => { l with homeTokens := l.homeTokens - 1 }).sendTokens n none (some req) 1 false false l.epoch
  else s

/-- A holder's answer to a forwarded request (R201); a silent member gives none. -/
def State.holderAnswer (s : State) (n h req : Nat) (write : Bool) : State :=
  let x := (s.line n).holder h
  if h == req || !s.within (s.line n) x then s
  else if write then s.giveAll n h (some req)
  else if x.owner then
    if x.tokens = 1 then s.giveAll n h (some req)
    else (s.modLine n fun l => l.setHolder { x with tokens := x.tokens - 1 }).sendTokens n (some h) (some req) 1 false true x.epoch
  else s

/-- Record that a requester's attempt has been sent (R202). -/
def State.noteAttempt (s : State) (n req : Nat) (write : Bool) : State :=
  s.modLine n fun l => match l.attempt? req with
    | none => { l with attempts := l.attempts ++
        [{ req := req, write := write, count := 1, first := s.time, sent := s.time, persistent := false, fill := [] }] }
    | some _ => { l with attempts := updIf l.attempts (fun a => a.req == req) fun a =>
        { a with write := a.write || write, sent := s.time } }

/-- Transient requests leave, for the home or for holders to which it forwards them; they arrive in any order (R6). -/
def State.ask (s : State) (n req : Nat) (write : Bool) (to' : List (Option Nat)) : State :=
  s.modLine n fun l => { l with asks := l.asks ++ to'.map fun h => (req, write, h) }

/-- Whether a request to the home, or forwarded to a holder, reaches one that answers. -/
def State.askReaches (s : State) (l : Line) (holder : Option Nat) : Bool :=
  match holder with
  | some h => s.answers l (h / 64)
  | none => s.homeAnswers l

/-- COHERENCE_REQUEST (R6, R201, R203): a request arrives at the home, or at a holder to which the home forwarded it; one that
is not on its way is sent now. What is silent gives no answer, and the request stays without one. -/
def execCoherenceRequest (line req : Nat) (write : Bool) (holder : Option Nat) (s : State) :
    Host.Outcome State Fault Refusal :=
  let l := s.line line
  let r := reqBase req
  let h := holder.map reqBase
  let sent := l.asks.contains (r, write, h)
  let s0 := if sent || h.isSome then s else s.noteAttempt line r write
  if !s.askReaches l h then .next (if sent then s0 else s0.ask line r write [h])
  else
    let s1 := s0.modLine line fun l => { l with asks := l.asks.erase (r, write, h) }
    match h with
    | some h => .next (s1.holderAnswer line h r write)
    | none =>
      if l.lost then .next (s1.failLine line [r])
      else .next ((s1.homeAnswer line r write).ask line r write ((l.hints.filter fun x => x != r).map some))

/-- Tokens of the present epoch reach the home. -/
def Line.homeTake (l : Line) (m : TokenMsg) : Line :=
  let l1 := { l with homeTokens := l.homeTokens + m.tokens, homeOwner := l.homeOwner || m.owner }
  if m.owner then l1.writeBack else l1

/-- A requester's holding of the present epoch: what is left of an earlier one counts for nothing. -/
def Line.held (l : Line) (r : Nat) : Holder :=
  let h := l.holder r
  if h.epoch == l.epoch then h
  else { h with tokens := 0, owner := false, valid := false, dirty := false, epoch := l.epoch }

/-- Tokens of the present epoch reach a slice; `far` says that it is another member's, which may then write the line. -/
def Line.sliceTake (l : Line) (m : TokenMsg) (r : Nat) (far : Bool) : Line :=
  let h := l.held r
  let g := { h with
    tokens := h.tokens + m.tokens, owner := h.owner || m.owner, valid := h.valid || m.data
    dirty := h.dirty || (m.owner && l.homeData.isSome) }
  { l.setHolder g with afar := l.afar || (far && g.tokens == Config.tokens) }

/-- The words of a line from its 64 bytes and the sixteen codes after them (R196). -/
def wordsCoded (data : List Byte) : List Reg :=
  (List.range 16).map fun i =>
    { val := BitVec.ofNat 32 (field data (4 * i) 4), code := BitVec.ofNat 8 (field data (64 + i) 1) }

/-- Data of a line comes from another member: where that member may have written the line, the data that came tells its
value, and home memory here keeps the old one until the owner token is home (R200, R205). DESIGN CHOICE: log 69. -/
def State.lineFrom (s : State) (n : Nat) (m : TokenMsg) (data : List Byte) : State :=
  let l := s.line n
  if !(m.data && m.away && l.afar) then s
  else
    let old := s.lineWords n
    let here := s.homeMember l == s.selfIn l.pool
    let s1 := s.modLine n fun l => { l with
      afar := false
      homeData := if here && data.length == 80 then (match l.homeData with | some d => some d | none => some old)
        else l.homeData }
    if data.length == 80 then { s1 with mem := s1.mem.setWords (64 * n) (wordsCoded data) } else s1

/-- The lines of which a slice of this device holds tokens (R16). -/
def State.slicedLines (s : State) (die slice : Nat) : List Line :=
  s.fabric.lines.filter fun l => sliceNo l.line == slice && decide (1 ≤ (l.holder (s.reqOf l die)).tokens)

/-- A slice that has taken a line beyond its 65,536 evicts one (R16, R201): which is the part's. DESIGN CHOICE: log 26. -/
def State.makeRoom (s : State) (n req : Nat) : State :=
  let die := req % 64 / 16
  let full := s.slicedLines die (sliceNo n)
  if !s.isOwn (s.line n) req || full.length ≤ Config.sliceLines then s
  else
    let (k, s1) := s.draw
    match full[Config.freeNat k % full.length]? with
    | some l => s1.next (.l2Eviction l.line (reqNumber l.line (s.reqOf l die)))
    | none => s1

/-- Fill the L1 copies that prefetches of a requester wait for, once its slice can read the line; where the line is poisoned
by then, they are dropped (R124). -/
def State.fillWaiting (s : State) (n req : Nat) : State :=
  if !(s.line n).canRead req then s
  else match (s.line n).attempt? req with
    | none => s
    | some a =>
      let cores := if (s.line n).poisoned || (s.line n).lost then [] else a.fill
      (cores.foldl (fun s c => s.fillL1 c n) s).modLine n fun l => { l with
        attempts := updIf l.attempts (fun x => x.req == req) fun x => { x with fill := [] } }

/-- LNRECLAIM has been performed at the line's home, another member (R207, R261): the line is no longer lost, and every token
of its epoch is there; the data that the news carries is its value. DESIGN CHOICE: log 69. -/
def State.reclaimedAfar (s : State) (n : Nat) (data : List Byte) : State :=
  let l := s.line n
  if s.homeMember l == s.selfIn l.pool || !l.lost then s
  else
    let s1 := s.modLine n fun l => { l with
      lost := false, poisoned := false, homeTokens := Config.tokens, homeOwner := true, homeData := none, afar := data.length != 80
      msgs := l.msgs.filter fun m => m.epoch != l.epoch
      holders := l.holders.map fun h =>
        if h.epoch == l.epoch then { h with tokens := 0, owner := false, valid := false, dirty := false } else h }
    (if data.length == 80 then { s1 with mem := s1.mem.setWords (64 * n) (wordsCoded data) } else s1).showAll (64 * n) 64

/-- TOKEN_ARRIVAL (R200, R201, R203): the tokens are taken, or forwarded to the active requester; those of an earlier
epoch are discarded. Where the data comes from a member that may have written the line, `got.data` is what it wrote; and a
line that is lost here may be told to have been reclaimed at its home, another member (R207). -/
def execTokenArrival (line : Nat) (got : TokenLoad) (s : State) : Host.Outcome State Fault Refusal :=
  let l := s.line line
  if got.reclaimed then .next (s.reclaimedAfar line got.data)
  else match l.msgs.find? fun m => m.id == got.id with
  | none => .next s
  | some m =>
    let s0 := s.modLine line fun l => { l with msgs := l.msgs.filter fun x => x.id != got.id }
    if m.epoch != l.epoch then .next ((s0.countDie (homeDie line) 0x0105 1).note 1)
    else
      let s1 := s0.lineFrom line m got.data
      match m.dst with
      | none =>
        let wrote := m.owner && (s1.line line).homeData.isSome && s.homeMember l == s.selfIn l.pool
        let s2 := (s1.modLine line fun l => l.homeTake m).countDie (homeDie line) 0x0109 (if wrote then 64 else 0)
        .next (match l.active with | some n => s2.homeGiveAll line n | none => s2)
      | some r =>
        let s2 := (s1.modLine line fun l => l.sliceTake m r (!s.isOwn l r)).makeRoom line r
        match (l.holder r).forward with
        | some n => .next (if n == r then s2.fillWaiting line r else s2.giveAll line r (some n))
        | none => .next (s2.fillWaiting line r)

/-- L2_EVICTION (R201): a slice of a silent member sends nothing. -/
def execL2Eviction (line holder : Nat) (s : State) : Host.Outcome State Fault Refusal :=
  .next (if s.answers (s.line line) (holder / 64) then s.giveAll line (reqBase holder) none else s)

/-- Whether every holder that a requester's attempts have reached has answered: no request of it is on its way, or with one that
is silent, and no tokens are on their way to it (R202). -/
def Line.answered (l : Line) (req : Nat) : Bool :=
  !(l.msgs.any fun m => m.dst == some req) && !(l.asks.any fun a => a.1 == req)

/-- ATTEMPT_TIMEOUT (R202): the attempt has failed; another is sent, or a persistent request. -/
def execAttemptTimeout (line number : Nat) (s : State) : Host.Outcome State Fault Refusal :=
  let l := s.line line
  let req := reqBase number
  match l.attempt? req with
  | none => .next s
  | some a =>
    if l.holds req a.write && !a.persistent then .next (s.modLine line fun l => l.endAttempt req)
    else if a.persistent || l.lost || !(decide (a.sent + Config.attemptTime ≤ s.time) || l.answered req) then .next s
    else if decide (4 ≤ a.count) || decide (a.first + Config.persistAfter ≤ s.time) then
      let mine := if req / 64 == s.selfIn l.pool then 1 else 0
      .next ((s.modLine line fun l => { l with
        attempts := updIf l.attempts (fun x => x.req == req) fun x => { x with persistent := true }
        pleas := l.pleas ++ [req] }).countDie (req % 64 / 16) 0x0103 mine)
    else
      .next ((s.modLine line fun l => { l with
        attempts := updIf l.attempts (fun x => x.req == req) fun x => { x with count := x.count + 1, sent := s.time } }).ask line
          req a.write [none])

/-! ### Persistent requests (R203, R204) -/

/-- The number that an activation or a deactivation carries: each is newer than the one before. DESIGN CHOICE: log 98. -/
def actNumber (num : Nat) (activation : Bool) : Nat := if activation then 2 * num else 2 * num + 1

/-- Broadcast to every slice that could hold tokens. -/
def State.broadcast (s : State) (n num : Nat) (active : Option Nat) : State :=
  s.modLine n fun l => { l with actMsgs := l.actMsgs ++ (s.slices l).map fun r => { dst := r, num := num, active := active } }

/-- Activate a requester: a new number, the broadcast, the timer; the home forwards what it holds. -/
def State.activate (s : State) (n req : Nat) : State :=
  let l := s.line n
  let s1 := s.modLine n fun l => { l with
    active := some req, actNum := l.actNum + 1, timer := some (s.time + s.ownerTimeOf l) }
  (s1.broadcast n (actNumber (l.actNum + 1) true) (some req)).homeGiveAll n req

/-- PERSISTENT_REQUEST (R6, R203): it reaches the home; a silent home does nothing. -/
def execPersistentRequest (line number : Nat) (s : State) : Host.Outcome State Fault Refusal :=
  let l := s.line line
  let req := reqBase number
  let s1 := s.modLine line fun l => { l with pleas := l.pleas.erase req }
  if !s.homeAnswers l then .next s
  else if l.lost then .next (s1.failLine line [req])
  else match l.active with
    | none => .next (s1.activate line req)
    | some m =>
      if m == req || l.queue.contains req then .next s1
      else .next (s1.modLine line fun l => { l with queue := l.queue ++ [req] })

/-- The queued requester served next (R204). -/
def nextServed (queue : List Nat) (last : Nat) : Option Nat :=
  match minOf (queue.filter fun r => decide (last < r)) with
  | some r => some r
  | none => minOf queue

/-- PERSISTENT_SATISFIED (R203, R204). -/
def execPersistentSatisfied (line number : Nat) (s : State) : Host.Outcome State Fault Refusal :=
  let l := s.line line
  let req := reqBase number
  if l.active != some req then .next s
  else
    let s1 := s.modLine line fun l => { l with
      active := none, timer := none, lastServed := req
      attempts := l.attempts.filter fun a => a.req != req }
    let s2 := s1.broadcast line (actNumber l.actNum false) none
    match nextServed l.queue req with
    | none => .next s2
    | some r => .next ((s2.modLine line fun l => { l with queue := l.queue.filter fun x => x != r }).activate line r)

/-- ACTIVATION_MESSAGE (R6, R203): a message with a number reaches a slice, in any order; one that is not newer than the last
recorded is ignored. A silent member's slice does not act on it. -/
def execActivationMessage (line : Nat) (dst : Activation) (s : State) : Host.Outcome State Fault Refusal :=
  let l := s.line line
  let holder := reqBase dst.holder
  match l.actMsgs.find? fun m => m.dst == holder && m.num == dst.num && s.answers l (holder / 64) with
  | none => .next s
  | some m =>
    let s1 := s.modLine line fun l => { l with actMsgs := l.actMsgs.erase m }
    let h := l.holder holder
    if m.num ≤ h.seen then .next s1
    else
      let s2 := s1.modLine line fun l => l.setHolder { l.held holder with seen := m.num, forward := m.active }
      match m.active with
      | some n => .next (if n == holder then s2 else s2.giveAll line holder (some n))
      | none => .next s2

/-! ### Owner-lost (R205, R206) -/

/-- Put back a line's stale value, where one is kept: words with their codes. -/
def State.restoreHome (s : State) (n : Nat) : State :=
  match (s.line n).homeData with
  | none => s
  | some ws => { s with mem := s.mem.setWords (64 * n) ws }

/-- Owner-lost as one step (R205): a silent member does not learn the new epoch, and what it holds stays with it. -/
def State.ownerLost (s : State) (n : Nat) : State :=
  let l := s.line n
  let waiting := (match l.active with | some r => [r] | none => []) ++ l.queue
  let s1 := s.restoreHome n
  let s2 := s1.modLine n fun l => { l with
    epoch := (l.epoch + 1) % 256, lost := true, homeTokens := Config.tokens, homeOwner := true, homeData := none
    holders := l.holders.map fun h =>
      if s.within l h then
        { h with tokens := 0, owner := false, valid := false, dirty := false, forward := none, epoch := (l.epoch + 1) % 256 }
      else h
    active := none, queue := [], timer := none, attempts := [], afar := false }
  let s3 := { s2 with fabric := { s2.fabric with lostDir := insNat s2.fabric.lostDir n } }
  s3.failLine n waiting

/-- Forget what a member holds of the lines of a pool: it has been removed or reset (R206, R210, R277). Its tokens are gone
with it. -/
def State.forgetMember (s : State) (pool member : Nat) : State :=
  let mine (l : Line) : Line :=
    if l.pool == some pool then
      { l with holders := l.holders.filter fun h => h.req / 64 != member || h.req / 64 == s.selfIn (some pool) }
    else l
  { s with fabric := { s.fabric with lines := s.fabric.lines.map mine } }

/-- The requests of `LNRECLAIM` that a silent home has not answered within the owner time-out (R261). -/
def State.reclaimsLate (s : State) (f : Fibre) : List Req :=
  f.outst.filter fun r => (match r.kind with | .lnreclaim _ => true | _ => false) &&
    !s.homeAnswers (s.line (r.key / 64)) && decide (r.time + s.ownerTimeOf (s.line (r.key / 64)) ≤ s.time)

/-- Every `LNRECLAIM` of a line whose home has not answered within the owner time-out traps LINELOST (R261). -/
def State.failReclaims (s : State) (n : Nat) : State :=
  s.units.foldl (fun s u => u.fibres.foldl (fun s f =>
    ((s.reclaimsLate f).filter fun r => r.key / 64 == n).foldl (fun s r =>
      s.failReq u.key f.fid r (lineLost r.space r.addr)) s) s) s

/-- OWNER_TIMEOUT (R203, R205, R206), at the home; and at a requester of `LNRECLAIM` (R261). -/
def execOwnerTimeout (line : Nat) (s : State) : Host.Outcome State Fault Refusal :=
  let l := s.line line
  match l.active, l.timer with
  | some _, some t =>
    if s.time < t then .next s
    else if decide (Config.lostEntries ≤ s.fabric.lostDir.length) && !s.fabric.lostDir.contains line then
      .next (s.modLine line fun l => { l with timer := some (s.time + s.ownerTimeOf l) })
    else .next ((s.ownerLost line).countDie (homeDie line) 0x0104 1)
  | _, _ => .next (s.failReclaims line)

/-- STALE_EPOCH_DISCARD (R203). -/
def execStaleEpochDiscard (line msg : Nat) (s : State) : Host.Outcome State Fault Refusal :=
  match (s.line line).msgs.find? fun m => m.id == msg && m.epoch != (s.line line).epoch with
  | none => .next s
  | some _ => .next (((s.modLine line fun l => { l with msgs := l.msgs.filter fun x => x.id != msg }).countDie
      (homeDie line) 0x0105 1).note 1)

/-- Whether no token of an earlier epoch of a line is left anywhere (R206). -/
def Line.settledEpoch (l : Line) : Bool :=
  (l.holders.all fun h => h.epoch == l.epoch || h.tokens == 0) && l.msgs.all fun m => m.epoch == l.epoch

/-- Whether a member of a line's pool is silent still: it has been neither removed nor reset (R206). -/
def State.someSilent (s : State) (l : Line) : Bool := (s.pool? l.pool).any fun p => p.members.any p.silent.contains

/-- Whether the directory's entry of a line may be freed (R206). -/
def State.entryFrees (s : State) (l : Line) : Bool :=
  !l.lost && l.settledEpoch && !s.someSilent l && s.fabric.lostDir.contains l.line

/-- DIRECTORY_ENTRY_FREE (R206): once every member that failed to answer has been removed or reset, the line, no longer
lost, is at epoch 0 again. -/
def execDirectoryEntryFree (line : Nat) (s : State) : Host.Outcome State Fault Refusal :=
  if !s.entryFrees (s.line line) then .next s
  else
    let s1 := s.modLine line fun l => { l with
      epoch := 0, msgs := l.msgs.map fun m => { m with epoch := 0 }
      holders := l.holders.map fun h => { h with epoch := 0 } }
    .next { s1 with fabric := { s1.fabric with lostDir := s1.fabric.lostDir.filter fun x => x != line } }

end Sys2Proof.Machine
end

