-- ==== Sys2Proof/Machine/Access.lean ====
section
/-! DEFINITION. The access of a fibre to memory (spec 06 R118, 09 R184 to R209, 10 R213 to R237): the checks, the gate
through which a load's value is fixed, the requests a fibre leaves with the fabric, and performing them. -/

namespace Sys2Proof.Machine

/-! ### The checks (R118, R186, R240) -/

/-- Whether a capability's generation is that of the live allocation it names (R118 line 004). -/
def State.genOk (s : State) (u : Unit) (c : CapReg) : Bool :=
  if c.space == 1 then c.gen == u.gen else if c.space == 2 then c.gen == s.gangGen u else true

/-- The checks of R118 and the two of R186; the answer is the address. -/
def State.access (s : State) (u : Unit) (c : CapReg) (n : CReg) (off : Int) (size align : Nat) (need : Byte) :
    Except TrapInfo Nat :=
  let adr := c.base + off.toNat
  let win := 2097152
  if !c.tag then .error (trapOf 0x20 (n.setWidth 32))
  else if 6 ≤ c.space then .error (trapOf 0x22 (n.setWidth 32))
  else if !s.genOk u c then .error (trapOf 0x23 (n.setWidth 32))
  else if need &&& c.perms != need then .error (trapOf 0x22 (n.setWidth 32))
  else if off < 0 || decide ((c.length : Int) < off + size) then .error (trapOf 0x21 (BitVec.ofInt 32 off))
  else if adr % align != 0 then .error (trapOf 0x25 (BitVec.ofNat 32 adr))
  else if c.space != 2 then .ok adr
  else if (List.range size).any fun i => decide (u.desc.reach ≤ (adr + i) % win) then
    .error (trapOf 0x21 (BitVec.ofInt 32 off))
  else if (s.gangUnit u (adr / win)).isNone || (s.gangUnit u ((adr + size - 1) / win)).isNone then
    .error (trapOf 0x23 (n.setWidth 32))
  else .ok adr

/-- An access that has passed its checks: its space, address and key. -/
structure Acc where
  space : Nat
  adr : Nat
  key : Nat
  deriving DecidableEq, Repr, Inhabited

/-- An access through a memory operand: the checks, the spaces in which the instruction acts (R240), and translation
(R190). -/
def State.reachMem (s : State) (x : Ctx) (m : MemOp) (size align : Nat) (need : Byte) (right : BitVec 3)
    (spaces : List Nat) : Except TrapInfo Acc :=
  let c := x.f.cap m.cap.n
  match s.access x.u c m.cap.n (x.f.offset m) size align need with
  | .error t => .error t
  | .ok adr =>
    if !spaces.contains c.space then .error (trapOf 0x22 (m.cap.n.setWidth 32))
    else match s.locate x.u c.space adr right with
      | none => .error (pageFault c.space adr)
      | some k => .ok { space := c.space, adr := adr, key := k }

/-- The same for a plain store, which can also name a transfer aperture (R282). -/
def State.reachStore (s : State) (x : Ctx) (m : MemOp) (size align : Nat) (need : Byte) (spaces : List Nat) :
    Except TrapInfo Acc :=
  let c := x.f.cap m.cap.n
  match s.access x.u c m.cap.n (x.f.offset m) size align need with
  | .error t => .error t
  | .ok adr =>
    if !spaces.contains c.space then .error (trapOf 0x22 (m.cap.n.setWidth 32))
    else match s.storeKey x.u c.space adr with
      | none => .error (pageFault c.space adr)
      | some k => .ok { space := c.space, adr := adr, key := k }

/-- Whether the core's range scoreboard holds back an access (R13). -/
def State.rangeBusy (s : State) (core key size : Nat) (write : Bool) : Bool :=
  match s.core? core with
  | some c => scratchCore key == some core &&
      c.scoreboard.any fun e => overlaps key size e.lo (e.hi - e.lo) && (e.write || write)
  | none => false

/-- Whether an unperformed request of the fibre touches a range. -/
def Fibre.ownOverlap (f : Fibre) (key size : Nat) : Bool :=
  f.outst.any fun r => r.cls != .none && overlaps key size r.key r.size

/-! ### Buffered stores of a DET stroke (R237) -/

/-- The bytes a plain store writes. -/
def Req.bytes (r : Req) : List Byte :=
  match r.kind with
  | .store bs _ => bs
  | .storeCap c => bytesOfNat 16 c.bits.toNat
  | _ => []

/-- The code a plain store carries for the word at a key, where it writes the whole word. -/
def Req.codeAt (r : Req) (k : Nat) : Option Byte :=
  match r.kind with
  | .store _ codes => codes[(k - r.key) / 4]?
  | _ => none

/-- A word with a buffered store laid over it: a merge checks the word first (R121, R197), and one that is uncorrectable stays
so for the consumers after it. -/
def Req.over (r : Req) (k : Nat) (w : Reg) : Reg :=
  if overlaps k 4 r.key r.size then
    let old := match checkWord w with | some (v, _) => v | none => w.val
    let byteAt (i : Nat) : Byte :=
      if r.key ≤ k + i && decide (k + i < r.key + r.size) then r.bytes.getD (k + i - r.key) 0 else wordByte old i
    let v := wordOf4 (byteAt 0) (byteAt 1) (byteAt 2) (byteAt 3)
    match r.codeAt k with
    | some c => { val := v, code := c }
    | none => if (checkWord w).isSome then fresh v else { val := v, code := codeOf v ^^^ (w.code ^^^ codeOf w.val) }
  else w

/-- A word as a fibre of a DET launch reads it. -/
def Fibre.overlay (f : Fibre) (k : Nat) (w : Reg) : Reg := f.stroke.stores.foldl (fun w r => r.over k w) w

/-- A granule's tag as a fibre of a DET launch reads it. -/
def Fibre.overlayTag (f : Fibre) (k : Nat) (t : Bool) : Bool :=
  f.stroke.stores.foldl (fun t r =>
    if overlaps k 16 r.key r.size then (match r.kind with | .storeCap c => c.tag | _ => false) else t) t

/-! ### The gate of a load (R188, R192, R209, R215, R217) -/

/-- Where a load's value comes from. -/
inductive Source where
  | mem
  | l1 (l : L1Line)
  deriving DecidableEq, Repr

/-- The scopes in order, narrowest first (R212). -/
def scopeNum : Scope → Nat
  | .unit => 0
  | .gang => 1
  | .dev => 2
  | .sys => 3

/-- Whether an earlier release or barrier arrival of the fibre is outstanding (R219): an acquire of any scope follows it, by
the matrix of the narrower scope. -/
def Fibre.releaseOut (f : Fibre) : Bool := f.outst.any fun r => r.cls == .rel || r.cls == .ba

/-- Whether a key lies in a core's own scratchpad. -/
def ownScratch (core key : Nat) : Bool := scratchCore key == some core

/-- Whether an earlier store of the fibre to its core's own scratchpad is outstanding (R219 note 2). -/
def Fibre.ownStoreOut (f : Fibre) (core : Nat) : Bool := f.outst.any fun r => r.isStore && ownScratch core r.key

/-- Whether a fibre waits to be performed after its outstanding accesses: to bytes in common, or its own scratchpad (R219
notes 1 and 2). -/
def Fibre.ownBusy (f : Fibre) (core key size : Nat) : Bool :=
  f.ownOverlap key size || (ownScratch core key && f.ownStoreOut core)

/-- Whether an acquire discards the L1 copies of its core (R192). -/
def discards (m : MMod) : Bool := m.order == .acq && decide (1 ≤ scopeNum m.scope)

/-- Whether a load's value is fixed now, and from where; otherwise what the instruction comes to. `l1` says that an
L1 copy may serve it. -/
def State.gate (s : State) (x : Ctx) (i : Instr) (m : MMod) (a : Acc) (size : Nat) (l1 : Bool) : Except Fx Source :=
  if x.f.served then
    if tokenKey a.key then
      let l := s.line (a.key / 64)
      if l.lost then .error (.trap (lineLost a.space a.adr))
      else if l.poisoned then .error (.trap (poisonAt a.space a.adr))
      else .ok .mem
    else .ok .mem
  else if s.rangeBusy x.u.core a.key size false then .error (.wait s .scoreboard)
  else if x.f.ownBusy x.u.core a.key size then .error (.wait s .fence)
  else if m.order == .acq && x.f.releaseOut then .error (.wait s .fence)
  else if a.space == 4 then
    if x.f.outst.any fun r => r.space == 4 then .error (.wait s .fence) else .error (.wait s (.hostRead i s.time))
  else if tokenKey a.key then
    let hit := (s.line (a.key / 64)).canRead (s.reqOf (s.line (a.key / 64)) (dieOf x.u.core))
    let go : Fx := .wait (s.countDie (dieOf x.u.core) (if hit then 0x0101 else 0x0102) 1) (.load i a.key a.space a.adr)
    if l1 && !discards m && !s.detOf x.u then
      match s.l1? x.u.core (a.key / 64) with
      | some c => .ok (.l1 c)
      | none => .error go
    else .error go
  else .ok .mem

/-- Whether a key lies in memory that an agent may see late: a line of spaces 0 and 5 at L2, or a scratchpad. -/
def lagKey (k : Nat) : Bool := tokenKey k || (scratchCore k).isSome

/-- A load of a range fixes which writes of others it sees (R14, R214, R224); in a DET launch, all. -/
def State.fixView (s : State) (x : Ctx) (src : Source) (a : Acc) (size : Nat) : State :=
  if src == .mem && lagKey a.key && !s.fabric.lags.isEmpty then
    (if s.detOf x.u then s.lookAll else s.look) x.u.core a.key size
  else s

/-- A word of a source, as the fibre reads it. -/
def State.sourceWord (s : State) (x : Ctx) (src : Source) (k : Nat) : Reg :=
  let w := match src with
    | .mem => if lagKey k then s.viewWord x.u.core k else s.mem.word k
    | .l1 l => l.data.getD (k % 64 / 4) Reg.zero
  if s.overlaid x.u then x.f.overlay k w else w

/-- What a load leaves in the core's L1 (R191, R192): an acquire at `.gang` scope or wider discards the shared copies;
a line served by L2 is filled. -/
def State.afterLoad (s : State) (x : Ctx) (m : MMod) (a : Acc) (src : Source) : State :=
  let s1 := if discards m then s.dropL1Shared x.u.core else s
  if x.f.served && tokenKey a.key && src == .mem then s1.fillL1 x.u.core (a.key / 64) else s1

/-- Count a correction of a memory word and log it (R195). -/
def State.noteFix (s : State) (core key : Nat) (fixed : Bool) : State :=
  if fixed then (s.countDie (dieOf core) 0x0106 1).logRec 4 0 0 key else s

/-- Whether a word is corrected when it is consumed (R195). -/
def corrected (w : Reg) : Bool := match checkWord w with | some (_, b) => b | none => false

/-- Count and log the correction of each word of a memory's range that needs one (R195). -/
def State.noteRange (s : State) (m : Memory) (core key size : Nat) : State :=
  if m.anyCorrected key size then
    let first := wordKey key
    (List.range ((key + size + 3 - first) / 4)).foldl (fun s i =>
      s.noteFix core (first + 4 * i) (corrected (m.word (first + 4 * i)))) s
  else s

/-- The core whose die counts a correction that no core's engine makes (R195): that of the line's home, or of the scratchpad's
own core. -/
def homeCore (key : Nat) : Nat :=
  match scratchCore key with
  | some c => c
  | none => 24 * homeDie (key / 64)

/-- Count and log the corrections of a range that the front end, the host port or a fetch reads (R195). -/
def State.noteHome (s : State) (m : Memory) (key size : Nat) : State := s.noteRange m (homeCore key) key size

/-- Count and log the corrections of words that an engine keeps itself (R195). -/
def State.noteWords (s : State) (core : Nat) (ws : List Reg) : State :=
  if ws.any corrected then ws.foldl (fun s w => s.noteFix core 0 (corrected w)) s else s

/-! ### Making a request -/

/-- The slots released by the L bits of an instruction, with what they held. -/
def Fibre.undoOf (f : Fibre) (last : List Nat) : List (Nat × Reg) :=
  last.filterMap fun n => (tget f.stack (f.base + n)).map fun r => (f.base + n, r)

/-- A request of the issuing fibre for an access; each takes the next number. -/
def State.newReq (s : State) (x : Ctx) (kind : ReqKind) (cls : AccClass) (acq : Bool) (sc : Scope) (a : Acc)
    (size : Nat) (dests : List Nat) (last : List Nat) : Req :=
  { seq := s.seqCtr, kind := kind, cls := cls, acquire := acq, scope := sc, space := a.space, addr := a.adr, key := a.key
    size := size, dests := dests.map fun d => x.f.base + d, creg := 0, sent := false, pc := x.f.pc, issued := s.clk
    undo := x.f.undoOf last, time := s.time }

/-- Whether a request needs every token of its line at the issuing die's slice.
DESIGN CHOICE: log 61. -/
def Req.needsTokens (r : Req) : Bool :=
  tokenKey r.key && (match r.kind with | .lnflush => false | _ => true)

/-- Count whether a request of a fibre finds its line at its die's L2 (R457): with every token, or not. -/
def State.countL2 (s : State) (core : Nat) (r : Req) : State :=
  if !r.needsTokens then s
  else
    let l := s.line (r.key / 64)
    s.countDie (dieOf core) (if l.canWrite (s.reqOf l (dieOf core)) then 0x0101 else 0x0102) 1

/-- Leave a request of a fibre on a core with the fabric. -/
def State.leave (s : State) (core : Nat) (r : Req) : State :=
  { (s.countL2 core r).modCur fun f => { f with outst := f.outst ++ [r] } with seqCtr := s.seqCtr + 1 }

/-! ### Order among a fibre's requests (R217 to R222, R250) -/

/-- Whether a request must be performed after an earlier one of its fibre. -/
def Req.after (r e : Req) : Bool :=
  r.cls != .none && e.cls != .none &&
    (overlaps r.key r.size e.key e.size || r.cls == .rel || r.cls == .ba ||
      (r.acquire && (e.cls == .rel || e.cls == .ba)) || (r.space == 4 && e.space == 4) ||
      (r.isStore && e.isStore && (scratchCore r.key).isSome && scratchCore r.key == scratchCore e.key))

/-- Whether a request is an update of a barrier object by a fibre. -/
def Req.isUpdate (r : Req) : Bool :=
  match r.kind with
  | .bararr => true
  | .bartx _ => true
  | _ => false

/-- Whether an update of a barrier object waits for one of the same batch with a lower `$fid` (R250, R251): the fibres
of a batch issue one instruction in one cycle on one core. -/
def State.batchBefore (s : State) (u : Unit) (fid : Nat) (r : Req) : Bool :=
  r.isUpdate && s.units.any fun v => v.core == u.core && v.fibres.any fun g =>
    (decide (g.fid < fid) || (g.fid == fid && decide (v.key < u.key))) &&
      g.outst.any fun q => q.isUpdate && q.key == r.key && q.issued == r.issued && q.pc == r.pc

/-! ### Barrier objects (R229 to R231) -/

/-- The word that BARINIT writes (R249). -/
def barInitWord (v : Word) : DWord :=
  let aexp : DWord := (v.extractLsb' 0 13).setWidth 64
  let gexp : DWord := (v.extractLsb' 13 18).setWidth 64
  aexp <<< 50 ||| aexp <<< 37 ||| gexp <<< 19 ||| gexp <<< 1

/-- An update of an object: `arr` arrivals (0 or 1) and `g` granules (R230), and whether it exceeded a count. -/
def barStep (w : DWord) (arr g : Nat) : DWord × Bool :=
  let aexp := (w.extractLsb' 50 13).toNat
  let apend := (w.extractLsb' 37 13).toNat
  let gexp := (w.extractLsb' 19 18).toNat
  let gpend := (w.extractLsb' 1 18).toNat
  let inert := aexp == 0 && gexp == 0
  let excess := decide (apend < arr) || decide (gpend < g) || inert
  let a := apend - arr
  let n := gpend - g
  let flip := !inert && a == 0 && n == 0
  let phase := w.getLsbD 63 != flip
  let a' := if flip then aexp else a
  let n' := if flip then gexp else n
  ((if phase then 1#64 <<< 63 else 0) ||| BitVec.ofNat 64 aexp <<< 50 ||| BitVec.ofNat 64 a' <<< 37 |||
    BitVec.ofNat 64 gexp <<< 19 ||| BitVec.ofNat 64 n' <<< 1 ||| (if excess || w.getLsbD 0 then 1 else 0), excess)

/-- The 64-bit word at a key as a consumer reads it. -/
def Memory.dword (m : Memory) (k : Nat) : DWord := joinPair (m.good k) (m.good (k + 4))

/-- Wake the fibres that wait on a barrier object whose phase differs from theirs (R252). -/
def State.wakeBarrier (s : State) (key : Nat) (phase : Bool) : State :=
  { s with units := s.units.map fun u =>
      if s.detOf u then u
      else { u with fibres := u.fibres.map fun f => match f.wait with
        | some (.barrier k p) => if k == key && p != phase then { f with wait := none, served := true } else f
        | _ => f } }

/-- Update a barrier object as one step (R230); an excess is counted by firmware core 4. The answer is the phase in
which the update was counted. DESIGN CHOICE: log 57. -/
def State.barUpdate (s : State) (key arr g : Nat) : State × Bool :=
  let w := s.mem.dword key
  let (w', excess) := barStep w arr g
  let s1 := { s with mem := s.mem.setWords key (regs64 w') }
  let s2 := if excess then s1.note 2 else s1
  (s2.wakeBarrier key (w'.getLsbD 63), w.getLsbD 63)

/-! ### Performing a request (R243 to R251, R259 to R261) -/

/-- The result of an AMO at a size (R243). -/
def amoNew (op : AmoOp) (signed wide : Bool) (old v : DWord) : DWord :=
  let lt : Bool :=
    if wide then (if signed then old.slt v else old.ult v)
    else (if signed then (old.setWidth 32).slt (v.setWidth 32) else (old.setWidth 32).ult (v.setWidth 32))
  match op with
  | .add => old + v
  | .and => old &&& v
  | .or => old ||| v
  | .xor => old ^^^ v
  | .min => if lt then old else v
  | .max => if lt then v else old
  | .swap => v

/-- The result of an AMOF and its flags (R244). -/
def amofNew (op : AmofOp) (rmode old v : Word) : Word × Word :=
  let r := roundOf rmode none
  let x := match op with
    | .add => fadd .f32 r (fread .f32 r.daz old.toNat) (fread .f32 r.daz v.toNat)
    | .min => fminmax .f32 r.daz false old.toNat v.toNat
    | .max => fminmax .f32 r.daz true old.toNat v.toNat
  (BitVec.ofNat 32 x.1, x.2)

/-- The words of a list of bytes. -/
def wordsOfBytes : List Byte → List Reg
  | a :: b :: c :: d :: rest => fresh (wordOf4 a b c d) :: wordsOfBytes rest
  | _ => []

/-- The first word of a range that is uncorrectable, as the trap it raises (R197). -/
def State.badRange (s : State) (a : Acc) (size : Nat) : Option TrapInfo :=
  (s.mem.badWord a.key size).map fun k => checkFail a.space (a.adr + (k - a.key))

/-- The check of the words a request computes from (R242). -/
def State.rangeCheck (s : State) (r : Req) : Option TrapInfo :=
  s.badRange { space := r.space, adr := r.addr, key := r.key } r.size

/-- Return a request's result and its flags: its destinations receive their words, and it is done. A request that an earlier
fibre of the index left behind answers nobody (R66). -/
def Fibre.finish (f : Fibre) (r : Req) (ws : List Reg) (flags : Word) : Fibre :=
  if f.owns r.issued then ((f.fillRegs (r.dests.headD 0) ws).dropReq r.seq).raise flags else f.dropReq r.seq

/-- A core's copy of a line takes the bytes that its own fibre's store writes, and no others (R192). -/
def State.refreshL1 (s : State) (core : Nat) (r : Req) : State :=
  let n := r.key / 64
  s.modCore core fun c => { c with l1 := updIf c.l1 (fun x => x.line == n) fun x =>
    { x with data := x.data.mapIdx fun i w => r.over (64 * n + 4 * i) w } }

/-- A word as it leaves for the host (R197): corrected, or sent poisoned. -/
def egress (r : Reg) : Reg :=
  match checkWord r with
  | some (w, _) => fresh w
  | none => fresh r.val

/-- Whether a key lies in host memory. -/
def hostMemKey (k : Nat) : Bool := region 2 ≤ k && decide (k < region 3)

/-- Words have left for the host (R195, R197): corrections are counted and logged, and a write with an uncorrectable word
goes marked poisoned and is logged. -/
def State.noteEgress (s : State) (core : Nat) (ws : List (Nat × Reg)) : State :=
  let bad := ws.filter fun w => (checkWord w.2).isNone
  let s1 := ws.foldl (fun s w => s.noteFix core w.1 (corrected w.2)) s
  let s2 := bad.foldl (fun s w => s.logRec 4 0x26 0 w.1) s1
  if ws.isEmpty then s2 else { s2 with life := { s2.life with hostEp := !bad.isEmpty } }

/-- Host memory after a store to it: each whole word as it left. -/
def Memory.sent (m : Memory) (ws : List (Nat × Reg)) : Memory := ws.foldl (fun m w => m.setWord w.1 (egress w.2)) m

/-- Note that a request has written its range: the line is dirty, and the core's own copy follows or goes. -/
def State.wrote (s : State) (core req : Nat) (r : Req) (keepL1 : Bool) (m : Memory) : State :=
  if tokenKey r.key then
    let s1 := { s.dirtyLine (r.key / 64) req with mem := m }
    if keepL1 then s1.refreshL1 core r else s1.dropL1 core (r.key / 64)
  else { s with mem := m }

/-- Whether a request is a release or a barrier arrival (R223): what is performed so far is then visible to its scope. -/
def Req.settles (r : Req) : Bool := r.cls == .rel || r.cls == .ba

/-- What the release of a request does before the request itself (R223). -/
def State.releaseOf (s : State) (u : Unit) (r : Req) : State := if r.settles then s.releaseTo u r.scope else s

/-- Whether a store is seen whole, a capability with its tag (R214). -/
def Req.whole (r : Req) : Bool := (match r.kind with | .storeCap _ => true | _ => false) && (scratchCore r.key).isSome

/-- The words that a store sends to host memory, whole, with their codes. -/
def Req.hostWords (r : Req) (m : Memory) : List (Nat × Reg) :=
  if hostMemKey r.key && r.size % 4 == 0 then (List.range (r.size / 4)).map fun i => (r.key + 4 * i, m.word (r.key + 4 * i))
  else []

/-- Write the bytes of a store with its codes, or merged (R121); a capability with its tag (R126). -/
def Req.write (r : Req) (m : Memory) : Memory :=
  match r.kind with
  | .store bs [] => m.setBytes r.key bs
  | .store bs codes => m.setWords r.key ((wordsOfBytes bs).zipWith (fun w c => { w with code := c }) codes)
  | .storeCap c =>
    let m1 := m.setWords r.key (wordsOfBytes (bytesOfNat 16 c.bits.toNat))
    if c.tag && (r.space == 1 || r.space == 2) then m1.setTag r.key else m1
  | _ => m

/-- Perform a store of a fibre (R121, R192, R209): one that finds its line lost or poisoned, or an uncorrectable old
word under a merge, is discarded and its fault recorded. One to a transfer aperture arrives there (R282). -/
def State.doStore (s : State) (u : Unit) (fid req : Nat) (r : Req) : State :=
  let l := s.line (r.key / 64)
  let merged := match r.kind with | .store _ [] => true | _ => false
  let bad := if merged then s.rangeCheck r else none
  if decide (region 6 ≤ r.key) && decide (r.key < region 7) then
    (s.modFibre u.key fid fun f => f.dropReq r.seq).next
      (.apertureStore ((r.key - region 6) / 512) ((r.key - region 6) % 512) r.size
        (BitVec.ofNat 64 (natOfBytes (r.bytes.take 8))))
  else if tokenKey r.key && l.lost then s.failReq u.key fid r (lineLost r.space r.addr)
  else if tokenKey r.key && l.poisoned then s.failReq u.key fid r (poisonAt r.space r.addr)
  else match bad with
    | some t => s.failReq u.key fid r t
    | none =>
      let out := r.hostWords (r.write s.mem)
      let s0 := s.releaseOf u r
      let s1 := s0.wrote u.core req r true ((r.write s.mem).sent out)
      let s2 := if lagKey r.key && !s.detOf u then s1.lagStore s.mem u.core r.key r.size r.whole else s1
      let s3 := (if merged then s2.noteRange s.mem u.core r.key r.size else s2).noteEgress u.core out
      (s3.hide u s.mem r.key r.size).modFibre u.key fid fun f => f.dropReq r.seq

/-- Perform an atomic or another request that answers (R243 to R251): the new memory, the words that answer and the
flags. -/
def Req.compute (r : Req) (m : Memory) : Memory × List Reg × Word :=
  let wide := r.size == 8
  let old : DWord := if wide then m.dword r.key else (m.good r.key).setWidth 64
  match r.kind with
  | .amo op sg v => (m.setWords r.key (regsAt wide (amoNew op sg wide old v)), regsAt wide old, 0)
  | .amof op v rm =>
    let n := amofNew op rm (old.setWidth 32) v
    (m.setWords r.key [fresh n.1], regsAt false old, n.2)
  | .cas e n =>
    let o := m.goodBytes r.key r.size
    (if o == e then m.setWords r.key (wordsOfBytes n) else m, wordsOfBytes o, 0)
  | .barinit w => (m.setWords r.key (regs64 (barInitWord w)), [], 0)
  | _ => (m, [], 0)

/-- Whether a request writes its range (R245, R247, R251): an `AMO` does whatever its new value is, a `CAS` that fails does
not, and a `BARTX` of 0 bytes changes nothing. -/
def Req.writes (r : Req) (m : Memory) : Bool :=
  match r.kind with
  | .cas e _ => m.goodBytes r.key r.size == e
  | .bartx g => g != 0
  | .lninv => false
  | .lnflush => false
  | _ => true

/-- Send every token of a line that the dies of this device hold to the home (R259); what is dirty is written there. -/
def State.flushLine (s : State) (n : Nat) : State :=
  let l := s.line n
  let dirty := l.homeData.isSome && s.homeMember l == s.selfIn l.pool &&
    ((List.range 4).map (s.reqOf l)).any fun req => (l.holder req).owner && (l.holder req).epoch == l.epoch
  let s1 := (((List.range 4).map (s.reqOf l)).foldl (fun s req =>
    let l := s.line n
    let h := l.holder req
    if h.tokens = 0 || h.epoch != l.epoch then s
    else s.modLine n fun l =>
      (l.setHolder { h with tokens := 0, owner := false, valid := false, dirty := false }).homeTake
        { id := 0, dst := none, tokens := h.tokens, owner := h.owner, data := h.owner, epoch := l.epoch, away := false }) s).countDie
      (homeDie n) 0x0109 (if dirty then 64 else 0)
  s1.passOn n

/-- Perform LNINV (R260): every token at the home with the value of home memory, no copy left. A poisoned line is no other
case, and stays poisoned. DESIGN CHOICE: log 100. -/
def State.doLninv (s : State) (u : Unit) (fid : Nat) (r : Req) : State :=
  let n := r.key / 64
  let s1 := (((s.restoreHome n).gatherHome n).dropL1All n).showAll (64 * n) 64
  s1.modFibre u.key fid fun f => f.finish r [] 0

/-- Perform LNRECLAIM (R207, R261). -/
def State.doLnreclaim (s : State) (u : Unit) (fid : Nat) (r : Req) (bytes : List Byte) : State :=
  let n := r.key / 64
  let l := s.line n
  let d : Word := if l.lost then 1 else if l.poisoned then 2 else 0
  let s1 := (s.modLine n fun l => { l with lost := false, poisoned := false }).gatherHome n
  let s2 := { s1.showAll (64 * n) 64 with mem := s1.mem.setWords (64 * n) (wordsOfBytes bytes) }
  ((s2.sigWrite u fid r.seq r.space r.addr bytes).dropL1 u.core n).modFibre u.key fid fun f => f.finish r [fresh d] 0

/-- The memory as a fibre of a shadow copy sees it: with its own writes that are not performed (R406). -/
def State.phantomMem (s : State) (f : Fibre) : Memory := f.stroke.stores.foldl (fun m q => q.write m) s.mem

/-- Perform a request of a shadow copy outside its own scratchpad: it answers, and its write stays with the fibre
(R406). -/
def State.performPhantom (s : State) (u : Unit) (fid : Nat) (r : Req) : State :=
  match u.fibre? fid with
  | none => s
  | some f =>
    let m := s.phantomMem f
    let w := m.dword r.key
    let bar (arr g : Nat) : Memory × List Reg × Word :=
      (m.setWords r.key (regs64 (barStep w arr g).1), [fresh (boolWord (w.getLsbD 63))], 0)
    let c := match r.kind with
      | .bararr => bar 1 0
      | .bartx g => if g = 0 then (m, [fresh (boolWord (w.getLsbD 63))], 0) else bar 0 g
      | .lnreclaim bytes => (m.setWords (r.key / 64 * 64) (wordsOfBytes bytes), [fresh 0], 0)
      | _ => r.compute m
    let bs := c.1.bytes r.key r.size
    let kept : Req := { r with kind := .store bs ((c.1.words r.key ((r.size + 3) / 4)).map Reg.code) }
    let s0 := if r.writes m then s.sigWrite u fid r.seq r.space r.addr bs else s
    let s1 := if bs == m.bytes r.key r.size then s0
      else s0.modFibre u.key fid fun f => { f with stroke := { f.stroke with stores := f.stroke.stores ++ [kept] } }
    s1.modFibre u.key fid fun f => f.finish r c.2.1 c.2.2

/-- Note an arrival's or a counted write's new object, after `m`: its corrections, and its record (R195, R407). -/
def State.barSigned (s : State) (m : Memory) (u : Unit) (fid : Nat) (r : Req) : State :=
  let s1 := s.noteRange m u.core r.key r.size
  if r.writes m then s1.sigWrite u fid r.seq r.space r.addr (s.mem.bytes r.key r.size) else s1

/-- Perform a request whose order, tokens and place allow it. -/
def State.perform (s : State) (u : Unit) (fid req : Nat) (r : Req) : State :=
  let l := s.line (r.key / 64)
  if u.phantom r.key then s.performPhantom u fid r
  else match r.kind with
  | .store _ _ => s.doStore u fid req r
  | .storeCap _ => s.doStore u fid req r
  | .lnflush => ((s.flushLine (r.key / 64)).dropL1 u.core (r.key / 64)).modFibre u.key fid fun f => f.dropReq r.seq
  | .lninv => if l.lost then s.failReq u.key fid r (lineLost r.space r.addr) else s.doLninv u fid r
  | .lnreclaim bytes => s.doLnreclaim u fid r bytes
  | _ =>
    if tokenKey r.key && l.lost then s.failReq u.key fid r (lineLost r.space r.addr)
    else if tokenKey r.key && l.poisoned then s.failReq u.key fid r (poisonAt r.space r.addr)
    else match (match r.kind with | .barinit _ => none | _ => s.rangeCheck r) with
      | some t => s.failReq u.key fid r t
      | none =>
        let s0 := s.releaseOf u r
        match r.kind with
        | .bararr =>
          let p := s0.barUpdate r.key 1 0
          (p.1.barSigned s.mem u fid r).modFibre u.key fid fun f => f.finish r [fresh (boolWord p.2)] 0
        | .bartx g =>
          let p := if g = 0 then (s0, (s.mem.dword r.key).getLsbD 63) else s0.barUpdate r.key 0 g
          (p.1.barSigned s.mem u fid r).modFibre u.key fid fun f => f.finish r [fresh (boolWord p.2)] 0
        | _ =>
          let c := r.compute s.mem
          let s1 := if r.writes s.mem then s0.sigWrite u fid r.seq r.space r.addr (c.1.bytes r.key r.size) else s0
          let s2 := (s1.lookAll u.core r.key r.size).wrote u.core req r false c.1
          let s3 := match r.kind with
            | .barinit w => s2.wakeBarrier r.key ((barInitWord w).getLsbD 63)
            | _ => s2.noteRange s.mem u.core r.key r.size
          let s4 := if r.acquire && decide (1 ≤ scopeNum r.scope) then s3.dropL1Shared u.core else s3
          (s4.hide u s.mem r.key r.size).modFibre u.key fid fun f => f.finish r c.2.1 c.2.2

/-- Whether a request gathers its line's tokens at its slice at the commit of a DET round: `LNINV` loses what is dirty
(R260). -/
def Req.gathers (r : Req) : Bool := r.needsTokens && (match r.kind with | .lninv => false | _ => true)

/-- Whether a slice may perform a request now: the tokens are held, or the line's state answers by itself. -/
def State.tokensFor (s : State) (req : Nat) (r : Req) : Bool :=
  !r.needsTokens || ((s.line (r.key / 64)).lost && (r.failsLost || s.homeAnswers (s.line (r.key / 64)))) ||
    (s.line (r.key / 64)).canWrite req

/-- Whether a release or barrier arrival comes after a frame that its fibre has posted and a port has not read (R350). -/
def State.postBefore (s : State) (u : Unit) (fid : Nat) (r : Req) : Bool :=
  (r.cls == .rel || r.cls == .ba) && (s.wire.ports.flatMap Port.posts).any fun p =>
    p.unit == u.key && p.fid == fid && decide (p.sb < r.seq)

/-- The `k`-th request of a fibre, if its order allows it to be performed. -/
def State.readyReq? (s : State) (u : Unit) (f : Fibre) (k : Nat) : Option Req :=
  match f.outst[k]? with
  | none => none
  | some r =>
    if (f.outst.take k).any (fun e => r.after e) || s.batchBefore u f.fid r || s.postBefore u f.fid r || r.sent then none
    else some r

/-- Whether a request is a PCIe AtomicOp, whose result the host returns (R241). -/
def Req.isAtomic (r : Req) : Bool :=
  match r.kind with
  | .amo _ _ _ => true
  | .amof _ _ _ => true
  | .cas _ _ => true
  | _ => false

/-- ACCESS_PERFORMED (R248): a request is performed at its scratchpad, slice or home, or leaves IO0. -/
def execAccessPerformed (unit fid k : Nat) (s : State) : Host.Outcome State Fault Refusal :=
  match s.unit? unit with
  | none => .next s
  | some u => match u.fibre? fid with
    | none => .next s
    | some f => match s.readyReq? u f k with
      | none => .next s
      | some r =>
        let n := r.key / 64
        let req := s.reqOf (s.line n) (dieOf u.core)
        if u.phantom r.key then .next (s.perform u fid req r)
        else if r.space == 4 && r.isAtomic then
          .next (s.modFibre unit fid fun f => { f with
            outst := updIf f.outst (fun q => q.seq == r.seq) fun q => { q with sent := true, time := s.time } })
        else if s.tokensFor req r then
          let s1 := s.perform u fid req r
          .next (if r.needsTokens then s1.modLine n fun l => l.endAttempt req else s1)
        else .next s

end Sys2Proof.Machine
end

