-- ==== Sys2Proof/Machine/Memory.lean ====
section
/-! DEFINITION. The memory instructions (spec 06 R107, R108, R116 to R126): loads, stores, prefetch, capabilities in
memory, the window moves, and the events that serve them (05 R70, R78, 06 R101). -/

namespace Sys2Proof.Machine

/-- The bytes of an integer type in memory (R120). -/
def memBytes : ITy → Nat
  | .i8 => 1 | .n8 => 1 | .i16 => 2 | .n16 => 2 | .i32 => 4 | .n32 => 4 | .i64 => 8 | .n64 => 8

/-- Every space. -/
def allSpaces : List Nat := [0, 1, 2, 3, 4, 5]
/-- The spaces that a store may name (R121). -/
def storeSpaces : List Nat := [0, 1, 2, 4, 5]

/-- The faults that an instruction with an ORDER delivers (R209): an acquire does. -/
def acqTakes (m : MMod) : List FaultClass := if m.order == .acq then [.store] else []

/-! ### Loads (R120, R122, R126) -/

/-- The word of an 8-bit or 16-bit load, extended (R120). -/
def extendLoad (t : ITy) (w : Word) (off : Nat) : Word :=
  let v := w >>> (8 * off)
  match t with
  | .i8 => (v.setWidth 8).signExtend 32
  | .n8 => (v.setWidth 8).setWidth 32
  | .i16 => (v.setWidth 16).signExtend 32
  | .n16 => (v.setWidth 16).setWidth 32
  | _ => v

/-- The words of a range as the load of a fibre fixes them. -/
def State.readWords (s : State) (x : Ctx) (src : Source) (key n : Nat) : List Reg :=
  (List.range n).map fun j => s.sourceWord x src (key + 4 * j)

/-- An access of 8 bytes: a half of one of 16 (R123). -/
def Acc.half (a : Acc) (upper : Bool) : Acc :=
  if upper then { a with adr := a.adr + 8, key := a.key + 8 } else a

/-- Read the first half of a 16-byte load, either of the two, and wait for the other (R123): what is performed between them
may fall on the other half. DESIGN CHOICE: log 91. -/
def State.firstHalf (s : State) (x : Ctx) (i : Instr) (a : Acc) (src : Source) : Fx :=
  let (n, s1) := s.draw
  let upper := Config.freeNat n % 2 == 1
  let b := a.half upper
  let c := a.half !upper
  let s2 := s1.fixView x src b 8
  let w : Wait := if a.space == 4 then .hostRead i s2.time else .load i c.key c.space c.adr
  .waitKeep s2 { x.f with half := some (upper, s2.readWords x src b.key 2) } w

/-- The words of a load of `n` words that has passed its checks, and the state in which they are fixed: a load of 16 bytes is
one access where `whole` says so, in a DET launch, whose round sees one memory, and where one L1 copy serves it; else it is two
halves (R123). -/
def State.loadFrom (s : State) (x : Ctx) (i : Instr) (m : MMod) (a : Acc) (n : Nat) (whole : Bool) :
    Except Fx (State × Source × List Reg) :=
  match x.f.half with
  | some (upper, ws) =>
    let b := a.half !upper
    (match s.gate x i m b 8 true with
    | .error e => .error e
    | .ok src =>
      let s1 := s.fixView x src b 8
      let rest := s1.readWords x src b.key 2
      .ok (s1, src, if upper then rest ++ ws else ws ++ rest))
  | none => match s.gate x i m a (4 * n) true with
    | .error e => .error e
    | .ok src =>
      if n == 4 && !whole && src == .mem && !s.overlaid x.u then .error (s.firstHalf x i a src)
      else
        let s1 := s.fixView x src a (4 * n)
        .ok (s1, src, s1.readWords x src a.key n)

/-- A load of whole words that carries their codes. -/
def loadWords (x : Ctx) (s : State) (i : Instr) (m : MMod) (p : MemOp) (d : VReg) (n : Nat) : Fx :=
  match s.reachMem x p (4 * n) (4 * n) permR rightR allSpaces with
  | .error t => .trap t
  | .ok a => match s.loadFrom x i m a n false with
    | .error e => e
    | .ok (s1, src, ws) => .done ((s1.afterLoad x m a src).modCur fun f => f.pendRegs (x.f.slotOf d.toNat) ws)

/-- LD (R120). -/
def execLd (c : Ctl) (t : ITy) (m : MMod) (d : VReg) (p : MemOp) (s : State) : Host.Outcome State Fault Refusal :=
  s.issue { opM c p [] [] (dstRegs d (wordsOf t.wide)) 0 with takes := acqTakes m } fun x s =>
    let size := memBytes t
    if 4 ≤ size then loadWords x s (.ld c t m d p) m p d (size / 4)
    else match s.reachMem x p size size permR rightR allSpaces with
      | .error t => .trap t
      | .ok a => match s.gate x (.ld c t m d p) m a size true with
        | .error e => e
        | .ok src =>
          let s1 := s.fixView x src a size
          match checkWord (s1.sourceWord x src (wordKey a.key)) with
          | none => .trap (checkFail a.space a.adr)
          | some (w, fixed) =>
            .done (((s1.afterLoad x m a src).noteFix x.u.core (wordKey a.key) fixed).modCur fun f =>
              f.pendRegs (x.f.slotOf d.toNat) [fresh (extendLoad t w (a.key % 4))])

/-- LDV (R122). -/
def execLdv (c : Ctl) (four : Bool) (m : MMod) (d : VReg) (p : MemOp) (s : State) : Host.Outcome State Fault Refusal :=
  let n := if four then 4 else 2
  s.issue { opM c p [] [] (dstRegs d n) 0 with takes := acqTakes m } fun x s => loadWords x s (.ldv c four m d p) m p d n

/-- The four words of a capability in memory, corrected; none where one is uncorrectable, with its index. -/
def capWords (ws : List Reg) : Except Nat (BitVec 128) :=
  match ws.findIdx? fun w => (checkWord w).isNone with
  | some i => .error i
  | none => .ok (BitVec.ofNat 128 (natOfBytes (ws.flatMap fun w =>
      let v := match checkWord w with | some (v, _) => v | none => w.val
      [wordByte v 0, wordByte v 1, wordByte v 2, wordByte v 3])))

/-- LDC (R126). -/
def execLdc (c : Ctl) (m : MMod) (d : CReg) (p : MemOp) (s : State) : Host.Outcome State Fault Refusal :=
  s.issue { opM c p [] [] [] 0 with caps := [d], takes := acqTakes m } fun x s =>
    match s.reachMem x p 16 16 (permR ||| permL) rightR allSpaces with
    | .error t => .trap t
    | .ok a => match s.loadFrom x (.ldc c m d p) m a 4 (a.space == 1 || a.space == 2 || a.space == 3) with
      | .error e => e
      | .ok (s1, src, ws) =>
        match capWords ws with
        | .error j => .trap (checkFail a.space (a.adr + 4 * j))
        | .ok bits =>
          let seen := s1.viewTag x.u.core a.key
          let stored := if s.overlaid x.u then x.f.overlayTag a.key seen else seen
          let tag := (a.space == 1 || a.space == 2 || a.space == 3) && stored
          let s2 := (List.range 4).foldl (fun s j =>
            s.noteFix x.u.core (a.key + 4 * j) (corrected (ws.getD j Reg.zero))) (s1.afterLoad x m a src)
          .done (s2.modCur fun f => f.pend (.cap d) (some (.cap { bits := bits, tag := tag, bad := false })))

/-! ### Stores (R121, R122, R126) -/

/-- Whether a key lies in a transfer aperture (R282). -/
def apertureKey? (k : Nat) : Bool := decide (region 6 ≤ k) && decide (k < region 7)

/-- Whether a store of 16 bytes is performed as two halves (R123): of words everywhere, and of a capability in spaces 0, 4 and
5. A transfer aperture takes the access as it is (R282). -/
def ReqKind.splits (k : ReqKind) (a : Acc) (size : Nat) : Bool :=
  size == 16 && !apertureKey? a.key && (a.space == 0 || a.space == 4 || a.space == 5 ||
    (match k with | .store _ _ => true | _ => false))

/-- The two 8-byte halves as which a 16-byte store is performed (R123). -/
def Req.halves (r : Req) : Req × Req :=
  let codes := match r.kind with
    | .store _ cs => cs
    | _ => (wordsOfBytes r.bytes).map Reg.code
  ({ r with kind := .store (r.bytes.take 8) (codes.take 2), size := 8 },
   { r with kind := .store (r.bytes.drop 8) (codes.drop 2), size := 8, key := r.key + 8, addr := r.addr + 8 })

/-- A store that has passed its checks: buffered in a DET stroke (R234, R237) or by a shadow copy (R406), performed at
once in the core's own scratchpad (R219 note 2), or left with the fabric. -/
def State.storeFx (s : State) (x : Ctx) (kind : ReqKind) (m : MMod) (a : Acc) (size : Nat) (last : List Nat) : Fx :=
  let cls : AccClass := if m.order == .rel then .rel else .st
  let r := s.newReq x kind cls false m.scope a size [] last
  let own := ((s.current?.map (·.2)).getD x.f)
  let signed := s.sigWrite x.u x.f.fid r.seq a.space a.adr r.bytes
  if s.rangeBusy x.u.core a.key size true then .wait s .scoreboard
  else if s.detOf x.u then
    let gs := (granulesOf a.key size).foldl insNat own.stroke.granules
    if Config.strokeGranules < gs.length then .wait s (.stroke 0)
    else .done { (signed.modCur fun f => { f with
      stroke := { f.stroke with granules := gs, stores := f.stroke.stores ++ [r] } }) with seqCtr := s.seqCtr + 1 }
  else if x.u.phantom a.key then
    .done { (signed.modCur fun f => { f with stroke := { f.stroke with stores := f.stroke.stores ++ [r] } }) with
      seqCtr := s.seqCtr + 1 }
  else if ownScratch x.u.core a.key && cls == .st && !own.ownBusy x.u.core a.key size && !kind.splits a size then
    .done ({ signed with seqCtr := s.seqCtr + 1 }.doStore x.u x.f.fid 0 r)
  else if kind.splits a size then
    let h := r.halves
    .done ((signed.leave x.u.core h.1).leave x.u.core { h.2 with seq := s.seqCtr + 1 })
  else .done (signed.leave x.u.core r)

/-- The bytes of a list of words. -/
def bytesOfWords (ws : List Reg) : List Byte :=
  ws.flatMap fun w => [wordByte w.val 0, wordByte w.val 1, wordByte w.val 2, wordByte w.val 3]

/-- A store of whole words that carries their codes. -/
def storeWords (x : Ctx) (s : State) (m : MMod) (p : MemOp) (ws : List Reg) (last : List Nat) : Fx :=
  let size := 4 * ws.length
  match s.reachStore x p size size permW storeSpaces with
  | .error t => .trap t
  | .ok a => s.storeFx x (.store (bytesOfWords ws) (ws.map Reg.code)) m a size last

/-- ST (R121): 8-bit and 16-bit stores write the low bytes, merged where the line is held. -/
def execSt (c : Ctl) (t : ITy) (m : MMod) (p : MemOp) (v : Src) (s : State) : Host.Outcome State Fault Refusal :=
  let size := memBytes t
  let o := opM c p (v.reads 3 t.wide (decide (size < 4))) (v.lastRegs t.wide) [] 0
  s.issue o fun x s =>
    if 4 ≤ size then storeWords x s m p (x.f.srcRegs t v) o.last
    else match s.reachStore x p size size permW storeSpaces with
      | .error t => .trap t
      | .ok a => s.storeFx x (.store (bytesOfNat size (x.f.src32 v).toNat) []) m a size o.last

/-- STV (R122). -/
def execStv (c : Ctl) (four : Bool) (m : MMod) (p : MemOp) (v : RSrc) (s : State) : Host.Outcome State Fault Refusal :=
  let n := if four then 4 else 2
  let o := opM c p (groupReads 3 v.n.toNat n false) (v.lastRegs n) [] 0
  s.issue o fun x s => storeWords x s m p ((List.range n).map fun i => x.f.reg (v.n.toNat + i)) o.last

/-- STC (R126). -/
def execStc (c : Ctl) (m : MMod) (p : MemOp) (v : CSrc) (s : State) : Host.Outcome State Fault Refusal :=
  let o := opM c p [.cap 3 v.n true] [] [] 0
  s.issue o fun x s =>
    match s.reachStore x p 16 16 (permW ||| permS) storeSpaces with
    | .error t => .trap t
    | .ok a => s.storeFx x (.storeCap (x.f.cap v.n)) m a 16 o.last

/-! ### Prefetch (R124) -/

/-- PREF (R124): a fetch of the line into L2, and for L1 on into it when the data comes; anything wrong drops it. Its checks
are those of a read of one byte. DESIGN CHOICE: log 92. -/
def execPref (c : Ctl) (l2 : Bool) (_hint : Hint) (p : MemOp) (s : State) : Host.Outcome State Fault Refusal :=
  s.issue (opM c p [] [] [] 0) fun x s =>
    match s.reachMem x p 1 1 permR rightR allSpaces with
    | .error _ => .done s
    | .ok a =>
      if !tokenKey a.key then .done s
      else
        let n := a.key / 64
        let l := s.line n
        let req := s.reqOf l (dieOf x.u.core)
        if l.lost || l.poisoned then .done s
        else if l.canRead req then .done (if l2 then s else s.fillL1 x.u.core n)
        else
          let s1 := if (l.attempt? req).isSome then s else s.noteAttempt n req false
          let s2 := if l2 then s1 else s1.modLine n fun l => { l with
            attempts := updIf l.attempts (fun x => x.req == req) fun y => { y with fill := insNat y.fill x.u.core } }
          .done (s2.ask n req false [none])

/-! ### Window moves (R107, R108) -/

/-- The fibre standing at its instruction again, with what the moves so far have left with the fabric. -/
def Fibre.standAt (f now : Fibre) (prog : Nat) : Fibre :=
  { f with
    prog := BitVec.ofNat 32 prog, outst := now.outst, faults := now.faults
    stroke := { now.stroke with insns := f.stroke.insns, pass := f.stroke.pass } }

/-- The issuing fibre as it stands now. -/
def State.curOr (s : State) (f : Fibre) : Fibre := ((s.current?).map (·.2)).getD f

/-- The count of words already moved. -/
def Fibre.moved (f : Fibre) : Nat := (f.prog.setWidth 8).toNat

/-- The range of the registers that a move of a fibre reads: none where it ends at line 002 or traps at line 003. -/
def moveRange (s : State) (r : VReg) (n : Src) : List Nat :=
  match s.current? with
  | none => []
  | some (_, f) =>
    let c := ((f.settle s.clk).src32 n).toNat
    if c = 0 || c ≤ f.moved || 64 < r.toNat + c then [] else (List.range c).map (r.toNat + ·)

/-- The registers that a source names. -/
def srcRegNo : Src → Option Nat
  | .reg n _ => some n.toNat
  | _ => none

/-- Move the words of a WSPILL from index `i` on (R108 lines 006 to 009). -/
def spillLoop (x : Ctx) (r : VReg) (space adr : Nat) (s : State) (i : Nat) : Nat → Fx
  | 0 => .done (s.modCur fun f => { f with prog := 0 })
  | k + 1 =>
    match s.storeKey x.u space (adr + 4 * i) with
    | none => .trapKeep s (x.f.standAt (s.curOr x.f) i) (pageFault space (adr + 4 * i))
    | some key =>
      let w := x.f.reg (r.toNat + i)
      match s.storeFx x (.store (bytesOfWords [w]) [w.code]) { order := .plain, scope := .unit, hint := .dflt }
          { space := space, adr := adr + 4 * i, key := key } 4 [] with
      | .done s1 => spillLoop x r space adr s1 (i + 1) k
      | .wait s1 wt => .waitKeep s1 (x.f.standAt (s1.curOr x.f) i) wt
      | e => e

/-- WSPILL (R107, R108). -/
def execWspill (c : Ctl) (f : VReg) (m : MemOp) (n : Src) (s : State) : Host.Outcome State Fault Refusal :=
  let range := moveRange s f n
  s.issue (opM c m (n.reads 3 false true ++ range.map fun j => .reg 0 j false true) (n.lastRegs false) [] 0) fun x s =>
    let cnt := (x.f.src32 n).toNat
    if cnt = 0 || cnt ≤ x.f.moved then .done (s.modCur fun f => { f with prog := 0 })
    else if 64 < f.toNat + cnt then .trap (trapOf 0x05 (BitVec.ofNat 32 (f.toNat * 256 + cnt % 256)))
    else match s.access x.u (x.f.cap m.cap.n) m.cap.n (x.f.offset m) (4 * cnt) 4 permW with
      | .error t => .trap t
      | .ok adr =>
        if (x.f.cap m.cap.n).space == 3 then .trap (trapOf 0x22 (m.cap.n.setWidth 32))
        else spillLoop x f (x.f.cap m.cap.n).space adr s x.f.moved (cnt - x.f.moved)

/-- Write a window register at once, in place of any result in flight to it. -/
def Fibre.load1 (f : Fibre) (slot : Nat) (w : Reg) : Fibre :=
  { f with stack := tset f.stack slot w, flights := f.flights.filter fun y => !(y.dest == .slot slot) }

/-- Move the words of a WFILL from index `i` on (R108). Whether a word whose code is uncorrectable stops it (R108), or is
moved as it is (R85), is the part's. DESIGN CHOICE: log 88. -/
def fillLoop (x : Ctx) (ins : Instr) (r : VReg) (space adr : Nat) (s : State) (g : Fibre) (i : Nat) : Nat → Fx
  | 0 => .done (s.modCur fun f => { f with stack := g.stack, flights := g.flights, prog := 0 })
  | k + 1 =>
    let m : MMod := { order := .plain, scope := .unit, hint := .dflt }
    match s.locate x.u space (adr + 4 * i) rightR with
    | none => .trapKeep s (g.standAt g i) (pageFault space (adr + 4 * i))
    | some key =>
      let a : Acc := { space := space, adr := adr + 4 * i, key := key }
      match s.gate { x with f := g } ins m a 4 true with
      | .error (.wait s1 w) => .waitKeep s1 (g.standAt g i) w
      | .error (.trap t) => .trapKeep s (g.standAt g i) t
      | .error e => e
      | .ok src =>
        let sv := s.fixView { x with f := g } src a 4
        let w := sv.sourceWord { x with f := g } src key
        if (checkWord w).isNone && Config.fillChecks then .trapKeep s (g.standAt g i) (checkFail space (adr + 4 * i))
        else
          let s1 := sv.afterLoad { x with f := g } m a src
          fillLoop x ins r space adr s1 { g.load1 (x.f.base + r.toNat + i) w with served := false } (i + 1) k

/-- WFILL (R107, R108). -/
def execWfill (c : Ctl) (f : VReg) (m : MemOp) (n : Src) (s : State) : Host.Outcome State Fault Refusal :=
  let o := opM c m (n.reads 3 false true) (n.lastRegs false) (moveRange s f n) 0
  s.issue o fun x s =>
    let cnt := (x.f.src32 n).toNat
    if cnt = 0 || cnt ≤ x.f.moved then .done (s.modCur fun f => { f with prog := 0 })
    else if 64 < f.toNat + cnt then .trap (trapOf 0x05 (BitVec.ofNat 32 (f.toNat * 256 + cnt % 256)))
    else
      let inRange (j : Nat) : Bool := decide (f.toNat ≤ j) && decide (j < f.toNat + cnt)
      if (m.idx.map fun r => inRange r.n.toNat).getD false || ((srcRegNo n).map inRange).getD false then .trap (illegal 16)
      else match s.access x.u (x.f.cap m.cap.n) m.cap.n (x.f.offset m) (4 * cnt) 4 permR with
        | .error t => .trap t
        | .ok adr =>
          match fillLoop x (.wfill c f m n) f (x.f.cap m.cap.n).space adr s x.f x.f.moved (cnt - x.f.moved) with
          | .done s1 => .done (s1.modCur fun g => o.last.foldl (fun (g : Fibre) j => g.release j) g)
          | e => e

end Sys2Proof.Machine
end

