-- ==== Sys2Proof/Machine/Fabric.lean ====
section
/-! DEFINITION. The instructions of the memory fabric, opcodes 0xA0 to 0xAF (spec 11 R239 to R264). -/

namespace Sys2Proof.Machine

/-! ### Shared -/

/-- Run a privileged instruction (R60): in a launch without SYS it traps PRIV whatever the predicate (R45).
DEDUCED: log 55. -/
def State.privileged (s : State) (run : Host.Outcome State Fault Refusal) : Host.Outcome State Fault Refusal :=
  match s.current? with
  | none => .fault .noFibre
  | some (u, f) => if s.sysOf u then run else .next (s.takeTrap u.key f.fid (trapOf 0x0C 0))

/-- The acquire half of an order. -/
def acquires (o : Order) : Bool := o == .acq || o == .ar
/-- The release half of an order. -/
def releases (o : Order) : Bool := o == .rel || o == .ar

/-- The spaces of an atomic (R240): in space 4 only those that PCIe has. -/
def atomicSpaces (pcie : Bool) : List Nat := if pcie then [0, 1, 2, 4, 5] else [0, 1, 2, 5]

/-- The access of an atomic: R118 with A, R240 and the atomics bit of the host window entry (R241). -/
def State.reachAtomic (s : State) (x : Ctx) (p : MemOp) (size : Nat) (pcie : Bool) : Except TrapInfo Acc :=
  match s.reachMem x p size size permA (rightR ||| rightW) (atomicSpaces pcie) with
  | .error t => .error t
  | .ok a =>
    if a.space == 4 && !((s.hostKey (s.funcOf x.u) a.adr).map (·.2)).getD false then
      .error (trapOf 0x22 (p.cap.n.setWidth 32))
    else .ok a

/-- Whether a request at the commit of a DET round waits as one of any other launch does: it needs tokens that cannot be
gathered, until the line is lost (R203, R205), or it reclaims a line whose home is silent (R261). -/
def State.tokensWait (s : State) (u : Unit) (r : Req) : Bool :=
  r.needsTokens && !u.phantom r.key &&
    (if (s.line (r.key / 64)).lost then !r.failsLost && !s.homeAnswers (s.line (r.key / 64)) else s.gone (r.key / 64))

/-- Leave a request with the fabric, or perform it at the commit of a DET round (R235 steps 2 and 4); the destinations
become pending, and a fibre whose request acquires waits for it. An AtomicOp leaves for the host from a DET launch too (R241).
DESIGN CHOICE: log 29. -/
def State.request (s : State) (x : Ctx) (kind : ReqKind) (cls : AccClass) (acq : Bool) (sc : Scope) (a : Acc)
    (size : Nat) (dests last : List Nat) : Fx :=
  if s.rangeBusy x.u.core a.key size true then .wait s .scoreboard
  else
    let r := s.newReq x kind cls acq sc a size dests last
    let s1 := s.modCur fun f => f.pendEmpty (r.dests.headD 0) r.dests.length
    let host := s.detOf x.u && a.space == 4 && r.isAtomic && !x.u.phantom a.key
    if s.detOf x.u && !host && !s.tokensWait x.u r then
      let n := a.key / 64
      let req := s1.reqOf (s1.line n) (dieOf x.u.core)
      let gathers := r.gathers && !x.u.phantom a.key
      let s2 := s1.countL2 x.u.core r
      let s3 := if gathers then s2.gatherAt n req else s2
      let s4 := { s3 with seqCtr := s3.seqCtr + 1 }.perform x.u x.f.fid req r
      .done (if gathers then s4.passOn n else s4)
    else
      let s2 := s1.leave x.u.core { r with sent := host }
      .done (if acq then s2.modCur fun f => { f with wait := some (.acquire r.seq) } else s2)

/-- The class of an atomic (R218). -/
def atomicClass (m : MMod) : AccClass := if releases m.order then .rel else .at

/-- The form of an instruction that makes a fabric request. -/
def opReq (c : Ctl) (p : MemOp) (sc : List Rd) (scLast regs : List Nat) (ends : Nat) (takes : List FaultClass) : Op :=
  { opM c p sc scLast regs ends with takes := takes }

/-! ### Atomics (R243 to R246) -/

/-- Whether PCIe has an AMO (R240, R241). -/
def amoPcie : AmoOp → Bool
  | .add => true
  | .swap => true
  | _ => false

/-- AMO (R243). -/
def execAmo (c : Ctl) (op : AmoOp) (t : ITy) (m : MMod) (d : VReg) (p : MemOp) (v : Src) (s : State) :
    Host.Outcome State Fault Refusal :=
  let size := memBytes t
  let o := opReq c p (v.reads 3 t.wide true) (v.lastRegs t.wide) (dstRegs d (wordsOf t.wide)) 2 [.store]
  s.issue o fun x s =>
    match s.reachAtomic x p size (amoPcie op) with
    | .error e => .trap e
    | .ok a => s.request x (.amo op t.signed (x.f.srcBits t v)) (atomicClass m) (acquires m.order) m.scope a size o.regs o.last

/-- CAS (R245). -/
def execCas (c : Ctl) (t : ITy) (m : MMod) (d : VReg) (p : MemOp) (v : RSrc) (s : State) :
    Host.Outcome State Fault Refusal :=
  let n := wordsOf t.wide
  let o := opReq c p (groupReads 3 v.n.toNat (2 * n) true) (v.lastRegs (2 * n)) (dstRegs d n) 2 [.store]
  s.issue o fun x s =>
    match s.reachAtomic x p (4 * n) true with
    | .error e => .trap e
    | .ok a =>
      let ws (i : Nat) : List Byte := bytesOfWords ((List.range n).map fun j => x.f.reg (v.n.toNat + i + j))
      s.request x (.cas (ws 0) (ws n)) (atomicClass m) (acquires m.order) m.scope a (4 * n) o.regs o.last

/-- CAS16 (R246). -/
def execCas16 (c : Ctl) (m : MMod) (d : VReg) (p : MemOp) (v : RSrc) (s : State) : Host.Outcome State Fault Refusal :=
  let o := opReq c p (groupReads 3 v.n.toNat 8 true) (v.lastRegs 8) (dstRegs d 4) 2 [.store]
  s.issue o fun x s =>
    match s.reachAtomic x p 16 true with
    | .error e => .trap e
    | .ok a =>
      let ws (i : Nat) : List Byte := bytesOfWords ((List.range 4).map fun j => x.f.reg (v.n.toNat + i + j))
      s.request x (.cas (ws 0) (ws 4)) (atomicClass m) (acquires m.order) m.scope a 16 o.regs o.last

/-- AMOF (R244): `$rmode` is sampled at issue. -/
def execAmof (c : Ctl) (op : AmofOp) (m : MMod) (d : VReg) (p : MemOp) (v : Src) (s : State) :
    Host.Outcome State Fault Refusal :=
  let o := opReq c p (v.reads 3 false true) (v.lastRegs false) (dstRegs d 1) 2 [.store]
  s.issue o fun x s =>
    match s.reachAtomic x p 4 false with
    | .error e => .trap e
    | .ok a => s.request x (.amof op (x.f.src32 v) x.f.rmode) (atomicClass m) (acquires m.order) m.scope a 4 o.regs o.last

/-! ### Fences and strokes (R248, R257) -/

/-- Whether an acquire fence of a scope waits for a request (R213, R217): an atomic, `LNRECLAIM` among them, or a barrier
arrival of a narrower scope, which counts as one. -/
def Req.heldByAcq (r : Req) (scope : Scope) : Bool :=
  r.isAtomic || (match r.kind with | .lnreclaim _ => true | _ => false) ||
    (r.isUpdate && decide (scopeNum r.scope < scopeNum scope))

/-- FENCE (R217, R248, R350): a full or release fence waits for every earlier request and for the reading of posted frames,
an acquire fence for atomics, whose reads it orders; loads and monitor waits have returned before the fibre goes on (R218). A release half makes what is performed visible to its scope (R213,
R223, R224); a `.sys` fence of a DET launch carries the commit to the host (R258). -/
def execFence (c : Ctl) (order : Order) (scope : Scope) (s : State) : Host.Outcome State Fault Refusal :=
  s.issue { op0 c with ends := 2, takes := .store :: engineFaults } fun x s =>
    let waits := x.f.outst.any fun r => if order == .acq then r.heldByAcq scope else r.cls != .none
    if waits || (order != .acq && s.unreadPosts x.u x.f) then .wait s .fence
    else
      let s1 := if order != .acq then s.releaseTo x.u scope else s.sysRelease x.u scope
      .done (if acquires order && decide (1 ≤ scopeNum scope) then s1.dropL1Shared x.u.core else s1)

/-- STROKE (R257). -/
def execStroke (c : Ctl) (s : State) : Host.Outcome State Fault Refusal :=
  s.issue { op0 c with ends := 2, takes := [.store] } fun _ s => .done s

/-! ### Barrier objects (R249 to R253) -/

/-- The access of a barrier instruction: 8 bytes of space 1 or 2. -/
def State.reachBar (s : State) (x : Ctx) (p : MemOp) (need : Byte) : Except TrapInfo Acc :=
  s.reachMem x p 8 8 need (rightR ||| rightW) [1, 2]

/-- BARINIT (R249): a release. -/
def execBarinit (c : Ctl) (scope : Scope) (p : MemOp) (v : Src) (s : State) : Host.Outcome State Fault Refusal :=
  let o := opReq c p (v.reads 3 false true) (v.lastRegs false) [] 2 []
  s.issue o fun x s =>
    match s.reachBar x p permW with
    | .error e => .trap e
    | .ok a => s.request x (.barinit (x.f.src32 v)) .rel false scope a 8 [] o.last

/-- BARARR (R250). -/
def execBararr (c : Ctl) (scope : Scope) (d : VReg) (p : MemOp) (s : State) : Host.Outcome State Fault Refusal :=
  let o := opReq c p [] [] (dstRegs d 1) 4 [.store]
  s.issue o fun x s =>
    match s.reachBar x p permA with
    | .error e => .trap e
    | .ok a => s.request x .bararr .ba false scope a 8 o.regs o.last

/-- BARTX (R251). -/
def execBartx (c : Ctl) (scope : Scope) (d : VReg) (p : MemOp) (v : Src) (s : State) : Host.Outcome State Fault Refusal :=
  let o := opReq c p (v.reads 3 false true) (v.lastRegs false) (dstRegs d 1) 4 []
  s.issue o fun x s =>
    match s.reachBar x p permA with
    | .error e => .trap e
    | .ok a =>
      let n := (x.f.src32 v).toNat
      if 4194288 < n then .trap (trapOf 0x21 (x.f.src32 v))
      else s.request x (.bartx ((n + 15) / 16)) .ba false scope a 8 o.regs o.last

/-- The acquire of a barrier wait at a scope (R231): the writes of engines that the flip tells of are seen (R14, R15). -/
def State.barAcquire (s : State) (core : Nat) (scope : Scope) : State :=
  (if 1 ≤ scopeNum scope then s.dropL1Shared core else s).lookEngines core

/-- BARWAIT (R252): a fibre that a flip has woken goes on without reading again. It takes no recorded store fault: R209 names the
acquires that do, and R218 keeps this apart from them. DESIGN CHOICE: log 101. -/
def execBarwait (c : Ctl) (scope : Scope) (p : MemOp) (v : Src) (s : State) : Host.Outcome State Fault Refusal :=
  s.issue { opM c p (v.reads 3 false true) (v.lastRegs false) [] 5 with takes := engineFaults } fun x s =>
    match s.reachBar x p permR with
    | .error e => .trap e
    | .ok a =>
      if x.f.served then .done (s.barAcquire x.u.core scope)
      else if s.rangeBusy x.u.core a.key 8 false then .wait s .scoreboard
      else if x.f.ownOverlap a.key 8 || x.f.releaseOut then .wait s .fence
      else match s.badRange a 8 with
        | some t => .trap t
        | none =>
          let s1 := s.noteRange s.mem x.u.core a.key 8
          if (s.mem.dword a.key).getLsbD 63 != (x.f.src32 v).getLsbD 0 then .done (s1.barAcquire x.u.core scope)
          else .wait s1 (.barrier a.key ((x.f.src32 v).getLsbD 0))

/-- BARTEST (R253): a flip observed is an acquire, otherwise a plain load. It takes no recorded store fault.
DESIGN CHOICE: log 101. -/
def execBartest (c : Ctl) (scope : Scope) (d : PReg) (p : MemOp) (v : Src) (s : State) :
    Host.Outcome State Fault Refusal :=
  s.issue { opM c p (v.reads 3 false true) (v.lastRegs false) [] 0 with preds := [d] } fun x s =>
    match s.reachBar x p permR with
    | .error e => .trap e
    | .ok a =>
      if s.rangeBusy x.u.core a.key 8 false then .wait s .scoreboard
      else if x.f.ownBusy x.u.core a.key 8 then .wait s .fence
      else match s.badRange a 8 with
        | some t => .trap t
        | none =>
          let seen := (s.mem.dword a.key).getLsbD 63 != (x.f.src32 v).getLsbD 0
          if seen && x.f.releaseOut then .wait s .fence
          else
            let s0 := s.noteRange s.mem x.u.core a.key 8
            let s1 := if seen then s0.barAcquire x.u.core scope else s0
            .done (if d == 15 then s1 else s1.modCur fun f => f.pend (.pred d) (some (.bit seen)))

/-! ### Monitors (R255, R256) -/

/-- The monitor entries held at a slice of a die: those of waits on lines of L2, not on scratchpads (R255, R256). -/
def State.monitorsHeld (s : State) (die slice : Nat) : Nat :=
  (s.units.map fun u => if dieOf u.core == die then
    u.fibres.countP fun f => match f.wait with
      | some (.monitor k h _) => h && (scratchCore k).isNone && sliceNo (k / 64) == slice
      | _ => false
    else 0).sum

/-- Whether a wait on a word is woken: while its slice's entries are in use it reads again instead (R256); space 4 is read
again every microsecond, and a scratchpad needs no entry (R255). -/
def State.monitorFree (s : State) (die space key : Nat) : Bool :=
  space == 1 || space == 2 || (space != 4 && decide (s.monitorsHeld die (sliceNo (key / 64)) < Config.monitorEntries))

/-- The end of a monitor wait that reads a value: the loop ends or the fibre parks again. -/
def mwaitEnd (x : Ctx) (s : State) (ge : Bool) (t : ITy) (m : MMod) (d : VReg) (a : Acc) (v : DWord) : Fx :=
  let size := memBytes t
  match s.badRange a size with
  | some e => .trap e
  | none =>
    let w : DWord := if t.wide then s.mem.dword a.key else (s.mem.good a.key).setWidth 64
    let s := (s.lookAll x.u.core a.key size).noteRange s.mem x.u.core a.key size
    if (if ge then decide (v.toNat ≤ w.toNat) else w != v) then
      let s1 := s.dropL1 x.u.core (a.key / 64)
      let s2 := if discards m then s1.dropL1Shared x.u.core else s1
      .done (s2.modCur fun f => f.pendRegs (x.f.slotOf d.toNat) (regsAt t.wide w))
    else
      let held := s.monitorFree (dieOf x.u.core) a.space a.key
      let s1 := if held || a.space == 4 then s else s.countDie (dieOf x.u.core) 0x0107 1
      .wait s1 (.monitor a.key held s.time)

/-- MWAIT (R255): never read from L1. In a DET launch the word is read as a round starts (R237, R258). -/
def execMwait (c : Ctl) (ge : Bool) (t : ITy) (m : MMod) (d : VReg) (p : MemOp) (v : Src) (s : State) :
    Host.Outcome State Fault Refusal :=
  let o := { opM c p (v.reads 3 t.wide true) (v.lastRegs t.wide) (dstRegs d (wordsOf t.wide)) 5 with
    takes := (if m.order == .acq then [.store] else []) ++ engineFaults }
  s.issue o fun x s =>
    let size := memBytes t
    match s.reachMem x p size size permR rightR allSpaces with
    | .error e => .trap e
    | .ok a =>
      if s.detOf x.u && s.rangeBusy x.u.core a.key size false then .wait s .scoreboard
      else
      let x' : Ctx := if s.detOf x.u && a.space != 4 then { x with f := { x.f with served := true } } else x
      match s.gate x' (.mwait c ge t m d p v) m a size false with
      | .error e => e
      | .ok _ => mwaitEnd x s ge t m d a (x.f.srcBits t v)

/-! ### Line management (R259 to R262) -/

/-- The access of a line instruction. -/
def State.reachLine (s : State) (x : Ctx) (p : MemOp) (size : Nat) (need : Byte) (right : BitVec 3) (spaces : List Nat) :
    Except TrapInfo Acc := s.reachMem x p size size need right spaces

/-- LNFLUSH (R259): no effect where the line has no tokens. In a DET launch it is performed at once (R258). -/
def execLnflush (c : Ctl) (p : MemOp) (s : State) : Host.Outcome State Fault Refusal :=
  s.issue (opM c p [] [] [] 0) fun x s =>
    match s.reachLine x p 1 permR rightR allSpaces with
    | .error e => .trap e
    | .ok a =>
      if tokenKey a.key then
        let r := s.newReq x .lnflush .none false .unit a 1 [] []
        .done (if s.detOf x.u then { s with seqCtr := s.seqCtr + 1 }.perform x.u x.f.fid 0 r else s.leave x.u.core r)
      else .done s

/-- LNINV (R260): a plain store of every byte of the line. -/
def execLninv (c : Ctl) (p : MemOp) (s : State) : Host.Outcome State Fault Refusal :=
  s.privileged <| s.issue (opReq c p [] [] [] 2 []) fun x s =>
    match s.reachLine x p 1 permW rightW [0, 5] with
    | .error e => .trap e
    | .ok a =>
      s.request x .lninv .st false .unit { a with adr := a.adr / 64 * 64, key := a.key / 64 * 64 } 64 [] []

/-- LNRECLAIM (R261). -/
def execLnreclaim (c : Ctl) (m : MMod) (d : VReg) (p : MemOp) (v : RSrc) (s : State) : Host.Outcome State Fault Refusal :=
  let o := opReq c p (groupReads 3 v.n.toNat 16 true) (v.lastRegs 16) (dstRegs d 1) 2 []
  s.privileged <| s.issue o fun x s =>
    match s.reachLine x p 64 permW rightW [0, 5] with
    | .error e => .trap e
    | .ok a =>
      let bytes := bytesOfWords ((List.range 16).map fun j => x.f.reg (v.n.toNat + j))
      s.request x (.lnreclaim bytes) (atomicClass m) false m.scope a 64 o.regs o.last

/-- The state word of a line as a die's slice and the home give it (R262). -/
def State.lineState (s : State) (n die : Nat) : Word :=
  let l := s.line n
  let h := l.holder (s.reqOf l die)
  BitVec.ofNat 32 (l.epoch * 2 ^ 24 + (if l.active.isSome then 2 ^ 16 else 0) + h.tokens * 2 ^ 8 +
    (if h.owner then 4 else 0) + (if l.poisoned then 2 else 0) + (if l.lost then 1 else 0))

/-- LNSTAT (R262). -/
def execLnstat (c : Ctl) (d : VReg) (p : MemOp) (s : State) : Host.Outcome State Fault Refusal :=
  s.issue (opM c p [] [] (dstRegs d 1) 0) fun x s =>
    match s.reachLine x p 1 permR rightR allSpaces with
    | .error e => .trap e
    | .ok a =>
      let w := if tokenKey a.key then s.lineState (a.key / 64) (dieOf x.u.core) else 0
      .done (s.modCur fun f => f.pendRegs (x.f.slotOf d.toNat) [fresh w])

end Sys2Proof.Machine
end

