-- ==== Sys2Proof/Machine/Transcend.lean ====
section
/-! DEFINITION. The function instructions FEXP2, FLOG2, FSIN, FCOS and FTANH (spec 07 R150), correctly rounded: each
value is enclosed between two fixed-point numbers, and both ends are rounded. Where they agree, that is the correctly
rounded value; where they do not, the enclosure does not decide it and the value is the open one of `Config`. -/

namespace Sys2Proof.Machine

/-- Fraction bits of the fixed-point arithmetic. -/
def fpBits : Nat := 640
/-- One in fixed point. -/
def fpOne : Int := 2 ^ fpBits
/-- The error every enclosure allows for, in units of the last bit: far above the sum of the truncations made. -/
def fpErr : Nat := 2 ^ 180

/-- A product in fixed point, truncated downwards. -/
def fpMul (a b : Int) : Int := a * b / fpOne

/-- `Σ (-1)^k / ((2k+1) n^(2k+1))`, the arctangent of 1/n, by `k` terms. -/
def atanInv (n : Nat) (k : Nat) : Int :=
  ((List.range k).foldl (fun (a : Int × Int) i =>
    let term := a.2 / (2 * i + 1)
    (if i % 2 = 0 then a.1 + term else a.1 - term, a.2 / (n * n))) (0, fpOne / n)).1

/-- π in fixed point, by Machin's formula. -/
def fpPi : Int := 4 * (4 * atanInv 5 150 - atanInv 239 50)

/-- `2 Σ z^(2k+1) / (2k+1)`, twice the inverse hyperbolic tangent of z, for |z| at most 1/3. -/
def atanh2 (z : Int) : Int :=
  let z2 := fpMul z z
  2 * ((List.range 210).foldl (fun (a : Int × Int) i => (a.1 + a.2 / (2 * i + 1), fpMul a.2 z2)) (0, z)).1

/-- ln 2 in fixed point. -/
def fpLn2 : Int := atanh2 (fpOne / 3)

/-- `e^x` for 0 ≤ x < 1 in fixed point. -/
def fpExp (x : Int) : Int :=
  ((List.range 130).foldl (fun (a : Int × Int) i => (a.1 + a.2, fpMul a.2 x / (i + 1))) (0, fpOne)).1

/-- `sin x` for a small x in fixed point. -/
def fpSin (x : Int) : Int :=
  let x2 := fpMul x x
  ((List.range 70).foldl (fun (a : Int × Int) i =>
    (a.1 + a.2, -(fpMul a.2 x2 / ((2 * i + 2) * (2 * i + 3))))) (0, x)).1

/-- `cos x` for a small x in fixed point. -/
def fpCos (x : Int) : Int :=
  let x2 := fpMul x x
  ((List.range 70).foldl (fun (a : Int × Int) i =>
    (a.1 + a.2, -(fpMul a.2 x2 / ((2 * i + 1) * (2 * i + 2))))) (0, fpOne)).1

/-- A value enclosed within `fpErr` of `v * 2^e` in units of the last bit, rounded; `fn` and `x` name the open value
taken where the enclosure does not decide. -/
def roundNear (t : FTy) (r : Round) (neg : Bool) (v : Int) (e : Int) (fn x : Nat) : Exact :=
  let lo := roundMag t r neg (v - fpErr).toNat (e - fpBits) true
  let hi := roundMag t r neg (v + fpErr).toNat (e - fpBits) true
  .near neg v.toNat (e - fpBits) (if fpErr * 2 ^ 40 < v && lo == hi then lo
    else ((Config.freeRound fn x).toNat % 2 ^ t.bits, flagNX))

/-- A value just below a magnitude: less than it by under 2^-48 of its unit. -/
def justBelow (neg : Bool) (m : Nat) (e : Int) : Exact := .mag neg (m * 2 ^ 48 - 1) (e - 48) true
/-- A value just above a magnitude. -/
def justAbove (neg : Bool) (m : Nat) (e : Int) : Exact := .mag neg (m * 2 ^ 48) (e - 48) true

/-- A dyadic magnitude in fixed point, truncated; exact where `e + fpBits` is not negative. -/
def toFixed (m : Nat) (e : Int) : Int :=
  if 0 ≤ e + fpBits then ((m * 2 ^ (e + fpBits).toNat : Nat) : Int) else ((m / 2 ^ (-(e + fpBits)).toNat : Nat) : Int)

/-- FEXP2 of a finite nonzero number. -/
def exp2Fin (t : FTy) (r : Round) (neg : Bool) (m : Nat) (e : Int) (x : Nat) : Exact :=
  if 12 < (bitLen m : Int) + e then .mag false 1 (if neg then -4096 else 4096) false
  else if (bitLen m : Int) + e < -60 then
    (if neg then justBelow false (2 ^ 60) (-60) else justAbove false (2 ^ 60) (-60))
  else
    let a := if neg then -toFixed m e else toFixed m e
    let n := a / fpOne
    let f := a % fpOne
    if f = 0 then .mag false 1 n false
    else roundNear t r false (fpExp (fpMul f fpLn2)) n 0 x

/-- The value of FEXP2 (R150). -/
def exp2Exact (t : FTy) (r : Round) (x : Nat) : Exact :=
  match fread t r.daz x with
  | .nan s => nanOf s
  | .inf n => if n then .zero false else .inf false 0
  | .fin n m e => if m = 0 then .mag false 1 0 false else exp2Fin t r n m e x

/-- FEXP2 (R150). -/
def fexp2 (t : FTy) (r : Round) (x : Nat) : Nat × Word := deliver t r (exp2Exact t r x)

/-- The value of FLOG2 (R150). -/
def log2Exact (t : FTy) (r : Round) (x : Nat) : Exact :=
  match fread t r.daz x with
  | .nan s => nanOf s
  | .inf n => if n then .nan flagNV else .inf false 0
  | .fin n m e =>
    if m = 0 then .inf true flagDZ
    else if n then .nan flagNV
    else
      let k := Nat.log2 m
      if m = 2 ^ k then intExact (k + e)
      else
        -- m = 2^k (1 + f), ln(1 + f) = 2 artanh(f / (2 + f))
        let y := toFixed m (-(k : Int))
        let z := (y - fpOne) * fpOne / (y + fpOne)
        let l := (k + e) * fpOne + atanh2 z * fpOne / fpLn2
        roundNear t r (decide (l < 0)) |l| 0 1 x

/-- FLOG2 (R150). -/
def flog2 (t : FTy) (r : Round) (x : Nat) : Nat × Word := deliver t r (log2Exact t r x)

/-- The quadrant and remainder of a magnitude by π/2 (R150: the full argument reduction). -/
def reducePi (m : Nat) (e : Int) : Int × Int :=
  let a := toFixed m e
  let n := (4 * a + fpPi) / (2 * fpPi)
  (n, a - n * fpPi / 2)

/-- The sine of a quadrant and remainder. -/
def sinQuad (n r : Int) : Int :=
  match (n % 4).toNat with
  | 0 => fpSin r | 1 => fpCos r | 2 => -fpSin r | _ => -fpCos r

/-- The value of FSIN (R150). -/
def sinExact (t : FTy) (r : Round) (x : Nat) : Exact :=
  match fread t r.daz x with
  | .nan s => nanOf s
  | .inf _ => .nan flagNV
  | .fin n m e =>
    if m = 0 then .zero n
    else if (bitLen m : Int) + e < -40 then justBelow n m e
    else
      let (q, y) := reducePi m e
      let v := sinQuad q y
      roundNear t r (n != decide (v < 0)) |v| 0 2 x

/-- FSIN (R150). -/
def fsin (t : FTy) (r : Round) (x : Nat) : Nat × Word := deliver t r (sinExact t r x)

/-- The value of FCOS (R150). -/
def cosExact (t : FTy) (r : Round) (x : Nat) : Exact :=
  match fread t r.daz x with
  | .nan s => nanOf s
  | .inf _ => .nan flagNV
  | .fin _ m e =>
    if m = 0 then .mag false 1 0 false
    else if (bitLen m : Int) + e < -40 then justBelow false (2 ^ 24) (-24)
    else
      let (q, y) := reducePi m e
      let v := sinQuad (q + 1) y
      roundNear t r (decide (v < 0)) |v| 0 3 x

/-- FCOS (R150). -/
def fcos (t : FTy) (r : Round) (x : Nat) : Nat × Word := deliver t r (cosExact t r x)

/-- The value of FTANH (R150): `1 - 2 / (e^(2a) + 1)`. -/
def tanhExact (t : FTy) (r : Round) (x : Nat) : Exact :=
  match fread t r.daz x with
  | .nan s => nanOf s
  | .inf n => .mag n 1 0 false
  | .fin n m e =>
    if m = 0 then .zero n
    else if (bitLen m : Int) + e < -40 then justBelow n m e
    else if 6 < (bitLen m : Int) + e then justBelow n (2 ^ 24) (-24)
    else
      let a := 2 * toFixed m e
      let k := a / fpLn2
      let ex := fpExp (a - k * fpLn2) * 2 ^ k.toNat
      roundNear t r n (fpOne - 2 * fpOne * fpOne / (ex + fpOne)) 0 4 x

/-- FTANH (R150). -/
def ftanh (t : FTy) (r : Round) (x : Nat) : Nat × Word := deliver t r (tanhExact t r x)

end Sys2Proof.Machine
end

