-- ==== Sys2Proof/Machine/Float.lean ====
section
/-! DEFINITION. The floating instructions, conversions and packed half-precision instructions (spec 07 R145 to R158).
A scalar result is written with bits above its format zero (R134). -/

namespace Sys2Proof.Machine

/-! ### Shapes -/

/-- A result of a format as a register (R134). -/
def fres (x : Nat × Word) : List Reg × Word := ([fresh (BitVec.ofNat 32 x.1)], x.2)

/-- The bits of a scalar operand's register. -/
def Fibre.fsrc (f : Fibre) (a : Src) : Nat := (f.src32 a).toNat

/-- What a vector floating unit delivers to a register: one result, or two halves side by side. -/
structure FOut where
  lo : FRes
  hi : Option FRes
  deriving DecidableEq, Repr

/-- A scalar result. -/
def FOut.one (t : FTy) (r : Round) (x : Exact) : FOut := { lo := { t := t, r := r, x := x }, hi := none }

/-- The bits and flags of a delivery that follows the rules; the flags of the halves are combined (R142). -/
def FOut.out (o : FOut) : Nat × Word :=
  match o.hi with
  | none => o.lo.out
  | some h => (o.lo.out.1 + 65536 * h.out.1, o.lo.out.2 ||| h.out.2)

/-- The bits delivered where the unit gets some wrong. -/
def FOut.struck (o : FOut) (strike : Word) : Nat :=
  o.out.1 ^^^ (if o.hi.isNone then strike.toNat % 2 ^ o.lo.t.bits else strike.toNat)

/-- The SHADOW trap of delivered bits, if they fail: the opcode, and which result failed (R144). -/
def FOut.trap (o : FOut) (op bits : Nat) : Option TrapInfo :=
  let at' (k : Nat) : TrapInfo := trapOf 0x0A (BitVec.ofNat 32 (op + 256 * k))
  match o.hi with
  | none => if o.lo.fails bits then some (at' 0) else none
  | some h =>
    if o.lo.fails (bits % 65536) then some (at' 1) else if h.fails (bits / 65536) then some (at' 2) else none

/-- An effect that delivers floating results past the shadow check (R143, R144), after a fixed latency, or, with `lat` none,
with variable latency. A unit that fails delivers wrong bits once. -/
def fxShadow (op : Nat) (lat : Option Nat) (d : VReg) (v : Fibre → FOut) : Ctx → State → Fx := fun x s =>
  let o := v x.f
  let bits := if x.f.strike == 0 then o.out.1 else o.struck x.f.strike
  match (if x.f.strike == 0 then none else o.trap op bits) with
  | some t => .trapKeep s { x.f with strike := 0 } t
  | none =>
    let out := fres (bits, o.out.2)
    let g : Ctx → Nat → Fibre → Fibre := fun x clk f =>
      let land (f : Fibre) : Fibre := match lat with
        | some n => f.flyRegs (clk + n) (x.f.slotOf d.toNat) out.1
        | none => f.pendRegs (x.f.slotOf d.toNat) out.1
      { (land f).raise out.2 with strike := 0 }
    fx g x s

/-- A two-operand instruction on values as read under DAZ (R140). -/
def floatOp2 (op : Nat) (lat : Option Nat) (c : Ctl) (t : FTy) (r : Option RM) (d : VReg) (a b : Src)
    (g : Round → FVal → FVal → Exact) (s : State) : Host.Outcome State Fault Refusal :=
  s.issue (op2 c a false b false true (dstRegs d 1)) <|
    fxShadow op lat d fun f =>
      let rd := f.rounding r
      .one t rd (g rd (fread t rd.daz (f.fsrc a)) (fread t rd.daz (f.fsrc b)))

/-- A function instruction: its result has variable latency (R145). -/
def floatFn (op : Nat) (c : Ctl) (t : FTy) (r : Option RM) (d : VReg) (a : Src) (g : Round → Nat → Exact) (s : State) :
    Host.Outcome State Fault Refusal :=
  s.issue (op1 c a false true (dstRegs d 1)) <|
    fxShadow op none d fun f => .one t (f.rounding r) (g (f.rounding r) (f.fsrc a))

/-- A one-operand instruction of fixed latency. -/
def floatOp1 (c : Ctl) (r : Option RM) (d : VReg) (a : Src) (g : Round → Nat → Nat × Word) (s : State) :
    Host.Outcome State Fault Refusal :=
  s.issue (op1 c a false true (dstRegs d 1)) <|
    fxFlags latFloat d fun f => fres (g (f.rounding r) (f.fsrc a))

/-! ### Arithmetic (R146) -/

/-- FADD. -/
def execFadd (c : Ctl) (t : FTy) (r : Option RM) (d : VReg) (a b : Src) (s : State) :
    Host.Outcome State Fault Refusal := floatOp2 0x40 (some latFloat) c t r d a b (fun rd x y => addExact rd.rm x y) s
/-- FSUB. -/
def execFsub (c : Ctl) (t : FTy) (r : Option RM) (d : VReg) (a b : Src) (s : State) :
    Host.Outcome State Fault Refusal := 
  floatOp2 0x41 (some latFloat) c t r d a b (fun rd x y => addExact rd.rm x y.negate) s
/-- FMUL. -/
def execFmul (c : Ctl) (t : FTy) (r : Option RM) (d : VReg) (a b : Src) (s : State) :
    Host.Outcome State Fault Refusal := floatOp2 0x42 (some latFloat) c t r d a b (fun _ x y => mulExact x y) s
/-- FFMA. -/
def execFfma (c : Ctl) (t : FTy) (r : Option RM) (d : VReg) (a b e : Src) (s : State) :
    Host.Outcome State Fault Refusal :=
  s.issue (op3 c a false b false e false (dstRegs d 1)) <|
    fxShadow 0x43 (some latFloat) d fun f =>
      let rd := f.rounding r
      .one t rd (fmaExact rd.rm (fread t rd.daz (f.fsrc a)) (fread t rd.daz (f.fsrc b)) (fread t rd.daz (f.fsrc e)))
/-- FDIV: variable latency (R145). -/
def execFdiv (c : Ctl) (t : FTy) (r : Option RM) (d : VReg) (a b : Src) (s : State) :
    Host.Outcome State Fault Refusal := floatOp2 0x4B none c t r d a b (fun _ x y => divExact t.prec x y) s
/-- FSQRT. -/
def execFsqrt (c : Ctl) (t : FTy) (r : Option RM) (d : VReg) (a : Src) (s : State) :
    Host.Outcome State Fault Refusal := floatFn 0x4A c t r d a (fun rd x => sqrtExact t.prec (fread t rd.daz x)) s
/-- FSCALE: b is a signed 32-bit integer. -/
def execFscale (c : Ctl) (t : FTy) (r : Option RM) (d : VReg) (a b : Src) (s : State) :
    Host.Outcome State Fault Refusal :=
  s.issue (op2 c a false b false true (dstRegs d 1)) <|
    fxShadow 0x5B (some latFloat) d fun f =>
      let rd := f.rounding r
      .one t rd (scaleExact (fread t rd.daz (f.fsrc a)) (f.src32 b).toInt)

/-! ### Minimum, maximum, comparison, class, sign (R147 to R149, R152) -/

/-- FMIN. -/
def execFmin (c : Ctl) (t : FTy) (d : VReg) (a b : Src) (s : State) : Host.Outcome State Fault Refusal :=
  s.issue (op2 c a false b false true (dstRegs d 1)) <|
    fxFlags latFloat d fun f => fres (fminmax t (f.rounding none).daz false (f.fsrc a) (f.fsrc b))
/-- FMAX. -/
def execFmax (c : Ctl) (t : FTy) (d : VReg) (a b : Src) (s : State) : Host.Outcome State Fault Refusal :=
  s.issue (op2 c a false b false true (dstRegs d 1)) <|
    fxFlags latFloat d fun f => fres (fminmax t (f.rounding none).daz true (f.fsrc a) (f.fsrc b))

/-- The flag FCMP raises (R148). -/
def fcmpFlag (cond : Cond) (a b : FVal) : Word :=
  let ordered := match cond with | .lt => true | .le => true | .gt => true | .ge => true | _ => false
  if a.isSnan || b.isSnan || (ordered && (a.isNan || b.isNan)) then flagNV else 0

/-- FCMP (R148). -/
def execFcmp (c : Ctl) (cond : Cond) (t : FTy) (d : PReg) (a b : Src) (s : State) :
    Host.Outcome State Fault Refusal :=
  s.issue { op2 c a false b false true [] with preds := [d] } <| fx fun x clk f =>
    let daz := (x.f.rounding none).daz
    let p := fread t daz (x.f.fsrc a)
    let q := fread t daz (x.f.fsrc b)
    let f := f.raise (fcmpFlag cond p q)
    if d == 15 then f else f.fly (clk + latFloat) (.pred d) (.bit (cond.holds (fcompare p q)))

/-- FCLASS (R149). -/
def execFclass (c : Ctl) (t : FTy) (d : VReg) (a : Src) (s : State) : Host.Outcome State Fault Refusal :=
  s.issue (op1 c a false true (dstRegs d 1)) <|
    fxFixed latFloat d fun f => [fresh (BitVec.ofNat 32 (fclass t (f.fsrc a)))]

/-- FCOPYS (R152). -/
def execFcopys (c : Ctl) (t : FTy) (d : VReg) (a b : Src) (s : State) : Host.Outcome State Fault Refusal :=
  s.issue (op2 c a false b false true (dstRegs d 1)) <|
    fxFixed latFloat d fun f =>
      let mag := f.fsrc a % t.signBit
      [fresh (BitVec.ofNat 32 (mag + (if f.fsrc b / t.signBit % 2 = 1 then t.signBit else 0)))]

/-! ### Functions (R150, R151) -/

/-- FRCP. -/
def execFrcp (c : Ctl) (t : FTy) (r : Option RM) (d : VReg) (a : Src) (s : State) :
    Host.Outcome State Fault Refusal := floatFn 0x48 c t r d a (fun rd x => rcpExact t.prec (fread t rd.daz x)) s
/-- FRSQ. -/
def execFrsq (c : Ctl) (t : FTy) (r : Option RM) (d : VReg) (a : Src) (s : State) :
    Host.Outcome State Fault Refusal := floatFn 0x49 c t r d a (fun rd x => rsqExact t.prec (fread t rd.daz x)) s
/-- FEXP2. DESIGN CHOICE: log 14. -/
def execFexp2 (c : Ctl) (t : FTy) (r : Option RM) (d : VReg) (a : Src) (s : State) :
    Host.Outcome State Fault Refusal := floatFn 0x4C c t r d a (exp2Exact t) s
/-- FLOG2. -/
def execFlog2 (c : Ctl) (t : FTy) (r : Option RM) (d : VReg) (a : Src) (s : State) :
    Host.Outcome State Fault Refusal := floatFn 0x4D c t r d a (log2Exact t) s
/-- FSIN. -/
def execFsin (c : Ctl) (t : FTy) (r : Option RM) (d : VReg) (a : Src) (s : State) :
    Host.Outcome State Fault Refusal := floatFn 0x4E c t r d a (sinExact t) s
/-- FCOS. -/
def execFcos (c : Ctl) (t : FTy) (r : Option RM) (d : VReg) (a : Src) (s : State) :
    Host.Outcome State Fault Refusal := floatFn 0x4F c t r d a (cosExact t) s
/-- FTANH. -/
def execFtanh (c : Ctl) (t : FTy) (r : Option RM) (d : VReg) (a : Src) (s : State) :
    Host.Outcome State Fault Refusal := floatFn 0x50 c t r d a (tanhExact t) s
/-- FRND. -/
def execFrnd (c : Ctl) (t : FTy) (r : Option RM) (d : VReg) (a : Src) (s : State) :
    Host.Outcome State Fault Refusal := floatOp1 c r d a (frnd t) s

/-! ### Conversions (R153 to R157) -/

/-- CVTFI: 8-bit and 16-bit results are extended to 32 bits. -/
def execCvtfi (c : Ctl) (t : ITy) (src : FTy) (r : Option RM) (d : VReg) (a : Src) (s : State) :
    Host.Outcome State Fault Refusal :=
  s.issue (op1 c a false true (dstRegs d (wordsOf t.wide))) <|
    fxFlags latFloat d fun f =>
      let rd := f.rounding r
      let (v, fl) := cvtfi t rd (fread src rd.daz (f.fsrc a))
      (regsAt t.wide (bits64 v), fl)

/-- The value of an integer source of CVTIF: an 8-bit or 16-bit type is read from the register's low bits. -/
def smallInt (t : ITy) (x : DWord) : Int :=
  match t with
  | .i8 => (x.setWidth 8).toInt
  | .n8 => (x.setWidth 8).toNat
  | .i16 => (x.setWidth 16).toInt
  | .n16 => (x.setWidth 16).toNat
  | .i32 => (x.setWidth 32).toInt
  | .n32 => (x.setWidth 32).toNat
  | .i64 => x.toInt
  | .n64 => x.toNat

/-- CVTIF. -/
def execCvtif (c : Ctl) (t : FTy) (src : ITy) (r : Option RM) (d : VReg) (a : Src) (s : State) :
    Host.Outcome State Fault Refusal :=
  s.issue (op1 c a src.wide true (dstRegs d 1)) <|
    fxShadow 0x53 (some latFloat) d fun f => .one t (f.rounding r) (intExact (smallInt src (f.srcBits src a)))

/-- CVTFF. -/
def execCvtff (c : Ctl) (t src : FTy) (r : Option RM) (d : VReg) (a : Src) (s : State) :
    Host.Outcome State Fault Refusal :=
  s.issue (op1 c a false true (dstRegs d 1)) <|
    fxShadow 0x54 (some latFloat) d fun f =>
      let rd := f.rounding r
      .one t rd (valExact (fread src rd.daz (f.fsrc a)))

/-- Replace bits [6i+5:6i] of a group (R156). -/
def setL6 (g : Word) (i : BitVec 2) (code : BitVec 6) : Word :=
  (g &&& ~~~(0x3F#32 <<< (6 * i.toNat))) ||| (code.setWidth 32 <<< (6 * i.toNat))

/-- CVTL6. -/
def execCvtl6 (c : Ctl) (i : BitVec 2) (r : Option RM) (d : VReg) (a b e : Src) (s : State) :
    Host.Outcome State Fault Refusal :=
  s.issue (op3 c a false b false e false (dstRegs d 1)) <|
    fxFlags latFloat d fun f =>
      let rd := f.rounding r
      let (code, fl) := cvtl6 rd (fread .f32 rd.daz (f.fsrc a)) ((f.src32 b).setWidth 8)
      ([fresh (setL6 (f.src32 e) i code)], fl)

/-- CVT6F. -/
def execCvt6f (c : Ctl) (i : BitVec 2) (d : VReg) (a b : Src) (s : State) : Host.Outcome State Fault Refusal :=
  s.issue (op2 c a false b false true (dstRegs d 1)) <|
    fxFixed latFloat d fun f =>
      [fresh (BitVec.ofNat 32 (cvt6f ((f.src32 a >>> (6 * i.toNat)).setWidth 6) ((f.src32 b).setWidth 8)))]

/-! ### Packed halves (R158) -/

/-- An operation on both halves: the results side by side, the flags combined (R142). -/
def halves2 (x y : Nat) (g : Nat → Nat → Nat × Word) : Nat × Word :=
  let lo := g (x % 65536) (y % 65536)
  let hi := g (x / 65536) (y / 65536)
  (lo.1 + 65536 * hi.1, lo.2 ||| hi.2)

/-- Two halves of a result. -/
def FOut.two (t : FTy) (r : Round) (lo hi : Exact) : FOut :=
  { lo := { t := t, r := r, x := lo }, hi := some { t := t, r := r, x := hi } }

/-- A packed two-operand instruction, half by half. -/
def packedOp2 (op : Nat) (c : Ctl) (t : FTy) (r : Option RM) (d : VReg) (a b : Src) (g : Round → FVal → FVal → Exact)
    (s : State) : Host.Outcome State Fault Refusal :=
  s.issue (op2 c a false b false true (dstRegs d 1)) <|
    fxShadow op (some latFloat) d fun f =>
      let rd := f.rounding r
      let one (x y : Nat) : Exact := g rd (fread t rd.daz x) (fread t rd.daz y)
      .two t rd (one (f.fsrc a % 65536) (f.fsrc b % 65536)) (one (f.fsrc a / 65536) (f.fsrc b / 65536))

/-- HADD2. -/
def execHadd2 (c : Ctl) (t : FTy) (r : Option RM) (d : VReg) (a b : Src) (s : State) :
    Host.Outcome State Fault Refusal := packedOp2 0x57 c t r d a b (fun rd x y => addExact rd.rm x y) s
/-- HMUL2. -/
def execHmul2 (c : Ctl) (t : FTy) (r : Option RM) (d : VReg) (a b : Src) (s : State) :
    Host.Outcome State Fault Refusal := packedOp2 0x58 c t r d a b (fun _ x y => mulExact x y) s
/-- HFMA2. -/
def execHfma2 (c : Ctl) (t : FTy) (r : Option RM) (d : VReg) (a b e : Src) (s : State) :
    Host.Outcome State Fault Refusal :=
  s.issue (op3 c a false b false e false (dstRegs d 1)) <|
    fxShadow 0x59 (some latFloat) d fun f =>
      let rd := f.rounding r
      let one (sh : Nat) : Exact :=
        fmaExact rd.rm (fread t rd.daz (f.fsrc a / sh)) (fread t rd.daz (f.fsrc b / sh)) (fread t rd.daz (f.fsrc e / sh))
      .two t rd (one 1) (one 65536)
/-- HMNX2. -/
def execHmnx2 (c : Ctl) (max : Bool) (t : FTy) (d : VReg) (a b : Src) (s : State) :
    Host.Outcome State Fault Refusal :=
  s.issue (op2 c a false b false true (dstRegs d 1)) <|
    fxFlags latFloat d fun f =>
      fres (halves2 (f.fsrc a) (f.fsrc b) (fminmax t (f.rounding none).daz max))

end Sys2Proof.Machine
end

