-- ==== Sys2Proof/Machine/Packed.lean ====
section
/-! DEFINITION. The packed integer and dot instructions (spec 07 R159 to R165). -/

namespace Sys2Proof.Machine

/-- Half `h` of a word as an integer of a 16-bit type. -/
def halfInt (t : ITy) (w : Word) (h : Nat) : Int :=
  let x := w.extractLsb' (16 * h) 16
  if t.signed then x.toInt else (x.toNat : Int)

/-- A pair of 16-bit results with saturation (R159). -/
def pairResult (t : ITy) (sat : Bool) (lo hi : Int) : List Reg × Word :=
  let one (x : Int) : Int := if sat then clampInt t.minVal t.maxVal x else x
  let w : Word := (BitVec.ofInt 16 (one hi)) ++ (BitVec.ofInt 16 (one lo))
  ([fresh w], if one lo != lo || one hi != hi then flagSAT else 0)

/-- A packed operation of two operands. -/
def packOp2 (c : Ctl) (t : ITy) (sat : Bool) (d : VReg) (a b : Src) (g : Int → Int → Int) (s : State) :
    Host.Outcome State Fault Refusal :=
  s.issue (op2 c a false b false true (dstRegs d 1)) <|
    fxFlags latFloat d fun f =>
      let x := f.src32 a
      let y := f.src32 b
      pairResult t sat (g (halfInt t x 0) (halfInt t y 0)) (g (halfInt t x 1) (halfInt t y 1))

/-- PADD2 (R160). -/
def execPadd2 (c : Ctl) (t : ITy) (sat : Bool) (d : VReg) (a b : Src) (s : State) :
    Host.Outcome State Fault Refusal := packOp2 c t sat d a b (· + ·) s
/-- PSUB2 (R160). -/
def execPsub2 (c : Ctl) (t : ITy) (sat : Bool) (d : VReg) (a b : Src) (s : State) :
    Host.Outcome State Fault Refusal := packOp2 c t sat d a b (· - ·) s
/-- PMUL2 (R160). -/
def execPmul2 (c : Ctl) (t : ITy) (sat : Bool) (d : VReg) (a b : Src) (s : State) :
    Host.Outcome State Fault Refusal := packOp2 c t sat d a b (· * ·) s
/-- PMNX2 (R160). -/
def execPmnx2 (c : Ctl) (max : Bool) (t : ITy) (d : VReg) (a b : Src) (s : State) :
    Host.Outcome State Fault Refusal :=
  packOp2 c t false d a b (fun x y => if max then (if x < y then y else x) else (if y < x then y else x)) s

/-- A 32-bit result clamped to a type. -/
def sat32 (t : ITy) (x : Int) : List Reg × Word := t.result true x

/-- PMAC2 (R161). -/
def execPmac2 (c : Ctl) (d : VReg) (a b e : Src) (s : State) : Host.Outcome State Fault Refusal :=
  s.issue (op3 c a false b false e false (dstRegs d 1)) <|
    fxFlags latFloat d fun f =>
      let x := f.src32 a
      let y := f.src32 b
      sat32 .i32 ((f.src32 e).toInt + halfInt .i16 x 0 * halfInt .i16 y 0 + halfInt .i16 x 1 * halfInt .i16 y 1)

/-- PSHR2 (R160): one amount for both halves. -/
def execPshr2 (c : Ctl) (arith : Bool) (d : VReg) (a b : Src) (s : State) : Host.Outcome State Fault Refusal :=
  s.issue (op2 c a false b false true (dstRegs d 1)) <|
    fxFlags latFloat d fun f =>
      let n := ((f.src32 b).extractLsb' 0 5).toNat
      let t : ITy := if arith then .i16 else .n16
      pairResult t false (halfInt t (f.src32 a) 0 / 2 ^ n) (halfInt t (f.src32 a) 1 / 2 ^ n)

/-- The 8-bit or 16-bit or 32-bit type a narrowing clamps to (R162). -/
def narrowTo (signed : Bool) : Narrow → Option ITy
  | .none => Option.none
  | .to16 => some (if signed then .i16 else .n16)
  | .to8 => some (if signed then .i8 else .n8)
  | .to32 => some (if signed then .i32 else .n32)

/-- SHRR (R162). -/
def execShrr (c : Ctl) (t : ITy) (nar : Narrow) (d : VReg) (a b : Src) (s : State) :
    Host.Outcome State Fault Refusal :=
  s.issue (op2 c a t.wide b false true (dstRegs d (wordsOf (t.wide && nar == .none)))) <|
    fxFlags latFloat d fun f =>
      let x := f.srcInt t a
      let n := ((f.src32 b).extractLsb' 0 8).toNat
      let y := if n = 0 then x else (x + 2 ^ (n - 1)) / 2 ^ n
      match narrowTo t.signed nar with
      | none => (regsAt t.wide (bits64 y), 0)
      | some v =>
        let z := clampInt v.minVal v.maxVal y
        ([fresh (bits32 z)], if z != y then flagSAT else 0)

/-- PACK2 (R163). -/
def execPack2 (c : Ctl) (hi : Bool) (t : ITy) (sat : Bool) (d : VReg) (a b : Src) (s : State) :
    Host.Outcome State Fault Refusal :=
  s.issue (op2 c a false b false true (dstRegs d 1)) <|
    fxFlags latFloat d fun f =>
      if sat then
        pairResult (if t.signed then .i16 else .n16) true (f.srcInt t a) (f.srcInt t b)
      else
        let h := if hi then 1 else 0
        pairResult t false (halfInt t (f.src32 a) h) (halfInt t (f.src32 b) h)

/-- UNPK2 (R163). -/
def execUnpk2 (c : Ctl) (hi : Bool) (t : ITy) (d : VReg) (a : Src) (s : State) : Host.Outcome State Fault Refusal :=
  s.issue (op1 c a false true (dstRegs d 1)) <|
    fxFixed latFloat d fun f => [fresh (bits32 (halfInt t (f.src32 a) (if hi then 1 else 0)))]

/-- Element `i` of an L6 group (R136). -/
def l6elem (w : Word) (i : Nat) : BitVec 6 := w.extractLsb' (6 * i) 6

/-- The exact value of LDOT4 of three words (R164). -/
def ldot4Exact (r : Round) (a b c : Word) : Exact :=
  let acc := fread .f32 r.daz c.toNat
  let nanCode := (List.range 4).any fun i => (l6read (l6elem a i)).isNone || (l6read (l6elem b i)).isNone
  if nanCode || acc.isNan then .nan (if nanCode || acc.isSnan then flagNV else 0)
  else match acc with
    | .fin n m e =>
      let ps := (List.range 4).filterMap fun i =>
        l6prod (l6elem a i) (a.extractLsb' 24 8) (l6elem b i) (b.extractLsb' 24 8)
      sumExact r.rm ((n, m, e) :: ps)
    | .inf n => .inf n 0
    | .nan _ => .nan 0

/-- LDOT4 of three words (R164). -/
def ldot4 (r : Round) (a b c : Word) : Nat × Word := deliver .f32 r (ldot4Exact r a b c)

/-- LDOT4 (R164). -/
def execLdot4 (c : Ctl) (r : Option RM) (d : VReg) (a b e : Src) (s : State) : Host.Outcome State Fault Refusal :=
  s.issue (op3 c a false b false e false (dstRegs d 1)) <|
    fxShadow 0x69 (some latDot) d fun f =>
      .one .f32 (f.rounding r) (ldot4Exact (f.rounding r) (f.src32 a) (f.src32 b) (f.src32 e))

/-- Byte `i` of a word as an integer. -/
def byteInt (signed : Bool) (w : Word) (i : Nat) : Int :=
  if signed then (wordByte w i).toInt else ((wordByte w i).toNat : Int)

/-- IDOT4 (R165). -/
def execIdot4 (c : Ctl) (t : ITy) (sat : Bool) (d : VReg) (a b e : Src) (s : State) :
    Host.Outcome State Fault Refusal :=
  s.issue (op3 c a false b false e false (dstRegs d 1)) <|
    fxFlags latDot d fun f =>
      let ct : ITy := if t.signed then .i32 else .n32
      let p (i : Nat) : Int := byteInt t.signed (f.src32 a) i * byteInt t.signed (f.src32 b) i
      ct.result sat (f.srcInt ct e + p 0 + p 1 + p 2 + p 3)

end Sys2Proof.Machine
end

