-- ==== Sys2Proof/Machine/Team.lean ====
section
/-! DEFINITION. Team operations (spec 05 R80, R81, 07 R166 to R176): how a team gathers, and the operations, each
executed once for every member that arrived. -/

namespace Sys2Proof.Machine

/-! ### Gathering (R80) -/

/-- What a team operation knows when it executes: the members' fibres as read, none for one that has ended or whose
source check failed; which members execute it; and the team's width. -/
structure Gather where
  mem : Nat → Option Fibre
  run : Nat → Bool
  width : Nat

/-- Whether a member has arrived at an address. -/
def Fibre.arrivedAt (f : Fibre) (pc : BitVec 57) : Bool :=
  match f.wait with
  | some (.team p _) => p == pc && f.pc == pc
  | _ => false

/-- The live fibres of a team. -/
def Unit.teamLive (u : Unit) (team : Nat) : List Fibre :=
  u.fibres.filter fun f => f.live && f.fid / u.desc.team == team

/-- Whether every live member of a team stands at an address (R80). -/
def Unit.converged (u : Unit) (team : Nat) (pc : BitVec 57) : Bool :=
  (u.teamLive team).all fun f => f.arrivedAt pc

/-- Whether a member executes the operation: its predicate (R50). -/
def Fibre.runs (f : Fibre) (c : Ctl) : Bool := f.pred c.ps != c.pn

/-- Whether a member must still wait for a pending result before the operation reads it (R54). -/
def Op.memberBlocked (o : Op) (f : Fibre) : Bool :=
  (o.ctl.ps != 15 && f.isPending (.pred o.ctl.ps)) ||
    (o.reads.any fun r => match r.dest f with | some d => f.isPending d | none => false) ||
    (f.runs o.ctl && (o.dests f).any fun d => f.isPending d)

/-- A member's trap at its reads, if any. -/
def Op.memberTrap (o : Op) (chk : Bool) (f : Fibre) : Option TrapInfo := f.readTrap chk (.pred o.ctl.ps :: o.reads)

/-- What a team operation does for a member that executes it: its trap, if its result fails the shadow check (R143), and
its fibre after it, from its number, its fibre as read and its fibre that has passed the instruction. -/
structure TeamFx where
  trap : Gather → Nat → Fibre → Option TrapInfo
  run : Gather → Nat → Fibre → Fibre → Fibre

/-- An operation whose results no shadow unit checks. -/
def plainFx (run : Gather → Nat → Fibre → Fibre → Fibre) : TeamFx := { trap := fun _ _ _ => none, run := run }

/-- Execute a converged team operation (R166): each member that traps at its reads does so alone, and counts as ended for the
others, whichever trap it is; every other passes the instruction, and those whose predicate holds receive. A member that its
guard stops ends its stroke when it is full (R234). DEDUCED: log 93. -/
def State.teamRun (s : State) (u : Unit) (team : Nat) (o : Op) (eff : TeamFx) : State :=
  let w := u.desc.team
  let chk := s.chkOf u
  let det := s.detOf u
  let ms := (u.teamLive team).map fun f => f.settle s.clk
  let trapOfMember (f : Fibre) : Option TrapInfo := o.memberTrap chk f
  let good := ms.filter fun f => (trapOfMember f).isNone
  let read := good.map fun f => (f, f.scrub o.reads)
  let g : Gather :=
    { mem := fun t => (read.find? fun e => e.1.fid % w == t).map fun e => e.2.1
      run := fun t => good.any fun f => f.fid % w == t && f.runs o.ctl
      width := w }
  let bad (f f0 : Fibre) : Option TrapInfo := if f.runs o.ctl then eff.trap g (f.fid % w) f0 else none
  let s1 := read.foldl (fun (s : State) (e : Fibre × (Fibre × Nat)) =>
    let f := e.1
    let f0 := e.2.1
    let runs := f.runs o.ctl
    match bad f f0 with
    | some t => (s.modFibre u.key f.fid fun _ => { f with wait := none, strike := 0 }).takeTrap u.key f.fid t
    | none =>
    let f1 := if runs && f0.readsReleased o.reads then f0.raise 0x40 else f0
    let next := s.seqNext (s.ctxOf u) f.pc
    let f2 := f1.pass o.last next s.clk o.ctl.stall
    let f3 := if runs then eff.run g (f.fid % w) f0 f2 else f2
    let f4 := if det && (runs || decide (Config.strokeInsns ≤ f3.stroke.insns)) then
        { f3 with wait := some (.stroke 0) } else f3
    ((s.modFibre u.key f.fid fun _ => f4).count u.core 0x000B e.2.2).count u.core 0x0003 (if runs then 1 else 0)) s
  ms.foldl (fun (s : State) f => match trapOfMember f with
    | some t => (s.modFibre u.key f.fid fun _ => { f with wait := none }).takeTrap u.key f.fid t
    | none => s) s1

/-- The slots that a team's members read and that are spilled (R78). -/
def State.teamSpills (s : State) (u : Unit) (team : Nat) (o : Op) : List (Nat × List Nat) :=
  (u.teamLive team).filterMap fun m =>
    let l := o.spilledReads m (s.spilledOf u m.fid)
    if l.isEmpty then none else some (m.fid, l)

/-- Park members of a team on the fills of the slots that they read (R70, R78). -/
def State.parkFills (s : State) (k : Nat) (l : List (Nat × List Nat)) : State :=
  l.foldl (fun s e => s.modFibre k e.1 fun f => { f with wait := some (.fill e.2), again := true }) s

/-- A fibre issues a team operation; the operation executes when the team has converged on it (R80). A late transfer is
raised when the fibre comes to it (R293), not while the fibre waits for its team. DEDUCED: log 65. -/
def State.teamIssue (s : State) (o : Op) (eff : TeamFx) : Host.Outcome State Fault Refusal :=
  match s.current? with
  | none => .fault .noFibre
  | some (u, f) =>
    match (if f.again || f.arrivedAt f.pc then none else takeFault f.faults [.late]) with
    | some (d, ds) => .next ((s.modCur fun g => { g with faults := ds, wait := none }).takeTrap u.key f.fid d.trap)
    | none =>
      let s1 := s.modCur fun g => { g with wait := some (.team f.pc f.came), served := false }
      let team := f.fid / u.desc.team
      match s1.unit? u.key with
      | none => .next s1
      | some u1 =>
        if u1.converged team f.pc && (u1.teamLive team).all (fun m => !o.memberBlocked (m.settle s.clk)) then
          let spills := s1.teamSpills u1 team o
          .next (if spills.isEmpty then s1.teamRun u1 team o eff else s1.parkFills u1.key spills)
        else .next s1

/-! ### The operations -/

/-- A word contributed by a member; 0 with code 0x00 from an ended one (R167). -/
def Gather.reg (g : Gather) (t : Nat) (a : Src) : Reg := ((g.mem t).map fun f => f.srcReg a).getD Reg.zero
/-- A pair contributed by a member. -/
def Gather.pair (g : Gather) (t : Nat) (signed : Bool) (a : Src) : List Reg :=
  ((g.mem t).map fun f => let p := f.srcPair signed a; [p.1, p.2]).getD [Reg.zero, Reg.zero]
/-- The words of a type contributed by a member. -/
def Gather.words (g : Gather) (t : Nat) (ty : ITy) (a : Src) : List Reg :=
  if ty.wide then g.pair t ty.signed a else [g.reg t a]

/-- TSYNC (R176). -/
def execTsync (stall : BitVec 4) (s : State) : Host.Outcome State Fault Refusal :=
  s.teamIssue (op0 (unpredCtl stall)) <| plainFx fun _ _ _ f => f

/-- Where an element of a slide comes from (R168): an element of the team, the receiver's own c, or zero. -/
inductive SlideFrom where
  | elem (j : Nat)
  | own
  | zero
  deriving DecidableEq, Repr

/-- The source of element `e` among `n` elements slid by `amount` (R168). -/
def slideFrom (down : Bool) (fill : Fill) (n e amount : Nat) : SlideFrom :=
  let j : Int := if down then (e : Int) + amount else (e : Int) - amount
  if 0 ≤ j && j < n then .elem j.toNat
  else match fill with
    | .fz => .zero
    | .fc _ => .own
    | .fw => .elem (j % n).toNat
    | .fe => .elem (if down then n - 1 else 0)

/-- A half of a word. -/
def halfOf (w : Word) (h : Nat) : BitVec 16 := w.extractLsb' (16 * h) 16

/-- The source of a fill, if it names one. -/
def fillSrc : Fill → Option Src
  | .fc c => some c
  | _ => none

/-- TSLIDE (R168). -/
def execTslide (c : Ctl) (down : Bool) (t : ITy) (fill : Fill) (d : VReg) (a b : Src) (s : State) :
    Host.Outcome State Fault Refusal :=
  let chk := t.is16
  let cReads := match fill with | .fc e => e.reads 3 t.wide chk | _ => []
  let cLast := match fill with | .fc e => e.lastRegs t.wide | _ => []
  let o : Op := { op0 c with
    reads := a.reads 1 t.wide chk ++ b.reads 2 false true ++ cReads
    last := a.lastRegs t.wide ++ b.lastRegs false ++ cLast, regs := dstRegs d (wordsOf t.wide) }
  s.teamIssue o <| plainFx fun g tid x f =>
    let n := (x.src32 b).toNat
    let own : Src := (fillSrc fill).getD (.const 0)
    let out : List Reg :=
      if t.is16 then
        let half (h : Nat) : BitVec 16 := match slideFrom down fill (2 * g.width) (2 * tid + h) n with
          | .elem j => halfOf (g.reg (j / 2) a).val (j % 2)
          | .own => halfOf (x.src32 own) h
          | .zero => 0
        [fresh (half 1 ++ half 0)]
      else match slideFrom down fill g.width tid n with
        | .elem j => g.words j t a
        | .own => x.srcRegs t own
        | .zero => if t.wide then [Reg.zero, Reg.zero] else [Reg.zero]
    f.pendRegs (x.slotOf d.toNat) out

/-- TSHFL (R169). -/
def execTshfl (c : Ctl) (byXor : Bool) (t : ITy) (d : VReg) (a b e : Src) (s : State) :
    Host.Outcome State Fault Refusal :=
  let o : Op := { op0 c with
    reads := a.reads 1 t.wide false ++ b.reads 2 false true ++ e.reads 3 t.wide false
    last := a.lastRegs t.wide ++ b.lastRegs false ++ e.lastRegs t.wide, regs := dstRegs d (wordsOf t.wide) }
  s.teamIssue o <| plainFx fun g tid x f =>
    let i := if byXor then (BitVec.ofNat 32 tid ^^^ x.src32 b).toNat else (x.src32 b).toNat
    f.pendRegs (x.slotOf d.toNat) (if i < g.width then g.words i t a else x.srcRegs t e)

/-- TBCAST (R170). -/
def execTbcast (c : Ctl) (t : ITy) (d : VReg) (a k : Src) (s : State) : Host.Outcome State Fault Refusal :=
  let o : Op := { op0 c with
    reads := a.reads 1 t.wide false, last := a.lastRegs t.wide, regs := dstRegs d (wordsOf t.wide) }
  s.teamIssue o <| plainFx fun g _ x f =>
    let i := (x.src32 k).toNat
    f.pendRegs (x.slotOf d.toNat) (if i < g.width then g.words i t a else x.srcRegs t a)

/-- The integer identity of an operation (R171). -/
def scanIdent (op : TOp) (t : ITy) : Int :=
  match op with
  | .min => t.maxVal
  | .max => t.minVal
  | .and => t.maxVal
  | _ => 0

/-- One step of an integer chain (R171): the new accumulator and whether it clamped. -/
def scanInt (op : TOp) (t : ITy) (sat : Bool) (acc x : Int) : Int × Bool :=
  let narrow (v : Int) : Int := t.toInt (bits64 v)
  match op with
  | .add => if sat then let y := clampInt t.minVal t.maxVal (acc + x); (y, y != acc + x) else (narrow (acc + x), false)
  | .min => (min acc x, false)
  | .max => (max acc x, false)
  | .and => (narrow ((bits64 acc &&& bits64 x).toNat), false)
  | .or => (narrow ((bits64 acc ||| bits64 x).toNat), false)
  | .xor => (narrow ((bits64 acc ^^^ bits64 x).toNat), false)

/-- The exact value of one step of an `.f32` chain under a receiver's settings (R171). -/
def scanExact (op : TOp) (r : Round) (acc x : Nat) : Exact :=
  match op with
  | .min => valExact (fread .f32 false (fminmax .f32 r.daz false acc x).1)
  | .max => valExact (fread .f32 false (fminmax .f32 r.daz true acc x).1)
  | _ => addExact r.rm (fread .f32 false acc) (fread .f32 r.daz x)

/-- One step of an `.f32` chain under a receiver's settings (R171). -/
def scanF32 (op : TOp) (r : Round) (acc x : Nat) : Nat × Word :=
  match op with
  | .min => fminmax .f32 r.daz false acc x
  | .max => fminmax .f32 r.daz true acc x
  | _ => fadd .f32 r (fread .f32 false acc) (fread .f32 r.daz x)

/-- The `.f32` identity of an operation (R171). -/
def identF32 : TOp → Nat
  | .min => FTy.f32.inf false
  | .max => FTy.f32.inf true
  | _ => 0

/-- What a member contributes to an integer chain: an ended one the identity (R167). -/
def Gather.intAt (g : Gather) (op : TOp) (t : ITy) (a : Src) (i : Nat) : Int :=
  ((g.mem i).map fun f => f.srcInt t a).getD (scanIdent op t)

/-- What a member contributes to an `.f32` chain: an ended one the identity (R167). -/
def Gather.f32At (g : Gather) (op : TOp) (a : Src) (i : Nat) : Nat :=
  ((g.mem i).map fun f => f.fsrc a).getD (identF32 op)

/-- The `.f32` chain over the first `n` members under a receiver's settings (R171). -/
def chainF32 (op : TOp) (r : Round) (a : Src) (g : Gather) (n : Nat) : Nat × Word :=
  (List.range n).foldl (fun (acc : Nat × Word) i =>
    let (y, fl) := scanF32 op r acc.1 (g.f32At op a i)
    (y, acc.2 ||| fl)) (identF32 op, 0)

/-- The chain over the first `n` members under a receiver's settings (R171). -/
def scanChain (op : TOp) (t : TTy) (sat : Bool) (r : Round) (a : Src) (g : Gather) (n : Nat) : List Reg × Word :=
  match t with
  | .int t =>
    let out := (List.range n).foldl (fun (acc : Int × Word) i =>
      let (y, c) := scanInt op t sat acc.1 (g.intAt op t a i)
      (y, if c then acc.2 ||| flagSAT else acc.2)) (scanIdent op t, 0)
    (regsAt t.wide (bits64 out.1), out.2)
  | .f32 => fres (chainF32 op r a g n)

/-- The exact value of the last step of an `.f32` chain, which the shadow checks (R143). DESIGN CHOICE: log 64. -/
def chainExact (op : TOp) (r : Round) (a : Src) (g : Gather) (n : Nat) : Exact :=
  match n with
  | 0 => valExact (fread .f32 false (identF32 op))
  | k + 1 => scanExact op r (chainF32 op r a g k).1 (g.f32At op a k)

/-- Whether the words of a scan type are a pair. -/
def scanWide : TTy → Bool
  | .int t => t.wide
  | .f32 => false

/-- What a scan or reduction does, over the first `cnt` members of the receiver's chain; FMIN and FMAX flush no result
(R147). -/
def scanFx (opc : Nat) (op : TOp) (t : TTy) (sat : Bool) (r : Option RM) (d : VReg) (a : Src) (cnt : Gather → Nat → Nat) :
    TeamFx :=
  let shadowed (x : Fibre) : Bool := t == .f32 && x.strike != 0
  let keeps := op == .min || op == .max
  let res (g : Gather) (tid : Nat) (x : Fibre) : FOut :=
    let rd := x.rounding r
    .one .f32 { rd with ftz := rd.ftz && !keeps } (chainExact op rd a g (cnt g tid))
  { trap := fun g tid x => if shadowed x then (res g tid x).trap opc ((res g tid x).struck x.strike) else none
    run := fun g tid x f =>
      let out := scanChain op t sat (x.rounding r) a g (cnt g tid)
      let regs := if shadowed x then [fresh (BitVec.ofNat 32 ((res g tid x).struck x.strike))] else out.1
      { (f.pendRegs (x.slotOf d.toNat) regs).raise out.2 with strike := if t == .f32 then 0 else f.strike } }

/-- TSCAN (R171). -/
def execTscan (c : Ctl) (op : TOp) (ex : Bool) (t : TTy) (sat : Bool) (r : Option RM) (d : VReg) (a : Src) (s : State) :
    Host.Outcome State Fault Refusal :=
  s.teamIssue (op1 c a (scanWide t) true (dstRegs d (wordsOf (scanWide t)))) <|
    scanFx 0x74 op t sat r d a fun _ tid => if ex then tid else tid + 1

/-- TRED (R171). -/
def execTred (c : Ctl) (op : TOp) (t : TTy) (sat : Bool) (r : Option RM) (d : VReg) (a : Src) (s : State) :
    Host.Outcome State Fault Refusal :=
  s.teamIssue (op1 c a (scanWide t) true (dstRegs d (wordsOf (scanWide t)))) <|
    scanFx 0x75 op t sat r d a fun g _ => g.width

/-- The live members' values of a predicate. -/
def Gather.votes (g : Gather) (a : PReg) : List Bool :=
  (List.range g.width).filterMap fun t => (g.mem t).map fun f => f.pred a

/-- A predicate result of a team operation; 15 discards it. -/
def Fibre.pendPred (f : Fibre) (d : PReg) (b : Bool) : Fibre :=
  if d == 15 then f else f.pend (.pred d) (some (.bit b))

/-- TVOTE (R172). -/
def execTvote (c : Ctl) (op : VoteOp) (d a : PReg) (s : State) : Host.Outcome State Fault Refusal :=
  s.teamIssue { op0 c with reads := [.pred a], preds := [d] } <| plainFx fun g _ _ f =>
    let vs := g.votes a
    f.pendPred d (match op with
      | .all => vs.all id
      | .any => vs.any id
      | .uni => vs.all id || vs.all not)

/-- A word of 32 members' bits. -/
def ballotWord (k : BitVec 2) (bit : Nat → Bool) : Word :=
  (List.range 32).foldl (fun w i => if bit (32 * k.toNat + i) then w ||| (1#32 <<< i) else w) 0

/-- TBALLOT (R173). -/
def execTballot (c : Ctl) (k : BitVec 2) (d : VReg) (a : PReg) (s : State) : Host.Outcome State Fault Refusal :=
  s.teamIssue { op0 c with reads := [.pred a], regs := dstRegs d 1 } <| plainFx fun g _ x f =>
    f.pendRegs (x.slotOf d.toNat)
      [fresh (ballotWord k fun i => decide (i < g.width) && ((g.mem i).map fun m => m.pred a).getD false)]

/-- TMATCH (R174). -/
def execTmatch (c : Ctl) (k : BitVec 2) (t : ITy) (d : VReg) (a : Src) (s : State) :
    Host.Outcome State Fault Refusal :=
  s.teamIssue (op1 c a t.wide true (dstRegs d 1)) <| plainFx fun g _ x f =>
    f.pendRegs (x.slotOf d.toNat)
      [fresh (ballotWord k fun i => decide (i < g.width) &&
        ((g.mem i).map fun m => m.srcBits t a == x.srcBits t a).getD false)]

/-- TELECT (R175). -/
def execTelect (c : Ctl) (d : PReg) (s : State) : Host.Outcome State Fault Refusal :=
  s.teamIssue { op0 c with preds := [d] } <| plainFx fun g tid _ f =>
    f.pendPred d (!(List.range tid).any g.run)

/-! ### TEAM_CONVERGENCE_TIMEOUT (R80) -/

/-- Whether a fibre has already gone to a trap. -/
def Fibre.trappedNow (f : Fibre) : Bool := match f.wait with | some (.trapped _ _ _) => true | some .record => true | _ => false

/-- The live members of a team that stand at an address, issued or not: they have arrived (R80). -/
def Unit.arrived (u : Unit) (team : Nat) (pc : BitVec 57) : List Fibre :=
  (u.teamLive team).filter fun f => f.pc == pc

/-- The cycle in which the first live member reached an address. -/
def Unit.firstCame (u : Unit) (team : Nat) (pc : BitVec 57) : Option Nat := minOf ((u.arrived team pc).map Fibre.came)

/-- The addresses of team operations at which a team has waited for 2^20 cycles without converging. A member that stands
there parked on a trap has arrived, and the team goes on when the trap is disposed of. DESIGN CHOICE: log 93. -/
def State.stalledAt (s : State) (u : Unit) (team : Nat) : List (BitVec 57) :=
  ((u.teamLive team).filterMap fun f => match f.wait with
    | some (.team p _) =>
      if f.pc == p && decide ((u.arrived team p).length < (u.teamLive team).length) &&
          ((u.firstCame team p).any fun t => decide (t + Config.stallBound ≤ s.clk)) then some p
      else none
    | _ => none).eraseDups

/-- TEAM_CONVERGENCE_TIMEOUT: every member that has arrived at an address whose bound is over traps TEAMSTALL. -/
def execTeamConvergenceTimeout (unit team : Nat) (s : State) : Host.Outcome State Fault Refusal :=
  match s.unit? unit with
  | none => .next s
  | some u =>
    .next ((s.stalledAt u team).foldl (fun (s : State) p =>
      let ms := u.arrived team p
      let absent := (u.teamLive team).length - ms.length
      let arg : Word := BitVec.ofNat 16 team ++ BitVec.ofNat 16 absent
      (ms.filter fun f => !f.trappedNow).foldl (fun (s : State) f =>
        (s.modFibre unit f.fid fun f => { f with wait := none }).takeTrap unit f.fid (trapOf 0x07 arg)) s) s)

end Sys2Proof.Machine
end

