-- ==== Sys2Proof/Machine/Caps.lean ====
section
/-! DEFINITION. The capability instructions (spec 06 R127 to R132). -/

namespace Sys2Proof.Machine

/-- A capability source through SA with further reads. -/
def opC (c : Ctl) (a : CSrc) (check : Bool) (more : List Rd) (last regs : List Nat) : Op :=
  { op0 c with reads := .cap 1 a.n check :: more, last := last, regs := regs }

/-- The trap argument of a capability register number (R118). -/
def capNo (a : CSrc) : Word := a.n.setWidth 32

/-- A capability result of fixed latency (R54). -/
def flyCap (s : State) (d : CReg) (v : CapReg) : State := s.modCur fun f => f.fly (s.clk + latInt) (.cap d) (.cap v)

/-- CDERIVE (R127). -/
def execCderive (c : Ctl) (d : CReg) (a : CSrc) (b e : Src) (s : State) : Host.Outcome State Fault Refusal :=
  let o := { opC c a true (b.reads 2 false true ++ e.reads 3 false true) (b.lastRegs false ++ e.lastRegs false) [] with
    caps := [d] }
  s.issue o fun x s =>
    let v := x.f.cap a.n
    let off := (x.f.src32 b).toNat
    let len := (x.f.src32 e).toNat
    if !v.tag then .trap (trapOf 0x20 (capNo a))
    else if permD &&& v.perms != permD then .trap (trapOf 0x22 (capNo a))
    else if v.length < off + lenMant len * 2 ^ lenExp len then .trap (trapOf 0x21 (x.f.src32 b))
    else .done (flyCap s d { v with
      bits := capBits v.gen v.space v.perms (lenMant len) (lenExp len) (v.base + off) })

/-- CPERM (R128). -/
def execCperm (c : Ctl) (d : CReg) (a : CSrc) (b : Src) (s : State) : Host.Outcome State Fault Refusal :=
  let o := { opC c a true (b.reads 2 false true) (b.lastRegs false) [] with caps := [d] }
  s.issue o fun x s =>
    let v := x.f.cap a.n
    if !v.tag then .trap (trapOf 0x20 (capNo a))
    else if permD &&& v.perms != permD then .trap (trapOf 0x22 (capNo a))
    else .done (flyCap s d { v with
      bits := capBits v.gen v.space (v.perms &&& (x.f.src32 b).setWidth 8) v.mant v.exp v.base })

/-- The words of a field of a capability (R129). -/
def capField (f : CapField) (v : CapReg) : List Reg :=
  match f with
  | .base => regs64 (v.bits.extractLsb' 0 64)
  | .len => regs64 (BitVec.ofNat 64 (min v.length (2 ^ 64 - 1)))
  | .perms => [fresh (v.perms.setWidth 32)]
  | .space => [fresh (BitVec.ofNat 32 v.space)]
  | .gen => [fresh v.gen]
  | .tag => [fresh (boolWord v.tag)]

/-- The words that a field takes. -/
def capFieldWords : CapField → Nat
  | .base => 2
  | .len => 2
  | _ => 1

/-- CGET (R129): an uncorrectable register is reported as R85 has it. DEDUCED: log 95. -/
def execCget (c : Ctl) (f : CapField) (d : VReg) (a : CSrc) (s : State) : Host.Outcome State Fault Refusal :=
  s.issue (opC c a true [] [] (dstRegs d (capFieldWords f))) <| fxFixed latInt d fun g => capField f (g.cap a.n)

/-- CADDR (R130). -/
def execCaddr (c : Ctl) (d : VReg) (a : CSrc) (b : Src) (s : State) : Host.Outcome State Fault Refusal :=
  s.issue (opC c a true (b.reads 2 false true) (b.lastRegs false) (dstRegs d 2)) fun x s =>
    let v := x.f.cap a.n
    let off := (x.f.src32 b).toNat
    if !v.tag then .trap (trapOf 0x20 (capNo a))
    else if v.length < off then .trap (trapOf 0x21 (x.f.src32 b))
    else .done (s.modCur fun f =>
      f.flyRegs (s.clk + latInt) (x.f.slotOf d.toNat) (regs64 (BitVec.ofNat 64 (v.base + off))))

/-- CMOV (R131): nothing is checked. -/
def execCmov (c : Ctl) (d : CReg) (a : CSrc) (s : State) : Host.Outcome State Fault Refusal :=
  s.issue { opC c a false [] [] [] with caps := [d] } fun x s => .done (flyCap s d (x.f.cap a.n))

/-- CTEST (R132): an uncorrectable register is reported as R85 has it. DEDUCED: log 95. -/
def execCtest (c : Ctl) (d : PReg) (a : CSrc) (b e : Src) (mask : Byte) (s : State) :
    Host.Outcome State Fault Refusal :=
  let o := { opC c a true (b.reads 2 false true ++ e.reads 3 false true) (b.lastRegs false ++ e.lastRegs false) [] with
    preds := [d] }
  s.issue o fun x s =>
    let v := x.f.cap a.n
    let ok := v.tag && decide (v.space < 6) && s.genOk x.u v && mask &&& v.perms == mask &&
      decide ((x.f.src32 b).toNat + (x.f.src32 e).toNat ≤ v.length)
    .done (if d == 15 then s else s.modCur fun f => f.fly (s.clk + latInt) (.pred d) (.bit ok))

end Sys2Proof.Machine
end

