-- ==== Sys2Proof/Machine/Fetch.lean ====
section
/-! DEFINITION. Fetching an instruction (spec 04 R38 to R45, R62): the checks of the line before the word's own, the
packed form, and the ILLEGAL trap of a word that no encoding admits. -/

namespace Sys2Proof.Machine

/-- What a fetch finds: a word with its pair bit, or a packed code. -/
inductive Fetched where
  | word (w : IWord) (pair : Bool)
  | packed (code : BitVec 16)
  deriving DecidableEq, Repr

/-- Checks 1 and 2 of R45 on the line that holds a PC. DEDUCED: log 31. -/
def lineCheck (d : KDesc) (l : FetchLine) : Option TrapInfo :=
  if l.parityMask != 0 then some (trapOf 0x0B (l.parityMask.setWidth 32))
  else if l.packed then
    if l.word.extractLsb' 8 19 != 0 then some (illegal 11)
    else if !d.dict then some (illegal 12) else none
  else if l.word.extractLsb' 8 13 != 0 then some (illegal 11) else none

/-- Fetch the instruction at a fibre's PC (R43, R45). -/
def State.fetch (s : State) (u : Unit) (f : Fibre) : Except TrapInfo Fetched :=
  match s.fetchLine (s.ctxOf u) f.pc with
  | .error e => .error e
  | .ok l =>
    match lineCheck u.desc l with
    | some t => .error t
    | none =>
      let k := slotOfPc f.pc
      if l.packed then .ok (.packed (l.slotCode k)) else .ok (.word (l.slotWord k) (l.word.getLsbD (21 + k)))

/-- PACKED_CODE (R40): the code's dictionary word goes to decoding with its L bits and stall count. -/
def execPackedCode (code : BitVec 16) (s : State) : Host.Outcome State Fault Refusal :=
  match s.current? with
  | none => .fault .noFibre
  | some (u, f) =>
    match s.dictEntry (s.ctxOf u) u.desc (code.extractLsb' 0 10).toNat with
    | .ok (w, p) => .next { s with ir := some (packWord w code, p) }
    | .error t => .next (s.takeTrap u.key f.fid t)

/-- UNASSIGNED_OPCODE (R61, R62): the current fibre traps ILLEGAL with the reason that decoding found. -/
def execUnassignedOpcode (reason : Nat) (s : State) : Host.Outcome State Fault Refusal := s.trapIllegal reason

end Sys2Proof.Machine
end

