-- ==== Sys2Proof/Machine/Service.lean ====
section
/-! DEFINITION. The events that end a fibre's wait on memory, time or a result (spec 04 R54, 05 R70, R78, 06 R101, 09 R188,
10 R234 to R238, 11 R255, R256), and the commit of a round of a DET launch. -/

namespace Sys2Proof.Machine

/-! ### Loads (R70, R188) -/

/-- The instruction that a parked load repeats, now that its data is there. -/
def performLoad (i : Instr) (s : State) : Host.Outcome State Fault Refusal :=
  match i with
  | .ld c t m d p => execLd c t m d p s
  | .ldv c four m d p => execLdv c four m d p s
  | .ldc c m d p => execLdc c m d p s
  | .wfill c f m n => execWfill c f m n s
  | .mwait c ge t m d p v => execMwait c ge t m d p v s
  | _ => .next s

/-- A fibre whose load's data is there: it performs its instruction at once. -/
def State.serveLoad (s : State) (unit fid : Nat) (i : Instr) : Host.Outcome State Fault Refusal :=
  performLoad i { s.modFibre unit fid (fun f => { f with wait := none, served := true }) with cur := (unit, fid) }

/-- A live fibre of a unit. -/
def State.live? (s : State) (unit fid : Nat) : Option (Unit × Fibre) :=
  match s.unit? unit with
  | none => none
  | some u => match u.fibre? fid with
    | none => none
    | some f => if f.live then some (u, f) else none

/-- LOAD_DATA_RETURN (R70, R200): the die's slice can read the line, or the home has answered for it. -/
def execLoadDataReturn (unit fid : Nat) (s : State) : Host.Outcome State Fault Refusal :=
  match s.live? unit fid with
  | none => .next s
  | some (u, f) => match f.wait with
    | some (.load i key _ _) =>
      let n := key / 64
      let l := s.line n
      let req := s.reqOf l (dieOf u.core)
      if !tokenKey key then s.serveLoad unit fid i
      else if l.lost || l.poisoned || l.canRead req then
        (s.modLine n fun l => l.endAttempt req).serveLoad unit fid i
      else .next s
    | _ => .next s

/-- The first AtomicOp of a fibre that has left IO0 (R241). -/
def Fibre.sent? (f : Fibre) : Option Req := f.outst.find? fun r => r.sent

/-- The host window offset that a parked load reads. -/
def Fibre.hostAddr (f : Fibre) (i : Instr) : Nat :=
  let at' (p : MemOp) : Nat := (f.cap p.cap.n).base + (f.offset p).toNat
  match i with
  | .ld _ _ _ _ p => at' p
  | .ldv _ _ _ _ p => at' p
  | .ldc _ _ _ p => at' p
  | .wfill _ _ p _ => at' p + 4 * f.moved
  | .mwait _ _ _ _ _ p _ => at' p
  | _ => 0

/-- PAGEFAULT of a completion that failed (R188, R241): 16 more than the space tells it from the fault of an entry that
firmware may map. -/
def hostFault (adr : Nat) : TrapInfo := { pageFault 4 adr with addr := some (16 + 4, adr) }

/-- PCIE_COMPLETION (R188, R241): of the fibre's outstanding read, or of its oldest AtomicOp that has left. -/
def execPcieCompletion (unit fid : Nat) (status : CplStatus) (poisoned : Bool) (s : State) :
    Host.Outcome State Fault Refusal :=
  match s.unit? unit with
  | none => .next s
  | some u => match u.fibre? fid with
    | none => .next s
    | some f => match f.wait with
      | some (.hostRead i _) =>
        if !f.live then .next s
        else if status == .success && !poisoned then s.serveLoad unit fid i
        else
          let t := if status == .success then poisonAt 4 (f.hostAddr i) else hostFault (f.hostAddr i)
          .next ((s.modFibre unit fid fun f => { f with wait := none }).takeTrap unit fid t)
      | _ => match f.sent? with
        | none => .next s
        | some r =>
          if status == .success then
            if poisoned then .next (s.failReq unit fid r (poisonAt 4 r.addr)) else .next (s.perform u fid 0 r)
          else .next (s.failReq unit fid r (hostFault r.addr))

/-- The completion timeout that a code of Device Control 2 sets, the end of its range in microseconds; none for a code that PCIe
reserves (R188). PRESUMED: log 79. -/
def cplRange (code : Nat) : Option Nat :=
  match code with
  | 0 => some 50000
  | 1 => some 100
  | 2 => some 10000
  | 5 => some 55000
  | 6 => some 210000
  | 9 => some 900000
  | 10 => some 3500000
  | 13 => some 13000000
  | 14 => some 64000000
  | _ => none

/-- The completion timeout of a function's Device Control 2 register (R188): 50 ms at reset. -/
def State.cplTime (s : State) (func : Nat) : Nat :=
  ((cplRange ((tget s.life.cplTimes func).getD 0)).getD 50000) * Config.usec

/-- Whether a fibre's read of host memory, or its oldest AtomicOp that has left, has waited for its function's timeout. -/
def State.cplLate (s : State) (u : Unit) (f : Fibre) : Bool :=
  let late (t : Nat) : Bool := decide (t + s.cplTime (s.funcOf u) ≤ s.time)
  match f.wait with
  | some (.hostRead _ since) => late since
  | _ => (f.sent?.map fun r => late r.time).getD false

/-- PCIE_COMPLETION_TIMEOUT (R188): no completion has come in time; as one with error status. -/
def execPcieCompletionTimeout (unit fid : Nat) (s : State) : Host.Outcome State Fault Refusal :=
  match s.unit? unit with
  | none => .next s
  | some u => match u.fibre? fid with
    | none => .next s
    | some f => if s.cplLate u f then execPcieCompletion unit fid .abort false s else .next s

/-! ### Results, fills, sleeps, monitors (R54, R78, R101, R255, R256) -/

/-- Land the oldest variable-latency result that has its value (R54). -/
def Fibre.landResult (f : Fibre) : Fibre :=
  match f.pending.find? fun p => p.val.isSome with
  | none => f
  | some p =>
    let g := { f with pending := f.pending.erase p }
    let g1 := match p.val with | some v => g.put p.dest v | none => g
    if g1.wait == some .result then { g1 with wait := none } else g1

/-- VARIABLE_LATENCY_RESULT (R54). DESIGN CHOICE: log 60. -/
def execVariableLatencyResult (unit fid : Nat) (s : State) : Host.Outcome State Fault Refusal :=
  .next (s.modFibre unit fid Fibre.landResult)

/-- Fill one slot that an instruction of a seat reads: it is given a row, filled from the backing areas (R78 step 5). -/
def State.fillSlot (s : State) (core part seat n : Nat) : State :=
  if (s.spilledIn core part).contains (seat, n) then
    ((s.giveRow core part seat [n] n fun _ _ => false).fillRow core part seat n fun _ _ => false).count core 0x000A 1
  else s

/-- REGISTER_FILL (R78): the slots that a parked read needs are filled one after another, each read into the operand stage
once it is filled, so that its row may go to the next. -/
def execRegisterFill (unit fid : Nat) (s : State) : Host.Outcome State Fault Refusal :=
  match s.live? unit fid with
  | none => .next s
  | some (u, f) => match f.wait with
    | some (.fill slots) =>
      let ps := u.seatOf fid
      .next ((slots.foldl (fun s n => s.fillSlot u.core ps.1 ps.2 n) s).modFibre unit fid fun f => { f with
        wait := none, staged := f.staged ++ slots })
    | _ => .next s

/-- The fibre goes on at the instruction after the `SLEEPU` it was planted at (R415, R434): it is not issued again. -/
def State.afterSleep (s : State) (u : Unit) (f : Fibre) : State :=
  let word : Option (IWord × Bool) := match s.fetch u f with
    | .ok (.word w p) => some (w, p)
    | .ok (.packed code) => (match s.dictEntry (s.ctxOf u) u.desc (code.extractLsb' 0 10).toNat with
      | .ok (w, p) => some (packWord w code, p)
      | .error _ => none)
    | .error _ => none
  match word.map fun e => decode e.1 e.2 with
  | some (.ok (.sleepu c a)) =>
    s.modFibre u.key f.fid fun f => { f.pass (a.lastRegs true) (s.seqNext (s.ctxOf u) f.pc) s.clk c.stall with
      stroke := { f.stroke with insns := 0, granules := [], pass := false } }
  | _ => s.modFibre u.key f.fid fun f => { f with wait := none }

/-- The sleep of a fibre ends: it issues its `SLEEPU` again, or was planted in it and goes on after it. -/
def State.wakeSleep (s : State) (u : Unit) (f : Fibre) (planted : Bool) : State :=
  if planted then s.afterSleep u f else s.modFibre u.key f.fid fun f => { f with wait := none }

/-- SLEEP_EXPIRY (R101): in a DET launch the fibre resumes with a round (R237). -/
def execSleepExpiry (unit fid : Nat) (s : State) : Host.Outcome State Fault Refusal :=
  match s.live? unit fid with
  | none => .next s
  | some (u, f) => match f.wait with
    | some (.sleep till planted) =>
      if till ≤ s.clk && !s.detOf u then .next (s.wakeSleep u f planted) else .next s
    | _ => .next s

/-- MONITOR_WAKE (R255): the watched word may have changed, and the fibre reads it again. -/
def execMonitorWake (unit fid : Nat) (s : State) : Host.Outcome State Fault Refusal :=
  match s.live? unit fid with
  | none => .next s
  | some (u, f) => match f.wait with
    | some (.monitor _ true _) =>
      if s.detOf u then .next s else .next (s.modFibre unit fid fun f => { f with wait := none })
    | _ => .next s

/-- The period after which a wait without a monitor entry reads again (R255, R256). -/
def rereadTime (key : Nat) : Nat := if region 2 ≤ key && key < region 3 then Config.usec else 250 * 65536

/-- MONITOR_REREAD_TIMER (R256). -/
def execMonitorRereadTimer (unit fid : Nat) (s : State) : Host.Outcome State Fault Refusal :=
  match s.live? unit fid with
  | none => .next s
  | some (u, f) => match f.wait with
    | some (.monitor key false since) =>
      if decide (since + rereadTime key ≤ s.time) && !s.detOf u then
        .next (s.modFibre unit fid fun f => { f with wait := none })
      else .next s
    | _ => .next s

/-! ### Waking (R13, R70) -/

/-- Wake the fibres whose waits satisfy `p`: they issue their instruction again. -/
def State.wakeWhere (s : State) (p : Unit → Wait → Bool) : State :=
  { s with units := s.units.map fun u => { u with fibres := u.fibres.map fun f => match f.wait with
      | some w => if p u w then { f with wait := none } else f
      | none => f } }

/-- Wake the fibres of a core that wait on its range scoreboard (R13). -/
def State.wakeRanges (s : State) (core : Nat) : State :=
  s.wakeWhere fun u w => u.core == core && w == .scoreboard

/-- Free the scoreboard entries of a holder (R13). -/
def State.freeRanges (s : State) (core who : Nat) : State :=
  (s.modCore core fun c => { c with scoreboard := c.scoreboard.filter fun e => e.who != who }).wakeRanges core

/-! ### Rounds of a DET launch (R234 to R237) -/

/-- DETW of a launch (R236). -/
def Launch.width (l : Launch) : Nat := if l.part.detw = 0 then l.part.grid else l.part.detw

/-- Whether unit `n` of a launch is due to take part in the present round (R236). -/
def Launch.due (l : Launch) (n : Nat) : Bool :=
  decide (n < l.width) || l.roundEnds.any fun e => e.1 + l.width == n && decide (e.2 < l.round)

/-- Whether a unit takes part in a round that has begun: a unit of another launch always runs. -/
def State.takesPart (s : State) (u : Unit) : Bool :=
  match s.launch? u.launch with
  | some l => !l.det || (l.due u.no && l.begun)
  | none => true

/-- Whether a parked fibre takes no part in a round while it waits (R237). -/
def Wait.idle : Wait → Bool
  | .barrier _ _ => true
  | .monitor _ _ _ => true
  | .sleep _ _ => true
  | .xwait _ => true
  | .tsrec _ => true
  | .accept _ _ => true
  | .team _ _ => true
  | _ => false

/-- Whether a fibre lets the round end: it has ended its stroke or waits. -/
def Fibre.roundDone (f : Fibre) : Bool :=
  match f.wait with
  | some (.stroke _) => true
  | some w => w.idle
  | none => false

/-- The units of a launch that take part, in unit order, with their shadow copies after them (R235, R406). -/
def State.detUnits (s : State) (l : Launch) : List Unit :=
  let copies (sh : Bool) : List Unit := (List.range l.part.grid).filterMap fun n =>
    s.units.find? fun u => u.launch == l.key && u.no == n && u.shadow == sh && l.due n
  copies false ++ copies true

/-- Whether every unit due to take part in the present round and not finished is resident (R236). -/
def State.roundReady (s : State) (l : Launch) : Bool :=
  let us := s.detUnits l
  let due := (List.range l.part.grid).filter fun n => l.due n && !(l.ends.any fun e => e.no == n)
  due.all fun n => us.any fun u => u.no == n && !u.shadow

/-- Whether every live member of a team waits at one team operation (R80): it is issued as soon as nothing it reads is on its
way. -/
def Unit.gathered (u : Unit) (t : Nat) : Bool :=
  match u.fibres.filter fun f => f.live && f.fid / u.desc.team == t with
  | [] => false
  | f :: ms => (f :: ms).all fun g => g.pc == f.pc && (match g.wait with | some (.team _ _) => true | _ => false)

/-- Whether the present round of a launch can end: it has begun, every unit due is resident still, every live fibre is
done, and no team operation is about to be issued (R235, R236). -/
def State.roundOver (s : State) (l : Launch) : Bool :=
  l.begun && s.roundReady l && (s.detUnits l).all fun u =>
    (u.next.isNone || u.fibres.any Fibre.live) && (u.fibres.all fun f => !f.live || f.roundDone) &&
      !(List.range (u.desc.fibres / u.desc.team)).any u.gathered

/-- Commit the buffered stores of one fibre, oldest first (R235 step 1): each gathers its line's tokens. A shadow copy
commits those in its own scratchpad alone (R406). -/
def State.commitFibre (s : State) (u : Unit) (f : Fibre) : State :=
  let mine := f.stroke.stores.filter fun r => !u.phantom r.key
  let s1 := mine.foldl (fun s r =>
    let n := r.key / 64
    let req := s.reqOf (s.line n) (dieOf u.core)
    if tokenKey r.key then (((s.countL2 u.core r).gatherAt n req).doStore u f.fid req r).passOn n
    else s.doStore u f.fid req r) s
  s1.modFibre u.key f.fid fun g => { g with
    stroke := { g.stroke with stores := g.stroke.stores.filter fun r => u.phantom r.key } }

/-- The fibres of a launch, in the order of their linear index (R235), for which `p` holds. -/
def detFibres (us : List Unit) (p : Fibre → Bool) : List (Nat × Nat) :=
  us.flatMap fun u => ((List.range u.desc.fibres).filterMap fun n => u.fibre? n).filterMap fun f =>
    if p f then some (u.key, f.fid) else none

/-- The lines of the buffered stores of a launch whose tokens cannot be gathered, and that are not lost yet, with the requesters
that ask for them (R203). -/
def State.stuckLines (s : State) (l : Launch) : List (Nat × Nat) :=
  ((s.detUnits l).flatMap fun u => u.fibres.flatMap fun f => f.stroke.stores.filterMap fun r =>
    let n := r.key / 64
    if tokenKey r.key && !u.phantom r.key && !(s.line n).lost && s.gone n then
      some (n, s.reqOf (s.line n) (dieOf u.core)) else none).eraseDups

/-- Ask for the lines that a commit waits for (R202). -/
def State.seekLines (s : State) (ls : List (Nat × Nat)) : State :=
  ls.foldl (fun s e => if ((s.line e.1).attempt? e.2).isSome then s else (s.noteAttempt e.1 e.2 true).ask e.1 e.2 true [none]) s

/-- Let fibres pass the instruction that ends their stroke: they issue in the order given. -/
def State.passFibres (s : State) (fs : List (Nat × Nat)) : State :=
  let s1 := fs.foldl (fun s e => s.modFibre e.1 e.2 fun f =>
    { f with wait := none, ready := s.clk, stroke := { f.stroke with pass := true } }) s
  { s1 with issuing := s1.issuing ++ fs }

/-- Whether a waiting fibre looks again at the state that a round starts from (R237). -/
def Wait.retries (clk : Nat) : Wait → Bool
  | .barrier _ _ => true
  | .monitor _ _ _ => true
  | .sleep till _ => decide (till ≤ clk)
  | .xwait _ => true
  | .tsrec _ => true
  | .stroke k => k == 5
  | _ => false

/-- Step 1 of a commit (R235), the stores; atomics, engine requests and arrivals follow one after another. -/
def State.commitFirst (s : State) (l : Launch) : State :=
  let us := s.detUnits l
  let s1 := us.foldl (fun s u => ((List.range u.desc.fibres).filterMap fun n => u.fibre? n).foldl
    (fun s f => s.commitFibre u f) s) s
  let step (k : Nat) := detFibres us fun f => f.live && f.wait == some (.stroke k)
  s1.modLaunch l.key fun l => { l with committing := true, passQ := step 2 ++ step 3 ++ step 4 }

/-- The next fibre of a commit performs the instruction that ends its stroke (R235 steps 2 to 4), if it still stands there. -/
def State.commitNext (s : State) (l : Launch) (e : Nat × Nat) (rest : List (Nat × Nat)) : State :=
  let s1 := s.modLaunch l.key fun l => { l with passQ := rest }
  if ((s.unit? e.1).bind fun u => u.fibre? e.2).any fun f =>
      f.live && (match f.wait with | some (.stroke k) => k != 0 && k != 5 | _ => false) then s1.passFibres [e]
  else s1

/-- The units of a launch that have completed, resident still or not, and are in no round's record (R236). -/
def State.unitsEnded (s : State) (l : Launch) : List Nat :=
  (((s.detUnits l).filter fun u => !u.shadow && u.next.isNone && !u.fibres.any Fibre.live).map Unit.no ++
    (l.ends.filter fun e => e.how == .complete).map UnitDone.no).eraseDups.filter fun n => !(l.roundEnds.any fun e => e.1 == n)

/-- Steps 5 and 6 of a commit (R235): the next round has not begun. -/
def State.commitLast (s : State) (l : Launch) : State :=
  let us := s.detUnits l
  let s0 := if l.sysRound then (s.settleLags 0 .sys).reveal l.key else s.settleLags 0 .dev
  let s1 := l.contribs.foldl (fun s e => (s.barUpdate e.1 0 e.2).1) s0
  let ended := (s.unitsEnded l).map fun n => (n, l.round)
  let s2 := s1.modLaunch l.key fun l => { l with
    committing := false, begun := false, sysRound := false, contribs := [], round := l.round + 1
    roundEnds := l.roundEnds ++ ended }
  (detFibres us fun f => f.live && f.wait == some (.stroke 0)).foldl (fun s e => s.modFibre e.1 e.2 fun f =>
    { f with wait := none, ready := s.clk, stroke := { f.stroke with insns := 0, granules := [], pass := false } }) s2

/-- The fibres that the commit has passed and that have not performed the instruction that ended their strokes (R235): the
range scoreboard, an earlier access, a fill or a result holds them, a request of theirs is with the fabric or the host, or
their team's instruction reads what is on its way. -/
def State.passing (s : State) (l : Launch) : List (Nat × Nat) :=
  (s.detUnits l).flatMap fun u => detFibres [u] fun f => f.live && (!f.outst.isEmpty || (f.stroke.pass && (match f.wait with
    | none => true
    | some .scoreboard => true
    | some .fence => true
    | some .result => true
    | some (.fill _) => true
    | some (.team _ _) => u.gathered (f.fid / u.desc.team)
    | _ => false)))

/-- Those of them that may issue again. -/
def State.passable (s : State) (l : Launch) : List (Nat × Nat) :=
  (s.passing l).filter fun e => ((s.unit? e.1).bind fun u => u.fibre? e.2).any fun f => f.wait.isNone

/-- The fibres planted in a `SLEEPU` whose time has come go on after it (R237, R434). -/
def State.wakePlanted (s : State) (l : Launch) : State :=
  (s.detUnits l).foldl (fun s u => u.fibres.foldl (fun s f => match f.wait with
    | some (.sleep till true) => if f.live && decide (till ≤ s.clk) then s.afterSleep u f else s
    | _ => s) s) s

/-- A round begins (R236, R237): the fibres whose waits its starting state may satisfy look again. -/
def State.beginRound (s : State) (l : Launch) : State :=
  let s1 := s.wakePlanted l
  (s1.modLaunch l.key fun l => { l with begun := true }).passFibres
    (detFibres (s1.detUnits l) fun f => f.live && (match f.wait with | some w => w.retries s.clk | none => false))

/-- DET_ROUND_COMMIT (R235): step 1 when the round is over and the lines of its stores can be had or are lost; then the fibres
that end their strokes, each when the one before has performed its instruction; then steps 5 and 6. -/
def execDetRoundCommit (launch : Nat) (s : State) : Host.Outcome State Fault Refusal :=
  match s.launch? launch with
  | none => .next s
  | some l =>
    if !l.det then .next s
    else if l.committing then
      .next (if !s.issuing.isEmpty then s
        else if !(s.passing l).isEmpty then { s with issuing := s.passable l }
        else match l.passQ with
          | [] => s.commitLast l
          | e :: rest => s.commitNext l e rest)
    else if !s.roundOver l then .next s
    else .next (if (s.stuckLines l).isEmpty then s.commitFirst l else s.seekLines (s.stuckLines l))

/-- Count an engine's write into a barrier object (R230): in a DET launch it waits for the commit (R235 step 5). -/
def State.countInto (s : State) (key granules : Nat) : State :=
  let owner := s.units.find? fun u => scratchCore key == some u.core &&
    decide (keyScratch u.core u.allocBase ≤ key) && decide (key < keyScratch u.core (u.allocBase + u.desc.scratch))
  match owner with
  | some u =>
    if s.detOf u then s.modLaunch u.launch fun l => { l with contribs := l.contribs ++ [(key, granules)] }
    else (s.barUpdate key 0 granules).1
  | none => (s.barUpdate key 0 granules).1

end Sys2Proof.Machine
end

