-- ==== Sys2Proof/Machine/Move.lean ====
section
/-! DEFINITION. What a transfer request is and what it does to memory (spec 14 R278 to R290, R299, R303): templates and
layouts, the check of a template, promises, acceptance, the movement of bytes, and how a request ends or is cancelled. -/

namespace Sys2Proof.Machine

/-! ### Template and layout records (R284, R285) -/

/-- A template record's fields (R284). -/
structure Tpl where
  off : Nat
  syncOff : Nat
  lay : Nat
  atTo : Bool
  sync : Nat
  scope : Nat
  count : Bool
  dstRef : BitVec 16
  srcRef : BitVec 16
  deriving DecidableEq, Repr, Inhabited

/-- A layout record's fields (R285); the triples are of coordinates 0, 1 and 2. -/
structure Lay where
  strides : Nat × Nat
  size : Nat × Nat × Nat
  tile : Nat × Nat × Nat
  dims : Nat
  border : Bool
  conv : Nat
  fmt : Nat
  deriving DecidableEq, Repr, Inhabited

/-- The KIND of a reference. -/
def refKind (r : BitVec 16) : Nat := (r.extractLsb' 12 4).toNat
/-- The INDEX of a reference. -/
def refIndex (r : BitVec 16) : Nat := (r.extractLsb' 0 8).toNat
/-- Whether a reference names a FIFO. -/
def refFifo (r : BitVec 16) : Bool := refKind r == 3 || refKind r == 4

/-- Whether a reference is well formed (R284). -/
def refOk (r : BitVec 16) : Bool :=
  r.extractLsb' 8 4 == 0 && (match refKind r with
    | 0 => refIndex r == 0
    | 1 => refIndex r == 0
    | 2 => true
    | 3 => decide (refIndex r < 2)
    | 4 => decide (refIndex r < 6)
    | 5 => refIndex r == 0
    | _ => false)

/-- A template record, where it is valid (R283, R284): a FIFO is neither the source nor on the layout side. -/
def tplOf (r : BitVec 128) : Option Tpl :=
  let t : Tpl :=
    { off := (r.extractLsb' 96 32).toNat, syncOff := (r.extractLsb' 64 32).toNat, lay := (r.extractLsb' 40 6).toNat
      atTo := r.getLsbD 39, sync := (r.extractLsb' 37 2).toNat, scope := (r.extractLsb' 35 2).toNat
      count := r.getLsbD 34, dstRef := r.extractLsb' 16 16, srcRef := r.extractLsb' 0 16 }
  if r.getLsbD 32 && !r.getLsbD 33 && r.extractLsb' 46 18 == 0 && refOk t.srcRef && refOk t.dstRef &&
      !refFifo t.srcRef && !(t.atTo && refFifo t.dstRef) then some t
  else none

/-- The bytes of an element of a format code (R21, R286); 0 where the code is no format. -/
def elemSize (c : Nat) : Nat :=
  match c with
  | 0 => 1 | 1 => 2 | 2 => 4 | 3 => 8 | 4 => 1 | 5 => 2 | 6 => 4 | 7 => 8 | 8 => 4 | 9 => 2 | 10 => 2 | 11 => 3 | _ => 0

/-- The floating format of a code. -/
def floatCode (c : Nat) : Option FTy :=
  match c with
  | 8 => some .f32 | 9 => some .f16 | 10 => some .bf16 | _ => none

/-- The number of elements of a tile. -/
def Lay.count (l : Lay) : Nat := l.tile.1 * l.tile.2.1 * l.tile.2.2

/-- A layout record, where it is valid (R285). -/
def layOf (r : BitVec 256) : Option Lay :=
  let h (i : Nat) : Nat := (r.extractLsb' i 16).toNat
  let l : Lay :=
    { strides := ((r.extractLsb' 192 32).toNat, (r.extractLsb' 224 32).toNat), size := (h 144, h 160, h 176)
      tile := (h 96, h 112, h 128), dims := (r.extractLsb' 10 2).toNat, border := r.getLsbD 9
      conv := (r.extractLsb' 4 4).toNat, fmt := (r.extractLsb' 0 4).toNat }
  let pos : Bool := l.size.1 != 0 && l.size.2.1 != 0 && l.size.2.2 != 0 && l.tile.1 != 0 && l.tile.2.1 != 0 && l.tile.2.2 != 0
  let flat : Bool := (decide (2 ≤ l.dims) || (l.size.2.1 == 1 && l.tile.2.1 == 1)) &&
    (decide (3 ≤ l.dims) || (l.size.2.2 == 1 && l.tile.2.2 == 1))
  if r.extractLsb' 12 84 == 0 && !r.getLsbD 8 && l.dims != 0 && pos && flat && elemSize l.fmt != 0 &&
      elemSize l.conv != 0 && (l.conv == l.fmt || ((floatCode l.conv).isSome && (floatCode l.fmt).isSome)) &&
      decide (l.count * elemSize l.conv ≤ 1048576) then some l
  else none

/-! ### Elements (R286, R287) -/

/-- The mirrored value of a coordinate (R287). -/
def mirror (border : Bool) (n : Nat) (y : Int) : Nat :=
  if border then
    let r := (y % (2 * n : Int)).toNat
    if r < n then r else 2 * n - 1 - r
  else if n = 1 then 0
  else
    let r := (y % (2 * n - 2 : Int)).toNat
    if r < n then r else 2 * n - 2 - r

/-- Where coordinate `y` of a dimension of size `n` lies: mirrored, or on the destination side only within it (R286). -/
def place (atTo border : Bool) (n : Nat) (y : Int) : Option Nat :=
  if atTo then (if 0 ≤ y && decide (y < n) then some y.toNat else none) else some (mirror border n y)

/-- The elements a request moves, in ascending i2, i1, i0: the offset in the layout side and in the contiguous tile,
before OFF (R286). Coordinates beyond DIMS are 0 (R298). -/
def Lay.elems (l : Lay) (atTo : Bool) (x : Int × Int × Int) : List (Nat × Nat) :=
  let e := elemSize l.fmt
  let x1 := if l.dims < 2 then 0 else x.2.1
  let x2 := if l.dims < 3 then 0 else x.2.2
  (List.range l.tile.2.2).flatMap fun (i2 : Nat) => (List.range l.tile.2.1).flatMap fun (i1 : Nat) =>
    (List.range l.tile.1).filterMap fun (i0 : Nat) =>
      match place atTo l.border l.size.1 (x.1 + (i0 : Int)), place atTo l.border l.size.2.1 (x1 + (i1 : Int)),
        place atTo l.border l.size.2.2 (x2 + (i2 : Int)) with
      | some m0, some m1, some m2 =>
        some (m0 * e + m1 * l.strides.1 + m2 * l.strides.2, ((i2 * l.tile.2.1 + i1) * l.tile.1 + i0) * elemSize l.conv)
      | _, _, _ => none

/-- The bytes of a tensor from its first element to its last (R299 reason 4). -/
def Lay.extent (l : Lay) : Nat :=
  (l.size.1 - 1) * elemSize l.fmt + (l.size.2.1 - 1) * l.strides.1 + (l.size.2.2 - 1) * l.strides.2 + elemSize l.fmt

/-- The bytes of the contiguous tile. -/
def Lay.tileBytes (l : Lay) : Nat := l.count * elemSize l.conv

/-! ### The check of a template (R299) -/

/-- What a request comes to when its template has passed its check. -/
structure XPlan where
  tpl : Tpl
  lay : Lay
  src : CapReg
  dst : CapReg
  fifo : Option Nat
  /-- pairs of a source offset and a destination offset, in their capabilities -/
  elems : List (Nat × Nat)
  deriving DecidableEq, Repr

/-- The bytes of a source element. -/
def XPlan.srcSize (p : XPlan) : Nat := if p.tpl.atTo then elemSize p.lay.conv else elemSize p.lay.fmt
/-- The bytes of a destination element. -/
def XPlan.dstSize (p : XPlan) : Nat := if p.tpl.atTo then elemSize p.lay.fmt else elemSize p.lay.conv

/-- XTEMPLATE with a reason (R305). -/
def xtemplate (reason t : Nat) : TrapInfo := trapOf 0x41 (BitVec.ofNat 32 (reason + 256 * (t % 64)))
/-- XFAULT with a reason (R294). -/
def xfault (reason t : Nat) : TrapInfo := trapOf 0x42 (BitVec.ofNat 32 (reason + 256 * (t % 64)))

/-- What a unit's engine keeps of a template. -/
def Unit.tplState (u : Unit) (t : Nat) : TplState :=
  u.tpl.getD t { seq := 0, wmark := 0, finished := [], from? := none, to? := none }

/-- The capability in an argument block at a byte offset (R283): untagged where it is none or cannot be read. -/
def State.argCap (s : State) (u : Unit) (off : Nat) : CapReg :=
  let k := keyArg u.launch off
  if off + 16 ≤ u.desc.args && (s.mem.badWord k 16).isNone then
    { bits := BitVec.ofNat 128 (natOfBytes (s.mem.goodBytes k 16)), tag := s.mem.tag k, bad := false }
  else CapReg.empty

/-- The capability of one side of a template; none for a FIFO, and for a side that was never bound (R283). -/
def State.refCap (s : State) (u : Unit) (t : Nat) (toSide : Bool) (r : BitVec 16) : Option CapReg :=
  match refKind r with
  | 0 => some u.cap1
  | 1 => some (s.cap2 u)
  | 2 => some (s.argCap u (16 * refIndex r))
  | 5 => if toSide then (u.tplState t).to? else (u.tplState t).from?
  | _ => none

/-- The FIFO of a reference: fa0, fa1, fb0 to fb5 as 0 to 7. -/
def refFifoNo (r : BitVec 16) : Option Nat :=
  match refKind r with
  | 3 => some (refIndex r)
  | 4 => some (2 + refIndex r)
  | _ => none

/-- The reasons of R299 against one side's capability: `need` is R or W, `bytes` what the side spans. -/
def State.sideReasons (s : State) (u : Unit) (c : Option CapReg) (dst : Bool) (bytes : Nat) : List Nat :=
  match c with
  | none => [2]
  | some c =>
    let need := if dst then permW else permR
    (if !c.tag || c.perms &&& (permX ||| need) != (permX ||| need) then [2] else []) ++
    (if decide (6 ≤ c.space) || (dst && c.space == 3) then [3] else []) ++
    (if c.length < bytes then [4] else []) ++
    (if s.genOk u c then [] else [5])

/-- The reasons against the barrier object or the stamp (R299 reasons 3 and 7). -/
def State.syncReasons (s : State) (u : Unit) (t : Tpl) (dst : Option CapReg) : List Nat :=
  let bar (size : Nat) : List Nat := if t.syncOff % 8 != 0 || decide (size < t.syncOff + 8) then [7] else []
  match t.sync with
  | 0 => []
  | 1 => bar u.desc.reach
  | 2 => bar (s.unitsIn u * 2097152) ++ (if u.desc.reach < t.syncOff % 2097152 + 8 then [7] else [])
  | _ => match dst with
    | some c =>
      if c.space == 0 || c.space == 4 || c.space == 5 then
        (if (c.base + t.syncOff) % 8 != 0 || decide (c.length < t.syncOff + 8) then [7] else [])
      else [3]
    | none => [3]

/-- Whether a unit owns its core's matrix engine (R306). -/
def State.ownsEngine (s : State) (u : Unit) : Bool := ((s.core? u.core).map fun c => c.matrix.owner == some u.key).getD false

/-- The check of template `t` for a unit, and what a request with coordinates `x` comes to (R299). -/
def State.xplan (s : State) (u : Unit) (t : Nat) (x : Int × Int × Int) : Except TrapInfo XPlan :=
  match (if t < 64 then (u.templates[t]?).bind tplOf else none) with
  | none => .error (xtemplate 1 t)
  | some tp => match (u.layouts[tp.lay]?).bind layOf with
    | none => .error (xtemplate 1 t)
    | some l =>
      let src := s.refCap u t false tp.srcRef
      let dst := s.refCap u t true tp.dstRef
      let fifo := refFifoNo tp.dstRef
      let contig := tp.off + l.tileBytes
      let size := l.tileBytes
      let rs := s.sideReasons u src false (if tp.atTo then contig else l.extent) ++
        (if fifo.isSome then
          (if (size == 3072 || size == 4096 || size == 8192) && s.ownsEngine u then [] else [6])
        else s.sideReasons u dst true (if tp.atTo then l.extent else contig)) ++
        s.syncReasons u tp (if fifo.isSome then none else dst)
      match minOf rs with
      | some r => .error (xtemplate r t)
      | none =>
        let move (e : Nat × Nat) : Nat × Nat :=
          if tp.atTo then (tp.off + e.2, e.1) else (e.1, if fifo.isSome then e.2 else tp.off + e.2)
        .ok { tpl := tp, lay := l, src := src.getD CapReg.empty, dst := dst.getD CapReg.empty, fifo := fifo
              elems := (l.elems tp.atTo x).map move }

/-- The coordinates of a coordinate pair (R298). -/
def coords (b : DWord) : Int × Int × Int :=
  ((b.extractLsb' 16 16).toInt, (b.extractLsb' 32 16).toInt, (b.extractLsb' 48 16).toInt)

/-! ### Ranges, paths and promises (R278, R280, R292) -/

/-- The lowest byte and the end of what a request touches on one side, as addresses of its space. -/
def sideSpan (base size : Nat) (offs : List Nat) : Option (Nat × Nat) :=
  match offs with
  | [] => none
  | o :: rest => some (base + rest.foldl min o, base + rest.foldl max o + size)

/-- The parts of a span that lie in the scratchpad of a unit's core, as keys (R13): its own, and those of the gang peers that
share the core. -/
def State.ownRange (s : State) (u : Unit) (space : Nat) (sp : Option (Nat × Nat)) : List (Nat × Nat) :=
  match sp with
  | none => []
  | some (lo, hi) =>
    if space == 1 then [(keyScratch u.core (u.allocBase + lo), keyScratch u.core (u.allocBase + hi))]
    else if space == 2 then
      (List.range (s.unitsIn u)).filterMap fun i => (s.gangUnit u i).bind fun v =>
        let w := i * 2097152
        let a := max lo w
        let b := min hi (w + 2097152)
        if v.core == u.core && decide (a < b) then
          some (keyScratch v.core (v.allocBase + (a - w)), keyScratch v.core (v.allocBase + (b - w)))
        else none
    else []

/-- The byte range of the contiguous side. -/
def XPlan.tileSpan (p : XPlan) (base : Nat) : Option (Nat × Nat) :=
  some (base + p.tpl.off, base + p.tpl.off + p.lay.tileBytes)
/-- The span of the source side (R280): of the contiguous side its whole byte range. -/
def XPlan.srcSpan (p : XPlan) : Option (Nat × Nat) :=
  if p.tpl.atTo then p.tileSpan p.src.base else sideSpan p.src.base p.srcSize (p.elems.map (·.1))
/-- The span of the destination side; none for a FIFO. -/
def XPlan.dstSpan (p : XPlan) : Option (Nat × Nat) :=
  if p.fifo.isSome then none
  else if p.tpl.atTo then sideSpan p.dst.base p.dstSize (p.elems.map (·.2)) else p.tileSpan p.dst.base

/-- The scoreboard entries of a request (R280); what one that came through the aperture writes has none (R14).
DEDUCED: log 73. -/
def State.ranges (s : State) (u : Unit) (p : XPlan) (who : Nat) (aperture : Bool) : List RangeEntry :=
  let side (space : Nat) (sp : Option (Nat × Nat)) (write : Bool) : List RangeEntry :=
    (s.ownRange u space sp).map fun e => { lo := e.1, hi := e.2, write := write, who := who }
  side p.src.space p.srcSpan false ++ if aperture then [] else side p.dst.space p.dstSpan true

/-- Whether a request enters the store queue (R278). -/
def XPlan.store (p : XPlan) (u : Unit) : Bool :=
  let c := p.dst
  let at0 := c.base + (if p.tpl.atTo then 0 else p.tpl.off)
  !(p.fifo.isSome || c.space == 1 || (c.space == 2 && at0 / 2097152 == u.idx))

/-- B and V of one side (R292): the slowest of what it touches. -/
def State.sidePath (s : State) (u : Unit) (c : CapReg) (offs : List Nat) (right : BitVec 3) : Nat × Nat :=
  match c.space with
  | 0 =>
    let near := offs.all fun o => match s.locate u 0 (c.base + o) right with
      | some k => homeDie (k / 64) == dieOf u.core
      | none => false
    if near then (900, 256) else (1300, 128)
  | 1 => (40, 256)
  | 2 => if offs.all fun o => (c.base + o) / 2097152 == u.idx then (40, 256) else (120, 128)
  | 3 => (900, 256)
  | 4 => (3400, 64)
  | _ => (4000, 64)

/-- B and V of a request: those of its slowest path (R292). -/
def State.xpath (s : State) (u : Unit) (p : XPlan) : Nat × Nat :=
  let a := s.sidePath u p.src (p.elems.map (·.1)) rightR
  if p.fifo.isSome then (if a.1 = 40 then (40, 1024) else a)
  else
    let b := s.sidePath u p.dst (p.elems.map (·.2)) rightW
    if a.1 < b.1 then b else a

/-- The greater of the bytes read and the bytes written (R292): a contiguous source is read whole. -/
def XPlan.bytes (p : XPlan) : Nat :=
  max (if p.tpl.atTo then p.lay.tileBytes else p.elems.length * p.srcSize) (p.elems.length * p.dstSize)

/-- ⌈n / V⌉ of a request (R292). -/
def State.xwork (s : State) (u : Unit) (p : XPlan) : Nat :=
  let v := (s.xpath u p).2
  (p.bytes + v - 1) / v

/-- The slots of a FIFO that a tile of a size takes (R311). -/
def tileSlots (size : Nat) : Nat := if size = 8192 then 2 else 1

/-- The slots held by tiles. -/
def slotsOf (ts : List FifoTile) : Nat := (ts.map fun t => tileSlots t.size).sum

/-- The FREE slots of a FIFO (R311). -/
def FifoState.free (f : FifoState) : Nat :=
  Config.fifoSlots - slotsOf f.retained - slotsOf f.readyT - (f.filling.map (·.2)).sum

/-- A FIFO of a core. -/
def State.fifo (s : State) (core n : Nat) : FifoState :=
  ((s.core? core).bind fun c => c.matrix.fifos[n]?).getD FifoState.reset

/-- A queue of a core's transfer engine. -/
def Core.xqueue (c : Core) (store : Bool) : List XReq := if store then c.storeQ else c.loadQ

/-- The promise of a request accepted in this cycle (R292), with the free counter advanced: how much of the moving
requests' work is still outstanding is the part's. -/
def State.promise (s : State) (u : Unit) (p : XPlan) : Nat × State :=
  let q := ((s.core? u.core).map fun c => c.xqueue (p.store u)).getD []
  let moving := ((q.take Config.movingEntries).map XReq.work).sum
  let queued := ((q.drop Config.movingEntries).map XReq.work).sum
  let full := match p.fifo with
    | some f => (s.fifo u.core f).free == 0
    | none => false
  let (n, s1) := s.draw
  (if full then 2 ^ 64 - 1
    else s.clk + (s.xpath u p).1 + s.xwork u p + queued + (if moving = 0 then 0 else Config.freeNat n % (moving + 1)), s1)

/-! ### Acceptance (R279, R280) -/

/-- Whether a request has room in its queue and in the range scoreboard (R279). -/
def State.xroom (s : State) (u : Unit) (p : XPlan) (aperture : Bool) : Bool :=
  match s.core? u.core with
  | none => false
  | some c => decide ((c.xqueue (p.store u)).length < Config.queueEntries) &&
      decide (c.scoreboard.length + (s.ranges u p 0 aperture).length ≤ Config.scoreboardEntries)

/-- Change one template's state of a unit. -/
def State.modTpl (s : State) (k t : Nat) (f : TplState → TplState) : State :=
  s.modUnit k fun u => { u with tpl := updAt u.tpl t f }

/-- Who makes a request, and with what (R278). -/
structure XAsk where
  fid : Option Nat
  chan : Option Nat
  tmpl : Nat
  x : Int × Int × Int
  rmode : Word
  pc : BitVec 57
  deriving DecidableEq, Repr

/-- Put a request into its queue with its scoreboard entries (R13). -/
def State.enqueue (s : State) (u : Unit) (p : XPlan) (r : XReq) : State :=
  s.modCore u.core fun c => { c with
    scoreboard := c.scoreboard ++ s.ranges u p r.id r.chan.isSome
    loadQ := if r.store then c.loadQ else c.loadQ ++ [r]
    storeQ := if r.store then c.storeQ ++ [r] else c.storeQ }

/-- Accept a request (R280): its sequence number, promise, scoreboard entries and place in its queue. -/
def State.acceptX (s : State) (u : Unit) (a : XAsk) (p : XPlan) : State × XReq :=
  let (pr, s1) := s.promise u p
  let seq := (u.tplState a.tmpl).seq + 1
  let r : XReq :=
    { id := s.seqCtr, unit := u.key, fid := a.fid, chan := a.chan, tmpl := a.tmpl, x0 := BitVec.ofInt 16 a.x.1
      x1 := BitVec.ofInt 16 a.x.2.1, x2 := BitVec.ofInt 16 a.x.2.2, rmode := a.rmode, seq := seq, store := p.store u
      promise := pr, late := false, lateRaised := false, src := p.src, dst := p.dst, work := s.xwork u p
      accepted := s.clk, fault := none, written := false, pc := a.pc, progress := 0 }
  ({ ((s1.enqueue u p r).modTpl u.key a.tmpl fun t => { t with seq := seq }) with seqCtr := s.seqCtr + 1 }, r)

/-- The tag of a request (R298). -/
def XReq.tag (r : XReq) : Word := BitVec.ofNat 32 (r.tmpl * 2 ^ 26 + r.seq % 2 ^ 26)

/-- What a fibre that stands at an `XFER` asks. -/
def Fibre.xask (f : Fibre) (t : Src) (b : Option RSrc) : XAsk :=
  { fid := some f.fid, chan := none, tmpl := (f.src32 t).toNat
    x := coords (match b with | some r => f.pairAt r.n.toNat | none => 0), rmode := f.rmode, pc := f.pc }

/-- What an aperture store asks (R282). -/
def ApStore.xask (a : ApStore) : XAsk :=
  { fid := none, chan := some a.chan, tmpl := (a.word.extractLsb' 0 6).toNat, x := coords a.word, rmode := 0, pc := 0 }

/-- The requests that wait for acceptance at a core, by their place in the order of arrival, with the queue each will
enter. -/
def State.xwaiters (s : State) (core : Nat) : List (Nat × Bool) :=
  let fibre (u : Unit) (f : Fibre) : Option (Nat × Bool) :=
    match f.wait with
    | some (.accept (.xfer _ _ t b) n) => match s.xplan u (f.xask t b).tmpl (f.xask t b).x with
      | .ok p => some (n, p.store u)
      | .error _ => some (n, false)
    | _ => none
  let fs := (s.units.filter fun u => u.core == core).flatMap fun u => (u.fibres.filter Fibre.live).filterMap (fibre u)
  let aps := ((s.core? core).map Core.apWait).getD []
  fs ++ aps.filterMap fun a => match s.unit? a.unit with
    | none => none
    | some u => match s.xplan u a.xask.tmpl a.xask.x with
      | .ok p => some (a.seq, p.store u)
      | .error _ => some (a.seq, false)

/-- Whether an earlier request waits for the same queue (R279). -/
def State.xbehind (s : State) (core : Nat) (store : Bool) (seq : Option Nat) : Bool :=
  (s.xwaiters core).any fun w => w.2 == store && (match seq with | some n => decide (w.1 < n) | none => true)

/-! ### The movement of bytes (R286 to R290, R294) -/

/-- What stops a movement: a page fault that waits, or a fault that ends the request. -/
inductive Snag where
  | page (space adr : Nat)
  | fail (t : TrapInfo)
  deriving DecidableEq, Repr

/-- One byte to write: its key and address, and where it comes from: a source byte, or a converted value and the words
that it was made from. -/
structure MoveByte where
  key : Nat
  adr : Nat
  src : Option (Nat × Nat)
  val : Byte
  made : List Nat
  deriving DecidableEq, Repr, Inhabited

/-- The key of a byte of one side of a request (R186, R294): where a translation finds none, the page fault waits for firmware
core 3 (R190). -/
def State.sideKey (s : State) (u : Unit) (t : Nat) (c : CapReg) (adr : Nat) (right : BitVec 3) : Except Snag Nat :=
  match s.locate u c.space adr right with
  | some k => if c.space == 2 && decide (u.desc.reach ≤ adr % 2097152) then .error (.fail (xfault 4 t)) else .ok k
  | none =>
    if c.space == 2 then .error (.fail (xfault 4 t)) else .error (.page c.space adr)

/-- The fault of a line that a side touches: lost, or poisoned (R294). DESIGN CHOICE: log 70. -/
def State.lineSnag (s : State) (t space adr key : Nat) (poisonToo : Bool) : Option Snag :=
  if tokenKey key then
    let l := s.line (key / 64)
    if s.gone (key / 64) then some (.fail (xfault 2 t)) else if poisonToo && l.poisoned then some (.fail (poisonAt space adr)) else none
  else none

/-- The keys and addresses of the bytes of an element on one side. -/
def State.sideBytes (s : State) (u : Unit) (t : Nat) (c : CapReg) (off n : Nat) (right : BitVec 3) (poisonToo : Bool) :
    Except Snag (List (Nat × Nat)) :=
  (List.range n).mapM fun i =>
    let adr := c.base + off + i
    match s.sideKey u t c adr right with
    | .error e => .error e
    | .ok k => match s.lineSnag t c.space adr k poisonToo with
      | some e => .error e
      | none => .ok (k, adr)

/-- A source byte after the check of its word (R289). -/
def State.checkedByte (s : State) (space key adr : Nat) : Except Snag Byte :=
  match checkWord (s.mem.word (wordKey key)) with
  | some (w, _) => .ok (wordByte w (key % 4))
  | none => .error (.fail (checkFail space adr))

/-- The bytes that one element writes (R286, R288). -/
def State.elemBytes (s : State) (u : Unit) (t : Nat) (p : XPlan) (rmode : Word) (e : Nat × Nat) :
    Except Snag (List MoveByte) := do
  let src ← s.sideBytes u t p.src e.1 p.srcSize rightR true
  let dst ← match p.fifo with
    | some _ => pure ((List.range p.dstSize).map fun i => (e.2 + i, e.2 + i))
    | none => s.sideBytes u t p.dst e.2 p.dstSize rightW false
  let sf := if p.tpl.atTo then p.lay.conv else p.lay.fmt
  let df := if p.tpl.atTo then p.lay.fmt else p.lay.conv
  match floatCode sf, floatCode df with
  | some a, some b =>
    if sf == df then
      pure (dst.zipWith (fun d q => { key := d.1, adr := d.2, src := some q, val := 0, made := [] }) src)
    else do
      let bs ← src.mapM fun q => s.checkedByte p.src.space q.1 q.2
      let r := roundOf rmode none
      let v := (cvtff b r (fread a r.daz (natOfBytes bs))).1
      let made := src.foldl (fun l q => insNat l (wordKey q.1)) []
      pure (dst.zipWith (fun d y => { key := d.1, adr := d.2, src := none, val := y, made := made }) (bytesOfNat p.dstSize v))
  | _, _ => pure (dst.zipWith (fun d q => { key := d.1, adr := d.2, src := some q, val := 0, made := [] }) src)

/-- The keys of the words that bytes write, rising. -/
def moveWords (bs : List MoveByte) : List Nat := bs.foldl (fun l b => insNat l (wordKey b.key)) []

/-- The byte that a movement writes at a key. -/
def byteAt (bs : List MoveByte) (k : Nat) : Option MoveByte := bs.reverse.find? fun b => b.key == k

/-- The source word that a destination word carries whole (R289): its four bytes, in place. -/
def carriedFrom (bs : List MoveByte) (k : Nat) : Option Nat :=
  match byteAt bs k with
  | some { src := some (q, _), .. } =>
    if q % 4 == 0 && ((List.range 4).all fun i => match byteAt bs (k + i) with
      | some { src := some (z, _), .. } => z == q + i
      | _ => false) then some q else none
  | _ => none

/-- The words that are checked to make the words of a movement (R289): of those that are not carried whole, the sources, and
the old word where one is merged. -/
def movedChecks (p : XPlan) (bs : List MoveByte) : List Nat :=
  ((moveWords bs).filter fun k => (carriedFrom bs k).isNone).foldl (fun l k =>
    let l1 := if p.fifo.isNone && ((List.range 4).any fun i => (byteAt bs (k + i)).isNone) then insNat l k else l
    (List.range 4).foldl (fun l i => match byteAt bs (k + i) with
      | some b => (b.made ++ (b.src.map fun q => wordKey q.1).toList).foldl insNat l
      | none => l) l1) []

/-- Count and log the corrections that a movement makes (R195, R289). -/
def State.noteMove (s : State) (p : XPlan) (core : Nat) (bs : List MoveByte) : State :=
  (movedChecks p bs).foldl (fun t k => t.noteFix core k (corrected (s.mem.word k))) s

/-- One destination word (R289): carried with its code where its four bytes are those of one source word in place;
otherwise made from checked bytes, merged with the old word where the request writes only part of it. -/
def State.moveWord (s : State) (p : XPlan) (bs : List MoveByte) (k : Nat) : Except Snag (Nat × Reg) :=
  let at' (i : Nat) : Option MoveByte := byteAt bs (k + i)
  let bytes := (List.range 4).map at'
  match carriedFrom bs k with
  | some q => .ok (k, s.mem.word q)
  | none => do
    let old ←
      if p.fifo.isNone && bytes.any Option.isNone then
        match bs.find? fun b => wordKey b.key == k with
        | some b => (List.range 4).mapM fun i => s.checkedByte p.dst.space (k + i) (b.adr - (b.key - k) + i)
        | none => pure [0, 0, 0, 0]
      else pure [0, 0, 0, 0]
    let new ← (List.range 4).mapM fun i => match at' i with
      | some { src := some (q, adr), .. } => s.checkedByte p.src.space q adr
      | some b => pure b.val
      | none => pure (old.getD i 0)
    pure (k, fresh (wordOf4 (new.getD 0 0) (new.getD 1 0) (new.getD 2 0) (new.getD 3 0)))

/-- Whether every byte of a line is written. -/
def coversLine (bs : List MoveByte) (n : Nat) : Bool :=
  (List.range 64).all fun i => bs.any fun b => b.key == 64 * n + i

/-- The poisoned line that a movement would write in part (R198, R294). -/
def State.poisonSnag (s : State) (p : XPlan) (bs : List MoveByte) : Option Snag :=
  if p.fifo.isSome then none
  else (bs.find? fun b => tokenKey b.key && (s.line (b.key / 64)).poisoned && !coversLine bs (b.key / 64)).map fun b =>
    .fail (poisonAt p.dst.space b.adr)

/-- Everything a request writes, as bytes and as words. DESIGN CHOICE: log 30. -/
def State.movement (s : State) (u : Unit) (t : Nat) (p : XPlan) (rmode : Word) (es : List (Nat × Nat)) :
    Except Snag (List MoveByte × List (Nat × Reg)) := do
  let bs := (← es.mapM (s.elemBytes u t p rmode)).flatten
  match s.poisonSnag p bs with
  | some e => .error e
  | none => do
    let ws ← (moveWords bs).mapM (s.moveWord p bs)
    pure (bs, ws)

/-- The lines of spaces 0 and 5 among words. -/
def wordLines (ws : List (Nat × Reg)) : List Nat :=
  (ws.filter fun w => tokenKey w.1).foldl (fun l w => insNat l (w.1 / 64)) []

/-- Perform an engine's write of words: every line's tokens are gathered at its home, its poison ends where the write
covers it, and the core's own copy goes; words for the host leave as R197 says. DESIGN CHOICE: log 30. -/
def State.engineWrite (s : State) (core : Nat) (ws : List (Nat × Reg)) (covered : Nat → Bool) : State :=
  let s1 := (wordLines ws).foldl (fun s n =>
    ((((s.gatherHome n).dropL1 core n).showAll (64 * n) 64).countDie (homeDie n) 0x0109 64).modLine n fun l =>
      if covered n then { l with poisoned := false } else l) s
  let out := ws.filter fun w => hostMemKey w.1
  { s1.noteEgress core out with mem := (ws.foldl (fun m w => m.setWord w.1 w.2) s1.mem).sent out }

/-- The destination ranges of a movement, each with the bytes that it writes (R407): the runs of bytes at successive
addresses, in the movement's order. -/
def writeRuns (ws : List (Nat × Reg)) (bs : List MoveByte) : List (Nat × List Byte) :=
  bs.foldr (fun b l =>
    let v := wordByte ((((ws.find? fun w => w.1 == wordKey b.key).map fun w => w.2.val)).getD 0) (b.key % 4)
    match l with
    | (a, vs) :: rest => if a == b.adr + 1 then (b.adr, v :: vs) :: rest else (b.adr, [v]) :: l
    | [] => [(b.adr, [v])]) []

/-- The ranges that a unit's movement records: only a screened unit keeps a signature (R407). -/
def Unit.runs (u : Unit) (ws : List (Nat × Reg)) (bs : List MoveByte) : List (Nat × List Byte) :=
  if u.screened then writeRuns ws bs else []

/-- Perform an engine's write for fibres of a unit: a record for each destination range goes into the signature of the first
of them, in the request's place (R407); a shadow copy's words outside its own scratchpad stay with those fibres (R406). Each
granule may be seen or not until its notification is observed, but where a fibre's request is in the scoreboard (R13, R14). -/
def State.unitWrite (s : State) (u : Unit) (fids : List Nat) (seq space : Nat) (runs : List (Nat × List Byte))
    (ws : List (Nat × Reg)) (covered : Nat → Bool) : State :=
  let kept := ws.filter fun w => !u.phantom w.1
  let gone := ws.filter fun w => u.phantom w.1
  let store (w : Nat × Reg) : Req :=
    { (default : Req) with
      seq := seq, kind := .store (bytesOfWords [w.2]) [w.2.code], space := space, key := w.1, size := 4 }
  let s1 := runs.foldl (fun s e => s.sigWrite u (fids.headD 0) seq space e.1 e.2) s
  let s2 := fids.foldl (fun s n => s.modFibre u.key n fun f => { f with
    stroke := { f.stroke with stores := f.stroke.stores ++ gone.map store } }) s1
  let s3 := (if gone.isEmpty then s1 else s2).engineWrite u.core kept covered
  s3.lagWrite s.mem u.core (!fids.isEmpty) (kept.map (·.1))

/-- Count an engine's write of a unit into a barrier object; a shadow copy's into another unit's is not performed. -/
def State.unitCount (s : State) (u : Unit) (key granules : Nat) : State :=
  if u.phantom key then s else s.countInto key granules

/-! ### The end of a request -/

/-- The request of a core with a number. -/
def State.xreq? (s : State) (core id : Nat) : Option XReq :=
  (s.core? core).bind fun c => (c.loadQ ++ c.storeQ).find? fun r => r.id == id

/-- Change a request. -/
def State.modXReq (s : State) (core id : Nat) (f : XReq → XReq) : State :=
  s.modCore core fun c => { c with
    loadQ := updIf c.loadQ (fun r => r.id == id) f, storeQ := updIf c.storeQ (fun r => r.id == id) f }

/-- Raise a watermark over the finished requests that follow it (R302). -/
def raiseMark (n : Nat) (mark : Nat) (fin : List Nat) : Nat × List Nat :=
  match n with
  | 0 => (mark, fin)
  | n + 1 => if fin.contains (mark + 1) then raiseMark n (mark + 1) (fin.filter fun x => x != mark + 1) else (mark, fin)

/-- Note that a request of a template has finished. -/
def TplState.finish (t : TplState) (seq : Nat) : TplState :=
  let r := raiseMark (t.finished.length + 1) t.wmark (insNat t.finished seq)
  { t with wmark := r.1, finished := r.2 }

/-- The sequence number that a tag names among a template's requests (R302): the most recent no later than the last. -/
def TplState.named (t : TplState) (tag : Word) : Option Nat :=
  let low := (tag.extractLsb' 0 26).toNat
  let n := t.seq - (t.seq + 2 ^ 26 - low) % 2 ^ 26
  if low ≤ t.seq && n != 0 then some n else none

/-- Whether the request that a tag names has finished, or there is none (R302). -/
def Unit.tagDone (u : Unit) (tag : Word) : Bool :=
  let t := u.tplState (tag.extractLsb' 26 6).toNat
  match t.named tag with
  | none => true
  | some n => decide (n ≤ t.wmark) || t.finished.contains n

/-- End a request (R281, R290, R294, R303): it leaves its queue and the scoreboard, a lateness not yet taken goes with
it, and the fibres that wait for it look again. DEDUCED: log 52. -/
def State.finishX (s : State) (r : XReq) (d : XDone) : State :=
  match s.unit? r.unit with
  | none => s
  | some u =>
    let s1 := s.modCore u.core fun c => { c with
      loadQ := c.loadQ.filter fun x => x.id != r.id, storeQ := c.storeQ.filter fun x => x.id != r.id
      matrix := { c.matrix with fifos := c.matrix.fifos.map fun f => { f with
        filling := f.filling.filter fun e => e.1 != r.id } } }
    let s2 := (s1.freeRanges u.core r.id).modTpl u.key r.tmpl fun t => t.finish r.seq
    let s3 := s2.modUnit u.key fun u => { u with
      xdone := (u.xdone ++ [d]).drop (u.xdone.length + 1 - Config.keptRequests)
      fibres := u.fibres.map fun f => { f with faults := f.faults.filter fun e => !(e.cls == .late && e.req == some r.id) } }
    if s3.detOf u then s3
    else match s3.unit? u.key with
      | none => s3
      | some v => s3.wakeWhere fun w x => w.key == u.key && (match x with | .xwait tag => v.tagDone tag | _ => false)

/-- What XSTAT keeps of a request that ends. -/
def XReq.doneAs (r : XReq) (cancel : Bool) (fault : Byte) : XDone :=
  { tmpl := r.tmpl, seq := r.seq, late := r.late, cancel := cancel, fault := fault, ok := !cancel && fault == 0 }

/-- Write the part of a movement that precedes a free-chosen 64-byte boundary of its destination (R303): each block of 64
bytes is written whole or not at all. It says how many bytes it has written. -/
def State.writePart (s : State) (u : Unit) (r : XReq) (p : XPlan) (es : List (Nat × Nat)) : State × Nat :=
  if p.fifo.isSome then (s, 0)
  else match s.movement u r.tmpl p r.rmode es with
    | .error _ => (s, 0)
    | .ok (bs, _) =>
      let blocks := bs.foldl (fun (l : List Nat) b => if l.contains (b.key / 64) then l else l ++ [b.key / 64]) []
      let (n, s1) := s.draw
      let kept := blocks.take (Config.freeNat n % (blocks.length + 1))
      let cut := bs.filter fun b => kept.contains (b.key / 64)
      match (moveWords cut).mapM (s1.moveWord p cut) with
      | .error _ => (s1, 0)
      | .ok ws =>
        ((s1.noteMove p u.core cut).unitWrite u r.fid.toList r.id p.dst.space (u.runs ws cut) ws (coversLine cut), cut.length)

/-- What a request comes to now, with the capabilities it was accepted with. -/
def Unit.xplanOf (u : Unit) (r : XReq) : Option XPlan :=
  match (u.templates[r.tmpl]?).bind tplOf with
  | none => none
  | some tp => match (u.layouts[tp.lay]?).bind layOf with
    | none => none
    | some l =>
      let fifo := refFifoNo tp.dstRef
      let move (e : Nat × Nat) : Nat × Nat :=
        if tp.atTo then (tp.off + e.2, e.1) else (e.1, if fifo.isSome then e.2 else tp.off + e.2)
      some { tpl := tp, lay := l, src := r.src, dst := r.dst, fifo := fifo
             elems := (l.elems tp.atTo (r.x0.toInt, r.x1.toInt, r.x2.toInt)).map move }

/-- Whether a request is one of the four that its queue moves. -/
def Core.moving (c : Core) (r : XReq) : Bool := ((c.xqueue r.store).take Config.movingEntries).any fun x => x.id == r.id

/-! ### When a request may move (R13, R279, R295) -/

/-- Whether an earlier entry of the scoreboard holds a holder's ranges back (R13). -/
def Core.heldBack (c : Core) (who : Nat) : Bool :=
  let mine := c.scoreboard.filter fun e => e.who == who
  let before := c.scoreboard.takeWhile fun e => e.who != who
  mine.any fun e => before.any fun b => overlaps e.lo (e.hi - e.lo) b.lo (b.hi - b.lo) && (e.write || b.write)

/-- Whether the fibre's own earlier stores and atomics to its scratchpad have been performed (R295 note 5). -/
def Unit.ownDone (u : Unit) (fid : Option Nat) (id : Nat) : Bool :=
  match fid.bind u.fibre? with
  | some f => f.outst.all fun r => !(decide (r.seq < id) && scratchCore r.key == some u.core)
  | none => true

/-- Whether a request moves its bytes. -/
def Unit.mayMove (u : Unit) (c : Core) (r : XReq) : Bool :=
  c.moving r && r.fault.isNone && !r.written && !c.heldBack r.id && u.ownDone r.fid r.id

/-- Cancel one request (R303): one that moves stops at a boundary; one that does not move yet writes nothing. -/
def State.cancelX (s : State) (core : Nat) (r : XReq) : State :=
  match s.core? core, s.unit? r.unit with
  | some c, some u =>
    let s1 := match u.xplanOf r with
      | some p => if u.mayMove c r then (s.writePart u r p p.elems).1 else s
      | none => s
    s1.finishX r (r.doneAs true 0)
  | _, _ => s

end Sys2Proof.Machine
end

