-- ==== Sys2Proof/Machine/Contain.lean ====
section
/-! DEFINITION. How a unit, a gang and a launch end (spec 17 R369 to R372, 18 R398, R402, R403): what leaves the engines
with a unit, the failure and the cancel of a launch, and the kill of a gang. -/

namespace Sys2Proof.Machine

/-! ### What a unit holds elsewhere -/

/-- Cancel a unit's transfer requests (R303, R372, R403). -/
def State.dropTransfers (s : State) (u : Unit) : State :=
  match s.core? u.core with
  | none => s
  | some c => ((c.loadQ ++ c.storeQ).filter fun r => r.unit == u.key).foldl (fun s r => s.cancelX u.core r) s

/-- The target of a drain: gang, unit in the gang, tile and rank (R323). -/
def Drain.target (d : Drain) : Nat × Nat × Nat × Nat :=
  ((d.desc.extractLsb' 32 24).toNat, (d.desc.extractLsb' 13 3).toNat, (d.desc.extractLsb' 8 5).toNat,
    (d.desc.extractLsb' 0 8).toNat)

/-- The resident target unit of a drain; a shadow copy's drains stay within its copy (R407). -/
def State.drainUnit (s : State) (d : Drain) : Option Unit :=
  s.units.find? fun u => u.launch == d.launch && u.gang == d.target.1 && u.idx == d.target.2.1 && u.shadow == d.shadow

/-- Whether a drain of a unit that is on its way keeps a later one of a team from being sent: it is of the team, or its sender's
engine holds it (R323, R325). -/
def Drain.comesFirst (q : Drain) (unit team : Nat) : Bool := !q.buffered && q.sender == unit && (q.team == team || q.held)

/-- Whether an earlier drain of the same sender keeps one from being sent. -/
def State.drainBehind (s : State) (d : Drain) : Bool :=
  !d.buffered && (s.drains.takeWhile fun q => q.num != d.num).any fun q => q.comesFirst d.sender d.team

/-- Whether a drain that has been read has not been sent (R323, R325): it is held back, its target is not resident, or an
earlier one of its sender keeps it. -/
def State.unsent (s : State) (d : Drain) : Bool :=
  !d.buffered && (d.held || (s.drainUnit d).isNone || s.drainBehind d)

/-- Drop a unit's drains that have not been sent (R372, R398, R403): those that the target holds back, those whose target
is not resident, and those behind them. -/
def State.dropDrains (s : State) (u : Unit) : State :=
  { s with drains := s.drains.filter fun d => !(d.sender == u.key && s.unsent d) }

/-- Remove a unit's posts that a port has not sent, with the scoreboard entries of their slots. -/
def State.dropPosts (s : State) (u : Unit) : State :=
  let nums := ((s.wire.ports.flatMap Port.posts).filter fun p => p.unit == u.key).map Post.sb
  let cut (p : Port) : Port := { p with posts := p.posts.filter fun x => x.unit != u.key }
  let s1 := { s with wire := { s.wire with ports := s.wire.ports.map cut } }
  (s1.modCore u.core fun c => { c with scoreboard := c.scoreboard.filter fun e => !nums.contains e.who }).wakeRanges u.core

/-- Unbind a unit's ring and aperture channel (R338, R282). -/
def State.unbind (s : State) (u : Unit) : State :=
  let free (r : Ring) : Ring := { r with unit := none, slots := [], landings := [] }
  let s1 := { s with wire := { s.wire with rings := updIf s.wire.rings (fun r => r.unit == some u.key) free } }
  s1.modCore u.core fun c => { c with channels := c.channels.filter fun e => e.2 != u.key }

/-- A unit's matrix engine loses its contents with its owner (R306, R332). -/
def State.dropMatrix (s : State) (u : Unit) : State :=
  s.modCore u.core fun c => if c.matrix.owner == some u.key then { c with matrix := Matrix.reset } else c

/-- Take a unit off its core: every fibre, request and binding goes, and its allocation ends. -/
def State.removeUnit (s : State) (u : Unit) : State :=
  let s1 := ((((s.dropTransfers u).dropDrains u).dropPosts u).unbind u).dropMatrix u
  let s2 := { s1 with
    units := s1.units.filter fun v => v.key != u.key
    issuing := s1.issuing.filter fun e => e.1 != u.key
    cores := s1.cores.map fun c => { c with
      batches := c.batches.map fun b => { b with fibres := b.fibres.filter fun e => e.1 != u.key }
      rows := if c.idx == u.core then c.rows.map (PartRows.without u.seats) else c.rows
      records := c.records.map fun r => { r with covers := r.covers.filter fun e => e.1 != u.key } } }
  if s2.units.any fun v => v.launch == u.launch && v.gang == u.gang && v.shadow == u.shadow then s2
  else { s2 with gangs := s2.gangs.filter fun g => !(g.launch == u.launch && g.idx == u.gang && g.shadow == u.shadow) }

/-- How long a unit has been resident, what its gang was before it was banked included (R396). -/
def State.residentFor (s : State) (u : Unit) : Nat :=
  let g := s.gangs.find? fun g => g.launch == u.launch && g.idx == u.gang && g.shadow == u.shadow
  s.time - u.dispatched + ((g.map Gang.resident).getD 0)

/-- A unit has left for good, complete or ended (R369, R371). -/
def State.finishUnit (s : State) (u : Unit) (how : UnitEnd) : State :=
  let s1 := s.removeUnit u
  if u.shadow then s1
  else s1.modLaunch u.launch fun l => { l with
    ends := l.ends ++ [{ no := u.no, how := how, fibres := u.ended, resident := s.residentFor u, front := u.usedFront }]
    done := if how == .complete then l.done + 1 else l.done }

/-! ### Failure and cancel (R372, R402) -/

/-- End every fibre of a launch that is parked on a trap record (R402). DEDUCED: log 23. -/
def State.endTrapped (s : State) (l : Nat) : State :=
  let covered (u : Unit) (f : Fibre) : Bool := u.launch == l && f.live &&
    (match f.wait with | some (.trapped _ _ _) => true | some .record => true | _ => false)
  { s with
    units := s.units.map fun u => { u with
      fibres := u.fibres.map fun f => if covered u f then f.end else f
      ended := u.ended + u.fibres.countP (covered u) }
    cores := s.cores.map fun c => { c with records := c.records.map fun r => { r with
      covers := r.covers.filter fun e => ((s.unit? e.1).map fun u => u.launch != l).getD true } } }

/-- Abandon the banking of a gang, or of every gang of a launch (R436). -/
def State.dropJobs (s : State) (launch : Nat) (gang : Option Nat) : State :=
  let hit (j : BankJob) : Bool := j.launch == launch && (match gang with | some g => j.gangs.contains g | none => true)
  { s with
    bank := { s.bank with jobs := s.bank.jobs.filter fun j => !hit j }
    gangs := s.gangs.map fun g =>
      if g.launch == launch && (s.bank.jobs.any fun j => hit j && j.gangs.contains g.idx) then { g with banking := 0 } else g }

/-- A unit that is dropped before it has started (R372). -/
def droppedUnit (no : Nat) : UnitDone := { no := no, how := .dropped, fibres := 0, resident := 0, front := false }

/-- Drop the units of a launch that have not started, and let the running ones end at their next bank points (R372): what
pre-emption was doing to its gangs is over (R404). -/
def State.endUnits (s : State) (key : Nat) : State :=
  let s1 := s.modLaunch key fun l =>
    let gone := l.ends.map UnitDone.no
    let here := (s.units.filter fun u => u.launch == key && !u.shadow).map Unit.no
    let rest := (List.range l.part.grid).filter fun n => !gone.contains n && !here.contains n
    { l with
      nextUnit := l.part.grid, returned := [], conts := [], banked := []
      ends := l.ends ++ rest.map droppedUnit }
  let s2 := s1.dropJobs key none
  { s2 with
    units := updIf s2.units (fun u => u.launch == key) fun u => { u with ending := true, next := none }
    gangs := updIf s2.gangs (fun g => g.launch == key) fun g => { g with drainTill := none } }

/-- A launch fails: the first cause stands, and fibres that a later record covers are ended (R402).
DEDUCED: log 23. -/
def State.failLaunch (s : State) (key : Nat) (cause : Byte) (arg : Word) : State :=
  match s.launch? key with
  | none => s
  | some l =>
    if l.stage == .done || l.stage == .settled || l.stage == .posting then s
    else if l.failed then s.endTrapped key
    else
      let s1 := s.modLaunch key fun l => { l with failed := true, cause := cause, errArg := arg }
      (s1.endTrapped key).endUnits key

/-- A launch is cancelled (R372). -/
def State.cancelLaunch (s : State) (key : Nat) : State :=
  match s.launch? key with
  | none => s
  | some l =>
    if l.stage == .done || l.stage == .settled || l.stage == .posting then s
    else (s.modLaunch key fun l => { l with cancelled := true }).endUnits key

/-! ### Bank points (R415) -/

/-- Whether an instruction's wait for acceptance, or for room in a ring, is a wait point (R415). -/
def waitsAtPoint : Instr → Bool
  | .xfer .. => true
  | .txpost .. => true
  | .txpostTs2 .. => true
  | .txpostTs1 .. => true
  | .hpost .. => true
  | _ => false

/-- Whether a wait is at a wait point (R415), where it is not at a team instruction whose team has converged; a fibre at the
end of a DET round counts too (R418).
DEDUCED: log 43. -/
def Wait.atPoint : Wait → Bool
  | .team _ _ => true
  | .barrier _ _ => true
  | .monitor _ _ _ => true
  | .sleep _ _ => true
  | .xwait _ => true
  | .tsrec _ => true
  | .accept i _ => waitsAtPoint i
  | .stroke _ => true
  | .stopped => true
  | _ => false

/-- Whether a fibre stands before the instruction of a marked slot (R39, R40, R415). -/
def State.onMark (s : State) (u : Unit) (f : Fibre) : Bool :=
  f.wait.isNone && !f.again &&
    (match s.fetchLine (s.ctxOf u) f.pc with
      | .ok l => decide (slotOfPc f.pc ≤ l.lastSlot) && l.marked (slotOfPc f.pc)
      | .error _ => false)

/-- Whether it stands there with no result in flight (R56, R415). -/
def State.atMark (s : State) (u : Unit) (f : Fibre) : Bool := s.onMark u f && f.pending.isEmpty

/-- Whether a live fibre stands at a bank point (R415). DEDUCED: log 43. -/
def State.atBankPoint (s : State) (u : Unit) (f : Fibre) : Bool :=
  match f.wait with
  | some (.team _ _) => !u.gathered (f.fid / u.desc.team)
  | some w => w.atPoint
  | none => s.atMark u f

/-- End the fibres of an ending unit that stand at bank points (R372). -/
def State.endAtPoints (s : State) (u : Unit) : State :=
  let gone (f : Fibre) : Bool := f.live && s.atBankPoint u f
  s.modUnit u.key fun v => { v with
    fibres := v.fibres.map fun f => if gone f then f.end else f
    ended := v.ended + v.fibres.countP gone }

/-! ### The kill of a gang (R403, R404) -/

/-- The units of a gang. -/
def State.gangUnits (s : State) (launch gang : Nat) : List Unit :=
  s.units.filter fun u => u.launch == launch && u.gang == gang

/-- The contributions that wait in the reduction buffers of a gang's units, or have been sent to them, are lost with the
reductions (R332); one that its sender holds stays with it. -/
def State.loseContribs (s : State) (launch gang : Nat) : State :=
  { s with drains := s.drains.filter fun d =>
      !((s.drainUnit d).any fun u => u.launch == launch && u.gang == gang) || s.unsent d }

/-- Take a whole gang off its cores at once, with the faults of its ended fibres. -/
def State.removeGang (s : State) (launch gang : Nat) : State :=
  let mine (t : LateTrap) : Bool := (s.gangUnits launch gang).any fun u => u.key == t.unit
  let clear (c : Core) : Core := { c with lateTraps := c.lateTraps.filter fun t => !mine t }
  let s : State := { s with cores := s.cores.map clear }.loseContribs launch gang
  (s.gangUnits launch gang).foldl (fun s u => match s.unit? u.key with | some v => s.removeUnit v | none => s) s

/-- Put the units of a gang back at the head of the unstarted units (R398, R403): the completions of those that had
retired are withdrawn, with the signatures kept of them (R407); a unit that a cancel has dropped or ended stays so (R372). -/
def Launch.returnGang (l : Launch) (gang : Nat) : Launch :=
  let mine (n : Nat) : Bool := n / max l.part.gang 1 == gang
  { l with
    returned := insNat l.returned gang
    conts := l.conts.filter fun n => !mine n.1
    done := l.done - (l.ends.countP fun e => mine e.no && e.how == .complete)
    ends := l.ends.filter fun e => !(mine e.no && e.how == .complete)
    screens := l.screens.filter fun e => !mine e.1 }

/-- Keep rings for a launch: their units did not retire, and are to be started again (R338). -/
def State.keepRings (s : State) (rings : List Nat) (launch : Nat) : State :=
  { s with wire := { s.wire with
      rings := updIf s.wire.rings (fun r => rings.contains r.idx) fun r => { r with reserved := some launch } } }

/-- Kill a gang (R403): it is relaunched where the launch is gang-idempotent without DET and neither it nor a unit of the gang
is being cancelled (R404), at most three times; otherwise the launch fails. -/
def State.killGang (s : State) (launch gang : Nat) (cause : Byte) (arg : Word) : State :=
  match s.launch? launch with
  | none => s.removeGang launch gang
  | some l =>
    let had := (s.gangUnits launch gang).filter fun u => !u.shadow
    let s1 := (s.dropJobs launch (some gang)).removeGang launch gang
    let ended := s1.modLaunch launch fun l => { l with
      kills := tset l.kills gang ((tget l.kills gang).getD 0 + 1)
      ends := l.ends ++ had.map fun u =>
        { no := u.no, how := .ended, fibres := u.ended, resident := s.residentFor u, front := u.usedFront } }
    let kills := (tget l.kills gang).getD 0
    if l.failed then ended
    else if l.cancelled || had.any Unit.ending then ended.failLaunch launch cause arg
    else if l.part.gangIdem && !l.det then
      if Config.maxRelaunch ≤ kills then
        ended.failLaunch launch 0x6A (BitVec.ofNat 32 (gang * 256) ||| cause.setWidth 32)
      else (s1.keepRings (had.filterMap Unit.ring) launch).modLaunch launch fun l =>
        let r := l.returnGang gang
        { r with
          kills := tset l.kills gang (kills + 1)
          shun := match had.head? with | some u => tset l.shun gang (clusterOf u.core) | none => l.shun }
    else ended.failLaunch launch cause arg

/-- The fault of an aperture request, which no fibre takes (R294): it is logged by firmware core 4, an ordinary cause fails
the launch, and a containment cause kills the gang. DEDUCED: log 22. -/
def State.orphan (s : State) (u : Unit) (t : TrapInfo) : State :=
  let s1 := s.logRec 4 t.cause t.arg u.no
  if containment t.cause then s1.killGang u.launch u.gang t.cause t.arg else s1.failLaunch u.launch t.cause t.arg

/-- Who made a request of an engine: the fibre, the instruction's PC and the cycle of acceptance. -/
structure Asker where
  fid : Nat
  pc : BitVec 57
  made : Nat
  deriving DecidableEq, Repr

/-- The fibre that issues, as the maker of a request it makes now. -/
def Ctx.asker (x : Ctx) : Asker := { fid := x.f.fid, pc := x.f.pc, made := x.f.stamp }

/-- Record an engine's fault against the fibre that asked; where it has ended, the fault goes beyond the core (R294, R333,
R355, R381, R400). -/
def State.engineFault (s : State) (u : Unit) (by' : Option Asker) (cls : FaultClass) (t : TrapInfo) : State :=
  match by' with
  | none => s.orphan u t
  | some a =>
    if (u.fibre? a.fid).any fun f => f.owns a.made then
      s.modFibre u.key a.fid fun f => { f with
        faults := f.faults ++ [{ cls := cls, cause := t.cause, arg := t.arg, addr := t.addr, req := none }] }
    else s.lateTrap u a.fid a.pc t

end Sys2Proof.Machine
end

