-- ==== Sys2Proof/Machine/Transfer.lean ====
section
/-! DEFINITION. The transfer engine (spec 14 R278 to R305): completion, stamps, faults and lateness of its requests, the
aperture, and the instructions 0xC0 to 0xC5. -/

namespace Sys2Proof.Machine

/-! ### Faults (R294) -/

/-- Who made a transfer request; none for one through the aperture. -/
def XReq.asker (r : XReq) : Option Asker := r.fid.map fun n => { fid := n, pc := r.pc, made := r.accepted }

/-- End a request in a fault (R294): what it wrote before is a free-chosen part; one that did not move yet wrote nothing. -/
def State.failX (s : State) (core : Nat) (r : XReq) (t : TrapInfo) : State :=
  match s.unit? r.unit with
  | none => s
  | some u =>
    let moves := ((s.core? core).map fun c => u.mayMove c { r with fault := none }).getD false
    let s1 := match u.xplanOf r with
      | some p =>
        if !moves then s
        else (s.writePart u r p (p.elems.takeWhile fun e => match s.elemBytes u r.tmpl p r.rmode e with
          | .ok _ => true
          | .error _ => false)).1
      | none => s
    (s1.finishX r (r.doneAs false t.cause)).engineFault u r.asker .transfer t

/-- A snag of a request: a page fault makes it wait for firmware core 3; anything else ends it (R294). -/
def State.snagX (s : State) (core : Nat) (r : XReq) (e : Snag) : State :=
  match e with
  | .page space adr =>
    (s.modXReq core r.id fun x => { x with fault := some (space * 2 ^ 64 + adr) }).logRec 3 0x24 (BitVec.ofNat 32 (adr / 65536)) adr
  | .fail t => s.failX core r t

/-- Count a request's bytes into the object its template names (R290, R294). -/
def State.countX (s : State) (u : Unit) (r : XReq) (p : XPlan) (bytes : Nat) : Except TrapInfo State :=
  let into (key space adr : Nat) : Except TrapInfo State :=
    match s.mem.badWord key 8 with
    | some k => .error (checkFail space (adr + (k - key)))
    | none => .ok (s.unitCount u key ((bytes + 15) / 16))
  match p.tpl.sync with
  | 1 => into (keyScratch u.core (u.allocBase + p.tpl.syncOff)) 1 p.tpl.syncOff
  | 2 => match s.gangUnit u (p.tpl.syncOff / 2097152) with
    | some v => into (keyScratch v.core (v.allocBase + p.tpl.syncOff % 2097152)) 2 p.tpl.syncOff
    | none => .error (xfault 4 r.tmpl)
  | _ => .ok s

/-- A request has written its bytes: it counts them, or waits to write its stamp, and has finished otherwise. -/
def State.paidX (s : State) (u : Unit) (core : Nat) (r : XReq) (p : XPlan) : State :=
  if p.tpl.sync = 3 then s.modXReq core r.id fun x => { x with written := true }
  else match s.countX u r p (p.elems.length * p.dstSize) with
    | .ok s1 => s1.finishX r (r.doneAs false 0)
    | .error t => (s.finishX r (r.doneAs false t.cause)).engineFault u r.asker .transfer t

/-! ### Completion (R290, R291) -/

/-- The FIFO a request pushes. -/
def State.pushOf (s : State) (r : XReq) : Option Nat := (s.unit? r.unit).bind fun u => (u.xplanOf r).bind XPlan.fifo

/-- Whether an earlier push of a FIFO has no slots yet (R290). -/
def State.pushBehind (s : State) (c : Core) (r : XReq) (f : Nat) (held : FifoState) : Bool :=
  c.loadQ.any fun x => decide (x.id < r.id) && s.pushOf x == some f && !(held.filling.any fun e => e.1 == x.id)

/-- TRANSFER_COMPLETE (R290): the request's bytes are performed and counted. A push takes its slots here, in acceptance
order (R290, R311); FIFO_PUSH_COMPLETE fills them. -/
def execTransferComplete (core req : Nat) (s : State) : Host.Outcome State Fault Refusal :=
  match s.core? core, s.xreq? core req with
  | some c, some r => match s.unit? r.unit with
    | none => .next s
    | some u => match u.xplanOf r with
      | none => .next s
      | some p =>
        if !u.mayMove c r then .next s
        else match p.fifo with
          | some f =>
            let h := s.fifo core f
            let need := tileSlots p.lay.tileBytes
            if (h.filling.any fun e => e.1 == req) || s.pushBehind c r f h || decide (h.free < need) then .next s
            else .next (s.modCore core fun c => { c with matrix := { c.matrix with fifos := updAt c.matrix.fifos f fun h =>
              { h with filling := h.filling ++ [(req, need)] } } })
          | none => match s.movement u r.tmpl p r.rmode p.elems with
            | .error e => .next (s.snagX core r e)
            | .ok (bs, ws) =>
              .next (((s.noteMove p core bs).unitWrite u r.fid.toList r.id p.dst.space (u.runs ws bs) ws (coversLine bs)).paidX
                u core r p)
  | _, _ => .next s

/-- FIFO_PUSH_COMPLETE (R290, R311): the oldest push that holds slots fills them, and its tile is READY. -/
def execFifoPushComplete (core req : Nat) (s : State) : Host.Outcome State Fault Refusal :=
  match s.core? core, s.xreq? core req with
  | some c, some r => match s.unit? r.unit with
    | none => .next s
    | some u => match u.xplanOf r with
      | none => .next s
      | some p => match p.fifo with
        | none => .next s
        | some f =>
          let h := s.fifo core f
          if !u.mayMove c r || (h.filling.head?.map (·.1)) != some req then .next s
          else match s.movement u r.tmpl p r.rmode p.elems with
            | .error e => .next (s.snagX core r e)
            | .ok (bs, ws) =>
              let tile : FifoTile := { num := h.nextNum, size := p.lay.tileBytes, words := ws.map (·.2) }
              let s1 := s.modCore core fun c => { c with matrix := { c.matrix with fifos := updAt c.matrix.fifos f fun h =>
                { h with filling := h.filling.drop 1, readyT := h.readyT ++ [tile], nextNum := h.nextNum + 1 } } }
              .next ((s1.noteMove p core bs).paidX u core r p)
  | _, _ => .next s

/-- Whether a stamp of the template is still due from an earlier request (R291). -/
def Core.stampBehind (c : Core) (r : XReq) : Bool :=
  (c.loadQ ++ c.storeQ).any fun x => x.unit == r.unit && x.tmpl == r.tmpl && decide (x.seq < r.seq)

/-- SEQUENCE_STAMP_WRITE (R291). -/
def execSequenceStampWrite (core req : Nat) (s : State) : Host.Outcome State Fault Refusal :=
  match s.core? core, s.xreq? core req with
  | some c, some r => match s.unit? r.unit with
    | none => .next s
    | some u => match u.xplanOf r with
      | none => .next s
      | some p =>
        let adr := p.dst.base + p.tpl.syncOff
        if !r.written || r.fault.isSome || c.stampBehind r then .next s
        else if u.shadow then .next (s.finishX r (r.doneAs false 0))
        else match s.sideKey u r.tmpl p.dst adr rightW with
          | .error e => .next (s.snagX core r e)
          | .ok k => match s.lineSnag r.tmpl p.dst.space adr k true with
            | some e => .next (s.snagX core r e)
            | none =>
              let v := regs64 (BitVec.ofNat 64 r.seq)
              let ws := [(k, v.getD 0 Reg.zero), (k + 4, v.getD 1 Reg.zero)]
              .next ((s.showEngines.engineWrite core ws fun _ => false).finishX r (r.doneAs false 0))
  | _, _ => .next s

/-! ### Faults, pages and lateness (R293, R294) -/

/-- Whether a failure can befall a request. -/
def XReq.canFail (r : XReq) (why : XferFail) : Bool :=
  match why with
  | .pageRefused => r.fault.isSome
  | .hostError => r.src.space == 4 || r.dst.space == 4
  | .peerEnded => r.src.space == 2 || r.dst.space == 2
  | _ => true

/-- The trap of a failure (R294). -/
def failTrap (why : XferFail) (t space : Nat) : TrapInfo :=
  match why with
  | .pageRefused => xfault 1 t
  | .lostLine => xfault 2 t
  | .hostError => xfault 3 t
  | .peerEnded => xfault 4 t
  | .checkfail a => checkFail space a.toNat
  | .poison a => poisonAt space a.toNat

/-- TRANSFER_FAULT (R294). -/
def execTransferFault (core req : Nat) (why : XferFail) (s : State) : Host.Outcome State Fault Refusal :=
  match s.xreq? core req with
  | some r => if r.canFail why then .next (s.failX core r (failTrap why r.tmpl r.src.space)) else .next s
  | none => .next s

/-- TRANSFER_PAGE_RESUME (R294): the page is mapped, and the request continues. -/
def execTransferPageResume (core req : Nat) (s : State) : Host.Outcome State Fault Refusal :=
  match s.xreq? core req with
  | some r => match r.fault, s.unit? r.unit with
    | some a, some u =>
      if (s.locate u (a / 2 ^ 64) (a % 2 ^ 64) 0).isSome then .next (s.modXReq core req fun x => { x with fault := none })
      else .next s
    | _, _ => .next s
  | none => .next s

/-- PROMISE_EXPIRY (R293): the fibre that takes XLATE is the one that asked (R66). -/
def execPromiseExpiry (core req : Nat) (s : State) : Host.Outcome State Fault Refusal :=
  match s.xreq? core req with
  | some r =>
    if r.late || decide (s.clk < r.promise) then .next s
    else
      let trap := match (s.unit? r.unit).bind fun u => u.xplanOf r with
        | some p => !p.tpl.count
        | none => false
      let s1 := (s.modXReq core req fun x => { x with late := true }).count core 0x000D 1
      match r.fid with
      | some n =>
        let live := ((s.unit? r.unit).bind fun u => u.fibre? n).any fun f => f.owns r.accepted
        if trap && live && !r.lateRaised then
          .next ((s1.modXReq core req fun x => { x with lateRaised := true }).modFibre r.unit n fun f => { f with
            faults := f.faults ++ [{ cls := .late, cause := 0x40, arg := r.tag, addr := none, req := some r.id }] })
        else .next s1
      | none => .next s1
  | none => .next s

/-! ### The aperture (R12, R282) -/

/-- Try to accept an aperture request; a refused template is logged against the channel (R282). `none` where it must
wait. -/
def State.tryAperture (s : State) (u : Unit) (a : ApStore) (behind : Bool) : Option State :=
  match s.xplan u a.xask.tmpl a.xask.x with
  | .error t => some (s.logRec 4 t.cause t.arg a.chan)
  | .ok p => if !s.xroom u p true || behind && s.xbehind u.core (p.store u) none then none else some (s.acceptX u a.xask p).1

/-- APERTURE_STORE (R12, R282). -/
def execApertureStore (core offset size : Nat) (data : DWord) (s : State) : Host.Outcome State Fault Refusal :=
  let bad := s.logRec 4 0x41 0 offset
  if size != 8 || offset % 8 != 0 || decide (512 ≤ offset) || data.extractLsb' 6 10 != 0 then .next bad
  else match s.core? core with
    | none => .next bad
    | some c => match (c.channels.find? fun e => e.1 == offset / 8).bind fun e => s.unit? e.2 with
      | none => .next bad
      | some u =>
        let a : ApStore := { seq := s.seqCtr, chan := offset / 8, unit := u.key, word := data }
        match s.tryAperture u a true with
        | some s1 => .next s1
        | none => .next { (s.modCore core fun c => { c with apWait := c.apWait ++ [a] }) with seqCtr := s.seqCtr + 1 }

/-! ### The instructions (R297 to R304) -/

/-- The reads of a coordinate pair. -/
def pairReads (field : Nat) (b : Option RSrc) : List Rd :=
  match b with
  | some r => groupReads field r.n.toNat 2 true
  | none => []

/-- The registers that a coordinate pair's L bit releases. -/
def pairLast (b : Option RSrc) : List Nat :=
  match b with
  | some r => r.lastRegs 2
  | none => []

/-- The form of `XFER` and `XPROM`. -/
def opXfer (c : Ctl) (d : VReg) (t : Src) (b : Option RSrc) (n : Nat) : Op :=
  { op0 c with
    reads := t.reads 1 false true ++ pairReads 2 b, last := t.lastRegs false ++ pairLast b, regs := dstRegs d n
    ends := 3, takes := [.transfer] }

/-- XFER (R298). -/
def execXfer (c : Ctl) (d : VReg) (t : Src) (b : Option RSrc) (s : State) : Host.Outcome State Fault Refusal :=
  s.issue (opXfer c d t b 3) fun x s =>
    let a := x.f.xask t b
    match s.xplan x.u a.tmpl a.x with
    | .error e => .trap e
    | .ok p =>
      if x.f.outst.any fun r => r.cls == .rel || r.cls == .ba then .wait s .fence
      else if !s.xroom x.u p false || (!x.f.served && s.xbehind x.u.core (p.store x.u) none) then
        .wait { s with seqCtr := s.seqCtr + 1 } (.accept (.xfer c d t b) s.seqCtr)
      else
        let (s1, r) := s.acceptX x.u a p
        .done (s1.modCur fun f =>
          f.pendRegs (x.f.slotOf d.toNat) (regs64 (BitVec.ofNat 64 r.promise) ++ [fresh r.tag]))

/-- The fibre of a core that is parked at an XFER whose acceptance has the sequence number given (R301). -/
def State.parkedXfer (s : State) (core n : Nat) : Option (Unit × Fibre) :=
  let at' (f : Fibre) : Bool := f.live && (match f.wait with | some (.accept (.xfer _ _ _ _) m) => m == n | _ => false)
  (s.units.filter fun u => u.core == core).findSome? fun u => (u.fibres.find? at').map fun f => (u, f)

/-- TRANSFER_ACCEPT (R279, R280): the request that waits with this number is accepted, once no earlier one waits for its
queue. -/
def execTransferAccept (core req : Nat) (s : State) : Host.Outcome State Fault Refusal :=
  let aps := ((s.core? core).map Core.apWait).getD []
  match aps.find? fun a => a.seq == req with
  | some a =>
    let gone := s.modCore core fun c => { c with apWait := c.apWait.filter fun x => x.seq != req }
    match s.unit? a.unit with
    | none => .next gone
    | some u =>
      match (s.xwaiters core).find? fun w => w.1 == req with
      | none => .next gone
      | some w =>
        if s.xbehind core w.2 (some req) then .next s
        else .next (match gone.tryAperture u a false with | some s1 => s1 | none => s)
  | none =>
    match s.parkedXfer core req with
    | none => .next s
    | some (u, f) => match f.wait with
      | some (.accept (.xfer c d t b) _) =>
        let a := f.xask t b
        let s1 := { s.modFibre u.key f.fid (fun f => { f with wait := none, served := true }) with cur := (u.key, f.fid) }
        match s.xplan u a.tmpl a.x with
        | .error _ => execXfer c d t b s1
        | .ok p => if s.xbehind core (p.store u) (some req) || !s.xroom u p false then .next s else execXfer c d t b s1
      | _ => .next s

/-- XPROM (R301). -/
def execXprom (c : Ctl) (d : VReg) (t : Src) (b : Option RSrc) (s : State) : Host.Outcome State Fault Refusal :=
  s.issue (opXfer c d t b 2) fun x s =>
    let a := x.f.xask t b
    match s.xplan x.u a.tmpl a.x with
    | .error e => .trap e
    | .ok p =>
      let (v, s1) := s.promise x.u p
      .done (s1.modCur fun f => f.pendRegs (x.f.slotOf d.toNat) (regs64 (BitVec.ofNat 64 v)))

/-- XTPL (R300). -/
def execXtpl (c : Ctl) (a : CSrc) (t : Src) (toSide : Bool) (s : State) : Host.Outcome State Fault Refusal :=
  let o : Op := { op0 c with
    reads := .cap 1 a.n true :: t.reads 2 false true, last := t.lastRegs false, ends := 3, takes := [.transfer] }
  s.issue o fun x s =>
    let v := x.f.cap a.n
    let n := (x.f.src32 t).toNat
    if !v.tag then .trap (trapOf 0x20 (a.n.setWidth 32))
    else if v.perms &&& permX == 0 then .trap (trapOf 0x22 (a.n.setWidth 32))
    else match (if n < 64 then (x.u.templates[n]?).bind tplOf else none) with
      | none => .trap (xtemplate 1 n)
      | some tp =>
        if ((x.u.layouts[tp.lay]?).bind layOf).isNone then .trap (xtemplate 1 n)
        else if refKind (if toSide then tp.dstRef else tp.srcRef) != 5 then .trap (xtemplate 8 n)
        else .done (s.modTpl x.u.key n fun y => if toSide then { y with to? := some v } else { y with from? := some v })

/-- Whether the fibre's earlier stores and atomics have all been performed (R295). -/
def Fibre.storesDone (f : Fibre) : Bool := f.outst.all fun r => r.cls == .none

/-- XWAIT (R302). -/
def execXwait (c : Ctl) (a : Src) (s : State) : Host.Outcome State Fault Refusal :=
  s.issue { op1 c a false true [] with ends := 5, takes := [.transfer] } fun x s =>
    let tag := x.f.src32 a
    if !x.u.tagDone tag then .wait s (.xwait tag)
    else if !x.f.storesDone && ((x.u.tplState (tag.extractLsb' 26 6).toNat).named tag).isSome then .wait s .fence
    else .done s

/-- Whether a push of a request is in progress (R303). -/
def State.pushing (s : State) (core : Nat) (r : XReq) : Bool :=
  (List.range 8).any fun f => (s.fifo core f).filling.any fun e => e.1 == r.id

/-- XCANCEL (R303). -/
def execXcancel (c : Ctl) (d : VReg) (a : Src) (s : State) : Host.Outcome State Fault Refusal :=
  s.issue { op1 c a false true (dstRegs d 1) with ends := 3, takes := [.transfer] } fun x s =>
    let tag := x.f.src32 a
    let all := ((s.core? x.u.core).map fun c => c.loadQ ++ c.storeQ).getD []
    let mine := all.filter fun r => r.unit == x.u.key && !s.pushing x.u.core r &&
      (tag == 0xFFFFFFFF || (r.tmpl == (tag.extractLsb' 26 6).toNat && (x.u.tplState r.tmpl).named tag == some r.seq))
    let s1 := mine.foldl (fun s r => s.cancelX x.u.core r) s
    .done (s1.modCur fun f => f.pendRegs (x.f.slotOf d.toNat) [fresh (BitVec.ofNat 32 mine.length)])

/-- Whether a push waits for FREE slots of its FIFO (R304, R329). -/
def State.slotWait (s : State) (c : Core) (r : XReq) : Bool :=
  match s.pushOf r with
  | none => false
  | some f =>
    let h := s.fifo c.idx f
    let need := match (s.unit? r.unit).bind fun u => u.xplanOf r with
      | some p => tileSlots p.lay.tileBytes
      | none => 1
    c.moving r && !(h.filling.any fun e => e.1 == r.id) && (decide (h.free < need) || s.pushBehind c r f h)

/-- The state word of XSTAT (R304). -/
def State.xstate (s : State) (c : Core) (u : Unit) (tag : Word) : Word :=
  let t := (tag.extractLsb' 26 6).toNat
  let occ := c.storeQ.length * 2 ^ 24 + c.loadQ.length * 2 ^ 16
  let n := (u.tplState t).named tag
  match (c.loadQ ++ c.storeQ).find? fun r => r.unit == u.key && r.tmpl == t && some r.seq == n with
  | some r =>
    let st := if s.slotWait c r then 3 else if c.moving r then 2 else 1
    BitVec.ofNat 32 (occ + (if r.late then 4 else 0) + st)
  | none => match u.xdone.find? fun d => d.tmpl == t && some d.seq == n with
    | some d => BitVec.ofNat 32 (occ + d.fault.toNat * 256 + (if d.fault != 0 then 16 else 0) +
        (if d.cancel then 8 else 0) + (if d.late then 4 else 0))
    | none => BitVec.ofNat 32 occ

/-- Whether the answer of XSTAT observes that a request completed (R295): not one that was cancelled, that faulted, or that
does not exist. -/
def Unit.observes (u : Unit) (tag : Word) : Bool :=
  let t := (tag.extractLsb' 26 6).toNat
  let n := (u.tplState t).named tag
  n.isSome && u.tagDone tag && (match u.xdone.find? fun d => d.tmpl == t && some d.seq == n with
    | some d => d.ok
    | none => true)

/-- XSTAT (R304): it waits only where its answer is an observed completion, which earlier stores come before (R295).
DEDUCED: log 74. -/
def execXstat (c : Ctl) (d : VReg) (a : Src) (s : State) : Host.Outcome State Fault Refusal :=
  s.issue { op1 c a false true (dstRegs d 2) with ends := 3 } fun x s =>
    let tag := x.f.src32 a
    match s.core? x.u.core with
    | none => .done s
    | some k =>
      if !x.f.storesDone && x.u.observes tag then .wait s .fence
      else .done (s.modCur fun f => f.pendRegs (x.f.slotOf d.toNat)
        [fresh (s.xstate k x.u tag), fresh (BitVec.ofNat 32 (x.u.tplState (tag.extractLsb' 26 6).toNat).wmark)])

end Sys2Proof.Machine
end

