-- ==== Sys2Proof/Machine/Matrix.lean ====
section
/-! DEFINITION. The matrix engine (spec 15 R306 to R334): tiles, FIFOs and the commit shelf, crews and the catch latch,
the performance of operations in order, drains and reductions, and the instructions 0xD0 to 0xDA. -/

namespace Sys2Proof.Machine

/-! ### Teams and faults (R312, R333) -/

/-- TILEFMT with a reason and a tile (R333). -/
def tileFmt (reason tile : Nat) : TrapInfo := trapOf 0x51 (BitVec.ofNat 32 (reason + 256 * (tile % 32)))
/-- RESIDUE with a reason and a tile (R317). -/
def residue (reason tile : Nat) : TrapInfo := trapOf 0x52 (BitVec.ofNat 32 (reason + 256 * (tile % 32)))

/-- A team's crew register and count; empty where `CREW` has not set it. -/
def Unit.team (u : Unit) (i : Nat) : Team :=
  (u.teams.find? fun t => t.idx == i).getD { idx := i, set := false, mask := 0, h := false, count := 0 }

/-- Store a team's crew register and count. -/
def Unit.setTeam (u : Unit) (t : Team) : Unit :=
  if u.teams.any fun x => x.idx == t.idx then { u with teams := updIf u.teams (fun x => x.idx == t.idx) fun _ => t }
  else { u with teams := u.teams ++ [t] }

/-- The teams of a mask, in ascending index, which are the ranks (R312). -/
def maskTeams (mask : Word) (h : Bool) : List Nat :=
  ((List.range 32).filter fun i => mask.getLsbD i).map fun i => i + (if h then 32 else 0)

/-- The crew of a team; empty where its register is. -/
def Team.crew (t : Team) : List Nat := if t.set then maskTeams t.mask t.h else []

/-- Change a core's matrix engine. -/
def State.modMatrix (s : State) (core : Nat) (f : Matrix → Matrix) : State :=
  s.modCore core fun c => { c with matrix := f c.matrix }

/-- A core's matrix engine. -/
def State.matrix (s : State) (core : Nat) : Matrix := ((s.core? core).map Core.matrix).getD Matrix.reset

/-- Whether an operation is one team's own request. -/
def MxOp.isOf (o : MxOp) (unit team : Nat) : Bool := o.unit == unit && o.crew.isEmpty && o.team == team

/-- Whether an arrival of a team came after the request numbered `num`. -/
def MxReq.later (r : MxReq) (unit team num : Nat) : Bool := r.unit == unit && r.team == team && decide (num < r.num)

/-- Whether an operation holds a request of a team that came after the request numbered `num`. -/
def MxOp.later (o : MxOp) (unit team num : Nat) : Bool :=
  (o.isOf unit team && decide (num < o.num)) || o.arrivals.any fun r => r.later unit team num

/-- The number under which an operation was asked for by a team. -/
def MxOp.numOf (o : MxOp) (team : Nat) : Nat := ((o.arrivals.find? fun r => r.team == team).map MxReq.num).getD o.num

/-- Discard the requests of a team that came after the one numbered `num` (R313, R333); those of its crew no longer count.
Where an operation had been caught with one of them, the other teams' arrivals wait in the latch again.
DEDUCED: log 68. -/
def State.discardTeam (s : State) (core unit team num : Nat) : State :=
  let m := s.matrix core
  let gone := m.ops.filter fun o => o.later unit team num
  let back := gone.flatMap fun o => o.arrivals.filter fun r => r.team != team
  let cut := m.latch.countP (fun r => r.later unit team num) + gone.countP fun o => !o.crew.isEmpty
  let s1 := s.modMatrix core fun m => { m with
    latch := (m.latch.filter fun r => !r.later unit team num) ++ back
    ops := m.ops.filter fun o => !o.later unit team num }
  let s2 := gone.foldl (fun s o => s.freeRanges core o.num) s1
  s2.modUnit unit fun u => u.setTeam { u.team team with count := (u.team team).count - cut }

/-- A fault of the request numbered `num`, found after acceptance (R313, R317, R333): every live member of the team takes it
at its next instruction that takes matrix faults; where none is live it goes beyond the core for the team's first member
(R400). DESIGN CHOICE: log 25. -/
def State.teamFault (s : State) (core unit team num : Nat) (t : TrapInfo) : State :=
  let s1 := s.discardTeam core unit team num
  match s1.unit? unit with
  | none => s1.logRec 4 t.cause t.arg team
  | some u =>
    let live := u.teamLive team
    let first := team * u.desc.team
    if live.isEmpty then s1.lateTrap u first (((u.fibre? first).map Fibre.pc).getD 0) t
    else live.foldl (fun s f => s.modFibre unit f.fid fun f => { f with
      faults := f.faults ++ [{ cls := .matrix, cause := t.cause, arg := t.arg, addr := t.addr, req := none }] }) s1

/-! ### Tiles and the shelf (R309, R318, R319) -/

/-- A tile of an engine. -/
def Matrix.tile (m : Matrix) (t : Nat) : TileState := m.tiles.getD t TileState.reset
/-- Change a tile. -/
def Matrix.modTile (m : Matrix) (t : Nat) (f : TileState → TileState) : Matrix := { m with tiles := updAt m.tiles t f }
/-- A word of a tile. -/
def TileState.word (t : TileState) (i : Nat) : Reg := (tget t.words i).getD Reg.zero
/-- A word of a tile as the engine reads it, after correction. -/
def TileState.val (t : TileState) (i : Nat) : Word :=
  match checkWord (t.word i) with
  | some (w, _) => w
  | none => (t.word i).val
/-- Whether some word of a tile is uncorrectable (R317). -/
def TileState.bad (t : TileState) : Bool := t.words.any fun e => (checkWord e.2).isNone
/-- The words of a tile as a table. -/
def tileWords (ws : List Reg) : List (Nat × Reg) := (ws.mapIdx fun i w => (i, w)).filter fun e => e.2 != Reg.zero
/-- The words of a tile in order. -/
def TileState.all (t : TileState) : List Reg := (List.range 4096).map t.word

/-- Count and log the corrections of a tile's words as the engine reads them (R195, R317). -/
def State.noteTile (s : State) (u : Unit) (t : TileState) : State := s.noteWords u.core (t.words.map (·.2))

/-- The key of a tile's slot on the commit shelf (R318). -/
def Unit.shelfKey (u : Unit) (t : Nat) : Nat :=
  keyScratch u.core (u.allocBase + u.desc.scratch - 16384 * (u.desc.shelf - t))

/-- Whether a log entry consumed the tile with number `n` of FIFO `f`. -/
def LogEntry.used (e : LogEntry) (f n : Nat) : Bool := (e.fa == f && e.a == n) || (e.fb + 2 == f && e.b == n)

/-- Free the retained FIFO tiles whose consumers have all been committed (R319 step 3). -/
def Matrix.release (m : Matrix) : Matrix :=
  { m with fifos := m.fifos.mapIdx fun f q => { q with
      retained := q.retained.filter fun x => m.tiles.any fun t => t.log.any fun e => e.used f x.num } }

/-- Commit a tile (R319); `force` is the commit of a contribution, which copies whatever the log holds. -/
def State.commitTile (s : State) (u : Unit) (t : Nat) (force : Bool) : State :=
  let x := (s.matrix u.core).tile t
  if x.log.isEmpty && !force then s
  else
    let s1 := { s with mem := s.mem.setWords (u.shelfKey t) x.all }
    s1.modMatrix u.core fun m => (m.modTile t fun y => { y with log := [], zero := false }).release

/-! ### Products (R314 to R316) -/

/-- The bytes of a FIFO tile after correction. -/
def FifoTile.bytes (t : FifoTile) : Array Byte :=
  (t.words.flatMap fun r =>
    let w := match checkWord r with | some (w, _) => w | none => r.val
    [wordByte w 0, wordByte w 1, wordByte w 2, wordByte w 3]).toArray

/-- Whether some word of a FIFO tile is uncorrectable (R317). -/
def FifoTile.bad (t : FifoTile) : Bool := t.words.any fun r => (checkWord r).isNone

/-- The bytes of a FIFO tile of a type (R310). -/
def mtySize : MTy → Nat
  | .l6 => 3072
  | .i8 => 4096
  | .n8 => 4096
  | .f16 => 8192
  | .bf16 => 8192

/-- The tile format that a type accumulates into (R309). -/
def mtyFmt : MTy → TileFmt
  | .i8 => .int32
  | .n8 => .int32
  | _ => .fp32

/-- One element of a FIFO tile. -/
inductive MElem where
  | l6 (c : BitVec 6)
  | int (v : Int)
  | flt (v : FVal)
  deriving DecidableEq, Repr

/-- Element `k` of row (or column) `m` of a FIFO tile (R311). -/
def melem (t : MTy) (daz : Bool) (b : Array Byte) (m k : Nat) : MElem :=
  let at' (i : Nat) : Byte := b.getD i 0
  match t with
  | .l6 =>
    let o := 48 * m + 3 * (k / 4)
    let g : BitVec 24 := at' (o + 2) ++ at' (o + 1) ++ at' o
    .l6 (g.extractLsb' (6 * (k % 4)) 6)
  | .i8 => .int (at' (64 * m + k)).toInt
  | .n8 => .int (at' (64 * m + k)).toNat
  | .f16 => .flt (fread .f16 daz (natOfBytes [at' (128 * m + 2 * k), at' (128 * m + 2 * k + 1)]))
  | .bf16 => .flt (fread .bf16 daz (natOfBytes [at' (128 * m + 2 * k), at' (128 * m + 2 * k + 1)]))

/-- The rows of a FIFO tile. -/
def melems (t : MTy) (daz : Bool) (b : Array Byte) : List (List MElem) :=
  (List.range 64).map fun m => (List.range 64).map fun k => melem t daz b m k

/-- A product as a term of an exact sum: NaN, an infinity, or a finite term (R315). -/
inductive Term where
  | nan
  | inf (neg : Bool)
  | fin (neg : Bool) (m : Nat) (e : Int)
  deriving DecidableEq, Repr

/-- The product of two elements with their scales (R315). -/
def mprod (a : MElem) (sa : Byte) (b : MElem) (sb : Byte) : Term :=
  match a, b with
  | .l6 x, .l6 y => match l6prod x sa y sb with
    | none => .nan
    | some (n, m, e) => .fin n m e
  | .int x, .int y => .fin (decide (x * y < 0)) (x * y).natAbs 0
  | .flt (.nan _), _ => .nan
  | _, .flt (.nan _) => .nan
  | .flt (.inf n), .flt y => if y.isZero then .nan else .inf (n != y.neg)
  | .flt x, .flt (.inf n) => if x.isZero then .nan else .inf (n != x.neg)
  | .flt (.fin n m e), .flt (.fin p q f) => .fin (n != p) (m * q) (e + f)
  | _, _ => .nan

/-- The element of a floating tile (R315): C plus the exact sum of the products. -/
def mfloat (r : Round) (c : Word) (ts : List Term) : Word :=
  let all := (match fread .f32 r.daz c.toNat with
    | .nan _ => Term.nan
    | .inf n => .inf n
    | .fin n m e => .fin n m e) :: ts
  let pos := all.any fun t => t == .inf false
  let neg := all.any fun t => t == .inf true
  if all.any (fun t => t == .nan) || (pos && neg) then 0x7FC00000
  else if pos || neg then BitVec.ofNat 32 (FTy.f32.inf neg)
  else BitVec.ofNat 32 (roundSum .f32 r (all.filterMap fun t => match t with
    | .fin n m e => some (n, m, e)
    | _ => none)).1

/-- The element of an integer tile (R315). -/
def mint (c : Word) (ts : List Term) : Word :=
  BitVec.ofInt 32 (ts.foldl (fun (a : Int) t => match t with
    | .fin true m _ => a - m
    | .fin false m _ => a + m
    | _ => a) c.toInt)

/-- The words of a tile after an `MMA` (R314): `sc` holds its 64 B column scales and then its 64 A row scales. -/
def mmaTile (t : MTy) (r : Round) (a b : List (List MElem)) (sa sb : List Byte) (c : TileState) : List Reg :=
  (List.range 64).flatMap fun m => (List.range 64).map fun n =>
    let ts := (a.getD m []).zipWith (fun x y => mprod x (sa.getD m 0) y (sb.getD n 0)) (b.getD n [])
    fresh (if mtyFmt t == .fp32 then mfloat r (c.val (64 * m + n)) ts else mint (c.val (64 * m + n)) ts)

/-! ### The crew instructions as operations -/

/-- The first tile that an operation names, and how many. -/
def MxOp.span (o : MxOp) : Nat × Nat :=
  let n := max o.crew.length 1
  match o.instr with
  | .mma _ _ _ _ d _ _ _ => (d.toNat, n)
  | .acmt _ d => (d.toNat, n)
  | .aroll _ d _ _ => (d.toNat, n)
  | .aclr _ d => (d.toNat, 1)
  | .aload _ _ d _ => (d.toNat, 1)
  | .astore _ _ d _ => (d.toNat, 1)
  | .adrain _ _ _ d _ => (d.toNat, 1)
  | .adrainS _ _ d _ _ _ => (d.toNat, 1)
  | .areduce _ _ d _ _ => (d.toNat, 1)
  | _ => (0, 0)

/-- The tiles that an operation names. -/
def MxOp.tiles (o : MxOp) : List Nat := (List.range o.span.2).map (o.span.1 + ·)

/-- The FIFOs that an operation names, 0 to 7. -/
def MxOp.fifos (o : MxOp) : List Nat :=
  match o.instr with
  | .mma _ _ _ _ _ fa fb _ => fa.toNat :: (List.range o.crew.length).map (2 + fb.toNat + ·)
  | .aroll _ _ fa fb => fa.toNat :: (List.range o.crew.length).map (2 + fb.toNat + ·)
  | .fqdrop _ f => [f.toNat]
  | _ => []

/-- Whether an operation is a drain, of either form (R323). -/
def MxOp.isDrain (o : MxOp) : Bool :=
  match o.instr with
  | .adrain _ _ _ _ _ => true
  | .adrainS _ _ _ _ _ _ => true
  | _ => false

/-- Whether an operation must be performed after an earlier one (R313, R323, R330). -/
def MxOp.behind (o q : MxOp) : Bool :=
  (o.tiles.any fun t => q.tiles.contains t) || (o.fifos.any fun f => q.fifos.contains f) ||
    (!o.crew.isEmpty && !q.crew.isEmpty) ||
    (o.isDrain && q.isDrain && o.unit == q.unit && o.team == q.team)

/-- The tiles that an arrival in the catch latch names. -/
def MxReq.tiles (r : MxReq) : List Nat :=
  let n := match r.instr with
    | .mma _ _ _ _ d _ _ _ => d.toNat
    | .acmt _ d => d.toNat
    | .aroll _ d _ _ => d.toNat
    | _ => 0
  (List.range r.crew.length).map (n + ·)

/-- Whether an operation of one team follows, in that team's program order, an arrival that names its tile (R330 note 11). -/
def MxOp.follows (o : MxOp) (r : MxReq) : Bool :=
  o.crew.isEmpty && o.unit == r.unit && o.team == r.team && decide (r.num < o.num) &&
    o.tiles.any fun t => r.tiles.contains t

/-- Whether an arrival follows, in its team's program order, another that names one of its tiles (R330 note 11). -/
def MxReq.follows (r q : MxReq) : Bool :=
  r.unit == q.unit && r.team == q.team && decide (q.num < r.num) && r.tiles.any fun t => q.tiles.contains t

/-- What trying to perform an operation comes to. -/
inductive MxGo where
  | wait
  | fail (s : State) (t : TrapInfo)
  | done (s : State)
  deriving DecidableEq

/-- Whether a type states the format of a tile, or the tile is clear (R309). -/
def fits (want : TileFmt) (t : TileState) : Bool := t.fmt == .clear || t.fmt == want
/-- The format of a TYPE of a tile instruction. -/
def fmtOf (int : Bool) : TileFmt := if int then .int32 else .fp32

/-- Commit every tile that consumed a slot of a FIFO that holds 8 RETAINED slots (R320). -/
def State.autoCommit (s : State) (u : Unit) : State :=
  let m := s.matrix u.core
  let full := (List.range 8).filter fun f =>
    decide (Config.retainedBound ≤ slotsOf ((m.fifos.getD f FifoState.reset).retained))
  let due := (List.range 32).filter fun t => (m.tile t).log.any fun e => full.any fun f => e.fa == f || e.fb + 2 == f
  due.foldl (fun s t => (s.commitTile u t false).count u.core 0x000F 1) s

/-- Consume the oldest READY tile of a FIFO (R314). -/
def Matrix.consume (m : Matrix) (f : Nat) : Matrix :=
  { m with fifos := updAt m.fifos f fun q => { q with
      retained := q.retained ++ q.readyT.take 1, readyT := q.readyT.drop 1 } }

/-- Perform an `MMA` (R314). -/
def State.tryMma (s : State) (u : Unit) (o : MxOp) (t : MTy) (r : Option RM) (d fa fb : Nat) : MxGo :=
  let m := s.matrix u.core
  let n := o.crew.length
  let ts := (List.range n).map fun i => (d + i, m.tile (d + i))
  let head (f : Nat) : Option FifoTile := (m.fifos.getD f FifoState.reset).readyT.head?
  match ts.find? fun e => e.2.red.isSome with
  | some e => .fail s (tileFmt 8 e.1)
  | none => match ts.find? fun e => !fits (mtyFmt t) e.2 with
    | some e => .fail s (tileFmt 1 e.1)
    | none => match head fa, (List.range n).mapM fun i => head (2 + fb + i) with
      | some a, some bs =>
        if a.size != mtySize t then .fail s (tileFmt 9 d)
        else match (bs.mapIdx fun i b => (i, b)).find? fun e => e.2.size != mtySize t with
          | some e => .fail s (tileFmt 9 (d + e.1))
          | none =>
            if a.bad then .fail s (residue 4 d)
            else match (bs.mapIdx fun i b => (i, b)).find? fun e => e.2.bad with
              | some e => .fail s (residue 4 (d + e.1))
              | none => match ts.find? fun e => e.2.bad with
                | some e => .fail s (residue 2 e.1)
                | none =>
                  let rd := roundOf o.rmode r
                  let sa := ((o.scales.headD []).drop 64)
                  let av := melems t rd.daz a.bytes
                  let s0 := (ts.map (·.2)).foldl (fun s c => s.noteTile u c)
                    (s.noteWords u.core (a.words ++ bs.flatMap FifoTile.words))
                  let s1 := (bs.mapIdx fun i b => (i, b)).foldl (fun (s : State) e =>
                    let b := e.2
                    let sb := (o.scales.getD e.1 []).take 64
                    let entry : LogEntry :=
                      { fa := fa, fb := fb + e.1, a := a.num, b := b.num, ty := t, rm := rd.rm, daz := rd.daz, ftz := rd.ftz
                        scales := sb ++ sa }
                    s.modMatrix u.core fun m => (m.modTile (d + e.1) fun c => { c with
                      words := tileWords (mmaTile t rd av (melems t rd.daz b.bytes) sa sb c)
                      fmt := mtyFmt t, log := c.log ++ [entry] }).consume (2 + fb + e.1)) s0
                  .done ((s1.modMatrix u.core fun m => m.consume fa).autoCommit u)
      | _, _ => .wait

/-- The committed value of a tile (R321): its shelf slot, or zeros. DEDUCED: log 53. -/
def State.committed (s : State) (u : Unit) (t : Nat) : List Reg :=
  if ((s.matrix u.core).tile t).zero then [] else s.mem.words (u.shelfKey t) 4096

/-- Rewind a FIFO (R321). DEDUCED: log 53. -/
def FifoState.rewind (q : FifoState) : FifoState := { q with retained := [], readyT := q.retained ++ q.readyT }

/-- Perform an `AROLL` (R321). DEDUCED: log 53. -/
def State.tryRoll (s : State) (u : Unit) (o : MxOp) (d fa fb : Nat) : MxGo :=
  let m := s.matrix u.core
  let n := o.crew.length
  let ts := (List.range n).map (d + ·)
  let fs := fa :: (List.range n).map (2 + fb + ·)
  let outside := (List.range 32).any fun t => !ts.contains t && (m.tile t).log.any fun e =>
    fs.any fun f => e.fa == f || e.fb + 2 == f
  let other := (List.range n).any fun i => (m.tile (d + i)).log.any fun e => e.fa != fa || e.fb != fb + i
  match ts.find? fun t => (m.tile t).red.isSome with
  | some t => .fail s (tileFmt 8 t)
  | none =>
    if outside || other then .fail s (tileFmt 7 d)
    else match ts.find? fun t => (s.committed u t).any fun w => (checkWord w).isNone with
      | some t => .fail s (residue 3 t)
      | none => .done (s.modMatrix u.core fun m =>
          let m1 := ts.foldl (fun m t => m.modTile t fun c => { c with
            words := tileWords (s.committed u t), log := [] }) m
          fs.foldl (fun m f => { m with fifos := updAt m.fifos f FifoState.rewind }) m1)

/-- Perform an `ACMT` (R319). -/
def State.tryCommit (s : State) (u : Unit) (o : MxOp) : MxGo :=
  let m := s.matrix u.core
  if o.tiles.any fun t => (m.tile t).red.isSome then .wait
  else match o.tiles.find? fun t => !(m.tile t).log.isEmpty && (m.tile t).bad with
    | some t => .fail s (residue 2 t)
    | none => .done (o.tiles.foldl (fun s t => s.commitTile u t false) s)

/-! ### One team's operations (R322 to R327) -/

/-- Where an operation's memory operand lies now; none where the peer's allocation has ended (R334). -/
def State.mxKey (s : State) (u : Unit) (o : MxOp) : Option Nat := s.locate u o.space o.adr rightR

/-- CAPSTALE of an operation's capability (R334). -/
def MxOp.stale (o : MxOp) : TrapInfo := trapOf 0x23 (o.creg.setWidth 32)

/-- Perform an `ACLR` (R322). -/
def State.tryClear (s : State) (u : Unit) (d : Nat) : MxGo :=
  if ((s.matrix u.core).tile d).red.isSome then .fail s (tileFmt 8 d)
  else .done (s.modMatrix u.core fun m =>
    (m.modTile d fun c => { c with words := [], fmt := .clear, zero := true, log := [] }).release)

/-- Perform an `ALOAD` (R322). -/
def State.tryLoad (s : State) (u : Unit) (o : MxOp) (int : Bool) (d : Nat) : MxGo :=
  if ((s.matrix u.core).tile d).red.isSome then .fail s (tileFmt 8 d)
  else match s.mxKey u o with
    | none => .fail s o.stale
    | some k =>
      let ws := s.mem.words k 4096
      let s1 := { s with mem := s.mem.setWords (u.shelfKey d) ws }
      .done (s1.modMatrix u.core fun m => (m.modTile d fun c => { c with
        words := tileWords ws, fmt := fmtOf int, zero := false, log := [] }).release)

/-- The words of a tile with fresh codes (R322, R323). -/
def TileState.out (t : TileState) : List Reg := (List.range 4096).map fun i => fresh (t.val i)

/-- The bytes of a tile written to scratchpad for a team. -/
def State.storeTile (s : State) (u : Unit) (o : MxOp) (t : TileState) (k : Nat) : State :=
  let w := u.desc.team
  s.unitWrite u ((List.range w).map fun i => o.team * w + i) o.num o.space [(o.adr, bytesOfWords t.out)]
    (t.out.mapIdx fun i r => (k + 4 * i, r)) fun _ => false

/-- Perform an `ASTORE` (R322). -/
def State.tryStore (s : State) (u : Unit) (o : MxOp) (int : Bool) (d : Nat) : MxGo :=
  let t := (s.matrix u.core).tile d
  if t.red.isSome then .wait
  else if !fits (fmtOf int) t then .fail s (tileFmt 1 d)
  else if t.bad then .fail s (residue 2 d)
  else match s.mxKey u o with
    | none => .fail s o.stale
    | some k => .done ((s.noteTile u t).storeTile u o t k)

/-- Whether a drain descriptor is refused (R323). -/
def State.badDrain (s : State) (u : Unit) (desc : DWord) : Bool :=
  let gang := (desc.extractLsb' 32 24).toNat
  let unit := (desc.extractLsb' 13 3).toNat
  desc.extractLsb' 56 8 != 0 || desc.extractLsb' 16 16 != 0 ||
    (match s.launch? u.launch with
      | some l => decide (l.part.grid ≤ gang * l.part.gang + unit) || decide (l.part.gang ≤ unit)
      | none => true)

/-- Perform an `ADRAIN` (R323): the tile is committed, read and sent. -/
def State.tryDrain (s : State) (u : Unit) (o : MxOp) (int : Bool) (r : Option RM) (d : Nat) : MxGo :=
  let t := (s.matrix u.core).tile d
  if t.red.isSome then .wait
  else if !fits (fmtOf int) t then .fail s (tileFmt 1 d)
  else if s.badDrain u o.opA then .fail s (tileFmt 8 d)
  else if t.bad then .fail s (residue 2 d)
  else
    let rd := roundOf o.rmode r
    let dr : Drain :=
      { num := o.num, sender := u.key, team := o.team, launch := u.launch, desc := o.opA, int := int, rm := rd.rm
        daz := rd.daz, ftz := rd.ftz, words := tileWords t.out, buffered := false, held := false, shadow := u.shadow }
    let s1 := (s.noteTile u t).commitTile u d false
    let peer := o.opA.extractLsb' 32 24 != BitVec.ofNat 24 u.gang || o.opA.extractLsb' 13 3 != BitVec.ofNat 3 u.idx
    if u.shadow && peer then .done s1 else .done { s1 with drains := s1.drains ++ [dr] }

/-- Perform an `ADRAIN.s` (R327): after the team's earlier drains have been sent, and after any that the engine holds (R323,
R325). -/
def State.tryDrainS (s : State) (u : Unit) (o : MxOp) (int : Bool) (d : Nat) (bar : Word) : MxGo :=
  let t := (s.matrix u.core).tile d
  if t.red.isSome || (s.drains.any fun q => q.comesFirst u.key o.team) then .wait
  else if !fits (fmtOf int) t then .fail s (tileFmt 1 d)
  else if t.bad then .fail s (residue 2 d)
  else match s.mxKey u o with
    | none => .fail s o.stale
    | some k =>
      let s1 := ((s.noteTile u t).commitTile u d false).storeTile u o t k
      let off := bar.toNat / 8 * 8
      if bar == 0 then .done s1
      else match s1.gangUnit u (off / 2097152) with
        | none => .fail s1 (tileFmt 10 d)
        | some v =>
          if u.desc.reach < off % 2097152 + 8 then .done s1
          else .done (s1.unitCount u (keyScratch v.core (v.allocBase + off % 2097152)) 1024)

/-- Perform an `AREDUCE` (R324). -/
def State.tryReduce (s : State) (u : Unit) (o : MxOp) (int : Bool) (d : Nat) (bar : Word) : MxGo :=
  let t := (s.matrix u.core).tile d
  if t.red.isSome then .wait
  else if !fits (fmtOf int) t then .fail s (tileFmt 1 d)
  else if t.bad then .fail s (residue 2 d)
  else .done ((s.commitTile u d false).modMatrix u.core fun m => m.modTile d fun c => { c with
    fmt := fmtOf int, red := some (o.opA.toNat, 0, bar) })

/-- Perform an `FQDROP` (R328). -/
def State.tryDrop (s : State) (u : Unit) (f : Nat) : MxGo :=
  .done (s.modMatrix u.core fun m => { m with fifos := updAt m.fifos f fun q => { q with readyT := [] } })

/-- Try to perform an operation. -/
def State.tryOp (s : State) (u : Unit) (o : MxOp) : MxGo :=
  match o.instr with
  | .mma _ t _ r d fa fb _ => s.tryMma u o t r d.toNat fa.toNat fb.toNat
  | .acmt _ _ => s.tryCommit u o
  | .aroll _ d fa fb => s.tryRoll u o d.toNat fa.toNat fb.toNat
  | .aclr _ d => s.tryClear u d.toNat
  | .aload _ int d _ => s.tryLoad u o int d.toNat
  | .astore _ int d _ => s.tryStore u o int d.toNat
  | .adrain _ int r d _ => s.tryDrain u o int r d.toNat
  | .adrainS _ int d _ _ bar => s.tryDrainS u o int d.toNat bar
  | .areduce _ int d _ bar => s.tryReduce u o int d.toNat bar
  | .fqdrop _ f => s.tryDrop u f.toNat
  | _ => .done s

/-- Take an operation out of the engine's queue. -/
def State.dropOp (s : State) (core num : Nat) : State :=
  (s.modMatrix core fun m => { m with ops := m.ops.filter fun o => o.num != num }).freeRanges core num

/-- Perform the first operation that can be performed; `before` are the earlier ones that wait. -/
def State.mxRun (s : State) (core : Nat) (before : List MxOp) : List MxOp → State
  | [] => s
  | o :: rest =>
    let held := ((s.core? core).map fun c => c.heldBack o.num).getD false
    if (before.any fun q => o.behind q) || held || ((s.matrix core).latch.any fun r => o.follows r) then
      s.mxRun core (before ++ [o]) rest
    else match s.unit? o.unit with
      | none => s.dropOp core o.num
      | some u => match s.tryOp u o with
        | .wait => s.mxRun core (before ++ [o]) rest
        | .done s1 => s1.dropOp core o.num
        | .fail s1 t =>
          let teams := if o.crew.isEmpty then [o.team] else o.crew
          teams.foldl (fun s k => s.teamFault core o.unit k (o.numOf k) t) (s1.dropOp core o.num)

/-- MMA_PERFORM (R314): the first operation of a core's engine whose order and operands allow it is performed. -/
def execMmaPerform (core : Nat) (s : State) : Host.Outcome State Fault Refusal :=
  .next (s.mxRun core [] (s.matrix core).ops)

/-! ### Issuing for a team (R307) -/

/-- What a team-level instruction of the matrix engine comes to when its team has converged. -/
inductive TeamGo where
  | done (s : State)
  | trap (t : TrapInfo)
  | wait
  deriving DecidableEq

/-- A member passes a matrix instruction: in a DET launch its stroke has ended (R331). -/
def Fibre.passTeam (f : Fibre) (last : List Nat) (next : BitVec 57) (clk : Nat) (stall : BitVec 4) (det : Bool) : Fibre :=
  let g := f.pass last next clk stall
  if det then { g with stroke := { g.stroke with insns := 0, granules := [], pass := false } } else g

/-- The members of a team of a DET launch wait for step 3 of a commit (R331). -/
def State.parkTeam (s : State) (k : Nat) (ms : List Fibre) : State :=
  ms.foldl (fun s m => s.modFibre k m.fid fun g => { g with wait := some (.stroke 3), stroke := { g.stroke with pass := false } }) s

/-- Execute a converged matrix instruction: once for the team, from its member with the lowest `$tid` (`all` says that
every member's reads count). A failed check traps in every live member. -/
def State.matrixRun (s : State) (u : Unit) (ms : List Fibre) (o : Op) (all : Bool)
    (eff : Unit → Fibre → List Fibre → State → TeamGo) : State :=
  let trapAll (t : TrapInfo) : State :=
    ms.foldl (fun s f => (s.modFibre u.key f.fid fun _ => { f with wait := none }).takeTrap u.key f.fid t) s
  let det := s.detOf u
  match ms with
  | [] => s
  | lead :: _ =>
    let readers := if all then ms else [lead]
    match readers.findSome? fun f => f.readTrap (s.chkOf u) o.reads with
    | some t => trapAll t
    | none =>
      let fixed (f : Fibre) : Fibre := if readers.any fun r => r.fid == f.fid then (f.scrub o.reads).1 else f
      let s1 := ms.foldl (fun s f =>
        let g := fixed f
        let g1 := if readers.any (fun r => r.fid == f.fid) && g.readsReleased o.reads then g.raise 0x40 else g
        (s.modFibre u.key f.fid fun _ => g1.passTeam o.last (s.seqNext (s.ctxOf u) f.pc) s.clk o.ctl.stall det).count
          u.core 0x0003 1) s
      match eff u (fixed lead) (ms.map fixed) s1 with
      | .done s2 => s2
      | .trap t => trapAll t
      | .wait => if det then s.parkTeam u.key ms else s

/-- The members of a team with their landed results, by `$tid`. -/
def State.members (s : State) (u : Unit) (team : Nat) : List Fibre :=
  ((List.range u.desc.team).filterMap fun t => (u.teamLive team).find? fun f => f.fid == team * u.desc.team + t).map
    fun f => f.settle s.clk

/-- The members of a team that wait at an address take the matrix faults recorded on them (R333). -/
def State.deliverTeam (s : State) (u : Unit) (team : Nat) (pc : BitVec 57) : State :=
  ((u.teamLive team).filter fun m => m.arrivedAt pc).foldl (fun s m => match takeFault m.faults [.matrix] with
    | some (d, ds) => (s.modFibre u.key m.fid fun g => { g with faults := ds, wait := none }).takeTrap u.key m.fid d.trap
    | none => s) s

/-- A fibre issues a matrix instruction; it executes when the team has converged and nothing it reads is pending. A late
transfer is raised when the fibre comes to it (R293). DEDUCED: log 65. -/
def State.matrixIssue (s : State) (o : Op) (all : Bool) (eff : Unit → Fibre → List Fibre → State → TeamGo) :
    Host.Outcome State Fault Refusal :=
  match s.current? with
  | none => .fault .noFibre
  | some (u, f) =>
    match (if f.again || f.arrivedAt f.pc then none else takeFault f.faults [.late]) with
    | some (d, ds) => .next ((s.modCur fun g => { g with faults := ds, wait := none }).takeTrap u.key f.fid d.trap)
    | none =>
      let team := f.fid / u.desc.team
      let s0 := s.modCur fun g => { g with wait := some (.team f.pc f.came), served := false }
      let s1 := ((s0.unit? u.key).map fun v => s0.deliverTeam v team f.pc).getD s0
      match s1.unit? u.key with
      | none => .next s1
      | some u1 =>
        let ms := s1.members u1 team
        let readers := if all then ms else ms.take 1
        let spills := (s1.teamSpills u1 team o).filter fun e => readers.any fun m => m.fid == e.1
        if !u1.converged team f.pc || readers.any (fun m => o.memberBlocked m) then .next s1
        else if !spills.isEmpty then .next (s1.parkFills u1.key spills)
        else if s.detOf u && ms.any fun m => !m.stroke.pass then
          .next (s1.parkTeam u.key ms)
        else .next (s1.matrixRun u1 ms o all eff)

/-! ### Acceptance (R307, R313, R318) -/

/-- Whether the engine has room for a request (R307). -/
def Matrix.room (m : Matrix) : Bool := decide (m.latch.length + m.ops.length < Config.queueEntries)

/-- The fibres of a team, ended ones too: their requests stand. -/
def Unit.teamAll (u : Unit) (team : Nat) : List Fibre := u.fibres.filter fun f => f.fid / u.desc.team == team

/-- Whether the team's earlier stores, atomics and releases allow an instruction on tiles and FIFOs (R330). -/
def Unit.settledMM (u : Unit) (team : Nat) : Bool := (u.teamAll team).all Fibre.storesDone

/-- Whether they allow `ALOAD`, `ASTORE` and the drains (R330 note 9). -/
def Unit.settledAL (u : Unit) (team : Nat) : Bool :=
  (u.teamAll team).all fun f => f.outst.all fun r =>
    r.cls != .rel && r.cls != .ba && !(scratchCore r.key == some u.core && (r.cls == .st || r.cls == .at))

/-- Accept an operation of one team, and perform it where nothing holds it back. -/
def State.acceptOp (s : State) (u : Unit) (f : Fibre) (i : Instr) (space adr : Nat) (creg : CReg) (opA : DWord)
    (ranges : List RangeEntry) : State :=
  let o : MxOp :=
    { num := s.seqCtr, ord := 0, arrivals := [], unit := u.key, instr := i, crew := [], rmode := f.rmode, scales := [], team := f.fid / u.desc.team
      space := space, adr := adr, creg := creg, opA := opA }
  let s1 := { s.modCore u.core (fun c => { c with
    scoreboard := c.scoreboard ++ ranges.map fun e => { e with who := s.seqCtr }
    matrix := { c.matrix with ops := c.matrix.ops ++ [o] } }) with seqCtr := s.seqCtr + 1 }
  s1.mxRun u.core [] (s1.matrix u.core).ops

/-- The shared form of an instruction of one team on one tile without a memory operand. -/
def tileOp (i : Instr) (d : Tile) (check : Fibre → Option TrapInfo) (opA : Fibre → DWord) (mm : Bool) :
    Unit → Fibre → List Fibre → State → TeamGo := fun u lead _ s =>
  let team := lead.fid / u.desc.team
  if u.desc.shelf ≤ d.toNat then .trap (tileFmt 2 d.toNat)
  else match check lead with
  | some t => .trap t
  | none =>
    if !(s.matrix u.core).room || !(if mm then u.settledMM team else u.settledAL team) then .wait
    else .done (s.acceptOp u lead i 0 0 0 (opA lead) [])

/-- The shared form of an instruction of one team with a memory operand of a tile's size (R322, R327). -/
def tileMem (i : Instr) (d : Tile) (p : MemOp) (need : Byte) (write : Bool) :
    Unit → Fibre → List Fibre → State → TeamGo := fun u lead _ s =>
  let team := lead.fid / u.desc.team
  if u.desc.shelf ≤ d.toNat then .trap (tileFmt 2 d.toNat)
  else match s.reachMem { u := u, f := lead } p 16384 64 need rightR [1, 2] with
    | .error t => .trap t
    | .ok a =>
      let ranges := (s.ownRange u a.space (some (a.adr, a.adr + 16384))).map fun e =>
        { lo := e.1, hi := e.2, write := write, who := 0 }
      let board := ((s.core? u.core).map fun c => c.scoreboard.length).getD 0
      if !(s.matrix u.core).room || !u.settledAL team || decide (Config.scoreboardEntries < board + ranges.length) then .wait
      else .done (s.acceptOp u lead i a.space a.adr p.cap.n 0 ranges)

/-- An unpredicated instruction with one scalar source. -/
def opTeam1 (stall : BitVec 4) (a : Src) : Op :=
  { op0 (unpredCtl stall) with reads := a.reads 1 false true, last := a.lastRegs false, ends := 3 }

/-- An unpredicated instruction with a memory operand. -/
def opTeamM (stall : BitVec 4) (p : MemOp) : Op :=
  { op0 (unpredCtl stall) with reads := p.reads, last := p.lastRegs, ends := 3 }

/-! ### The instructions (R308) -/

/-- CREW (R312). -/
def execCrew (stall : BitVec 4) (h : Bool) (a : Src) (s : State) : Host.Outcome State Fault Refusal :=
  s.matrixIssue (opTeam1 stall a) false fun u lead _ s =>
    let mask := lead.src32 a
    let ts := maskTeams mask h
    if decide (ts.length < 2) || decide (6 < ts.length) ||
        ts.any fun t => decide (u.desc.fibres / u.desc.team ≤ t) then .trap (tileFmt 4 0)
    else if u.desc.team != 32 && u.desc.team != 64 then .trap (tileFmt 5 0)
    else .done (s.modUnit u.key fun u => u.setTeam
      { idx := lead.fid / u.desc.team, set := true, mask := mask, h := h, count := 0 })

/-- ACLR (R322). -/
def execAclr (stall : BitVec 4) (d : Tile) (s : State) : Host.Outcome State Fault Refusal :=
  s.matrixIssue { op0 (unpredCtl stall) with ends := 3 } false (tileOp (.aclr stall d) d (fun _ => none) (fun _ => 0) true)

/-- ALOAD (R322). -/
def execAload (stall : BitVec 4) (int : Bool) (d : Tile) (p : MemOp) (s : State) : Host.Outcome State Fault Refusal :=
  s.matrixIssue (opTeamM stall p) false (tileMem (.aload stall int d p) d p permR false)

/-- ASTORE (R322). -/
def execAstore (stall : BitVec 4) (int : Bool) (d : Tile) (p : MemOp) (s : State) : Host.Outcome State Fault Refusal :=
  s.matrixIssue (opTeamM stall p) false (tileMem (.astore stall int d p) d p permW true)

/-- ADRAIN (R323). -/
def execAdrain (stall : BitVec 4) (int : Bool) (r : Option RM) (d : Tile) (a : RSrc) (s : State) :
    Host.Outcome State Fault Refusal :=
  let o : Op := { op0 (unpredCtl stall) with reads := groupReads 1 a.n.toNat 2 true, last := a.lastRegs 2, ends := 3 }
  s.matrixIssue o false (tileOp (.adrain stall int r d a) d (fun _ => none) (fun f => f.pairAt a.n.toNat) false)

/-- ADRAIN.s (R327). -/
def execAdrainS (stall : BitVec 4) (int : Bool) (d : Tile) (cap : CSrc) (idx : Option RSrc) (bar : Word) (s : State) :
    Host.Outcome State Fault Refusal :=
  let p : MemOp := { cap := cap, idx := idx, disp := 0 }
  s.matrixIssue (opTeamM stall p) false (tileMem (.adrainS stall int d cap idx bar) d p permW true)

/-- AREDUCE (R324): the count is checked precisely. -/
def execAreduce (stall : BitVec 4) (int : Bool) (d : Tile) (n : Src) (bar : Word) (s : State) :
    Host.Outcome State Fault Refusal :=
  let check (f : Fibre) : Option TrapInfo :=
    if decide ((f.src32 n).toNat < 1) || decide (256 < (f.src32 n).toNat) then some (tileFmt 8 d.toNat) else none
  s.matrixIssue (opTeam1 stall n) false
    (tileOp (.areduce stall int d n bar) d check (fun f => (f.src32 n).setWidth 64) true)

/-- FQDROP (R328). -/
def execFqdrop (stall : BitVec 4) (f : Fifo) (s : State) : Host.Outcome State Fault Refusal :=
  s.matrixIssue { op0 (unpredCtl stall) with ends := 3 } false fun u lead _ s =>
    if !(s.matrix u.core).room then .wait else .done (s.acceptOp u lead (.fqdrop stall f) 0 0 0 0 [])

/-- The status word of a FIFO (R329). -/
def State.fifoStatus (s : State) (core f : Nat) : Word :=
  let q := s.fifo core f
  let waiting := match s.core? core with
    | none => 0
    | some c => min 15 (c.loadQ.countP fun r => s.pushOf r == some f && s.slotWait c r)
  BitVec.ofNat 32 (waiting * 65536 + (q.filling.map (·.2)).sum * 4096 + slotsOf q.readyT * 256 + slotsOf q.retained * 16 +
    q.free)

/-- FQSTAT (R329). -/
def execFqstat (c : Ctl) (d : VReg) (f : Fifo) (s : State) : Host.Outcome State Fault Refusal :=
  s.issue { op0 c with regs := dstRegs d 1, ends := 3, takes := [.matrix] } fun x s =>
    .done (s.modCur fun g => g.pendRegs (x.f.slotOf d.toNat) [fresh (s.fifoStatus x.u.core f.toNat)])

/-! ### Crew instructions (R313) -/

/-- A crew instruction without the fields in which arrivals may differ. -/
def crewForm : Instr → Instr
  | .mma _ t k r d fa fb _ => .mma 0 t k r d fa fb .zero
  | .acmt _ d => .acmt 0 d
  | .aroll _ d fa fb => .aroll 0 d fa fb
  | i => i

/-- The opcode of a crew instruction. -/
def crewOp : Instr → Nat
  | .mma _ _ _ _ _ _ _ _ => 0xD1
  | .acmt _ _ => 0xD7
  | _ => 0xDA

/-- The precise checks of a crew instruction (R313, R314, R318). -/
def Unit.crewTrap (u : Unit) (team : Nat) (d : Tile) (fb : Option Nat) : Option TrapInfo :=
  let crew := (u.team team).crew
  let n := crew.length
  if !crew.contains team then some (tileFmt 4 d.toNat)
  else if decide (31 < d.toNat + n - 1) || decide (u.desc.shelf ≤ d.toNat + n - 1) then some (tileFmt 2 d.toNat)
  else match fb with
    | some b => if 5 < b + n - 1 then some (tileFmt 3 d.toNat) else none
    | none => none

/-- Accept a crew instruction into the catch latch (R313). -/
def crewGo (i : Instr) (d : Tile) (fb : Option Nat) (scales : List Fibre → List Byte) :
    Unit → Fibre → List Fibre → State → TeamGo := fun u lead ms s =>
  let team := lead.fid / u.desc.team
  match u.crewTrap team d fb with
  | some t => .trap t
  | none =>
    if !(s.matrix u.core).room || !u.settledMM team then .wait
    else
      let t := u.team team
      let r : MxReq :=
        { num := s.seqCtr, unit := u.key, team := team, instr := i, rmode := lead.rmode, scales := scales ms
          crew := t.crew, ord := t.count + 1, since := s.clk }
      let s1 := (s.modMatrix u.core fun m => { m with latch := m.latch ++ [r] }).modUnit u.key fun u =>
        u.setTeam { t with count := t.count + 1 }
      .done ({ s1 with seqCtr := s.seqCtr + 1 }.next (.crewCatch u.core s.seqCtr))

/-- The registers that a scales operand names, by the team's width (R316). -/
def scaleRegs (w : Nat) (sc : Scales) : List Nat :=
  match sc with
  | .zero => []
  | .reg r => if w = 64 then [r.n.toNat, r.n.toNat + 1] else [r.n.toNat, r.n.toNat + 1, r.n.toNat + 2, r.n.toNat + 3]

/-- Whether a scales operand is misaligned for the team's width (R316). -/
def scaleBad (w : Nat) (sc : Scales) : Bool :=
  match sc with
  | .zero => false
  | .reg r => if w = 64 then r.n.toNat % 2 != 0 else w == 32 && r.n.toNat % 4 != 0

/-- The 64 B column scales and then the 64 A row scales of a team's request (R316). -/
def scalesOf (w : Nat) (k : BitVec 2) (sc : Scales) (ms : List Fibre) : List Byte :=
  let at' (tid reg : Nat) : Byte := match ms.find? fun f => f.fid % w == tid with
    | some f => wordByte (f.reg reg).val k.toNat
    | none => 0
  match sc with
  | .zero => List.replicate 128 0
  | .reg r =>
    let n := r.n.toNat
    if w = 64 then ((List.range 64).map fun j => at' j n) ++ (List.range 64).map fun j => at' j (n + 1)
    else ((List.range 64).map fun j => at' (j % 32) (n + j / 32)) ++ (List.range 64).map fun j => at' (j % 32) (n + 2 + j / 32)

/-- MMA (R308, R313, R316): a scales field that the team's width does not admit is found with the word (R45, R62). -/
def execMma (stall : BitVec 4) (t : MTy) (k : BitVec 2) (r : Option RM) (d : Tile) (fa : BitVec 1) (fb : BitVec 3)
    (sc : Scales) (s : State) : Host.Outcome State Fault Refusal :=
  let w := ((s.current?).map fun e => e.1.desc.team).getD 0
  let regs := scaleRegs w sc
  let last := match sc with
    | .reg r => if r.last then regs else []
    | .zero => []
  if scaleBad w sc then s.trapIllegal 7
  else
    let o : Op := { op0 (unpredCtl stall) with reads := regs.map fun n => .reg 3 n true false, last := last, ends := 3 }
    s.matrixIssue o true (crewGo (.mma stall t k r d fa fb sc) d (some fb.toNat) (scalesOf w k sc))

/-- ACMT (R319). -/
def execAcmt (stall : BitVec 4) (d : Tile) (s : State) : Host.Outcome State Fault Refusal :=
  s.matrixIssue { op0 (unpredCtl stall) with ends := 3 } false (crewGo (.acmt stall d) d none fun _ => [])

/-- AROLL (R321). -/
def execAroll (stall : BitVec 4) (d : Tile) (fa : BitVec 1) (fb : BitVec 3) (s : State) :
    Host.Outcome State Fault Refusal :=
  s.matrixIssue { op0 (unpredCtl stall) with ends := 3 } false
    (crewGo (.aroll stall d fa fb) d (some fb.toNat) fun _ => [])

/-- Whether two entries of the latch are the same instruction of a crew. -/
def MxReq.meets (r q : MxReq) : Bool := q.unit == r.unit && q.crew == r.crew && q.ord == r.ord

/-- How many entries of an entry's own team came before it with the same ordinal, after a repeated `CREW`. -/
def Matrix.turn (m : Matrix) (r : MxReq) : Nat :=
  m.latch.countP fun q => r.meets q && q.team == r.team && decide (q.num < r.num)

/-- The arrivals that meet an entry of the latch (R313): where a team repeats `CREW` with an arrival still there, the first
of each team meet, and then the second. DEDUCED: log 68. -/
def Matrix.group (m : Matrix) (r : MxReq) : List MxReq :=
  m.latch.filter fun q => r.meets q && m.turn q == m.turn r

/-- The ranks of a crew that have not arrived, ended teams aside. -/
def Unit.absent (u : Unit) (r : MxReq) (g : List MxReq) : List Nat :=
  (List.range r.crew.length).filter fun i =>
    let t := r.crew.getD i 0
    !(g.any fun q => q.team == t) && !(u.teamLive t).isEmpty

/-- Remove a group from the latch. -/
def Matrix.dropGroup (m : Matrix) (g : List MxReq) : Matrix :=
  { m with latch := m.latch.filter fun q => !(g.any fun x => x.num == q.num) }

/-- CREW_CATCH (R313): the operation is caught and queued, or its arrivals disagree. -/
def execCrewCatch (core entry : Nat) (s : State) : Host.Outcome State Fault Refusal :=
  let m := s.matrix core
  match m.latch.find? fun r => r.num == entry with
  | none => .next s
  | some r => match s.unit? r.unit with
    | none => .next s
    | some u =>
      let g := m.group r
      if !(u.absent r g).isEmpty || (g.any fun x => m.latch.any fun q => x.follows q) then .next s
      else
        let ranked := r.crew.filterMap fun t => g.find? fun q => q.team == t
        let s1 := s.modMatrix core fun m => m.dropGroup g
        if g.any fun q => crewForm q.instr != crewForm r.instr then
          let tile := match r.instr with
            | .mma _ _ _ _ d _ _ _ => d.toNat
            | .acmt _ d => d.toNat
            | .aroll _ d _ _ => d.toNat
            | _ => 0
          .next (g.foldl (fun s q => s.teamFault core q.unit q.team q.num (tileFmt 6 tile)) s1)
        else
          let o : MxOp :=
            { num := s.seqCtr, ord := r.ord, arrivals := ranked, unit := r.unit, instr := r.instr, crew := r.crew
              rmode := ((ranked.head?).map MxReq.rmode).getD 0
              scales := r.crew.mapIdx fun i t => match g.find? fun q => q.team == t with
                | some q => if i = 0 then q.scales else q.scales.take 64
                | none => []
              team := r.team, space := 0, adr := 0, creg := 0, opA := 0 }
          let after (p : MxOp) : Bool := g.any fun x => p.follows x
          let put (m : Matrix) : Matrix := { m with ops := (m.ops.filter fun p => !after p) ++ o :: m.ops.filter after }
          let s2 := { s1.modMatrix core put with seqCtr := s.seqCtr + 1 }
          let s3 := match r.instr with
            | .mma _ _ _ _ _ _ _ _ => s2.count core 0x000E 1
            | _ => s2
          .next (s3.mxRun core [] (s3.matrix core).ops)

/-- CATCH_TIMEOUT (R313): the arrived teams fault, and the operation counts for none of them. -/
def execCatchTimeout (core entry : Nat) (s : State) : Host.Outcome State Fault Refusal :=
  let m := s.matrix core
  match m.latch.find? fun r => r.num == entry with
  | none => .next s
  | some r => match s.unit? r.unit with
    | none => .next s
    | some u =>
      let g := m.group r
      let late := u.absent r g
      let first := g.foldl (fun a q => min a q.since) r.since
      if late.isEmpty || decide (s.clk < first + Config.stallBound) then .next s
      else
        let ranks := late.foldl (fun a i => a ||| (1#32 <<< i)) 0#32
        let arg := ranks ||| BitVec.ofNat 32 (256 * crewOp r.instr)
        let uncount (s : State) (q : MxReq) : State := s.modUnit q.unit fun u => u.setTeam { u.team q.team with
          count := (u.team q.team).count - 1 }
        let s1 := g.foldl uncount (s.modMatrix core fun m => m.dropGroup g)
        .next (g.foldl (fun s q => s.teamFault core q.unit q.team q.num (trapOf 0x50 arg)) s1)

/-! ### Drains on their way (R323 to R325) -/

/-- Whether the target unit has retired (R325). -/
def State.drainGone (s : State) (d : Drain) : Bool :=
  match s.launch? d.launch with
  | none => true
  | some l => l.ends.any fun e => e.no == d.target.1 * l.part.gang + d.target.2.1

/-- Remove a drain. -/
def State.dropDrain (s : State) (num : Nat) : State := { s with drains := s.drains.filter fun d => d.num != num }

/-- A contribution is refused: its sender's team faults (R325). -/
def State.refuseDrain (s : State) (d : Drain) (reason : Nat) : State :=
  let s1 := s.dropDrain d.num
  match s1.unit? d.sender with
  | some u => s1.teamFault u.core u.key d.team d.num (tileFmt reason d.target.2.2.1)
  | none =>
    (s1.logRec 4 0x51 (tileFmt reason d.target.2.2.1).arg d.team).failLaunch d.launch 0x51 (tileFmt reason d.target.2.2.1).arg

/-- The sum of a contribution (R324 line 002). -/
def drainSum (d : Drain) (t : TileState) : List Reg :=
  let r : Round := { rm := d.rm, ftz := d.ftz, daz := d.daz }
  (List.range 4096).map fun i =>
    let x := ((tget d.words i).getD Reg.zero).val
    fresh (if d.int then t.val i + x
      else BitVec.ofNat 32 (fadd .f32 r (fread .f32 r.daz (t.val i).toNat) (fread .f32 r.daz x.toNat)).1)

/-- Apply the next contribution of an open reduction (R324). DESIGN CHOICE: log 30. -/
def State.applyDrain (s : State) (u : Unit) (d : Drain) (n next : Nat) (bar : Word) : State :=
  let t := d.target.2.2.1
  let x := (s.matrix u.core).tile t
  let s1 := s.dropDrain d.num
  if x.bad then s1.orphan u (residue 2 t)
  else
    let s2 := (s1.noteTile u x).modMatrix u.core fun m => m.modTile t fun c => { c with
      words := tileWords (drainSum d c), red := if next + 1 = n then none else some (n, next + 1, bar) }
    let s3 := s2.commitTile u t true
    let off := bar.toNat / 8 * 8
    if bar == 0 || decide (u.desc.reach < off + 8) then s3
    else s3.countInto (keyScratch u.core (u.allocBase + off)) 1024

/-- The contributions waiting in a core's reduction buffer. -/
def State.bufferedAt (s : State) (core : Nat) : Nat :=
  s.drains.countP fun d => d.buffered && ((s.drainUnit d).map Unit.core) == some core

/-- DRAIN_ARRIVAL (R325): a contribution is applied, buffered, held at its sender, or refused. -/
def execDrainArrival (core drain : Nat) (s : State) : Host.Outcome State Fault Refusal :=
  match s.drains.find? fun d => d.num == drain with
  | none => .next s
  | some d =>
    if s.drainBehind d then .next s
    else match s.drainUnit d with
      | none => if s.drainGone d then .next (s.refuseDrain d 8) else .next s
      | some u =>
        if u.core != core then .next s
        else
          let (_, _, t, rank) := d.target
          let x := (s.matrix core).tile t
          let hold (s : State) : State :=
            if d.buffered then s
            else
              let room := decide (s.bufferedAt core < 2)
              { s with drains := updIf s.drains (fun q => q.num == drain) fun q =>
                  { q with buffered := room, held := !room } }
          match x.red with
          | none => .next (hold s)
          | some (n, next, bar) =>
            if fmtOf d.int != x.fmt then .next (s.refuseDrain d 1)
            else if decide (rank < next) || decide (n ≤ rank) then .next (s.refuseDrain d 8)
            else if rank = next then .next (s.applyDrain u d n next bar)
            else .next (hold s)

end Sys2Proof.Machine
end

