-- ==== Sys2Proof/Machine/Wire.lean ====
section
/-! DEFINITION. The wire engine and the PTP clock (spec 16 R335 to R355): steering and landing of received frames, the
transmit queues, timestamps, and the instructions 0xE0 to 0xE5. -/

namespace Sys2Proof.Machine

/-! ### State helpers -/

/-- Change the wire engine. -/
def State.modWire (s : State) (f : Wire → Wire) : State := { s with wire := f s.wire }
/-- Change a port. -/
def State.modPort (s : State) (p : Nat) (f : Port → Port) : State := s.modWire fun w => { w with ports := updAt w.ports p f }
/-- A port. -/
def State.port (s : State) (p : Nat) : Port := s.wire.ports.getD p Port.reset
/-- A ring's record, if it has been bound, reserved or has dropped frames. -/
def State.ring? (s : State) (r : Nat) : Option Ring := s.wire.rings.find? fun x => x.idx == r
/-- A ring with no binding. -/
def Ring.empty (r : Nat) : Ring :=
  { idx := r, unit := none, reserved := none, desc := 0, slots := [], nextSlot := 0, rseq := 0, drops := 0, landings := []
    unboundDrops := 0 }
/-- Change a ring, making its record where there is none. -/
def State.modRing (s : State) (r : Nat) (f : Ring → Ring) : State :=
  s.modWire fun w =>
    if w.rings.any fun x => x.idx == r then { w with rings := updIf w.rings (fun x => x.idx == r) f }
    else { w with rings := w.rings ++ [f (Ring.empty r)] }

/-! ### Ring descriptors (R338) -/

/-- The offset of the barrier object. -/
def ringBar (d : DWord) : Nat := 8 * (d.extractLsb' 46 18).toNat
/-- BARMODE. -/
def ringMode (d : DWord) : Nat := (d.extractLsb' 44 2).toNat
/-- OVTRAP. -/
def ringTrap (d : DWord) : Bool := d.getLsbD 43
/-- The number of slots. -/
def ringSlots (d : DWord) : Nat := 2 ^ (d.extractLsb' 36 4).toNat
/-- The size of a slot. -/
def ringSlotBytes (d : DWord) : Nat := 2 ^ (d.extractLsb' 32 4).toNat
/-- The offset of slot 0. -/
def ringBase (d : DWord) : Nat := (d.extractLsb' 0 32).toNat

/-! ### Frames (R336, R337) -/

/-- A 16-bit big-endian field of a frame. -/
def be16 (f : List Byte) (i : Nat) : Nat := 256 * (f.getD i 0).toNat + (f.getD (i + 1) 0).toNat

/-- A big-endian field of `n` bytes. -/
def beNat (f : List Byte) (i n : Nat) : Nat := natOfBytes ((f.drop i).take n).reverse

/-- A UDP datagram found in a frame: version, addresses, and the offset of its UDP header. -/
structure Udp where
  v6 : Bool
  src : BitVec 128
  dst : BitVec 128
  udp : Nat
  ip : Nat
  deriving DecidableEq, Repr, Inhabited

/-- What a frame's IP header says: a fragment, a UDP datagram, or something else. -/
inductive IpKind where
  | fragment
  | udp (u : Udp)
  | other
  deriving DecidableEq, Repr

/-- Whether a frame carries an 802.1Q tag. -/
def hasTag (f : List Byte) : Bool := be16 f 12 == 0x8100
/-- The offset of what follows the Ethertype. -/
def l3 (f : List Byte) : Nat := if hasTag f then 18 else 14
/-- The Ethertype. -/
def ethertype (f : List Byte) : Nat := be16 f (l3 f - 2)

/-- The IPv6 extension headers whose length byte counts units of 8 bytes beyond the first: hop-by-hop, routing, destination,
mobility, host identity, shim and the two for experiments. PRESUMED: log 75. -/
def v6Extension (next : Nat) : Bool := [0, 43, 60, 135, 139, 140, 253, 254].contains next

/-- Walk the extension headers of an IPv6 frame, however many the frame holds: `n` bytes are left. An authentication header
(51) counts its length in units of 4 bytes beyond the first two. PRESUMED: log 75. -/
def walkV6 (f : List Byte) (src dst : BitVec 128) (ip : Nat) : Nat → Nat → Nat → IpKind
  | 0, _, _ => .other
  | n + 1, next, at' =>
    if next = 44 then .fragment
    else if next = 17 then .udp { v6 := true, src := src, dst := dst, udp := at', ip := ip }
    else if v6Extension next then
      walkV6 f src dst ip n (f.getD at' 0).toNat (at' + 8 + 8 * (f.getD (at' + 1) 0).toNat)
    else if next = 51 then walkV6 f src dst ip n (f.getD at' 0).toNat (at' + 8 + 4 * (f.getD (at' + 1) 0).toNat)
    else .other

/-- The IP header of a frame. -/
def ipKind (f : List Byte) : IpKind :=
  let o := l3 f
  if ethertype f = 0x0800 then
    let frag := be16 f (o + 6)
    if frag / 8192 % 2 = 1 || frag % 8192 != 0 then .fragment
    else if f.getD (o + 9) 0 == 17 then
      .udp { v6 := false, src := BitVec.ofNat 128 (beNat f (o + 12) 4), dst := BitVec.ofNat 128 (beNat f (o + 16) 4)
             udp := o + 4 * ((f.getD o 0).toNat % 16), ip := o }
    else .other
  else if ethertype f = 0x86DD then
    walkV6 f (BitVec.ofNat 128 (beNat f (o + 8) 16)) (BitVec.ofNat 128 (beNat f (o + 24) 16)) o
      f.length (f.getD (o + 6) 0).toNat (o + 40)
  else .other

/-- Whether an address lies in a prefix. -/
def inPrefix (v6 : Bool) (a pfx : BitVec 128) (len : Nat) : Bool :=
  let w := if v6 then 128 else 32
  let k := w - min len w
  a >>> k == pfx >>> k

/-- Whether an optional port number matches. -/
def portMatch (o : Option (BitVec 16)) (n : Nat) : Bool :=
  match o with
  | none => true
  | some p => p.toNat == n

/-- Whether a flow-table entry matches a datagram received on a port (R337). -/
def Flow.hits (e : Flow) (port : Nat) (f : List Byte) (u : Udp) : Bool :=
  e.valid && e.ports.getLsbD port && e.ipv6 == u.v6 && inPrefix u.v6 u.dst e.daddr e.dplen &&
    inPrefix u.v6 u.src e.saddr e.splen && portMatch e.dport (be16 f (u.udp + 2)) && portMatch e.sport (be16 f u.udp)

/-- The first entry, by index, that matches; a datagram whose UDP length is below 8 matches none (R336, R339). -/
def State.flowFor (s : State) (port : Nat) (f : List Byte) (u : Udp) : Option Flow :=
  if be16 f (u.udp + 4) < 8 then none
  else (s.wire.flows.filter fun e => e.hits port f u).foldl (fun (b : Option Flow) e => match b with
    | none => some e
    | some x => if e.idx < x.idx then some e else some x) none

/-- Whether a frame is a PTP message (R336). -/
def isPtp (f : List Byte) : Bool :=
  ethertype f == 0x88F7 || (match ipKind f with
    | .udp u => (be16 f (u.udp + 2) == 319 || be16 f (u.udp + 2) == 320) && decide (8 ≤ be16 f (u.udp + 4))
    | _ => false)

/-- Whether a frame is a MAC control PAUSE frame (R335). -/
def isPause (f : List Byte) : Bool := be16 f 12 == 0x8808 && be16 f 14 == 1

/-! ### Landing (R339 to R342) -/

/-- The bytes to land of a frame under an entry, and how many the frame's length fields promise (R339). -/
def landBytes (e : Flow) (f : List Byte) (u : Udp) : List Byte × Nat :=
  if e.payload then
    let n := be16 f (u.udp + 4) - 8
    ((f.drop (u.udp + 8)).take n, n)
  else (f, f.length)

/-- The header of a landing (R340). -/
def landHeader (rseq : Nat) (vlan trunc bad : Bool) (port flow dlen len : Nat) (ts : BitVec 96) : List Byte :=
  let flags := port + (if bad then 2 else 0) + (if trunc then 4 else 0) + (if vlan then 8 else 0)
  bytesOfNat 12 ts.toNat ++ bytesOfNat 2 len ++ bytesOfNat 2 dlen ++ bytesOfNat 2 flow ++ bytesOfNat 2 flags ++
    bytesOfNat 4 rseq ++ List.replicate 8 0

/-- Count a frame dropped for want of a free slot (R341). -/
def Ring.drop (r : Ring) : Ring := { r with drops := min 65535 (r.drops + 1) }

/-- Steer a frame into a ring (R339, R341). -/
def State.steer (s : State) (port : Nat) (f : List Byte) (bad : Bool) (e : Flow) (u : Udp) : State :=
  match s.ring? e.ring with
  | none => s.modRing e.ring fun r => { r with unboundDrops := r.unboundDrops + 1 }
  | some r =>
    if r.unit.isNone then s.modRing e.ring fun r => { r with unboundDrops := r.unboundDrops + 1 }
    else if r.slots.getD r.nextSlot .landed != .free || r.landings.any (fun l => l.slot == r.nextSlot) then
      s.modRing e.ring Ring.drop
    else
      let (ts, s1) := s.stampNow
      let (data, want) := landBytes e f u
      let dlen := min data.length (ringSlotBytes r.desc - 32)
      let hdr := landHeader (r.rseq + 1) (hasTag f) (decide (dlen < want)) bad port e.idx dlen f.length ts
      let body := data.take dlen ++ List.replicate ((4 - dlen % 4) % 4) 0
      s1.modRing e.ring fun r => { r with
        rseq := r.rseq + 1, nextSlot := (r.nextSlot + 1) % ringSlots r.desc
        landings := r.landings ++ [{ slot := r.nextSlot, bytes := hdr ++ body, dlen := dlen, since := s.clk }] }

/-- Count a frame dropped at a port. -/
def State.dropFrame (s : State) (port : Nat) : State := s.modPort port fun p => { p with drops := p.drops + 1 }

/-- FRAME_RECEIVE (R335, R336): the frame is given without its preamble and FCS. -/
def execFrameReceive (port : Nat) (frame : List Byte) (fcsBad : Bool) (s : State) : Host.Outcome State Fault Refusal :=
  let len := frame.length + 4
  let hit : Option (Flow × Udp) := match ipKind frame with
    | .udp u => (s.flowFor port frame u).map fun e => (e, u)
    | _ => none
  if !(s.port port).up then .next s
  else if decide (len < 64) || decide (9216 < len) then .next (s.dropFrame port)
  else if fcsBad && !((hit.map fun h => h.1.keepBad).getD false) then .next (s.dropFrame port)
  else if isPause frame then .next (s.modPort port fun p => { p with pauses := p.pauses + 1 })
  else if ipKind frame == .fragment then .next (s.dropFrame port)
  else match hit with
    | some (e, u) => .next (s.steer port frame fcsBad e u)
    | none =>
      if isPtp frame then .next ((s.modPort port fun p => { p with ptp := p.ptp + 1 }).logRec 6 0 0 port)
      else .next (s.dropFrame port)

/-- FRAME_LANDING (R339): the oldest landing of a ring is written, its slot is takeable, and it is counted. A fibre that has
not observed the count may see each granule old or new (R14). -/
def execFrameLanding (ring : Nat) (s : State) : Host.Outcome State Fault Refusal :=
  match s.ring? ring with
  | none => .next s
  | some r => match r.landings, r.unit.bind s.unit? with
    | l :: rest, some u =>
      let key (o : Nat) : Nat := keyScratch u.core (u.allocBase + o)
      let at' := key (ringBase r.desc + l.slot * ringSlotBytes r.desc)
      let s1 := { s with mem := s.mem.setWords at' (wordsOfBytes l.bytes) }.lagWrite s.mem u.core false
        ((List.range (l.bytes.length / 4)).map fun i => at' + 4 * i)
      let s2 := s1.modRing ring fun r => { r with landings := rest, slots := updAt r.slots l.slot fun _ => .landed }
      .next (match ringMode r.desc with
        | 1 => s2.countInto (key (ringBar r.desc)) ((32 + l.dlen + 15) / 16)
        | 2 => s2.countInto (key (ringBar r.desc)) 1
        | _ => s2)
    | _, _ => .next s

/-- RELEASED slots become FREE once every earlier slot in ring order has been released (R342): `n` slots from the oldest
one in use. -/
def freeSlots (slots : List SlotState) (at' : Nat) : Nat → List SlotState
  | 0 => slots
  | n + 1 =>
    match slots[at' % slots.length]? with
    | some .released => freeSlots (updAt slots (at' % slots.length) fun _ => .free) (at' + 1) n
    | some .free => freeSlots slots (at' + 1) n
    | _ => slots

/-- The oldest slot of a ring that is in a state, in ring order from the next slot to land. -/
def Ring.oldest? (r : Ring) (st : SlotState) : Option Nat :=
  let n := r.slots.length
  ((List.range n).map fun i => (r.nextSlot + i) % n).find? fun k => r.slots[k]? == some st

/-! ### Transmission (R344, R345) -/

/-- The CRC-32 of IEEE 802.3. -/
def crc32 (bs : List Byte) : Word :=
  ~~~(bs.foldl (fun (c : Word) b =>
    (List.range 8).foldl (fun (c : Word) _ => if c.getLsbD 0 then (c >>> 1) ^^^ 0xEDB88320 else c >>> 1)
      (c ^^^ b.setWidth 32)) 0xFFFFFFFF)

/-- Bytes of a frame replaced from a position. -/
def putBytes (f : List Byte) (i : Nat) (bs : List Byte) : List Byte := f.take i ++ bs ++ f.drop (i + bs.length)

/-- A sum of 16-bit big-endian words. -/
def sum16 : List Byte → Nat
  | [] => 0
  | [b] => 256 * b.toNat
  | a :: b :: rest => 256 * a.toNat + b.toNat + sum16 rest

/-- The checksum work of a one-step frame (R345): an IPv4 checksum is cleared; for IPv6 the last two bytes of the UDP
payload keep the sum of the datagram what it was. -/
def fixChecksum (old new : List Byte) : List Byte :=
  match ipKind new with
  | .udp u =>
    if !u.v6 then putBytes new (u.udp + 6) [0, 0]
    else
      let n := be16 new (u.udp + 4)
      let last := u.udp + n - 2
      let seg (f : List Byte) : Nat := sum16 ((f.drop u.udp).take n) % 65535
      let blank := putBytes new last [0, 0]
      let d := (seg old + 65535 - seg blank) % 65535
      let x := if n % 2 = 0 then d else d % 256 * 256 + d / 256
      putBytes new last [BitVec.ofNat 8 (x / 256), BitVec.ofNat 8 x]
  | _ => new

/-- A frame with its transmit timestamp written in (R345). -/
def oneStep (f : List Byte) (h : Nat) (ts : BitVec 96) : List Byte :=
  let secs := (bytesOfNat 6 (ts.extractLsb' 48 48).toNat).reverse
  let ns := (bytesOfNat 4 (ts.extractLsb' 16 32).toNat).reverse
  let corr := (beNat f (h + 8) 8 + (ts.extractLsb' 0 16).toNat) % 2 ^ 64
  fixChecksum f (putBytes (putBytes f (h + 34) (secs ++ ns)) (h + 8) (bytesOfNat 8 corr).reverse)

/-- A frame as it leaves: padded to 60 bytes, with its FCS, inverted where `bad` (R344). -/
def onWire (f : List Byte) (bad : Bool) : List Byte :=
  let p := f ++ List.replicate (60 - f.length) 0
  let c := crc32 p
  p ++ bytesOfNat 4 (if bad then ~~~c else c).toNat

/-- TXFAULT with a reason and a port (R355). -/
def txFault (reason port : Nat) : TrapInfo := trapOf 0x61 (BitVec.ofNat 32 (reason + 256 * port))

/-- A fault of a post: on its fibre, or where it has ended beyond the core (R352, R355). -/
def State.postFault (s : State) (p : Post) (t : TrapInfo) : State :=
  match s.unit? p.unit with
  | some u => s.engineFault u (some { fid := p.fid, pc := p.pc, made := p.made }) .wire t
  | none => s.logRec 4 t.cause t.arg p.unit

/-- What a port keeps of a post changes. -/
def State.modPostRec (s : State) (port num : Nat) (f : PostRec → PostRec) : State :=
  s.modPort port fun p => { p with hist := updIf p.hist (fun r => r.num == num) f }

/-- A post leaves its port's queue with its scoreboard entry; its fibre's ordered accesses that wait for the reading of the
frame look again (R350). -/
def State.leaveQueue (s : State) (port : Nat) (p : Post) : State :=
  let s1 := s.modPort port fun x => { x with posts := x.posts.filter fun q => q.num != p.num }
  match s1.unit? p.unit with
  | some u => (s1.freeRanges u.core p.sb).modFibre u.key p.fid fun f => if f.wait == some .fence then f.wakeReq else f
  | none => s1

/-- The fibres that wait for a post's timestamp look again. -/
def State.wakeStamp (s : State) (p : Post) : State := s.wakeWhere fun u w => !s.detOf u && w == .tsrec p.tag

/-- The bytes of a post read from its scratchpad, after correction. -/
def State.postBytes (s : State) (p : Post) : List Byte := s.mem.goodBytes p.key p.len

/-- The core of a post's unit. -/
def State.postCore (s : State) (p : Post) : Nat := ((s.unit? p.unit).map Unit.core).getD Config.cores

/-- The cycles that the bits of a frame take on the wire at 800 Gb/s (R335, R349). -/
def serialTime (bytes : Nat) : Nat := (17 * bytes + 999) / 1000

/-- The head post of a port is read (R344): single bits are corrected, counted and logged (R195); an uncorrectable word is
reported; a one-step frame takes its timestamp as it begins (R345). -/
def State.readPost (s : State) (port : Nat) (p : Post) : State :=
  let bad := s.mem.badWord p.key p.len
  let (ts, s0) := s.stampNow
  let f := s.postBytes p
  let out : Sending :=
    { post := p, bytes := onWire (if p.mode = 2 then oneStep f p.h ts else f) bad.isSome, bad := bad.isSome, ts := ts }
  let s1 := (s0.noteRange s.mem (s.postCore p) p.key p.len).modPort port fun x => { x with
    sending := some out, freeAt := s.clk + serialTime out.bytes.length }
  let s2 := (s1.modPostRec port p.num fun r => { r with state := 2 }).leaveQueue port p
  match bad with
  | some k => s2.postFault p (checkFail 1 (p.off + (k - p.key)))
  | none => s2

/-- A frame has been sent (R344, R353): its timestamp is recorded, unless the post failed. -/
def State.sentPost (s : State) (port : Nat) (x : Sending) : State :=
  let s1 := s.modPort port fun p => { p with
    sending := none, sent := x.bytes, sentCount := p.sentCount + 1, freeAt := s.clk }
  (s1.modPostRec port x.post.num fun r => { r with
    state := 0, fail := x.bad, ts := if x.post.mode = 0 || x.bad then none else some x.ts }).wakeStamp x.post

/-- FRAME_TRANSMIT (R344, R345): the frame that is being sent has been sent; else the head post is read and its sending
begins, or it is dropped where the link is down. -/
def execFrameTransmit (port : Nat) (s : State) : Host.Outcome State Fault Refusal :=
  match (s.port port).sending, (s.port port).posts with
  | some x, _ => .next (s.sentPost port x)
  | none, [] => .next s
  | none, p :: _ =>
    let fail (r : PostRec) : PostRec := { r with state := 0, fail := true, reason := 1 }
    if !(s.port port).up then
      .next ((((s.modPostRec port p.num fail).leaveQueue port p).wakeStamp p).postFault p (txFault 1 port))
    else if !(((s.unit? p.unit).map fun u => u.ownDone (some p.fid) p.sb).getD true) then .next s
    else .next (s.readPost port p)

/-! ### Time (R347) -/

/-- Firmware core 6 disciplines the clock in frequency from its source (R347): by how much is the source's, and never so that
the time decreases. DESIGN CHOICE: log 76. -/
def State.discipline (s : State) : State :=
  let (n, s1) := s.draw
  s1.modWire fun w => { w with rate := Config.clockRate w.clockSource n }

/-- PPS_OUTPUT_SECOND: the output rises at a whole second and is held high for 100 ms of clock time; the clock is disciplined
anew. -/
def execPpsOutputSecond (s : State) : Host.Outcome State Fault Refusal :=
  .next (s.modWire fun w => { w with ppsOut := w.ppsOut + 1, ppsLeft := 100000 * Config.usec }).discipline

/-- The level of the 1PPS output. -/
def Wire.ppsHigh (w : Wire) : Bool := w.ppsLeft != 0

/-- The clock goes on by an interval of device time (R346, R347): at the rate that its source gives it. It reads 0 until the host
sets it (R450). DESIGN CHOICE: log 76. -/
def Wire.goOn (w : Wire) (dt : Nat) : Wire :=
  let n := dt * w.rate + w.rateRem
  if w.steps = 0 then w
  else { w with
    ptp := ptpShift w.ptp (n / 2 ^ 32) 0, rateRem := n % 2 ^ 32, ppsLeft := w.ppsLeft - n / 2 ^ 32 }

/-- PPS_INPUT_EDGE: the rising edge is timestamped and kept. -/
def execPpsInputEdge (s : State) : Host.Outcome State Fault Refusal :=
  let (ts, s1) := s.stampNow
  .next (s1.modWire fun w => { w with ppsEdge := some ts })

/-! ### The instructions (R352 to R354) -/

/-- The form of a wire instruction. -/
def opWire (c : Ctl) (reads : List Rd) (last regs : List Nat) : Op :=
  { op0 c with reads := reads, last := last, regs := regs, ends := 3, takes := [.wire], front := true }

/-- RINGFULL with a reason and the low bits of a ring (R355). -/
def ringFull (reason ring extra : Nat) : TrapInfo :=
  trapOf 0x60 (BitVec.ofNat 32 (reason + 256 * (ring % 256) + 65536 * extra))

/-- The ring that a unit may use (R353). -/
def State.ringOf (s : State) (u : Unit) (r : Nat) : Option Ring :=
  if r < 256 then (s.ring? r).bind fun x => if x.unit == some u.key then some x else none else none

/-- RXTAKE (R341, R353): an overflow trap clears the count and takes nothing. -/
def execRxtake (c : Ctl) (d : VReg) (r : Src) (s : State) : Host.Outcome State Fault Refusal :=
  s.issue (opWire c (r.reads 1 false true) (r.lastRegs false) (dstRegs d 2)) fun x s =>
    let n := (x.f.src32 r).toNat
    let put (s : State) (a b : Word) : Fx := .done (s.modCur fun f => f.pendRegs (x.f.slotOf d.toNat) [fresh a, fresh b])
    if x.f.outst.any fun q => q.cls == .rel || q.cls == .ba then .wait s .fence
    else match s.ringOf x.u n with
    | none => .trap (ringFull 3 n 0)
    | some g =>
      if ringTrap g.desc && g.drops != 0 then
        .trapKeep (s.modRing n fun g => { g with drops := 0 }) x.f (ringFull 1 n g.drops)
      else match g.oldest? .landed with
        | none => put s 0xFFFFFFFF 0
        | some k =>
          let off := ringBase g.desc + k * ringSlotBytes g.desc
          let rseq := s.mem.good (keyScratch x.u.core (x.u.allocBase + off + 20))
          put (s.modRing n fun g => { g with slots := updAt g.slots k fun _ => .taken }) (BitVec.ofNat 32 off) rseq

/-- RXREL (R342, R353). -/
def execRxrel (c : Ctl) (r o : Src) (s : State) : Host.Outcome State Fault Refusal :=
  s.issue (opWire c (r.reads 1 false true ++ o.reads 2 false true) (r.lastRegs false ++ o.lastRegs false) []) fun x s =>
    let n := (x.f.src32 r).toNat
    if !x.f.storesDone || s.unreadPosts x.u x.f then .wait s .fence
    else match s.ringOf x.u n with
    | none => .trap (ringFull 3 n 0)
    | some g =>
      let off := (x.f.src32 o).toNat
      let size := ringSlotBytes g.desc
      let k := (off - ringBase g.desc) / size
      if off < ringBase g.desc || (off - ringBase g.desc) % size != 0 || g.slots[k]? != some .taken then
        .done (s.engineFault x.u (some x.asker) .wire (ringFull 2 n 0))
      else .done (s.modRing n fun g =>
        let slots := updAt g.slots k fun _ => .released
        { g with slots := freeSlots slots g.nextSlot slots.length })

/-- A post's scratchpad range (R13). -/
def postRange (key len who : Nat) : RangeEntry := { lo := key, hi := key + len, write := false, who := who }

/-- TXPOST at a mode (R354). -/
def doTxpost (i : Instr) (mode h : Nat) (c : Ctl) (d : VReg) (a : CSrc) (b : Option RSrc) (w : Src) (s : State) :
    Host.Outcome State Fault Refusal :=
  let idx : List Rd := match b with | some r => [.reg 2 r.n.toNat true false] | none => []
  let o := opWire c (.cap 1 a.n true :: idx ++ w.reads 3 false true)
    ((match b with | some r => r.lastRegs 1 | none => []) ++ w.lastRegs false) (dstRegs d 1)
  s.issue o fun x s =>
    let v := x.f.src32 w
    let len := (v.extractLsb' 0 14).toNat
    let port := (v.extractLsb' 16 1).toNat
    let off := match b with | some r => (x.f.reg r.n.toNat).val.toInt | none => 0
    if v.extractLsb' 17 15 != 0 || v.extractLsb' 14 2 != 0 || decide (len < 14) || decide (9212 < len) then
      .trap (trapOf 0x61 3)
    else if mode = 2 && decide (len < h + 44) then .trap (trapOf 0x61 4)
    else match s.access x.u (x.f.cap a.n) a.n off len 4 permR with
      | .error t => .trap t
      | .ok adr =>
        let sp := (x.f.cap a.n).space
        if !(sp == 1 || (sp == 2 && adr / 2097152 == x.u.idx && (adr + len - 1) / 2097152 == x.u.idx)) then .trap (trapOf 0x22 (a.n.setWidth 32))
        else
          let own := if sp == 1 then adr else adr % 2097152
          let key := keyScratch x.u.core (x.u.allocBase + own)
          let p := s.port port
          let board := ((s.core? x.u.core).map fun c => c.scoreboard.length).getD 0
          if x.f.outst.any fun q => q.cls == .rel || q.cls == .ba then .wait s .fence
          else if s.rangeBusy x.u.core key len false then .wait s .scoreboard
          else if decide (Config.portPosts ≤ p.posts.length + p.sending.toList.length) || decide (Config.scoreboardEntries ≤ board) then
            .wait { s with seqCtr := s.seqCtr + 1 } (.accept i s.seqCtr)
          else
            let n := p.postNo + 1
            let tag : Word := BitVec.ofNat 32 (port * 2 ^ 30 + n % 2 ^ 30)
            let post : Post :=
              { num := n, tag := tag, unit := x.u.key, fid := x.f.fid, key := key, off := own, len := len, mode := mode
                h := h, sb := s.seqCtr, pc := x.f.pc, made := s.clk }
            let rec' : PostRec := { num := n, state := 1, fail := false, reason := 0, mode := mode, ts := none }
            let s1 := s.modPort port fun p => { p with
              posts := p.posts ++ [post], postNo := n
              hist := (p.hist ++ [rec']).drop (p.hist.length + 1 - Config.portPosts) }
            let s2 := s1.modCore x.u.core fun c => { c with scoreboard := c.scoreboard ++ [postRange key len s.seqCtr] }
            .done (({ s2 with seqCtr := s.seqCtr + 1 }).modCur fun f => f.pendRegs (x.f.slotOf d.toNat) [fresh tag])

/-- TXPOST (R354). -/
def execTxpost (c : Ctl) (d : VReg) (a : CSrc) (b : Option RSrc) (w : Src) (s : State) : Host.Outcome State Fault Refusal :=
  doTxpost (.txpost c d a b w) 0 0 c d a b w s

/-- TXPOST.ts2 (R354). -/
def execTxpostTs2 (c : Ctl) (d : VReg) (a : CSrc) (b : Option RSrc) (w : Src) (s : State) :
    Host.Outcome State Fault Refusal :=
  doTxpost (.txpostTs2 c d a b w) 1 0 c d a b w s

/-- TXPOST.ts1 (R354). -/
def execTxpostTs1 (c : Ctl) (d : VReg) (a : CSrc) (b : Option RSrc) (w : Src) (h : BitVec 14) (s : State) :
    Host.Outcome State Fault Refusal :=
  doTxpost (.txpostTs1 c d a b w h) 2 h.toNat c d a b w s

/-- The port that a tag names. -/
def tagPort (tag : Word) : Nat := (tag.extractLsb' 30 2).toNat

/-- The post that a tag names among a port's last 256. -/
def State.postRec? (s : State) (tag : Word) : Option PostRec :=
  if tagPort tag < 2 then (s.port (tagPort tag)).hist.find? fun r => r.num % 2 ^ 30 == (tag.extractLsb' 0 30).toNat else none

/-- The state word of a post (R353). -/
def txState (r : Option PostRec) : Word :=
  match r with
  | none => 3
  | some r => BitVec.ofNat 32 (r.state + (if r.ts.isSome then 4 else 0) + (if r.fail then 8 else 0) + 256 * r.reason)

/-- TXSTAT (R353). -/
def execTxstat (c : Ctl) (d : VReg) (a : Src) (s : State) : Host.Outcome State Fault Refusal :=
  s.issue (opWire c (a.reads 1 false true) (a.lastRegs false) (dstRegs d 1)) fun x s =>
    .done (s.modCur fun f => f.pendRegs (x.f.slotOf d.toNat) [fresh (txState (s.postRec? (x.f.src32 a)))])

/-- PTPRD (R353). -/
def execPtprd (c : Ctl) (d : VReg) (s : State) : Host.Outcome State Fault Refusal :=
  s.issue (opWire c [] [] (dstRegs d 3)) fun x s =>
    .done (s.modCur fun f => f.pendRegs (x.f.slotOf d.toNat) (regs96 s.wire.ptp))

/-- TSREC (R353). -/
def execTsrec (c : Ctl) (d : VReg) (a : Src) (s : State) : Host.Outcome State Fault Refusal :=
  s.issue { opWire c (a.reads 1 false true) (a.lastRegs false) (dstRegs d 3) with ends := 5 } fun x s =>
    let tag := x.f.src32 a
    let put (t : Option (BitVec 96)) : Fx :=
      .done (s.modCur fun f => f.pendRegs (x.f.slotOf d.toNat) (regs96 (t.getD (BitVec.allOnes 96))))
    if tagPort tag = 3 then put s.wire.ppsEdge
    else match s.postRec? tag with
      | none => put none
      | some r => if r.state != 0 && r.mode != 0 then .wait s (.tsrec tag) else put r.ts

end Sys2Proof.Machine
end

