-- ==== Sys2Proof/Machine/Front.lean ====
section
/-! DEFINITION. What the front end shares (spec 17 R356 to R371, R377 to R380): queues, host rings and vectors, memory
named by a command, copies, records, levels and the settlement of launches. -/

namespace Sys2Proof.Machine

/-! ### State helpers -/

/-- Change the front end. -/
def State.modFe (s : State) (f : FrontEnd → FrontEnd) : State := { s with fe := f s.fe }

/-- A queue with every register 0 (R356). -/
def Queue.empty (q : Nat) : Queue :=
  { idx := q, base := 0, ctl := 0, kick := 0, ridx := 0, recBase := 0, err := 0, per := 0, bud := 0, dl := 0, rcores := 0
    ovcnt := 0, period := 0, periodEnd := 0, budget := 0, overrun := false }
/-- A queue. -/
def State.queue (s : State) (q : Nat) : Queue := (s.fe.queues.find? fun x => x.idx == q).getD (Queue.empty q)
/-- Change a queue, making its record where there is none. -/
def State.modQueue (s : State) (q : Nat) (f : Queue → Queue) : State :=
  s.modFe fun e =>
    if e.queues.any fun x => x.idx == q then { e with queues := updIf e.queues (fun x => x.idx == q) f }
    else { e with queues := e.queues ++ [f (Queue.empty q)] }

/-- QCTL.EN. -/
def Queue.en (q : Queue) : Bool := q.ctl.getLsbD 31
/-- QCTL.SYS. -/
def Queue.sys (q : Queue) : Bool := q.ctl.getLsbD 30
/-- QCTL.SIZE. -/
def Queue.size (q : Queue) : Nat := (q.ctl.extractLsb' 24 5).toNat
/-- QCTL.CTX. -/
def Queue.ctx (q : Queue) : Nat := (q.ctl.extractLsb' 20 4).toNat
/-- QCTL.FUNC. -/
def Queue.func (q : Queue) : Nat := (q.ctl.extractLsb' 8 8).toNat
/-- QCTL.VEC. -/
def Queue.vec (q : Queue) : Nat := (q.ctl.extractLsb' 0 6).toNat
/-- Whether a queue has deadlines (R389). -/
def Queue.timed (q : Queue) : Bool := q.per != 0
/-- A queue's default relative deadline in units of 2^-16 ns (R389). -/
def Queue.defaultDl (q : Queue) : Nat := (if q.dl = 0 then q.per else q.dl) * Config.usec

/-- A graph instance. -/
def State.graph? (s : State) (g : Nat) : Option Graph := s.fe.graphs.find? fun x => x.inst == g
/-- Change a graph instance. -/
def State.modGraph (s : State) (g : Nat) (f : Graph → Graph) : State :=
  s.modFe fun e => { e with graphs := updIf e.graphs (fun x => x.inst == g) f }

/-! ### Vectors (R379, R380) -/

/-- A vector at reset (R379); it is masked until the host unmasks it, as PCIe has it.
PRESUMED: log 11. -/
def Vec.empty (func k : Nat) : Vec :=
  { func := func, idx := k, time := 0, cnt := 1, pendingN := 0, oldest := 0, masked := true, pbit := false, sent := 0 }
/-- A vector. -/
def State.vec (s : State) (func k : Nat) : Vec :=
  (s.fe.vecs.find? fun v => v.func == func && v.idx == k).getD (Vec.empty func k)
/-- Change a vector, making its record where there is none. -/
def State.modVec (s : State) (func k : Nat) (f : Vec → Vec) : State :=
  s.modFe fun e =>
    if e.vecs.any fun v => v.func == func && v.idx == k then
      { e with vecs := updIf e.vecs (fun v => v.func == func && v.idx == k) f }
    else { e with vecs := e.vecs ++ [f (Vec.empty func k)] }

/-- Send a vector's message, or set its pending bit where it is masked (R380). -/
def Vec.fire (v : Vec) : Vec :=
  if v.masked then { v with pbit := true } else { v with pendingN := 0, pbit := false, sent := v.sent + 1 }

/-- Whether TIME has passed since the oldest pending event (R380). -/
def Vec.timeDue (v : Vec) (now : Nat) : Bool :=
  v.time != 0 && v.pendingN != 0 && decide (v.oldest + v.time * Config.usec ≤ now)

/-- Send the message if the pending count has reached CNT (R380). DESIGN CHOICE: log 35. -/
def Vec.check (v : Vec) : Vec := if v.cnt ≤ v.pendingN then v.fire else v

/-- One event on a vector (R380). -/
def State.raiseEvent (s : State) (func k : Nat) : State :=
  s.modVec func k fun v =>
    ({ v with pendingN := v.pendingN + 1, oldest := if v.pendingN = 0 then s.time else v.oldest }).check

/-! ### Memory that a command names (R356, R363, R366) -/

/-- The key of a byte that bit 63 places at a PCIe address or in space 0 of a context (R363). -/
def State.extKey (s : State) (ctx a : Nat) (need : BitVec 3) : Option Nat :=
  if 2 ^ 63 ≤ a then some (keyHost (a % 2 ^ 63)) else s.vaKey ctx a need

/-- The address that a base with LOC in bit 0 names (R356), in the form of R363. -/
def locAddr (base : DWord) (mask off : Nat) : Nat :=
  (if base.getLsbD 0 then 0 else 2 ^ 63) + (base.toNat / mask * mask + off) % 2 ^ 63

/-- Why bytes that a command names cannot be used. -/
inductive ExtFail where
  | page (a : Nat)
  | lost (a : Nat)
  | poison (a : Nat)
  deriving DecidableEq, Repr, Inhabited

/-- The key of one byte, and what stops its use; a whole line written ends its poison. DESIGN CHOICE: log 70. -/
def State.extByte (s : State) (ctx a : Nat) (need : BitVec 3) : Except ExtFail Nat :=
  match s.extKey ctx a need with
  | none => .error (.page a)
  | some k =>
    if tokenKey k && s.gone (k / 64) then .error (.lost a)
    else if tokenKey k && (s.line (k / 64)).poisoned && need == rightR then .error (.poison a)
    else .ok k

/-- The keys of `n` bytes. -/
def State.extKeys (s : State) (ctx a n : Nat) (need : BitVec 3) : Except ExtFail (List Nat) :=
  (List.range n).mapM fun i => s.extByte ctx (a + i) need

/-- Read `n` bytes, corrected; none where one cannot be read. -/
def State.extRead (s : State) (ctx a n : Nat) : Option (List Byte) :=
  match s.extKeys ctx a n rightR with
  | .error _ => none
  | .ok ks =>
    if ks.any fun k => (checkWord (s.mem.word (wordKey k))).isNone then none
    else some (ks.map fun k => wordByte (s.mem.good (wordKey k)) (k % 4))

/-- The lines of spaces 0 and 5 among keys. -/
def keyLines (ks : List Nat) : List Nat :=
  (ks.filter tokenKey).foldl (fun l k => insNat l (k / 64)) []

/-- Count and log what a read of the front end has done: the bytes read from HBM, and its corrections (R195, R457). -/
def State.noteExt (s : State) (ctx a n : Nat) : State :=
  match s.extKeys ctx a n rightR with
  | .error _ => s
  | .ok ks =>
    let s1 := (keyLines ks).foldl (fun s l => s.countDie (homeDie l) 0x0108 (ks.countP fun k => k / 64 == l)) s
    if s.mem.synd.isEmpty then s1
    else (ks.foldl (fun l k => insNat l (wordKey k)) []).foldl (fun s k => s.noteHome s.mem k 4) s1

/-- Write bytes at keys as an agent outside the cores, performed at `.sys`: every line's tokens are gathered at its
home, and every agent sees what was written before. -/
def State.pokeKeys (s : State) (ks : List Nat) (bs : List Byte) : State :=
  let s0 := (ks.foldl (fun l k => insNat l (k / 8)) []).foldl (fun s g => s.showAll (8 * g) 8) s
  let s1 := (keyLines ks).foldl (fun s n => (s.gatherHome n).countDie (homeDie n) 0x0109 64) s0
  { s1 with mem := (ks.zip bs).foldl (fun m e => m.setByte e.1 e.2) s1.mem }

/-- Write bytes that a command names; where they cannot be written, firmware core 1 logs it.
DESIGN CHOICE: log 32. -/
def State.extWrite (s : State) (ctx a : Nat) (bs : List Byte) : State :=
  match s.extKeys ctx a bs.length rightW with
  | .ok ks => s.pokeKeys ks bs
  | .error _ => s.logRec 1 0x24 (BitVec.ofNat 32 (a / 65536)) a

/-! ### Copies (R363) -/

/-- Read a copy descriptor. -/
def copyOf (b : List Byte) (off : Nat) : Copy :=
  { src := BitVec.ofNat 64 (field b off 8), dst := BitVec.ofNat 64 (field b (off + 8) 8), len := field b (off + 16) 4 }

/-- The used copies of a part (R363). -/
def copiesOf (b : List Byte) : List Copy := [copyOf b 0, copyOf b 24].filter fun c => c.len != 0

/-- The trap that a copy's failure reports (R294, R363). DESIGN CHOICE: log 32. -/
def ExtFail.trap : ExtFail → TrapInfo
  | .page _ => xfault 1 0
  | .lost _ => xfault 2 0
  | .poison a => poisonAt 0 a

/-- A plan that stands for a copy: only its spaces matter. -/
def copyPlan (c : Copy) : XPlan :=
  let side (a : DWord) : CapReg := { bits := capBits 0 (if a.getLsbD 63 then 4 else 0) 0 0 0 0, tag := true, bad := false }
  { tpl := default, lay := default, src := side c.src, dst := side c.dst, fifo := none, elems := [] }

/-- Count and log the corrections that a copy of the front end makes, each at its word's home (R195). -/
def State.noteCopy (s : State) (p : XPlan) (bs : List MoveByte) : State :=
  (movedChecks p bs).foldl (fun t k => t.noteFix (homeCore k) k (corrected (s.mem.word k))) s

/-- Perform a copy (R363): codes are carried, and data leaving the device is checked; `err` says that the host's completion
of it carries an error, which only an access to the host has. DESIGN CHOICE: log 32. -/
def State.runCopy (s : State) (ctx : Nat) (c : Copy) (err : Bool) : Except TrapInfo State :=
  if err && (c.src.getLsbD 63 || c.dst.getLsbD 63) then .error (xfault 3 0)
  else match s.extKeys ctx c.src.toNat c.len rightR, s.extKeys ctx c.dst.toNat c.len rightW with
  | .error e, _ => .error e.trap
  | _, .error e => .error e.trap
  | .ok ks, .ok kd =>
    let bs : List MoveByte := (kd.zip ks).mapIdx fun i e =>
      { key := e.1, adr := (c.dst.toNat + i) % 2 ^ 63, src := some (e.2, (c.src.toNat + i) % 2 ^ 63), val := 0
        made := [] }
    if bs.any fun b => tokenKey b.key && (s.line (b.key / 64)).poisoned && !coversLine bs (b.key / 64) then
      .error (poisonAt 0 c.dst.toNat)
    else match (moveWords bs).mapM (s.moveWord (copyPlan c) bs) with
      | .error (.fail t) => .error t
      | .error (.page _ _) => .error (xfault 1 0)
      | .ok ws => .ok ((s.noteCopy (copyPlan c) bs).engineWrite Config.cores ws (coversLine bs))

/-- Perform copies in order until one faults (R363): `err` is the place among them of one whose completion at the host
carries an error. -/
def State.runCopies (s : State) (ctx : Nat) (cs : List Copy) (err : Option Nat) : State × Option TrapInfo :=
  match cs with
  | [] => (s, none)
  | c :: rest => match s.runCopy ctx c (err == some 0) with
    | .error t => (s, some t)
    | .ok s1 => s1.runCopies ctx rest (match err with | some (k + 1) => some k | _ => none)

/-! ### Levels (R370, R371) -/

/-- A phase or job of a context, as it stands. -/
def State.level (s : State) (ctx job : Nat) (phase : Option Nat) : LevelRec :=
  (s.fe.levels.find? fun l => l.ctx == ctx && l.job == job && l.phase == phase).getD
    { ctx := ctx, job := job, phase := phase, done := 0, active := 0, closed := false, cancelled := false, failed := false }
/-- Change a phase or job, making its record where there is none. -/
def State.modLevel (s : State) (ctx job : Nat) (phase : Option Nat) (f : LevelRec → LevelRec) : State :=
  s.modFe fun e =>
    if e.levels.any fun l => l.ctx == ctx && l.job == job && l.phase == phase then
      { e with levels := updIf e.levels (fun l => l.ctx == ctx && l.job == job && l.phase == phase) f }
    else { e with levels := e.levels ++ [f (s.level ctx job phase)] }
/-- Change a phase and its job. -/
def State.modLevels (s : State) (ctx job phase : Nat) (f : LevelRec → LevelRec) : State :=
  (s.modLevel ctx job (some phase) f).modLevel ctx job none f

/-- Whether a launch counts as a member of its levels: a bundle without a launch part does not. -/
def Launch.counted (l : Launch) : Bool := l.part.grid != 0

/-- Whether a launch has not settled for its levels. -/
def Launch.unsettled (l : Launch) : Bool := l.stage != .done

/-- Whether a phase is done (R370). -/
def State.phaseDone (s : State) (ctx job phase : Nat) : Bool :=
  (s.level ctx job (some phase)).closed &&
    !(s.fe.launches.any fun l => l.ctx == ctx && l.job == job && l.phase == phase && l.unsettled) &&
    !(s.fe.graphs.any fun g => g.ctx == ctx && g.job == job && g.phase == phase && !g.settled)

/-- Whether a job is done (R370): closed, with every phase that a command has named done. -/
def State.jobDone (s : State) (ctx job : Nat) : Bool :=
  (s.level ctx job none).closed && s.fe.levels.all fun l =>
    match l.phase with
    | some p => !(l.ctx == ctx && l.job == job) || s.phaseDone ctx job p
    | none => true

/-- A command names a phase and job: one that is done opens again (R370). -/
def State.openLevels (s : State) (ctx job phase : Nat) : State :=
  let jd := s.jobDone ctx job
  let pd := s.phaseDone ctx job phase
  let s1 := s.modLevel ctx job (some phase) fun l => if pd then { l with closed := false } else l
  s1.modLevel ctx job none fun l => if jd then { l with closed := false } else l

/-- The high half of a level's word (R371). -/
def levelHigh (state active : Nat) : Nat := state * 2 ^ 30 + active % 2 ^ 24

/-- A level's word (R371). -/
def levelWord (done state active : Nat) : DWord := BitVec.ofNat 64 (levelHigh state active * 2 ^ 32 + done % 2 ^ 32)

/-- STATE: failed outranks cancelled, which outranks complete (R371). -/
def levelState (failed cancelled complete : Bool) : Nat := if failed then 3 else if cancelled then 2 else if complete then 1 else 0

/-- Whether some unit of a launch was dropped or ended (R372). -/
def Launch.cut (l : Launch) : Bool := l.ends.any fun e => e.how != .complete

/-- The status of a settled launch (R367, R372, R402). -/
def Launch.status (l : Launch) : Nat := if l.failed then 4 else if l.cut then 3 else 2

/-- The word of a launch (R371). -/
def State.launchWord (s : State) (l : Launch) : DWord :=
  let settled := l.stage == .settled || l.stage == .posting || l.stage == .done
  let active := s.units.countP fun u => u.launch == l.key && !u.shadow
  levelWord l.done (levelState l.failed l.cut settled) active

/-- The launches of a graph instance that have not settled for it. -/
def State.graphLaunches (s : State) (inst : Nat) : List Launch :=
  s.fe.launches.filter fun l => (l.graph.map (·.1)) == some inst && l.unsettled

/-- Whether a graph instance contains a failed member, or has failed itself (R371). -/
def State.graphFailed (s : State) (g : Graph) : Bool :=
  g.failed || g.hasFailed || (s.graphLaunches g.inst).any fun l => l.failed
/-- Whether a graph instance contains a member that was cut short, or has been cancelled (R371). -/
def State.graphCut (s : State) (g : Graph) : Bool :=
  g.cancelled || g.hasCut || (s.graphLaunches g.inst).any Launch.cut

/-- The word of a graph instance (R371). -/
def State.graphWord (s : State) (g : Graph) : DWord :=
  levelWord g.done (levelState (s.graphFailed g) (s.graphCut g) g.settled) g.active

/-- Whether a launch lies in a phase or job. -/
def Launch.inLevel (l : Launch) (ctx job : Nat) (phase : Option Nat) : Bool :=
  l.ctx == ctx && l.job == job && (match phase with | some p => l.phase == p | none => true)
/-- Whether a graph lies in a phase or job. -/
def Graph.inLevel (g : Graph) (ctx job : Nat) (phase : Option Nat) : Bool :=
  g.ctx == ctx && g.job == job && (match phase with | some p => g.phase == p | none => true)

/-- The word of a phase or job (R371). -/
def State.levelWordOf (s : State) (ctx job : Nat) (phase : Option Nat) : DWord :=
  let l := s.level ctx job phase
  let ls := s.fe.launches.filter fun x => x.inLevel ctx job phase
  let gs := s.fe.graphs.filter fun x => x.inLevel ctx job phase
  let failed := l.failed || ls.any (fun x => x.failed) || gs.any s.graphFailed
  let cut := l.cancelled || ls.any Launch.cut || gs.any s.graphCut
  let done := match phase with
    | some p => s.phaseDone ctx job p
    | none => s.jobDone ctx job
  levelWord l.done (levelState failed cut done) l.active

/-! ### Records and signals (R366 to R369) -/

/-- The bytes of a record (R367). -/
def recordBytes (tag : DWord) (start fin : BitVec 96) (id done status : Nat) (cause : Byte) (chan : Option Nat) (arg : Word) :
    List Byte :=
  bytesOfNat 8 tag.toNat ++ bytesOfNat 12 start.toNat ++ bytesOfNat 12 fin.toNat ++ bytesOfNat 4 id ++ bytesOfNat 4 done ++
    [BitVec.ofNat 8 status, cause, BitVec.ofNat 8 (chan.getD 0xFF), 0] ++ bytesOfNat 4 arg.toNat ++ List.replicate 16 0

/-- Write the record of the command at a header index of a queue (R367). -/
def State.queueRecord (s : State) (q hdr : Nat) (b : List Byte) : State :=
  let x := s.queue q
  s.extWrite x.ctx (locAddr x.recBase 64 (64 * (hdr % 2 ^ x.size))) b

/-- The record area of a graph, and the record of a node in it (R368): the area is an address of space 0. -/
def State.nodeRecord (s : State) (g : Graph) (node : Nat) (b : List Byte) : State :=
  let a := g.records + 64 * node
  if g.records = 0 then s
  else if 2 ^ 57 ≤ a then s.logRec 1 0x24 (BitVec.ofNat 32 (a / 65536)) a
  else s.extWrite g.ctx a b

/-- Write a signal as a release at `.sys`, then raise its event (R366, R369, R233). -/
def State.sendSignal (s : State) (ctx q : Nat) (p : SignalPart) : State :=
  let a := p.addr.toNat
  let s1 := match s.extKeys ctx a 8 rightW with
    | .error _ => s.logRec 1 0x24 (BitVec.ofNat 32 (a / 65536)) a
    | .ok ks =>
      let old : DWord := BitVec.ofNat 64 (natOfBytes (ks.map fun k => wordByte (s.mem.good (wordKey k)) (k % 4)))
      s.pokeKeys ks (bytesOfNat 8 (if p.add then old + p.value else p.value).toNat)
  if p.irq then s1.raiseEvent (s1.queue q).func (s1.queue q).vec else s1

end Sys2Proof.Machine
end

