-- ==== Sys2Proof/Machine/Work.lean ====
section
/-! DEFINITION. Commands and launch parts (spec 17 R360 to R366, R374, R382): how they are read, why they are refused,
and what accepting one makes. -/

namespace Sys2Proof.Machine

/-! ### Reading -/

/-- Whether bytes of a block are all zero. -/
def zeros (b : List Byte) (off n : Nat) : Bool := ((b.drop off).take n).all fun x => x == 0

/-- Read a launch part (R364). -/
def launchPartOf (b : List Byte) : LaunchPart :=
  let at' := field b 13 1
  let bind := field b 15 1
  { raw := b, kdesc := field b 0 8, grid := field b 8 4, gang := field b 12 1
    det := at' % 2 == 1, chk := at' / 2 % 2 == 1, sys := at' / 4 % 2 == 1, gangIdem := at' / 8 % 2 == 1
    raceFree := at' / 16 % 2 == 1, ring := field b 14 1, bindRing := bind / 64 % 2 == 1, bindChan := bind / 128 == 1
    args := field b 16 8, capMask := BitVec.ofNat 64 (field b 24 8), ringDesc := BitVec.ofNat 64 (field b 32 8)
    signExt := field b 40 1 == 1, detw := field b 44 4 }

/-- The launch part of a command that has none: no unit. DESIGN CHOICE: log 34. -/
def noPart : LaunchPart := launchPartOf (List.replicate 64 0)

/-- Read a signal part (R366). -/
def signalPartOf (b : List Byte) : SignalPart :=
  { addr := BitVec.ofNat 64 (field b 0 8), value := BitVec.ofNat 64 (field b 8 8), add := field b 16 1 == 1
    irq := field b 17 1 == 1 }

/-- Whether the bytes of a launch part marked zero are zero (R364). -/
def launchZeros (b : List Byte) (ext : Bool) : Bool :=
  decide (field b 13 1 < 32) && field b 15 1 % 64 == 0 && (ext && field b 40 1 == 1 || field b 40 1 == 0) &&
    zeros b 41 3 && zeros b 48 16

/-- Whether the bytes of a preload or post part marked zero are zero (R363). -/
def copyZeros (b : List Byte) : Bool := zeros b 20 4 && zeros b 44 4 && zeros b 48 16

/-- Whether a signal part is refused (R361 reason 11). -/
def signalBad (b : List Byte) : Bool := decide (1 < field b 16 1) || decide (1 < field b 17 1) || field b 0 8 % 8 != 0

/-- A command as read: its header and the entries of its parts (R360). -/
structure Cmd where
  hdr : List Byte
  pre : Option (List Byte)
  launch : Option (List Byte)
  post : Option (List Byte)
  signal : Option (List Byte)
  deriving DecidableEq, Repr, Inhabited

/-- The entries that a header says follow it (R360). -/
def partCount (hdr : List Byte) : Nat :=
  let p := field hdr 1 1
  p % 2 + p / 2 % 2 + p / 4 % 2 + p / 8 % 2

/-- Cut the bytes of a command into its header and parts. -/
def cmdOf (b : List Byte) : Cmd :=
  let p := field b 1 1
  let blk (i : Nat) : List Byte := (b.drop (64 * i)).take 64
  let n0 := 1
  let n1 := n0 + p % 2
  let n2 := n1 + p / 2 % 2
  let n3 := n2 + p / 4 % 2
  { hdr := blk 0
    pre := if p % 2 = 1 then some (blk n0) else none
    launch := if p / 2 % 2 = 1 then some (blk n1) else none
    post := if p / 4 % 2 = 1 then some (blk n2) else none
    signal := if p / 8 % 2 = 1 then some (blk n3) else none }

/-- TYPE. -/
def Cmd.type (c : Cmd) : Nat := field c.hdr 0 1
/-- PARTS. -/
def Cmd.parts (c : Cmd) : Nat := field c.hdr 1 1
/-- FLAGS.SERIAL. -/
def Cmd.serial (c : Cmd) : Bool := field c.hdr 2 1 % 2 == 1
/-- FLAGS.CLOSEPH. -/
def Cmd.closePh (c : Cmd) : Bool := field c.hdr 2 1 / 2 % 2 == 1
/-- FLAGS.CLOSEJOB. -/
def Cmd.closeJob (c : Cmd) : Bool := field c.hdr 2 1 / 4 % 2 == 1
/-- JOB. -/
def Cmd.job (c : Cmd) : Nat := field c.hdr 4 1
/-- PHASE. -/
def Cmd.phase (c : Cmd) : Nat := field c.hdr 5 1
/-- TAG. -/
def Cmd.tag (c : Cmd) : DWord := BitVec.ofNat 64 (field c.hdr 8 8)
/-- DEADLINE in ns. -/
def Cmd.deadline (c : Cmd) : Nat := field c.hdr 16 8
/-- GDESC. -/
def Cmd.gdesc (c : Cmd) : Nat := field c.hdr 24 8

/-- Whether an optional part satisfies a check. -/
def optOk (o : Option (List Byte)) (p : List Byte → Bool) : Bool :=
  match o with
  | some b => p b
  | none => true

/-- Whether the bytes of a command marked zero are zero (R360). -/
def Cmd.zeroOk (c : Cmd) : Bool :=
  decide (c.parts < 16) && decide (field c.hdr 2 1 < 8) && zeros c.hdr 3 1 && zeros c.hdr 6 2 && zeros c.hdr 32 32 &&
    (c.type == 2 || c.gdesc == 0) && optOk c.pre copyZeros && optOk c.post copyZeros &&
    optOk c.launch (fun b => launchZeros b false) && optOk c.signal fun b => zeros b 18 46

/-! ### What can be placed (R11, R306, R361 reason 6) -/

/-- The seats of a unit (R67). -/
def KDesc.seats (d : KDesc) : Nat := (d.fibres + 31) / 32

/-- The units of a kernel that an empty core takes. -/
def KDesc.perCore (d : KDesc) : Nat :=
  let n := min (if d.scratch = 0 then 256 else Config.scratchBytes / d.scratch) (256 / max d.seats 1)
  if d.matrix then min n 1 else n

/-- Whether a launch part can never be placed (R236, R306, R361 reason 6). -/
def State.neverPlaced (s : State) (d : KDesc) (p : LaunchPart) : Bool :=
  let u := max p.gang 1
  let width := if p.detw = 0 then p.grid else p.detw
  decide (4 * d.perCore < u) ||
    ((p.det || d.det) && decide ((24 - s.fe.excluded.length) * (4 * d.perCore / u) * u < width))

/-! ### Ring descriptors (R338) -/

/-- Whether a ring descriptor is refused for a kernel (R338). -/
def ringRefused (d : KDesc) (r : DWord) : Bool :=
  let n := (r.extractLsb' 36 4).toNat
  let z := (r.extractLsb' 32 4).toNat
  let slots := ringBase r + ringSlots r * ringSlotBytes r
  r.extractLsb' 40 3 != 0 || n == 0 || decide (10 < n) || decide (z < 8) || decide (14 < z) || ringBase r % 64 != 0 ||
    decide (d.reach < slots) || ringMode r == 3 ||
    (ringMode r != 0 && (decide (d.reach < ringBar r + 8) || overlaps (ringBar r) 8 (ringBase r) (slots - ringBase r)))

/-- Whether a ring is bound or reserved. -/
def State.ringTaken (s : State) (r : Nat) : Bool :=
  match s.ring? r with
  | some x => x.unit.isSome || x.reserved.isSome
  | none => false

/-! ### Capability descriptors (R365) -/

/-- Whether a range of a context's space 0 is mapped. -/
def State.vaMapped (s : State) (ctx lo hi : Nat) : Nat → Bool
  | 0 => decide (hi ≤ lo)
  | n + 1 =>
    decide (hi ≤ lo) || (decide (lo < 2 ^ 57) && (match s.page? ctx lo with
      | some p => !p.absent && s.vaMapped ctx (p.va + pageBytes p.sizeCode) hi n
      | none => false))

/-- Whether a range of a context's space 5 is mapped. -/
def State.poolMapped (s : State) (ctx lo hi : Nat) : Nat → Bool
  | 0 => decide (hi ≤ lo)
  | n + 1 =>
    decide (hi ≤ lo) || (decide (lo < 2 ^ 57) && (match s.fabric.granules.find? fun g =>
        g.pool == 32 * ctx + lo / 2 ^ 52 && g.granule == lo % 2 ^ 52 / 2 ^ 30 with
      | none => false
      | some g =>
        let self := s.selfIn (some g.pool)
        let stop := min hi (lo / 2 ^ 30 * 2 ^ 30 + 2 ^ 30)
        let a := g.range + lo % 2 ^ 30
        (g.home != self || s.vaMapped ctx a (a + (stop - lo)) (s.fabric.pages.length + 1)) && s.poolMapped ctx stop hi n))

/-- Whether a range of a function's host window is mapped. -/
def State.winMapped (s : State) (func lo hi : Nat) : Nat → Bool
  | 0 => decide (hi ≤ lo)
  | n + 1 =>
    decide (hi ≤ lo) || ((s.hostKey func lo).isSome && s.winMapped func (lo / 2097152 * 2097152 + 2097152) hi n)

/-- Whether the 128 bits of a capability descriptor pass the checks of R365. -/
def State.capOk (s : State) (ctx func : Nat) (c : CapReg) : Bool :=
  let hi := c.base + c.length
  c.gen == 0 && (match c.space with
    | 0 => s.vaMapped ctx c.base hi (s.fabric.pages.length + 1)
    | 4 => s.winMapped func c.base hi (s.fabric.hostWin.length + 1)
    | 5 => s.poolMapped ctx c.base hi (s.fabric.granules.length + 1)
    | _ => false)

/-- The granules of the image that CAPMASK marks and that fail, as their bit numbers (R365). -/
def State.badCaps (s : State) (ctx func : Nat) (d : KDesc) (p : LaunchPart) (image : List Byte) : List Nat :=
  (List.range 64).filter fun k =>
    p.capMask.getLsbD k && (decide (d.args < 16 * k + 16) ||
      !s.capOk ctx func { bits := BitVec.ofNat 128 (field image (16 * k) 16), tag := true, bad := false })

/-! ### Refusal (R361) -/

/-- The descriptor that a KDESC names (R361 reason 4): none where a byte of it cannot be read, its line is lost or poisoned,
or a word of it is uncorrectable. -/
def State.readKdesc (s : State) (ctx adr : Nat) : Option KDesc :=
  if adr % 64 = 0 && adr < 2 ^ 57 && (s.extRead ctx adr 64).isSome then s.readDesc ctx adr else none

/-- The reasons that a launch part is refused: `qsys` says that it may carry ATTR.SYS, and `issuer` is the unit whose
`LAUNCH` reads it. DESIGN CHOICE: log 33. -/
def State.partReasons (s : State) (qsys : Bool) (ctx func : Nat) (issuer : Option Unit) (b : List Byte) : List Nat :=
  let p := launchPartOf b
  let desc := s.readKdesc ctx p.kdesc
  let det := p.det || ((desc.map KDesc.det).getD false)
  let r5 := p.grid == 0 || decide (2 ^ 24 < p.grid) || p.gang == 0 || decide (8 < p.gang) || p.grid % max p.gang 1 != 0 ||
    (det && (p.detw % max p.gang 1 != 0 || decide (p.grid < p.detw)))
  let image (n : Nat) := if p.args = 0 then some [] else s.extRead ctx p.args n
  (if desc.isNone then [4] else []) ++ (if r5 then [5] else []) ++ (if p.sys && !qsys then [7] else []) ++
  match desc with
  | none => []
  | some d =>
    (if !r5 && s.neverPlaced d p then [6] else []) ++
    (if p.bindRing && (s.ringTaken p.ring || ringRefused d p.ringDesc) then [8] else []) ++
    (match issuer with
      | some u =>
        if p.capMask != 0 || decide (u.desc.args < d.args) || (image d.args).isNone || decide (2 ^ 57 ≤ p.args) then [9]
        else []
      | none =>
        if (p.args == 0 && d.args != 0) || (image d.args).isNone || decide (2 ^ 57 ≤ p.args) then [9] else []) ++
    (match issuer, image d.args with
      | none, some im => (s.badCaps ctx func d p im).map fun k => 16 + k
      | _, _ => [])

/-- The reasons that a bundle's parts and header are refused, but for reasons of a graph start.
DESIGN CHOICE: log 33. -/
def State.bundleReasons (s : State) (q : Queue) (c : Cmd) : List Nat :=
  (if c.zeroOk then [] else [2]) ++ (if 15 < c.job then [3] else []) ++
  (match c.launch with
    | some b => s.partReasons q.sys q.ctx q.func none b
    | none => []) ++
  (match c.signal with
    | some b => if signalBad b then [11] else []
    | none => [])

/-! ### Graph descriptors (R374) -/

/-- Read the field of a node. -/
def Node.f (n : Node) (off len : Nat) : Nat := field n.raw off len
/-- KIND. -/
def Node.kind (n : Node) : Nat := n.f 0 1
/-- NPRED. -/
def Node.npred (n : Node) : Nat := n.f 1 1
/-- LINKS bit `i`. -/
def Node.link (n : Node) (i : Nat) : Bool := (n.f 2 1) / 2 ^ i % 2 == 1
/-- SUCC0 to SUCC3 that name a node. -/
def Node.succs (n : Node) : List Nat := (List.range 4).filterMap fun i => if n.link i then some (n.f (4 + i) 1) else none
/-- The RESET mask. -/
def Node.resets (n : Node) : Nat := n.f 16 32

/-- Whether a successor field is coded as its LINKS bit says, and names a node of the graph. -/
def Node.linkOk (n : Node) (bit off count : Nat) : Bool :=
  if n.link bit then decide (n.f off 1 < count) else n.f off 1 == 0xFF

/-- Whether a node is valid in a graph of `count` nodes (R374). DESIGN CHOICE: log 33. -/
def Node.valid (n : Node) (count : Nat) : Bool :=
  let four := (List.range 4).all fun i => n.linkOk i (4 + i) count
  let z (off len : Nat) : Bool := zeros n.raw off len
  z 3 1 && (match n.kind with
    | 1 => decide (n.f 2 1 < 16) && four && decide (1 ≤ n.f 16 1) && decide (n.f 16 1 ≤ 5) && z 17 47
    | 2 =>
      n.f 2 1 % 16 == 0 && decide (n.f 2 1 < 64) && (List.range 4).all (fun i => n.f (4 + i) 1 == 0xFF) &&
        n.linkOk 4 10 count && n.linkOk 5 11 count && decide (n.f 8 1 ≤ 8) && decide (n.f 9 1 ≤ 3) && z 12 4 &&
        (if n.f 8 1 = 8 then n.f 24 8 % 8 == 0 && n.f 24 8 / 2 ^ 57 % 64 == 0 else z 24 8) && z 32 32
    | 3 =>
      decide (n.f 2 1 < 16) && four && decide (n.f 8 1 < count) && z 9 3 && decide (n.resets < 2 ^ count) && z 48 16
    | _ => false)

/-- The nodes of a graph descriptor and its record area; none where reason 10 applies (R361, R374). -/
def State.readGraph (s : State) (ctx adr : Nat) : Option (List Node × Nat) :=
  match s.extRead ctx adr 64 with
  | none => none
  | some h =>
    let count := field h 4 2
    if count = 0 || 256 < count || !zeros h 0 4 || !zeros h 6 2 || !zeros h 16 48 then none
    else match s.extRead ctx (adr + 64) (64 * count) with
      | none => none
      | some b =>
        let nodes := (List.range count).map fun i =>
          let raw := (b.drop (64 * i)).take 64
          ({ idx := i, raw := raw, pendingN := field raw 1 1, fired := false } : Node)
        if nodes.all fun n => n.valid count then some (nodes, field h 8 8) else none

/-- The reason a command is refused with, if it is (R361). -/
def State.refusal (s : State) (q : Queue) (c : Cmd) : Option Nat :=
  let one := !(c.type == 1 || c.type == 2) || (c.type == 2 && c.parts % 8 != 0)
  let ten := c.type == 2 && (decide (2 ^ 57 ≤ c.gdesc) || (s.readGraph q.ctx c.gdesc).isNone)
  minOf ((if one then [1] else []) ++ s.bundleReasons q c ++ (if ten then [10] else []))

/-! ### Accepting a launch (R364, R365, R382, R391) -/

/-- Copy an argument image into a launch's block: `tags` marks its capabilities (R365). -/
def State.buildArgs (s : State) (key ctx adr len : Nat) (tags : DWord) : State :=
  match s.extKeys ctx adr len rightR with
  | .error _ => s
  | .ok ks =>
    let bs : List MoveByte := ks.mapIdx fun i k => { key := keyArg key i, adr := i, src := some (k, adr + i), val := 0, made := [] }
    match (moveWords bs).mapM (s.moveWord (copyPlan { src := 0, dst := 0, len := 0 }) bs) with
    | .error _ => s
    | .ok ws =>
      let m := ws.foldl (fun m w => m.setWord w.1 w.2) s.mem
      { s.noteExt ctx adr len with mem := (List.range 64).foldl (fun m k => if tags.getLsbD k then m.setTag (keyArg key (16 * k)) else m) m }

/-- Copy an issuer's argument block (R382): a granule whose capability lacks G arrives untagged. -/
def State.copyArgs (s : State) (key : Nat) (u : Unit) (len : Nat) : State :=
  let m := s.mem.setWords (keyArg key 0) (s.mem.words (keyArg u.launch 0) ((len + 3) / 4))
  { s with mem := (List.range ((len + 15) / 16)).foldl (fun m k =>
      let g := keyArg u.launch (16 * k)
      let c : CapReg := { bits := BitVec.ofNat 128 (natOfBytes (s.mem.goodBytes g 16)), tag := true, bad := false }
      if decide (16 * k + 16 ≤ len) && s.mem.tag g && c.perms &&& permG != 0 then m.setTag (keyArg key (16 * k)) else m) m }

/-- A launch identifier from the device counter, which skips 0 (R367). -/
def nextId (n : Word) : Word := if n + 1 == 0 then 1 else n + 1

/-- What a launch is accepted with. -/
structure Admit where
  func : Nat
  ctx : Nat
  queue : Nat
  job : Nat
  phase : Nat
  graph : Option (Nat × Nat)
  tag : DWord
  hdr : Option Nat
  deadline : Option Nat
  pre : List Copy
  post : List Copy
  signal : Option SignalPart
  deriving DecidableEq, Repr

/-- Put a launch into the front end: its identifier, its place in its levels and its ring's reservation. The argument
block is built by the caller, under the key given. -/
def State.enlist (s : State) (a : Admit) (part : Option LaunchPart) (desc : KDesc) : State × Word :=
  let p := part.getD noPart
  let id := if part.isSome then s.fe.nextLaunch else 0
  let l : Launch :=
    { key := s.fe.nextKey, id := id, func := a.func, ctx := a.ctx, queue := a.queue, job := a.job, phase := a.phase
      graph := a.graph, tag := a.tag, hdr := a.hdr, part := p, desc := desc, sys := p.sys, det := p.det || desc.det
      preloads := a.pre, posts := a.post, signal := a.signal, stage := if a.pre.isEmpty then .ready else .preload
      deadline := a.deadline, parsed := s.seqCtr, startT := 0, started := false, endT := 0, nextUnit := 0, returned := []
      conts := [], ends := [], done := 0, moved := none, cancelled := false, failed := false, cause := 0, errArg := 0
      kills := [], shun := [], round := 0, roundEnds := [], contribs := [], committing := false, passQ := [], sysRound := false, begun := false
      screens := [], banked := [], chan := none }
  let s1 := { (s.openLevels a.ctx a.job a.phase).modFe (fun e => { e with
    launches := e.launches ++ [l], nextKey := e.nextKey + 1
    nextLaunch := if part.isSome then nextId e.nextLaunch else e.nextLaunch }) with seqCtr := s.seqCtr + 1 }
  let s2 := if part.isSome then s1.modLevels a.ctx a.job a.phase fun v => { v with active := v.active + 1 } else s1
  let s3 := match a.graph, part with
    | some g, some _ => s2.modGraph g.1 fun x => { x with active := x.active + 1 }
    | _, _ => s2
  (if p.bindRing then s3.modRing p.ring fun r => { r with reserved := some l.key, desc := p.ringDesc } else s3, id)

/-- The absolute deadline of a command of a queue (R391): `rel` is its DEADLINE in ns. -/
def State.deadlineOf (s : State) (q : Queue) (rel : Nat) : Option Nat :=
  if q.timed then some (s.time + (if rel = 0 then q.defaultDl else rel * 65536)) else none

/-- Accept the bundle of a command (R362, R365): its launch, with the argument block built from its image.
DESIGN CHOICE: log 34. -/
def State.acceptBundle (s : State) (a : Admit) (c : Cmd) : State :=
  let part := c.launch.map launchPartOf
  let desc := ((part.bind fun p => s.readDesc a.ctx p.kdesc)).getD default
  let s1 := match part with
    | some p => s.buildArgs s.fe.nextKey a.ctx p.args desc.args p.capMask
    | none => s
  (s1.enlist a part desc).1

/-- Whether a bundle or graph start would exceed a limit of the device (R370). -/
def State.full (s : State) (launch graph : Bool) : Bool :=
  (launch && decide (Config.maxLaunches ≤ s.fe.launches.countP Launch.unsettled)) ||
    (graph && decide (Config.maxGraphs ≤ s.fe.graphs.length))

/-- Close the levels that a command closes after itself (R360). -/
def State.closeLevels (s : State) (ctx job phase : Nat) (ph jb : Bool) : State :=
  let s1 := s.modLevel ctx job (some phase) fun l => { l with closed := l.closed || ph }
  s1.modLevel ctx job none fun l => { l with closed := l.closed || jb }

/-! ### Starting a graph (R375, R376) -/

/-- The nodes that some node names as a successor or a TARGET. -/
def namedNodes (ns : List Node) : List Nat :=
  ns.flatMap fun n => match n.kind with
    | 2 => (if n.link 4 then [n.f 10 1] else []) ++ (if n.link 5 then [n.f 11 1] else [])
    | 3 => n.succs ++ [n.f 8 1]
    | _ => n.succs

/-- The completions that a graph start gives (R376). -/
def startEvents (ns : List Node) : List Nat :=
  let named := namedNodes ns
  (ns.filter fun n => n.npred == 1 && !named.contains n.idx).map fun n => n.idx

/-- Start a graph (R375, R376). -/
def State.startGraph (s : State) (q : Queue) (hdr : Nat) (c : Cmd) (nodes : List Node) (records : Nat) : State :=
  let g : Graph :=
    { inst := s.fe.nextGraph, ctx := q.ctx, queue := q.idx, job := c.job, phase := c.phase, hdr := hdr, tag := c.tag
      deadline := BitVec.ofNat 64 c.deadline, nodes := nodes, regs := List.replicate 8 0, iter := 0, records := records
      failed := false, cancelled := false, hasFailed := false, hasCut := false, cause := 0, errArg := 0
      startT := s.wire.ptp, done := 0, active := 0, events := startEvents nodes, signal := c.signal.map signalPartOf
      settled := false, best := !q.timed, fault := none }
  (s.openLevels q.ctx c.job c.phase).modFe fun e => { e with graphs := e.graphs ++ [g], nextGraph := e.nextGraph + 1 }

end Sys2Proof.Machine
end

