-- ==== Sys2Proof/Machine/Starts.lean ====
section
/-! DEFINITION. Placement, dispatch and retirement of units, and the end of a launch (spec 17 R358, R362, R369, 18 R392,
R406; 05 R67, R77; 09 R185, R186). -/

namespace Sys2Proof.Machine

/-! ### Placement (R67, R77, R185) -/

/-- The seats of a partition of a core that no unit holds (R67). -/
def State.freeSeats (s : State) (core part : Nat) : List Nat :=
  let used := (s.unitsOn core).flatMap Unit.seats
  (List.range Config.seatsPerPartition).filter fun n => !used.contains (part, n)

/-- The seats of one partition that a team needs (R67). -/
def KDesc.seatGroup (d : KDesc) : Nat := max 1 (d.team / Config.lanes)

/-- Seats for a unit on a core: those of a wide team lie in one partition (R67). DESIGN CHOICE: log 85. -/
def State.pickSeats (s : State) (core : Nat) (d : KDesc) : Option (List (Nat × Nat)) :=
  let all := (List.range Config.partitions).flatMap fun p =>
    let f := s.freeSeats core p
    (f.take (f.length / d.seatGroup * d.seatGroup)).map fun n => (p, n)
  let mine := all.take d.seats
  if mine.length = d.seats then some mine else none

/-- The lowest place for an allocation on a core, at a multiple of 4 KiB. -/
def State.pickAlloc (s : State) (core size : Nat) : Option Nat :=
  let held := (s.unitsOn core).map fun u => (u.allocBase, u.desc.scratch)
  let clear (b : Nat) : Bool := decide (b + size ≤ Config.scratchBytes) && held.all fun h => !overlaps b size h.1 h.2
  minOf ((0 :: held.map fun h => h.1 + h.2).filter clear)

/-- The lowest free aperture channel of a core (R282). -/
def Core.freeChannel (c : Core) : Option Nat := (List.range 64).find? fun k => !c.channels.any fun e => e.1 == k

/-- Where a unit fits on a core: its allocation and its seats; a matrix kernel needs the engine, and a unit that binds a
channel a free one. -/
def State.fitsCore (s : State) (core : Nat) (d : KDesc) (chan : Bool) : Option (Nat × List (Nat × Nat)) :=
  match s.core? core with
  | none => none
  | some c =>
    if (d.matrix && c.matrix.owner.isSome) || (chan && c.freeChannel.isNone) then none
    else match s.pickAlloc core d.scratch, s.pickSeats core d with
      | some b, some ss => some (b, ss)
      | _, _ => none

/-! ### Starting a unit (R37, R66, R284, R306) -/

/-- The template records of a kernel, as its unit's engine copies them (R284). -/
def State.loadTemplates (s : State) (ctx : Nat) (d : KDesc) : List (BitVec 128) :=
  (List.range 64).map fun i => match s.codeBytes ctx (d.tplAddr + 16 * i) 16 rightR with
    | some b => BitVec.ofNat 128 (natOfBytes b)
    | none => 0

/-- The layout records of a kernel (R284). -/
def State.loadLayouts (s : State) (ctx : Nat) (d : KDesc) : List (BitVec 256) :=
  (List.range 64).map fun i => match s.codeBytes ctx (d.layAddr + 32 * i) 32 rightR with
    | some b => BitVec.ofNat 256 (natOfBytes b)
    | none => 0

/-- A template's state in a new allocation (R280). -/
def TplState.reset : TplState := { seq := 0, wmark := 0, finished := [], from? := none, to? := none }

/-- Begin a stage of a unit: its kernel, its engine's tables and its fibres (R37, R66, R98, R300).
DESIGN CHOICE: log 61. -/
def State.beginStage (s : State) (key : Nat) (d : KDesc) : State :=
  match s.unit? key with
  | none => s
  | some u =>
    let ctx := s.ctxOf u
    let v := { u with
      desc := d, next := none, teams := [], templates := s.loadTemplates ctx d, layouts := s.loadLayouts ctx d
      tpl := u.tpl.map fun (t : TplState) => { t with from? := none, to? := none } }
    s.modUnit key fun _ => { v with fibres := (List.range d.fibres).map fun n => s.newFibre v n d.entryPc }

/-- The generation of a new allocation, from the device-wide counter, which skips 0 (R185). -/
def State.takeGen (s : State) : Word × State :=
  (s.fe.nextGen, s.modFe fun e => { e with nextGen := nextId e.nextGen })

/-- The generation of a gang that is placed (R186), from a counter of its own. DESIGN CHOICE: log 36. -/
def State.takeGangGen (s : State) : Word × State :=
  (s.fe.nextGangGen, s.modFe fun e => { e with nextGangGen := nextId e.nextGangGen })

/-- Place one unit of a gang on a core and start it (R37, R67, R185). DESIGN CHOICE: log 8 and 66. -/
def State.placeUnit (s : State) (l : Launch) (no core : Nat) (shadow screened : Bool) : Option State :=
  let d := l.desc
  let chan := l.part.bindChan && no == 0 && !shadow
  match s.fitsCore core d chan with
  | none => none
  | some (base, seats) =>
    let (gen, s1) := s.takeGen
    let g := max l.part.gang 1
    let ring := if l.part.bindRing && no == 0 && !shadow then some l.part.ring else none
    let channel := if chan then (s.core? core).bind Core.freeChannel else none
    let u : Unit :=
      { key := s.seqCtr, launch := l.key, no := no, gang := no / g, idx := no % g, core := core, seats := seats, desc := d
        shadow := shadow, gen := gen, allocBase := base, backing := s.seqCtr * 8388608, fibres := [], teams := [], templates := [], layouts := []
        tpl := List.replicate 64 TplState.reset, xdone := [], ring := ring, channel := channel
        next := none, ended := 0, usedFront := false, ending := false, dispatched := s.time, deadline := l.deadline
        screened := screened, writes := [] }
    let s2 := { s1 with units := s1.units ++ [u], seqCtr := s1.seqCtr + 1 }
    let s3 := if d.matrix then s2.modCore core fun c => { c with matrix := { Matrix.reset with owner := some u.key } } else s2
    let s4 := match ring with
      | some r => s3.modRing r fun x => { x with
          unit := some u.key, reserved := none, desc := l.part.ringDesc, slots := List.replicate (ringSlots l.part.ringDesc) .free
          nextSlot := 0, rseq := 0, drops := 0, landings := [] }
      | none => s3
    let s5 := match channel with
      | some k => (s4.modCore core fun c => { c with channels := c.channels ++ [(k, u.key)] }).modLaunch l.key fun x =>
          { x with chan := some k }
      | none => s4
    some (s5.beginStage u.key d)

/-- The units of a gang that are still to run: those that a cancel has not dropped (R372). -/
def Launch.gangNos (l : Launch) (gang : Nat) : List Nat :=
  ((List.range l.part.gang).map fun i => gang * l.part.gang + i).filter fun n =>
    decide (n < l.part.grid) && !(l.ends.any fun e => e.no == n)

/-- Place units on the cores given, one after another. -/
def State.placeUnits (s : State) (l : Launch) : List (Nat × Nat) → Option State
  | [] => some s
  | (no, core) :: rest => match s.placeUnit l no core false false with
    | none => none
    | some s1 => s1.placeUnits l rest

/-- Note a gang as placed in a cluster, with its generation (R186). -/
def State.addGang (s : State) (launch gang cluster : Nat) (shadow : Bool) (gen : Word) : State :=
  { s with gangs := s.gangs ++ [{ launch := launch, idx := gang, gen := gen, cluster := cluster, resident := 0
                                  drainTill := none, banking := 0, shadow := shadow }] }

/-- The units of one placed gang. -/
def State.unitsOf (s : State) (g : Gang) : List Unit :=
  s.units.filter fun u => u.launch == g.launch && u.gang == g.idx && u.shadow == g.shadow

/-- Take a shadow copy off: its unit goes unscreened (R406). -/
def State.dropCopy (s : State) (u : Unit) : State :=
  let s1 := s.removeUnit u
  let plain (v : Unit) : Bool := v.launch == u.launch && v.no == u.no
  { s1 with units := updIf s1.units plain fun v => { v with screened := false, writes := [] } }.modLaunch u.launch fun l =>
    { l with screens := l.screens.filter fun e => e.1 != u.no }

/-- Take every shadow copy of a gang off (R406). -/
def State.dropShadow (s : State) (g : Gang) : State := (s.unitsOf g).foldl (fun s u => s.dropCopy u) s

/-- The state without the units of some gangs, to see what room they leave. -/
def State.without (s : State) (gs : List Gang) : State :=
  { s with
    units := s.units.filter fun u => !gs.any fun g => u.launch == g.launch && u.gang == g.idx && u.shadow == g.shadow
    cores := s.cores.map fun c => match c.matrix.owner.bind s.unit? with
      | some u =>
        if gs.any fun g => u.launch == g.launch && u.gang == g.idx && u.shadow == g.shadow then
          { c with matrix := { c.matrix with owner := none } }
        else c
      | none => c }

/-- The state as it would be without the shadow copies: they are flushed whenever their cores are wanted (R406). -/
def State.unshadowed (s : State) : State :=
  match s.gangs.filter fun g => g.shadow with
  | [] => s
  | gs => s.without gs

/-- Flush the shadow copies on the cores given (R406). -/
def State.clearShadows (s : State) (cores : List Nat) : State :=
  (s.units.filter fun u => u.shadow && cores.contains u.core).foldl (fun s u => s.dropCopy u) s

/-- Choose cores of a list for units, each the first that has room. -/
def State.chooseCores (s : State) (l : Launch) (cores : List Nat) : List Nat → Option (List Nat)
  | [] => some []
  | no :: rest =>
    match cores.findSome? fun c => (s.placeUnit l no c false false).map fun s1 => (c, s1) with
    | none => none
    | some (c, s1) => (s1.chooseCores l cores rest).map fun cs => c :: cs

/-! ### The order of dispatch (R392) -/

/-- The next gang of a launch that has not started: returned gangs first (R398). -/
def Launch.nextGang (l : Launch) : Option Nat :=
  match l.returned with
  | g :: _ => some g
  | [] => if l.nextUnit < l.part.grid then some (l.nextUnit / max l.part.gang 1) else none

/-- A gang that may be dispatched: its launch, index, deadline, parse order and queue. -/
structure Cand where
  launch : Nat
  gang : Nat
  deadline : Option Nat
  parsed : Nat
  queue : Nat
  deriving DecidableEq, Repr

/-- Whether a launch's units may start (R392). -/
def Launch.startable (l : Launch) : Bool := l.stage == .ready && !l.failed && !l.cancelled

/-- Whether a queue has run out of budget in its period: it is treated as best-effort (R393). -/
def State.outOfBudget (s : State) (q : Nat) : Bool := (s.queue q).timed && ((s.queue q).overrun || (s.queue q).budget == 0)

/-- A gang of a launch as a candidate: one of a queue that has run out of budget has no deadline for the order (R393). -/
def State.candOf (s : State) (l : Launch) (gang : Nat) (dl : Option Nat) : Cand :=
  { launch := l.key, gang := gang, deadline := if s.outOfBudget l.queue then none else dl, parsed := l.parsed, queue := l.queue }

/-- Whether a launch is being banked whole: the front end dispatches nothing more of it (R416 step 1). -/
def State.heldBack (s : State) (l : Launch) : Bool := s.bank.jobs.any fun j => j.launch == l.key && j.step == 0 && j.whole

/-- The next gang of a launch that the front end may dispatch (R392, R416). -/
def State.nextGang (s : State) (l : Launch) : Option Nat := if l.startable && !s.heldBack l then l.nextGang else none

/-- The continuations of a launch that may start: none of a gang that is being banked (R416 step 1). -/
def State.freeConts (s : State) (l : Launch) : List (Nat × Option Nat) :=
  l.conts.filter fun n => !s.bank.jobs.any fun j => j.launch == l.key && j.step == 0 && j.gangs.contains (n.1 / max l.part.gang 1)

/-- The candidates of one launch: its next gang, its gangs planted from staging and its continuations. -/
def State.launchCands (s : State) (l : Launch) : List Cand :=
  let c := s.candOf l
  if l.startable then
    (match s.nextGang l with | some g => [c g l.deadline] | none => []) ++
      (l.banked.filter fun g => s.bank.jobs.any fun j => j.launch == l.key && j.ready && j.gangs.contains g).map
        (fun g => c g l.deadline) ++
      (s.freeConts l).map fun n => c (n.1 / max l.part.gang 1) n.2
  else []

/-- Every candidate of the device. -/
def State.cands (s : State) : List Cand := s.fe.launches.flatMap s.launchCands

/-- Whether a candidate comes before another (R392). -/
def Cand.before (a b : Cand) : Bool :=
  let dl : Ordering := match a.deadline, b.deadline with
    | some x, some y => compare x y
    | some _, none => .lt
    | none, some _ => .gt
    | none, none => .eq
  match dl with
  | .lt => true
  | .gt => false
  | .eq => decide (a.parsed < b.parsed) || (a.parsed == b.parsed && decide (a.queue < b.queue))

/-- Whether a queue is a deadline queue with budget left in its period (R390, R393).
DEDUCED: log 39. -/
def State.timely (s : State) (q : Nat) : Bool := (s.queue q).timed && !(s.queue q).overrun && (s.queue q).budget != 0

/-- The queue that a core is reserved for (R389): a reservation counts while QPER is not 0. -/
def State.reservedFor (s : State) (core : Nat) : Option Nat :=
  (tget s.fe.reserve core).bind fun q => if (s.queue q).timed then some q else none

/-- Whether some gang of a queue is ready. -/
def State.queueReady (s : State) (q : Nat) : Bool := s.cands.any fun c => c.queue == q

/-- Whether a gang of a queue may be placed on a core (R392, R407). -/
def State.mayPlace (s : State) (q core : Nat) : Bool :=
  !s.fe.excluded.contains (clusterOf core) && (match s.reservedFor core with
    | none => true
    | some r => r == q && s.timely q || (r != q || !s.timely q) && !s.timely q && !s.queueReady r)

/-- The cores of a cluster. -/
def clusterCores (cl : Nat) : List Nat := (List.range 4).map fun i => 4 * cl + i

/-- The cores of its queue's reservation that a gang would take in a cluster, where they have room (R392). -/
def State.ownChoice (s : State) (l : Launch) (nos : List Nat) (cl : Nat) : Option (List Nat) :=
  if !s.timely l.queue then none
  else match (clusterCores cl).filter fun c => s.reservedFor c == some l.queue && s.mayPlace l.queue c with
    | [] => none
    | own => s.unshadowed.chooseCores l own nos

/-- The cores of a cluster on which a gang of a queue may be placed, in the order in which they are taken: the queue's reserved
ones first (R392). -/
def State.openCores (s : State) (q cl : Nat) : List Nat :=
  let all := (clusterCores cl).filter (s.mayPlace q)
  let own (c : Nat) : Bool := s.timely q && s.reservedFor c == some q
  all.filter own ++ all.filter fun c => !own c

/-- The cores that a gang would take in a cluster (R392): its queue's reserved ones; else, where those of no cluster have
room for all of it, its queue's reserved ones first and then others. DESIGN CHOICE: log 63. -/
def State.choice (s : State) (l : Launch) (nos : List Nat) (cl : Nat) : Option (List Nat) :=
  match s.ownChoice l nos cl with
  | some cs => some cs
  | none =>
    if (List.range 24).any fun k => (s.ownChoice l nos k).isSome then none
    else s.unshadowed.chooseCores l (s.openCores l.queue cl) nos

/-- Whether a cluster was the one on which a gang was last killed while another has room (R403). -/
def State.shunned (s : State) (l : Launch) (gang cl : Nat) : Bool :=
  tget l.shun gang == some cl && (List.range 24).any fun k => k != cl && (s.choice l (l.gangNos gang) k).isSome

/-- Whether a candidate has room in a cluster. -/
def State.candFits (s : State) (c : Cand) (cl : Nat) : Bool :=
  match s.launch? c.launch with
  | none => false
  | some l => !l.conts.any (fun n => n.1 / max l.part.gang 1 == c.gang) && (s.choice l (l.gangNos c.gang) cl).isSome

/-- Whether a gang is the one that a cluster with room is given: every candidate before it does not fit (R392). -/
def State.chosen (s : State) (c : Cand) (cl : Nat) : Bool :=
  s.cands.all fun d => !d.before c || (d.launch == c.launch && d.gang == c.gang) || !s.candFits d cl

/-! ### Screening (R406) -/

/-- Whether the units of a launch are eligible for screening (R406). -/
def State.eligible (s : State) (l : Launch) (no : Nat) : Bool :=
  s.fe.scrctl.getLsbD 8 && (l.det || l.part.raceFree) && !l.desc.front &&
    !(no == 0 && (l.part.bindRing || l.part.bindChan))

/-- Dispatch the shadow of a unit on another cluster, where one has room (R406): eligible units are chosen with
probability 2^-LOG2N by the hardware random source. DESIGN CHOICE: log 15. -/
def State.screen (s : State) (l : Launch) (no cluster : Nat) (gen : Word) : State :=
  let (n, s1) := s.draw
  let cores := (List.range Config.cores).filter fun c => clusterOf c != cluster && s.mayPlace l.queue c
  if !s.eligible l no then s
  else if !Config.screenPick n then s1
  else
    let g := no / max l.part.gang 1
    let there := s1.gangs.any fun x => x.launch == l.key && x.idx == g && x.shadow
    let placed (c : Nat) : Option State :=
      (if there then s1 else s1.addGang l.key g (clusterOf c) true gen).placeUnit l no c true true
    match cores.findSome? placed with
    | none => s1
    | some s2 =>
      { s2 with units := updIf s2.units (fun u => u.launch == l.key && u.no == no) fun u => { u with screened := true } }

/-! ### GANG_DISPATCH (R392) -/

/-- Mark a gang of a launch as started. -/
def Launch.gangStarted (l : Launch) (gang : Nat) (now : BitVec 96) : Launch :=
  let u := max l.part.gang 1
  { l with
    returned := l.returned.filter fun g => g != gang
    nextUnit := if l.returned.contains gang then l.nextUnit else max l.nextUnit ((gang + 1) * u)
    startT := if l.started then l.startT else now
    started := true }

/-- Start a continuation that waits (R384): the unit keeps its core, allocation, tiles and bindings. -/
def State.startCont (s : State) (l : Launch) (no : Nat) (dl : Option Nat) : State :=
  match s.units.find? fun u => u.launch == l.key && u.no == no && !u.shadow with
  | none => s
  | some u => match u.next with
    | none => s
    | some n =>
      let s1 := s.modLaunch l.key fun l => { l with conts := l.conts.filter fun c => c.1 != no }
      (s1.modUnit u.key fun u => { u with deadline := dl }).beginStage u.key n.desc

/-- Start a gang that has not started, on the cores given. -/
def State.startGang (s : State) (l : Launch) (gang : Nat) (cores : List Nat) : Option State :=
  let nos := l.gangNos gang
  if nos.length != cores.length then none
  else
    let cl := clusterOf (cores.headD 0)
    let (gen, s1) := s.takeGangGen
    match (s1.addGang l.key gang cl false gen).placeUnits l (nos.zip cores) with
    | none => none
    | some s2 =>
      let s3 := s2.modLaunch l.key fun x => x.gangStarted gang s.wire.ptp
      some (nos.foldl (fun s no => s.screen l no cl gen) s3)

/-- Whether cores lie outside the reservation of a gang's queue while reserved ones have room for it, or for more of it
(R392). -/
def State.strays (s : State) (l : Launch) (gang : Nat) (cores : List Nat) : Bool :=
  let own (c : Nat) : Bool := s.timely l.queue && s.reservedFor c == some l.queue
  let best := ((s.choice l (l.gangNos gang) (clusterOf (cores.headD 0))).getD []).countP own
  !(cores.all fun c => s.reservedFor c == some l.queue) &&
    ((List.range 24).any (fun k => (s.ownChoice l (l.gangNos gang) k).isSome) || decide (cores.countP own < best))

/-- GANG_DISPATCH (R392): a cluster has room, and the ready gang chosen by the order of R392 starts there, on its queue's
reserved cores where those of some cluster have room; shadow copies make way (R406). Or a continuation starts on its
core. -/
def execGangDispatch (launch gang : Nat) (cores : List Nat) (s : State) : Host.Outcome State Fault Refusal :=
  match s.launch? launch with
  | none => .next s
  | some l => match (s.freeConts l).find? fun n => n.1 / max l.part.gang 1 == gang with
    | some n => .next (s.startCont l n.1 n.2)
    | none =>
      let cl := clusterOf (cores.headD 0)
      let c := s.candOf l gang l.deadline
      if s.nextGang l != some gang || !cores.all (fun k => clusterOf k == cl && s.mayPlace l.queue k) ||
          !s.chosen c cl || s.shunned l gang cl || s.strays l gang cores then .next s
      else .next (match s.startGang l gang cores with
        | some t => t
        | none => ((s.clearShadows cores).startGang l gang cores).getD s)

/-! ### UNIT_RETIRE (R97, R281, R369, R384) -/

/-- Whether every request that a unit has made has completed (R97), and firmware has disposed of every fault of its fibres that
had ended (R400). DEDUCED: log 22. -/
def State.quiet (s : State) (u : Unit) : Bool :=
  let c := (s.core? u.core).getD (Core.reset u.core)
  u.fibres.all (fun f => f.outst.isEmpty && (u.shadow || f.stroke.stores.isEmpty)) &&
    !((c.loadQ ++ c.storeQ).any fun r => r.unit == u.key) && !(c.apWait.any fun a => a.unit == u.key) &&
    !(c.matrix.latch.any fun r => r.unit == u.key) && !(c.matrix.ops.any fun o => o.unit == u.key) &&
    !(s.drains.any fun d => d.sender == u.key && !d.buffered) &&
    !(s.wire.ports.any fun p => (p.posts.any fun x => x.unit == u.key) || p.sending.any fun x => x.post.unit == u.key) &&
    !(c.lateTraps.any fun t => t.unit == u.key) && !(c.records.any fun r => r.late.contains u.key)

/-- The cancel of the requests of an ended unit (R372): its transfers, its unsent drains, its posts and what waits in
the catch latch. -/
def State.cancelUnit (s : State) (u : Unit) : State :=
  let s1 := ((s.dropTransfers u).dropDrains u).dropPosts u
  s1.modCore u.core fun c => { c with
    apWait := c.apWait.filter fun a => a.unit != u.key
    matrix := { c.matrix with
      latch := c.matrix.latch.filter fun r => r.unit != u.key, ops := c.matrix.ops.filter fun o => o.unit != u.key } }

/-- Faults recorded on fibres that have ended go beyond the core, at the PCs where those fibres ended (R400).
DEDUCED: log 22. DESIGN CHOICE: log 25. -/
def State.orphans (s : State) (u : Unit) : State :=
  let s1 := s.modUnit u.key fun v => { v with fibres := v.fibres.map fun f => if f.live then f else { f with faults := [] } }
  (u.fibres.filter fun f => !f.live).foldl (fun s f =>
    (f.faults.filter fun d => d.cls != .late).foldl (fun s d => s.lateTrap u f.fid f.pc d.trap) s) s1

/-- The CRC-64 of ECMA-182 over bytes, from a value (R407). -/
def crc64 (c : DWord) (bs : List Byte) : DWord :=
  bs.foldl (fun (c : DWord) (b : Byte) =>
    let x : DWord := b.setWidth 64
    (List.range 8).foldl (fun (c : DWord) _ => if c.getLsbD 63 then (c <<< 1) ^^^ 0x42F0E1EBA9EA3693 else c <<< 1)
      (c ^^^ (x <<< 56))) c

/-- Put a write record into its place in its fibre's order. -/
def insWrite (l : List WriteRec) (w : WriteRec) : List WriteRec :=
  match l with
  | [] => [w]
  | x :: xs => if w.seq < x.seq then w :: x :: xs else x :: insWrite xs w

/-- The signature of a unit: the XOR of its fibres' signatures (R407). -/
def Unit.signature (u : Unit) : DWord :=
  let ids := (u.writes.map fun w => (w.fid, w.stamp)).eraseDups
  ids.foldl (fun (x : DWord) i =>
    let ws := (u.writes.filter fun w => (w.fid, w.stamp) == i).foldl insWrite []
    x ^^^ ws.foldl (fun c w => crc64 c w.bytes) 0) 0

/-- Keep the signature of a screened copy that retires (R407); the two are compared next once both have. -/
def State.keepSignature (s : State) (u : Unit) : State :=
  if !u.screened then s
  else
    let s1 := s.modLaunch u.launch fun l => { l with screens := l.screens ++ [(u.no, u.shadow, clusterOf u.core, u.signature)] }
    match s.launch? u.launch with
    | some l => if l.screens.any fun e => e.1 == u.no then s1.next (.screenCompare (u.launch * 2 ^ 24 + u.no)) else s1
    | none => s1

/-- A unit that has run to its end leaves, complete (R369): its time counts into E of R396. -/
def State.completeUnit (s : State) (u : Unit) : State := (s.keepSignature u).finishUnit u .complete

/-- UNIT_RETIRE: no fibre of the unit is live and its requests have completed (R97). An ending unit ends at its bank
points (R372); a successor starts in place (R98); a continuation goes through the front end (R384). -/
def execUnitRetire (unit : Nat) (s : State) : Host.Outcome State Fault Refusal :=
  match s.unit? unit with
  | none => .next s
  | some u0 =>
    let s1 := if u0.ending then s.endAtPoints u0 else s
    match s1.unit? unit with
    | none => .next s1
    | some u =>
      if u.fibres.any Fibre.live || (((s1.launch? u.launch).map fun l => l.conts.any fun n => n.1 == u.no).getD false) then
        .next s1
      else if !(u.fibres.all fun f => f.faults.all fun d => d.cls == .late) then .next (s1.orphans u)
      else
        let s2 := if u.ending then s1.cancelUnit u else s1
        if !s2.quiet u then .next s2
        else if u.ending then .next ((s2.finishUnit u .ended).logRec 4 0x68 (BitVec.ofNat 32 u.no) u.launch)
        else match u.next with
          | none => .next (s2.completeUnit u)
          | some n =>
            if n.cont && !u.shadow then
              let q := s2.queue (((s2.launch? u.launch).map Launch.queue).getD 0)
              let best := (((s2.launch? u.launch).map Launch.deadline).getD none).isNone
              let dl := if q.timed && !best then some (n.issued + q.defaultDl) else none
              .next ((s2.modUnit unit fun v => { v with fibres := [] }).modLaunch u.launch fun l => { l with
                conts := l.conts ++ [(u.no, dl)] })
            else .next (s2.beginStage unit n.desc)

/-! ### The end of a launch (R362, R363, R369) -/

/-- PRELOAD_COMPLETE (R362, R363): the preload copies are performed; one that faults fails the launch. `done.err` names a
copy whose completion at the host carries an error. -/
def execPreloadComplete (done : CopyEnd) (s : State) : Host.Outcome State Fault Refusal :=
  let launch := done.launch
  match s.launch? launch with
  | none => .next s
  | some l =>
    if l.stage != .preload then .next s
    else if l.cancelled then .next (s.modLaunch launch fun l => { l with stage := .ready })
    else
      let r := s.runCopies l.ctx l.preloads done.err
      let s1 := r.1.modLaunch launch fun l => { l with stage := .ready }
      match r.2 with
      | none => .next s1
      | some t => .next (s1.failLaunch launch t.cause t.arg)

/-- The units of a launch that have left, here or elsewhere (R369, R437). -/
def Launch.gone (l : Launch) : Nat := l.ends.length + l.moved.getD 0

/-- LAUNCH_SETTLE (R369, R435): every unit has completed, been dropped or been ended; END is set, the launch's stores are visible
to every agent, and no page is kept for its images any more. -/
def execLaunchSettle (launch : Nat) (s : State) : Host.Outcome State Fault Refusal :=
  match s.launch? launch with
  | none => .next s
  | some l =>
    if l.stage != .ready || decide (l.gone < l.part.grid) then .next s
    else
      let late := match l.deadline with | some d => decide (d < s.time) | none => false
      let kept := s.bank.carried.filter fun p => p.launch != launch
      let s0 := { s with bank := { s.bank with carried := kept } }
      let s1 := ((s0.settleLags 0 .sys).reveal launch).modLaunch launch fun l => { l with
        stage := .settled, endT := s.wire.ptp, startT := if l.started then l.startT else s.wire.ptp }
      .next (if late then s1.note 3 else s1)

/-- The bytes of a launch's record (R367). -/
def Launch.recordOf (l : Launch) : List Byte :=
  recordBytes l.tag l.startT l.endT l.id.toNat (l.done + l.moved.getD 0) l.status l.cause l.chan l.errArg

/-- Update the levels of a settled launch (R371), and give its graph node's completions (R375). -/
def State.settleLevels (s : State) (l : Launch) : State :=
  let s1 := if l.counted then s.modLevels l.ctx l.job l.phase fun v => { v with
      done := v.done + 1, active := v.active - 1, cancelled := v.cancelled || l.cut, failed := v.failed || l.failed }
    else s
  match l.graph with
  | none => s1
  | some (g, n) => s1.modGraph g fun x => { x with
      active := if l.counted then x.active - 1 else x.active, done := if l.counted then x.done + 1 else x.done
      hasFailed := x.hasFailed || l.failed, hasCut := x.hasCut || l.cut
      cause := if l.failed && !x.failed && !x.hasFailed then l.cause else x.cause
      errArg := if l.failed && !x.failed && !x.hasFailed then l.errArg else x.errArg
      events := x.events ++ (match x.nodes.find? fun y => y.idx == n with | some y => y.succs | none => []) }

/-- Remove a launch whose work is over, keeping its word for `LVLQ` (R387) and clearing its argument block.
DESIGN CHOICE: log 34. -/
def State.retireLaunch (s : State) (l : Launch) : State :=
  let memo : LevelMemo := { graph := false, id := l.id.toNat, ctx := l.ctx, job := l.job, word := s.launchWord l, regs := [], iter := 0 }
  let s1 := s.modFe fun e => { e with
    launches := e.launches.filter fun x => x.key != l.key
    memos := if l.counted then memo :: e.memos else e.memos }
  let free (r : Ring) : Ring := if r.reserved == some l.key then { r with reserved := none } else r
  { s1 with
    mem := s1.mem.clearRange (keyArg l.key 0) (keyArg (l.key + 1) 0)
    wire := { s1.wire with rings := s1.wire.rings.map free } }

/-- POST_COPIES_DONE (R362, R363, R369): the post copies run if STATUS will be 2; then the record, the signal and its
event, the levels and the graph node. The launch is kept while a shadow copy of a unit still runs. `done.err`
is as for PRELOAD_COMPLETE. -/
def execPostCopiesDone (done : CopyEnd) (s : State) : Host.Outcome State Fault Refusal :=
  let launch := done.launch
  match s.launch? launch with
  | none => .next s
  | some l =>
    let shadows := s.units.any fun u => u.launch == launch
    if l.stage == .done && !shadows then .next (s.retireLaunch l)
    else if l.stage != .settled then .next s
    else
      let r := if l.status = 2 then s.runCopies l.ctx l.posts done.err else (s, none)
      let l1 := match r.2 with
        | some t => { l with failed := true, cause := t.cause, errArg := t.arg }
        | none => l
      let s1 := match l.hdr, l.graph with
        | some h, _ => r.1.queueRecord l.queue h l1.recordOf
        | none, some (g, n) => (match r.1.graph? g with
          | some x => r.1.nodeRecord x n l1.recordOf
          | none => r.1)
        | none, none => r.1
      let s2 := match l.signal with
        | some p => s1.sendSignal l.ctx l.queue p
        | none => s1
      let s3 := (s2.modLaunch launch fun _ => { l1 with stage := .done }).settleLevels l1
      .next (if shadows then s3 else s3.retireLaunch { l1 with stage := .done })

end Sys2Proof.Machine
end

