-- ==== Sys2Proof/Machine/FrontEnd.lean ====
section
/-! DEFINITION. The front end at work (spec 17 R358 to R388): the parsing of commands, graph events, cancel and level
queries, and the instructions 0xE8 to 0xEF. -/

namespace Sys2Proof.Machine

/-! ### COMMAND_PARSE (R358, R360, R376) -/

/-- The bytes of `n` entries of a queue's ring from an index (R357); none where one cannot be read. -/
def State.ringEntries (s : State) (q : Queue) (i n : Nat) : Option (List Byte) :=
  ((List.range n).mapM fun k => s.extRead q.ctx (locAddr q.base 4096 (64 * ((i + k) % 2 ^ q.size))) 64).map List.flatten

/-- Whether a queue parses (R356, R450). -/
def State.parses (s : State) (q : Queue) : Bool :=
  s.life.readyFlag && q.en && decide (q.func ≤ 16) && q.err == 0 && q.ridx.ult q.kick

/-- Whether an earlier command of a queue has not retired (R358, R362). -/
def State.queueBusy (s : State) (q : Nat) : Bool :=
  (s.fe.launches.any fun l => l.queue == q && l.hdr.isSome && l.unsettled) ||
    s.fe.graphs.any fun g => g.queue == q && !g.settled

/-- Write the record of a refused command (R360, R367). -/
def State.refuseCommand (s : State) (q : Queue) (hdr : Nat) (tag : DWord) (reason : Nat) : State :=
  s.queueRecord q.idx hdr (recordBytes tag s.wire.ptp s.wire.ptp 0 0 4 0 none (BitVec.ofNat 32 reason))

/-- Start a command that is not refused (R362, R376). -/
def State.startCommand (s : State) (q : Queue) (hdr : Nat) (c : Cmd) : State :=
  let s1 :=
    if c.type = 2 then (match s.readGraph q.ctx c.gdesc with
      | some (ns, r) => s.startGraph q hdr c ns r
      | none => s)
    else s.acceptBundle
      { func := q.func, ctx := q.ctx, queue := q.idx, job := c.job, phase := c.phase, graph := none, tag := c.tag
        hdr := some hdr, deadline := s.deadlineOf q c.deadline, pre := (c.pre.map copiesOf).getD []
        post := (c.post.map copiesOf).getD [], signal := c.signal.map signalPartOf } c
  s1.closeLevels q.ctx c.job c.phase c.closePh c.closeJob

/-- COMMAND_PARSE (R358): the next whole command of a queue is refused or started; one that would exceed a limit, or
waits under SERIAL, stays in its queue. -/
def execCommandParse (q : Nat) (s : State) : Host.Outcome State Fault Refusal :=
  let x := s.queue q
  let i := x.ridx.toNat
  if !s.parses x then .next s
  else match s.ringEntries x i 1 with
    | none => .next (s.modQueue q fun x => { x with err := 2 })
    | some h =>
      let n := 1 + partCount h
      if x.kick.toNat < i + n then .next s
      else match s.ringEntries x i n with
        | none => .next (s.modQueue q fun x => { x with err := 2 })
        | some b =>
          let c := cmdOf b
          let s0 := (List.range n).foldl (fun s k => s.noteExt x.ctx (locAddr x.base 4096 (64 * ((i + k) % 2 ^ x.size))) 64) s
          let s1 := s0.modQueue q fun x => { x with ridx := BitVec.ofNat 64 (i + n) }
          if c.serial && s.queueBusy q then .next s
          else match s.refusal x c with
            | some r => .next (s1.refuseCommand x i c.tag r)
            | none =>
              if s.full c.launch.isSome (c.type == 2) then .next s
              else .next (s1.startCommand x i c)

/-! ### GRAPH_EVENT (R375) -/

/-- Change a node of a graph instance. -/
def Graph.modNode (g : Graph) (n : Nat) (f : Node → Node) : Graph :=
  { g with nodes := updIf g.nodes (fun x => x.idx == n) f }

/-- Whether a node can fire (R375). -/
def Node.canFire (n : Node) : Bool := n.pendingN == 0 && !n.fired

/-- A graph instance fails on a node (R375). -/
def State.failGraph (s : State) (g : Nat) (cause : Byte) (arg : Word) : State :=
  s.modGraph g fun x => { x with failed := true, cause := cause, errArg := arg, events := [], fault := none }

/-- A bundle node's command is refused (R375): its record, and the failure of its instance. -/
def State.refuseNode (s : State) (g : Graph) (n : Node) (tag : DWord) (reason : Nat) : State :=
  (s.nodeRecord g n.idx (recordBytes tag s.wire.ptp s.wire.ptp 0 0 4 0 none (BitVec.ofNat 32 reason))).failGraph g.inst 0
    (BitVec.ofNat 32 reason)

/-- Fire a bundle node (R375, R391): its command takes the graph start's job and phase; that of a graph whose own command was
best-effort has no deadline. -/
def State.fireBundle (s : State) (g : Graph) (n : Node) : State :=
  let q := s.queue g.queue
  let fired := (s.noteExt g.ctx (n.f 8 8) (64 * n.f 16 1)).modGraph g.inst fun x => x.modNode n.idx fun y =>
    { y with fired := true }
  match s.extRead g.ctx (n.f 8 8) (64 * n.f 16 1) with
  | none => fired.refuseNode g n 0 10
  | some b =>
    let c := cmdOf b
    if 2 ^ 57 ≤ n.f 8 8 || n.f 16 1 < 1 + partCount b then fired.refuseNode g n c.tag 10
    else
        match minOf ((if c.type == 1 then [] else [1]) ++ s.bundleReasons q c) with
      | some r => fired.refuseNode g n c.tag r
      | none =>
        if s.full c.launch.isSome false then s
        else
          let a : Admit :=
            { func := q.func, ctx := g.ctx, queue := g.queue, job := g.job, phase := g.phase, graph := some (g.inst, n.idx)
              tag := c.tag, hdr := none, deadline := if g.best then none else s.deadlineOf q c.deadline, pre := (c.pre.map copiesOf).getD []
              post := (c.post.map copiesOf).getD [], signal := c.signal.map signalPartOf }
          (fired.acceptBundle a c).closeLevels g.ctx g.job g.phase c.closePh c.closeJob

/-- What keeps a cond node from its value (R375): a page fault, which firmware answers, or a fault that fails the instance. -/
inductive CondStop where
  | page (space adr : Nat)
  | fail (t : TrapInfo)
  deriving DecidableEq, Repr

/-- The value that a cond node compares, read as an acquire at `.sys` (R375). -/
def State.condValue (s : State) (g : Graph) (n : Node) : Except CondStop DWord :=
  if n.f 8 1 < 8 then .ok (g.regs.getD (n.f 8 1) 0)
  else
    let a := n.f 24 8 % 2 ^ 57
    let space := if 2 ^ 63 ≤ n.f 24 8 then 5 else 0
    let key := if space = 5 then s.poolKey g.ctx a rightR else s.vaKey g.ctx a rightR
    match key with
    | none => .error (.page space a)
    | some k =>
      if s.gone (k / 64) then .error (.fail (lineLost space a))
      else if (s.line (k / 64)).poisoned then .error (.fail (poisonAt space a))
      else if (s.mem.badWord k 8).isSome then .error (.fail (checkFail space a))
      else .ok (s.mem.dword k)

/-- The comparison of a cond node (R375). -/
def condHolds (cmp : Nat) (v x : DWord) : Bool :=
  match cmp with
  | 0 => v == x
  | 1 => v != x
  | 2 => v.ult x
  | _ => !v.ult x

/-- Fire a cond node (R375): on a page fault it waits for firmware core 3. DESIGN CHOICE: log 78. -/
def State.fireCond (s : State) (g : Graph) (n : Node) : State :=
  let fired := s.modGraph g.inst fun x => x.modNode n.idx fun y => { y with fired := true }
  match s.condValue g n with
  | .error (.page space a) => s.modGraph g.inst fun x => { x with fault := some (space, a) }
  | .error (.fail t) => fired.failGraph g.inst t.cause t.arg
  | .ok v =>
    let bit := if condHolds (n.f 9 1) v (BitVec.ofNat 64 (n.f 16 8)) then 4 else 5
    if n.link bit then fired.modGraph g.inst fun x => { x with events := x.events ++ [n.f (6 + bit) 1] } else fired

/-- Fire a re-arm node (R375). -/
def Graph.fireRearm (g : Graph) (n : Node) : Graph :=
  let g1 := { g.modNode n.idx (fun y => { y with fired := true }) with iter := g.iter + 1 }
  let limit := n.f 12 4
  if limit != 0 && decide (limit ≤ g1.iter) then { g1 with events := g1.events ++ n.succs }
  else
    let back (y : Node) : Bool := y.idx == n.idx || n.resets / 2 ^ y.idx % 2 == 1
    { g1 with
      nodes := g1.nodes.map fun y => if back y then { y with pendingN := y.npred, fired := false } else y
      events := g1.events ++ [n.f 8 1] }

/-- Fire a node (R375). -/
def State.fireNode (s : State) (g : Graph) (n : Node) : State :=
  match n.kind with
  | 1 => s.fireBundle g n
  | 2 => s.fireCond g n
  | _ => s.modGraph g.inst fun x => x.fireRearm n

/-- Give one completion to a node (R375): one whose count is already 0 is discarded and counted. -/
def State.giveNode (s : State) (g : Graph) (n : Nat) : State :=
  match g.nodes.find? fun y => y.idx == n with
  | none => s
  | some y =>
    if y.pendingN = 0 then s.note 4 else s.modGraph g.inst fun x => x.modNode n fun y => { y with pendingN := y.pendingN - 1 }

/-- The status of a graph instance (R367, R371, R375). DESIGN CHOICE: log 36. -/
def Graph.status (g : Graph) : Nat := if g.failed || g.hasFailed then 4 else if g.cancelled || g.hasCut then 3 else 2

/-- End a graph instance (R369, R375): its record, signal and levels; its word, condition registers and iteration count are
kept (R387, R414). -/
def State.endGraph (s : State) (g : Graph) : State :=
  let rec' := recordBytes g.tag g.startT s.wire.ptp g.inst g.done g.status g.cause none g.errArg
  let s1 := s.queueRecord g.queue g.hdr rec'
  let s2 := match g.signal with
    | some p => s1.sendSignal g.ctx g.queue p
    | none => s1
  let memo : LevelMemo :=
    { graph := true, id := g.inst, ctx := g.ctx, job := g.job, word := s.graphWord { g with settled := true }
      regs := g.regs, iter := g.iter }
  (s2.modLevels g.ctx g.job g.phase fun v => { v with
    cancelled := v.cancelled || g.status == 3, failed := v.failed || g.status == 4 }).modFe fun e => { e with
      graphs := e.graphs.filter fun x => x.inst != g.inst, memos := memo :: e.memos }

/-- GRAPH_EVENT (R375): a node that can fire does, or the next completion is given, or the instance ends. An instance of which
a node waits on a page fault takes no event. -/
def execGraphEvent (inst : Nat) (s : State) : Host.Outcome State Fault Refusal :=
  match s.graph? inst with
  | none => .next s
  | some g =>
    let idle := (s.graphLaunches inst).isEmpty
    if g.fault.isSome then .next s
    else if g.failed || g.cancelled then
      if idle then .next (s.endGraph g) else .next (s.modGraph inst fun x => { x with events := [] })
    else match g.nodes.find? Node.canFire, g.events with
      | some n, _ => .next (s.fireNode g n)
      | none, n :: rest => .next ((s.modGraph inst fun x => { x with events := rest }).giveNode g n)
      | none, [] => if idle then .next (s.endGraph g) else .next s

/-! ### Cancel and level queries (R372, R387) -/

/-- Cancel a graph instance (R372): every unsettled launch of it, and no further node fires. -/
def State.cancelGraph (s : State) (g : Nat) : State :=
  let s1 := s.modGraph g fun x => { x with cancelled := true, events := [], fault := none }
  (s1.fe.launches.filter fun l => (l.graph.map (·.1)) == some g).foldl (fun s l => s.cancelLaunch l.key) s1

/-- Cancel a phase or job (R372). -/
def State.cancelLevel (s : State) (ctx job : Nat) (phase : Option Nat) : State :=
  let s1 := (s.fe.graphs.filter fun g => g.inLevel ctx job phase).foldl (fun s g => s.cancelGraph g.inst) s
  (s1.fe.launches.filter fun l => l.inLevel ctx job phase).foldl (fun s l => s.cancelLaunch l.key) s1

/-- Cancel one unit of a launch (R372): dropped where it has not started, else ended at its next bank point. -/
def State.cancelUnitNo (s : State) (l : Launch) (no : Nat) : State :=
  if s.units.any fun u => u.launch == l.key && u.no == no then
    let s1 := s.modLaunch l.key fun x => { x with conts := x.conts.filter fun c => c.1 != no }
    { s1 with units := updIf s1.units (fun u => u.launch == l.key && u.no == no) fun u =>
        { u with ending := true, next := none } }
  else s.modLaunch l.key fun x => { x with ends := x.ends ++ [droppedUnit no] }

/-- A launch by its identifier: 0 names the issuer's own. -/
def State.launchById (s : State) (own : Nat) (id : Word) : Option Launch :=
  if id == 0 then s.launch? own else s.fe.launches.find? fun l => l.id == id && l.counted

/-- Whether a level of a context and job is within an issuer's reach (R387). -/
def Launch.reaches (me : Launch) (ctx job : Nat) : Bool := me.sys || (me.ctx == ctx && me.job == job)

/-- The word kept of a settled launch or graph (R371, R387). DESIGN CHOICE: log 36. -/
def State.memo? (s : State) (graph : Bool) (id : Nat) : Option LevelMemo :=
  s.fe.memos.find? fun m => m.graph == graph && m.id == id

/-- Whether a launch has settled. -/
def Launch.over' (l : Launch) : Bool := l.stage == .settled || l.stage == .posting || l.stage == .done

/-- CANCEL for an issuer's launch (R387): the state and the status. -/
def State.cancelBy (s : State) (me : Launch) (lv : Level) (a : Word) : State × Nat :=
  match lv with
  | .unit =>
    if me.part.grid ≤ a.toNat then (s, 2)
    else if me.over' || me.ends.any fun e => e.no == a.toNat then (s, 1)
    else (s.cancelUnitNo me a.toNat, 0)
  | .launch => match s.launchById me.key a with
    | some l =>
      if !me.reaches l.ctx l.job then (s, 2) else if l.over' then (s, 1) else (s.cancelLaunch l.key, 0)
    | none => match s.memo? false a.toNat with
      | some m => (s, if me.reaches m.ctx m.job then 1 else 2)
      | none => (s, 2)
  | .graph => match s.graph? a.toNat with
    | some g => if me.reaches g.ctx g.job then (s.cancelGraph g.inst, 0) else (s, 2)
    | none => match s.memo? true a.toNat with
      | some m => (s, if me.reaches m.ctx m.job then 1 else 2)
      | none => (s, 2)
  | .phase =>
    let j := a.toNat / 256
    let p := a.toNat % 256
    if 16 ≤ j || !me.reaches me.ctx j then (s, 2)
    else if s.phaseDone me.ctx j p then (s, 1)
    else (s.cancelLevel me.ctx j (some p), 0)
  | .job =>
    if 16 ≤ a.toNat || !me.reaches me.ctx a.toNat then (s, 2)
    else if s.jobDone me.ctx a.toNat then (s, 1)
    else (s.cancelLevel me.ctx a.toNat none, 0)

/-- The word of a unit of a launch (R371). -/
def State.unitWord (s : State) (l : Launch) (no : Nat) : DWord :=
  match l.ends.find? fun e => e.no == no with
  | some e => levelWord e.fibres (if e.how == .complete then 1 else if l.failed then 3 else 2) 0
  | none => match s.units.find? fun u => u.launch == l.key && u.no == no && !u.shadow with
    | some u => levelWord u.ended 0 (u.fibres.countP Fibre.live)
    | none => 0

/-- LVLQ for an issuer's launch (R371, R387); none is not found. -/
def State.levelBy (s : State) (me : Launch) (lv : Level) (a : Word) : Option DWord :=
  match lv with
  | .unit => if me.part.grid ≤ a.toNat then none else some (s.unitWord me a.toNat)
  | .launch => match s.launchById me.key a with
    | some l => if me.reaches l.ctx l.job then some (s.launchWord l) else none
    | none => (s.memo? false a.toNat).bind fun m => if me.reaches m.ctx m.job then some m.word else none
  | .graph => match s.graph? a.toNat with
    | some g => if me.reaches g.ctx g.job then some (s.graphWord g) else none
    | none => (s.memo? true a.toNat).bind fun m => if me.reaches m.ctx m.job then some m.word else none
  | .phase =>
    let j := a.toNat / 256
    if 16 ≤ j || !me.reaches me.ctx j then none else some (s.levelWordOf me.ctx j (some (a.toNat % 256)))
  | .job => if 16 ≤ a.toNat || !me.reaches me.ctx a.toNat then none else some (s.levelWordOf me.ctx a.toNat none)

/-! ### The instructions (R381 to R388) -/

/-- The form of a front-end instruction. -/
def opFe (c : Ctl) (reads : List Rd) (last regs : List Nat) : Op :=
  { op0 c with
    reads := reads, last := last, regs := regs, ends := 3, takes := [.frontEnd, .plant], front := true }

/-- FEREFUSE with a reason (R381, R408). -/
def feRefuse (reason : Nat) : TrapInfo := trapOf 0x6B (BitVec.ofNat 32 reason)

/-- Refuse a request after acceptance: the fault is taken at a later instruction (R381).
DESIGN CHOICE: log 35. -/
def State.refuseFe (s : State) (x : Ctx) (reason : Nat) : State :=
  s.engineFault x.u (some x.asker) .frontEnd (feRefuse reason)

/-- The launch of the unit that issues. -/
def State.myLaunch (s : State) (x : Ctx) : Launch :=
  (s.launch? x.u.launch).getD
    { key := x.u.launch, id := 0, func := 0, ctx := 0, queue := 0, job := 0, phase := 0, graph := none, tag := 0
      hdr := none, part := noPart, desc := x.u.desc, sys := false, det := false, preloads := [], posts := []
      signal := none, stage := .ready, deadline := none, parsed := 0, startT := 0, started := false, endT := 0
      nextUnit := 0, returned := [], conts := [], ends := [], done := 0, moved := none, cancelled := false
      failed := false, cause := 0, errArg := 0, kills := [], shun := [], round := 0
      roundEnds := [], contribs := [], committing := false, passQ := [], sysRound := false, begun := false, screens := [], banked := []
      chan := none }

/-- The 64 bytes of a block that an instruction reads at an access, after its checks (R197, R211). -/
def State.blockAt (s : State) (a : Acc) (off n : Nat) : Except TrapInfo (List Byte) :=
  let k := a.key + off
  if tokenKey k && s.gone (k / 64) then .error (lineLost a.space (a.adr + off))
  else if tokenKey k && (s.line (k / 64)).poisoned then .error (poisonAt a.space (a.adr + off))
  else match s.badRange { a with key := k, adr := a.adr + off } n with
    | some t => .error t
    | none => .ok (s.mem.goodBytes k n)

/-- Whether a release of the issuing fibre holds (R219, R350): its earlier stores and atomics have been performed, and its
posted frames have been read. -/
def State.released (s : State) (x : Ctx) : Bool := x.f.storesDone && !s.unreadPosts x.u x.f

/-- The absolute deadline of work that an issuer starts (R391). -/
def State.childDeadline (s : State) (me : Launch) : Option Nat :=
  let q := s.queue me.queue
  if me.deadline.isNone || !q.timed then none else some (s.time + q.defaultDl)

/-- Start the launch of a part that `LAUNCH` has read (R382): the identifier, or 0 where the part is refused.
DESIGN CHOICE: log 35. -/
def State.launchFrom (s : State) (x : Ctx) (part : List Byte) (sig : Option (List Byte)) : State × Word :=
  let me := s.myLaunch x
  let p := launchPartOf part
  let rs := (if launchZeros part true then [] else [2]) ++ s.partReasons me.sys me.ctx me.func (some x.u) part ++
    (match sig with
      | some b => (if zeros b 18 46 then [] else [2]) ++ (if signalBad b then [11] else [])
      | none => [])
  match minOf rs, s.readDesc me.ctx p.kdesc with
  | none, some d =>
    let key := s.fe.nextKey
    let s1 := if p.args = 0 then s.copyArgs key x.u d.args else s.buildArgs key me.ctx p.args d.args 0
    s1.enlist
      { func := me.func, ctx := me.ctx, queue := me.queue, job := me.job, phase := me.phase, graph := none, tag := 0
        hdr := none, deadline := s.childDeadline me, pre := [], post := [], signal := sig.map signalPartOf } (some p) d
  | r, _ => (s.logRec 1 0 (BitVec.ofNat 32 (r.getD 4)) 0, 0)

/-- LAUNCH (R382): a release at `.dev`. -/
def execLaunch (c : Ctl) (d : VReg) (p : MemOp) (s : State) : Host.Outcome State Fault Refusal :=
  s.issue (opFe c p.reads p.lastRegs (dstRegs d 1)) fun x s =>
    match s.reachMem x p 64 64 permR rightR [0, 3] with
    | .error t => .trap t
    | .ok a =>
      if !s.released x then .wait s .fence
      else match s.blockAt a 0 64 with
        | .error t => .trap t
        | .ok b =>
          let give (r : State × Word) : Fx := .done (r.1.modCur fun f => f.pendRegs (x.f.slotOf d.toNat) [fresh r.2])
          if s.full true false then .wait { s with seqCtr := s.seqCtr + 1 } (.accept (.launch c d p) s.seqCtr)
          else
          let s := (s.noteRange s.mem x.u.core a.key 64).releaseTo x.u .dev
          if field b 40 1 = 1 then
            match s.reachMem x p 128 64 permR rightR [0, 3] with
            | .error t => .trap t
            | .ok a2 => match s.locate x.u a.space (a.adr + 64) rightR with
              | none => .trap (pageFault a.space (a.adr + 64))
              | some k2 => match s.blockAt { a2 with key := k2 - 64 } 64 64 with
                | .error t => .trap t
                | .ok sg => give ((s.noteRange s.mem x.u.core k2 64).launchFrom x b (some sg))
          else give (s.launchFrom x b none)

/-- CONT (R384): the checks of R98, then the fibre ends; a release at `.dev` (R388). -/
def execCont (c : Ctl) (delta : BitVec 27) (s : State) : Host.Outcome State Fault Refusal :=
  s.issue (opFe c [] [] []) fun x s =>
    match s.successor x delta with
    | .error e => .trap e
    | .ok d => if !s.released x then .wait s .fence else .done ((s.releaseTo x.u .dev).recordNext x true d).endCur

/-- GARM (R385): a release at `.dev`. -/
def execGarm (c : Ctl) (a : Src) (s : State) : Host.Outcome State Fault Refusal :=
  s.issue (opFe c (a.reads 1 false true) (a.lastRegs false) []) fun x s =>
    let n := (x.f.src32 a).toNat
    if !s.released x then .wait s .fence
    else
    let s := s.releaseTo x.u .dev
    match (s.myLaunch x).graph.bind fun g => s.graph? g.1 with
      | none => .done (s.refuseFe x 2)
      | some g =>
        if n < g.nodes.length then .done (s.modGraph g.inst fun y => { y with events := y.events ++ [n] })
        else .done (s.refuseFe x 2)

/-- GCOND (R385): a release at `.dev`. -/
def execGcond (c : Ctl) (k v : Src) (s : State) : Host.Outcome State Fault Refusal :=
  s.issue (opFe c (k.reads 1 false true ++ v.reads 3 true true) (k.lastRegs false ++ v.lastRegs true) []) fun x s =>
    let n := (x.f.src32 k).toNat
    if !s.released x then .wait s .fence
    else
    let s := s.releaseTo x.u .dev
    match (s.myLaunch x).graph.bind fun g => s.graph? g.1 with
      | none => .done (s.refuseFe x 2)
      | some g =>
        if n < 8 then .done (s.modGraph g.inst fun y => { y with regs := updAt y.regs n fun _ => x.f.src64 false v })
        else .done (s.refuseFe x 2)

/-- The form of `SIGNAL`. -/
def opSignal (c : Ctl) (p : MemOp) (v : Src) (takes : List FaultClass) : Op :=
  { opFe c (p.reads ++ v.reads 3 true true) (p.lastRegs ++ v.lastRegs true) [] with takes := [.frontEnd, .plant] ++ takes }

/-- SIGNAL as a write (R386): a release at `.sys`, then an 8-byte store. -/
def execSignalWrite (c : Ctl) (p : MemOp) (v : Src) (s : State) : Host.Outcome State Fault Refusal :=
  let o := opSignal c p v []
  s.issue o fun x s =>
    match s.reachMem x p 8 8 permW rightW [0, 4, 5] with
    | .error t => .trap t
    | .ok a =>
      let w := x.f.srcPair false v
      s.request x (.store (bytesOfWords [w.1, w.2]) [w.1.code, w.2.code]) .rel false .sys a 8 [] o.last

/-- SIGNAL as an add (R233, R386). -/
def execSignalAdd (c : Ctl) (p : MemOp) (v : Src) (s : State) : Host.Outcome State Fault Refusal :=
  let o := opSignal c p v [.store]
  s.issue o fun x s =>
    match s.reachMem x p 8 8 (permW ||| permA) (rightR ||| rightW) [0, 4, 5] with
    | .error t => .trap t
    | .ok a =>
      if a.space == 4 && !((s.hostKey (s.funcOf x.u) a.adr).map (·.2)).getD false then
        .trap (trapOf 0x22 (p.cap.n.setWidth 32))
      else s.request x (.amo .add false (x.f.src64 false v)) .rel false .sys a 8 [] o.last

/-- CANCEL (R372, R387). -/
def execCancel (c : Ctl) (l : Level) (d : VReg) (a : Src) (s : State) : Host.Outcome State Fault Refusal :=
  s.issue (opFe c (a.reads 1 false true) (a.lastRegs false) (dstRegs d 1)) fun x s =>
    let r := s.cancelBy (s.myLaunch x) l (x.f.src32 a)
    .done (r.1.modCur fun f => f.pendRegs (x.f.slotOf d.toNat) [fresh (BitVec.ofNat 32 r.2)])

/-- Whether a word that `LVLQ` returns makes it an acquire (R387): STATE 1 to 3, of a launch or wider. -/
def levelAcquires (l : Level) (w : DWord) : Bool := l != .unit && w.extractLsb' 62 2 != 0

/-- LVLQ (R371, R387). -/
def execLvlq (c : Ctl) (l : Level) (d : VReg) (a : Src) (s : State) : Host.Outcome State Fault Refusal :=
  s.issue (opFe c (a.reads 1 false true) (a.lastRegs false) (dstRegs d 2)) fun x s =>
    let w := (s.levelBy (s.myLaunch x) l (x.f.src32 a)).getD (BitVec.allOnes 64)
    let found := (s.levelBy (s.myLaunch x) l (x.f.src32 a)).isSome
    let s1 := if found && levelAcquires l w then s.dropL1Shared x.u.core else s
    .done (s1.modCur fun f => f.pendRegs (x.f.slotOf d.toNat) (regs64 w))

/-- A host ring (R377). -/
def State.hostRing (s : State) (func h : Nat) : HostRing :=
  (s.fe.rings.find? fun r => r.func == func && r.idx == h).getD { func := func, idx := h, base := 0, ctl := 0, head := 0, tail := 0 }
/-- Change a host ring, making its record where there is none. -/
def State.modHostRing (s : State) (func h : Nat) (f : HostRing → HostRing) : State :=
  s.modFe fun e =>
    if e.rings.any fun r => r.func == func && r.idx == h then
      { e with rings := updIf e.rings (fun r => r.func == func && r.idx == h) f }
    else { e with rings := e.rings ++ [f (s.hostRing func h)] }
/-- HRCTL.EN. -/
def HostRing.en (r : HostRing) : Bool := r.ctl.getLsbD 31
/-- HRCTL.SIZE. -/
def HostRing.size (r : HostRing) : Nat := (r.ctl.extractLsb' 8 5).toNat
/-- HRCTL.VEC. -/
def HostRing.vec (r : HostRing) : Nat := (r.ctl.extractLsb' 0 6).toNat

/-- The bytes of an entry of a host ring (R378). -/
def hostEntry (payload : List Byte) (t : BitVec 96) (n : Nat) : List Byte :=
  payload ++ bytesOfNat 12 t.toNat ++ List.replicate 12 0 ++ bytesOfNat 8 n

/-- HPOST (R383): a release at `.sys`. -/
def execHpost (c : Ctl) (d : VReg) (h : Src) (v : RSrc) (s : State) : Host.Outcome State Fault Refusal :=
  let o := opFe c (h.reads 1 false true ++ groupReads 3 v.n.toNat 8 false) (h.lastRegs false ++ v.lastRegs 8) (dstRegs d 1)
  s.issue o fun x s =>
    let func := s.funcOf x.u
    let n := (x.f.src32 h).toNat
    let r := s.hostRing func n
    if 64 ≤ n || !r.en then .done (s.refuseFe x 1)
    else if !s.released x then .wait s .fence
    else if r.head.toNat + 2 ^ r.size ≤ r.tail.toNat then
      .wait { s with seqCtr := s.seqCtr + 1 } (.accept (.hpost c d h v) s.seqCtr)
    else
      let off := (r.base.toNat + 64 * (r.tail.toNat % 2 ^ r.size)) % 2 ^ 64
      match s.hostKey func off with
      | none => .trap (pageFault 4 off)
      | some (k, _) =>
        let s := s.releaseTo x.u .sys
        let no := r.tail + 1
        let words := (List.range 8).map fun i => x.f.reg (v.n.toNat + i)
        let out := words.map egress
        let s0 := s.noteEgress x.u.core ((List.range 8).map fun i => (k + 4 * i, x.f.reg (v.n.toNat + i)))
        let s1 := s0.pokeKeys ((List.range 64).map fun i => k + i) (hostEntry (bytesOfWords out) s.wire.ptp no.toNat)
        let s2 := (s1.modHostRing func n fun r => { r with tail := no }).raiseEvent func r.vec
        .done (s2.modCur fun f => f.pendRegs (x.f.slotOf d.toNat) [fresh (pairLo no)])

end Sys2Proof.Machine
end

