-- ==== Sys2Proof/Machine/Sched.lean ====
section
/-! DEFINITION. Time sharing and pre-emption (spec 18 R389 to R399, R404) and screening (R405 to R407): the deadline
queues' periods and budgets, reservations, the choice of victims and what is done to them. -/

namespace Sys2Proof.Machine

/-! ### Registers before READY (R450) -/

/-- A register write: before READY it is discarded and logged by firmware core 0 (R450). -/
def State.whenReady (s : State) (offset : Nat) (f : State → State) : State :=
  if s.life.readyFlag then f s else s.logRec 0 0 0 offset

/-! ### Reservations (R389) -/

/-- The cores of a cluster that no queue has reserved, of those that `ok` allows. -/
def FrontEnd.freeIn (e : FrontEnd) (ok : Nat → Bool) (cl : Nat) : List Nat :=
  (clusterCores cl).filter fun c => ok c && (tget e.reserve c).isNone

/-- The cluster from which a queue that still needs `n` cores takes the next of them, so that its cores lie in as few clusters as
they can (R389): one where it has some already; else the one that gives most; of several, the lowest. -/
def FrontEnd.bestCluster (e : FrontEnd) (ok : Nat → Bool) (q n : Nat) : Nat :=
  let gain (cl : Nat) : Nat :=
    let free := min n (e.freeIn ok cl).length
    if free != 0 && e.reserve.any fun r => r.2 == q && clusterOf r.1 == cl then free + Config.cores else free
  (List.range 24).foldl (fun b cl => if gain b < gain cl then cl else b) 0

/-- Reserve `n` more cores for a queue, of those that `ok` allows, cluster by cluster. -/
def FrontEnd.addCores (e : FrontEnd) (ok : Nat → Bool) (q n : Nat) : Nat → FrontEnd
  | 0 => e
  | k + 1 =>
    if n = 0 then e
    else
      let got := (e.freeIn ok (e.bestCluster ok q n)).take n
      { e with reserve := e.reserve ++ got.map fun c => (c, q) }.addCores ok q (n - got.length) k

/-- Give a queue the number of reserved cores that RCORES asks for, in as few clusters as can be: those on which a unit runs stay, as many
as are wanted, and the others move (R389). DESIGN CHOICE: log 38. -/
def State.setReserve (s : State) (q n : Nat) : State :=
  let mine := s.fe.reserve.filter fun r => r.2 == q
  let fixed := mine.filter fun r => !(s.unitsOn r.1).isEmpty
  let bare : FrontEnd := { s.fe with reserve := s.fe.reserve.filter fun r => r.2 != q }
  if n ≤ fixed.length then { s with fe := bare.addCores (fun c => fixed.any fun r => r.1 == c) q n 24 }
  else { s with fe := ({ bare with reserve := bare.reserve ++ fixed }).addCores (fun _ => true) q (n - fixed.length) 24 }

/-- A write of RCORES: the sum over all queues never exceeds 96 (R389). -/
def State.writeRcores (s : State) (q n : Nat) : State :=
  let others := ((s.fe.queues.filter fun x => x.idx != q).map Queue.rcores).sum
  let m := min (min n Config.cores) (Config.cores - others)
  (s.modQueue q fun x => { x with rcores := m }).setReserve q m

/-! ### Periods and budgets (R390, R393) -/

/-- A write to QPER (R390). -/
def State.writeQper (s : State) (q : Nat) (v : Word) : State :=
  s.modQueue q fun x =>
    let y := { x with per := v.toNat }
    if v == 0 then { y with period := 0, periodEnd := 0, budget := 0, overrun := false }
    else if x.per = 0 then
      { y with period := v.toNat, periodEnd := s.time + v.toNat * Config.usec, budget := x.bud * Config.usec
               overrun := false }
    else y

/-- A write to QBUD: at most QPER × 96 (R389). -/
def State.writeQbud (s : State) (q : Nat) (v : Word) : State :=
  s.modQueue q fun x => { x with bud := min v.toNat (x.per * Config.cores) }

/-- QPER_QBUD_WRITE (R389, R390). -/
def execQperQbudWrite (q : Nat) (bud : Bool) (v : Word) (s : State) : Host.Outcome State Fault Refusal :=
  .next (s.whenReady (0x100030 + 64 * q) fun s =>
    if 256 ≤ q then s else if bud then s.writeQbud q v else s.writeQper q v)

/-- PERIOD_START (R390): the next period begins at the end of the last, with the QPER and QBUD then in force. -/
def execPeriodStart (q : Nat) (s : State) : Host.Outcome State Fault Refusal :=
  let x := s.queue q
  if x.timed && decide (x.periodEnd ≤ s.time) then
    .next (s.modQueue q fun x => { x with
      period := x.per, periodEnd := x.periodEnd + x.per * Config.usec, budget := x.bud * Config.usec, overrun := false })
  else .next s

/-- The cores that a queue's units occupy. DESIGN CHOICE: log 38. -/
def State.coresOf (s : State) (q : Nat) : Nat :=
  ((List.range Config.cores).filter fun c =>
    s.units.any fun u => u.core == c && ((s.launch? u.launch).map Launch.queue) == some q).length

/-- Time passes: each deadline queue's budget falls by the cores its units occupy (R390). -/
def State.drawBudgets (s : State) (dt : Nat) : State :=
  s.modFe fun e => { e with queues := e.queues.map fun x =>
    if x.timed then { x with budget := x.budget - dt * s.coresOf x.idx } else x }

/-- BUDGET_EXHAUSTED (R393): an OVERRUN record, OVCNT, and best-effort treatment until the period ends. A budget reaches 0
by what resident units draw. DEDUCED: log 39. -/
def execBudgetExhausted (q : Nat) (s : State) : Host.Outcome State Fault Refusal :=
  let x := s.queue q
  if x.timed && x.budget == 0 && !x.overrun && s.coresOf q != 0 then
    .next ((s.modQueue q fun x => { x with overrun := true, ovcnt := min 65535 (x.ovcnt + 1) }).logRec 2 0x69
      (BitVec.ofNat 32 q) 0)
  else .next s

/-- QRES (R389): RCORES, and CLR in bit 15. -/
def State.writeQres (s : State) (q : Nat) (v : Word) : State :=
  let s1 := s.writeRcores q (v.extractLsb' 0 7).toNat
  if v.getLsbD 15 then s1.modQueue q fun x => { x with ovcnt := 0 } else s1

/-- A write of RCORES (R389). -/
def execQres (q : Nat) (v : Word) (s : State) : Host.Outcome State Fault Refusal :=
  .next (s.whenReady (0x10003C + 64 * q) fun s => if q < 256 then s.writeQres q v else s)

/-- A write of 1 to CLR, with RCORES as it stands (R389). -/
def execOvcntClear (q : Nat) (s : State) : Host.Outcome State Fault Refusal :=
  .next (s.whenReady (0x10003C + 64 * q) fun s =>
    if q < 256 then s.modQueue q fun x => { x with ovcnt := 0 } else s)

/-! ### PRECTL and SCRCTL (R397, R405) -/

/-- The value that a write to PRECTL stores (R397). -/
def prectlValue (v : Word) : Word :=
  let d := min 100 (max 50 (v.extractLsb' 17 7).toNat)
  let f := min 50 (v.extractLsb' 10 7).toNat
  let b := min 40 (v.extractLsb' 0 6).toNat
  BitVec.ofNat 32 (d * 2 ^ 17 + f * 2 ^ 10 + b)

/-- PRECTL (R397). -/
def execPrectl (v : Word) (s : State) : Host.Outcome State Fault Refusal :=
  .next (s.whenReady 0x400000 fun s => s.modFe fun e => { e with prectl := prectlValue v })

/-- PRECTL_COPY (R397): the front end's copy. -/
def execPrectlCopy (s : State) : Host.Outcome State Fault Refusal :=
  .next (s.modFe fun e => { e with prectlCopy := e.prectl })

/-- The value that a write to SCRCTL stores (R405). -/
def scrctlValue (v : Word) : Word :=
  BitVec.ofNat 32 ((if v.getLsbD 8 then 256 else 0) + min 16 (max 4 (v.extractLsb' 0 5).toNat))

/-- SCRCTL (R405). -/
def execScrctl (v : Word) (s : State) : Host.Outcome State Fault Refusal :=
  .next (s.whenReady 0x400008 fun s => s.modFe fun e => { e with scrctl := scrctlValue v })

/-! ### What is done to a victim (R395 to R398) -/

/-- The three actions, cheapest first (R395). -/
inductive PreAct where
  | drain | flush | save
  deriving DecidableEq, Repr

/-- The rank of an action (R395). -/
def PreAct.rank : PreAct → Nat
  | .drain => 0
  | .flush => 1
  | .save => 2

/-- Change one placed gang. -/
def State.modPlaced (s : State) (g : Gang) (f : Gang → Gang) : State :=
  { s with gangs := updIf s.gangs (fun x => x.launch == g.launch && x.idx == g.idx && x.shadow == g.shadow) f }

/-- The time that a gang has been resident: the longest of its units (R396). -/
def State.residence (s : State) (g : Gang) : Nat :=
  g.resident + (s.unitsOf g).foldl (fun m u => max m (s.time - u.dispatched)) 0

/-- The mean resident time E of a launch's units that have completed, once there are four (R396); those that completed on
another device have no resident time here. -/
def Launch.meanResident (l : Launch) : Option Nat :=
  let done := l.ends.filter fun e => e.how == .complete && e.resident != 0
  if 4 ≤ done.length then some ((done.map UnitDone.resident).sum / done.length) else none

/-- Whether a fibre of a gang of a launch has executed an opcode of 0xE0 to 0xEF, in a resident unit or in one that has
retired (R396). -/
def State.usedFront (s : State) (l : Launch) (g : Gang) : Bool :=
  (s.unitsOf g).any Unit.usedFront || l.ends.any fun e => e.front && e.no / max l.part.gang 1 == g.idx

/-- The time of the DRAIN bound (R397, R398), longer where capping has lowered the arithmetic clock (R17). -/
def State.drainTime (s : State) : Nat := (s.fe.prectlCopy.extractLsb' 0 6).toNat * (100 * 65536) * 1700 / s.life.mhz

/-- The action that R396 gives a gang. DESIGN CHOICE: log 40. -/
def State.actionOf (s : State) (g : Gang) : PreAct :=
  match s.launch? g.launch with
  | none => .flush
  | some l =>
    let e := s.residence g
    let p := s.fe.prectlCopy
    let drainPct := (p.extractLsb' 17 7).toNat
    let flushPct := (p.extractLsb' 10 7).toNat
    let near := match l.meanResident with
      | some m => decide (drainPct * m ≤ 100 * e) && decide (m ≤ e + s.drainTime)
      | none => false
    let early := match l.meanResident with
      | some m => decide (100 * e ≤ flushPct * m)
      | none => decide (50 ≤ flushPct)
    let us := s.unitsOf g
    if g.shadow then .flush
    else if near then .drain
    else if us.all (fun u => u.desc.idemp && u.ring.isNone && u.channel.isNone) && !s.usedFront l g && early && !l.det then .flush
    else .save

/-- Whether a gang has a fibre waiting on firmware (R395). -/
def State.onFirmware (s : State) (g : Gang) : Bool :=
  (s.unitsOf g).any fun u => u.fibres.any fun f => f.live &&
    (match f.wait with | some (.trapped _ _ _) => true | some .record => true | _ => false)

/-- Flush a gang (R398): it ends now and its units go back to the head of the unstarted ones. -/
def State.flushGang (s : State) (g : Gang) : State :=
  if g.shadow then s.dropShadow g
  else ((s.dropJobs g.launch (some g.idx)).removeGang g.launch g.idx).modLaunch g.launch fun l => l.returnGang g.idx

/-- Begin to bank gangs of a launch (R416): `dest` none is a save, which stays inside the device (R398). -/
def State.startJob (s : State) (launch : Nat) (gangs : List Nat) (whole : Bool) (dest : Option BankDest) : State :=
  let j : BankJob :=
    { num := s.bank.nextJob, launch := launch, gangs := gangs, whole := whole, dest := dest, step := 0
      image := [], ready := false, since := s.clk, resident := [], faults := [], fronts := [], issues := [], gens := [] }
  { s with bank := { s.bank with jobs := s.bank.jobs ++ [j], nextJob := s.bank.nextJob + 1 } }.next (.bankingStart j.num)

/-- Save a gang (R398): its shadow copies are flushed. DESIGN CHOICE: log 40. -/
def State.saveGang (s : State) (g : Gang) : State :=
  let shadows := s.gangs.filter fun x => x.launch == g.launch && x.idx == g.idx && x.shadow
  let s1 := shadows.foldl (fun s x => s.dropShadow x) s
  (s1.modPlaced g fun x => { x with drainTill := none }).startJob g.launch [g.idx] false none

/-- Do to a victim what R396 and R398 say. -/
def State.preempt (s : State) (g : Gang) : State :=
  match s.actionOf g with
  | .drain => s.modPlaced g fun x => { x with drainTill := some (s.time + s.drainTime) }
  | .flush => s.flushGang g
  | .save => s.saveGang g

/-! ### PREEMPTION_DECISION (R395) -/

/-- Whether a gang is leaving its cores already. -/
def State.leaving (s : State) (g : Gang) : Bool :=
  g.drainTill.isSome || g.banking != 0 || (s.unitsOf g).any Unit.ending

/-- The absolute deadline of a gang's units (R391). -/
def State.gangDeadline (s : State) (g : Gang) : Option Nat :=
  match (s.unitsOf g).head? with
  | some u => u.deadline
  | none => none

/-- Whether one deadline is later than another; none is infinite. -/
def laterThan (a b : Option Nat) : Bool :=
  match a, b with
  | some x, some y => decide (y < x)
  | none, some _ => true
  | _, none => false

/-- Whether a gang lies on cores that are reserved for a queue. -/
def State.onReserved (s : State) (q : Nat) (g : Gang) : Bool :=
  (s.unitsOf g).any fun u => s.reservedFor u.core == some q

/-- Whether a gang's queue is best-effort or overrun (R395). -/
def State.bestEffort (s : State) (g : Gang) : Bool :=
  match s.launch? g.launch with
  | some l => !s.timely l.queue
  | none => true

/-- The core of a gang's first unit. -/
def State.firstCore (s : State) (g : Gang) : Nat := ((s.unitsOf g).head?.map Unit.core).getD 0

/-- Whether a gang is a victim before another, for a ready gang of queue `q` (R395). -/
def State.victimBefore (s : State) (q : Nat) (a b : Gang) : Bool :=
  let tests : List (Bool × Bool) :=
    [(s.onReserved q a && !s.onReserved q b, s.onReserved q b && !s.onReserved q a),
     (s.bestEffort a && !s.bestEffort b, s.bestEffort b && !s.bestEffort a),
     (laterThan (s.gangDeadline a) (s.gangDeadline b), laterThan (s.gangDeadline b) (s.gangDeadline a)),
     (decide ((s.actionOf a).rank < (s.actionOf b).rank), decide ((s.actionOf b).rank < (s.actionOf a).rank)),
     (decide (s.firstCore b < s.firstCore a), decide (s.firstCore a < s.firstCore b))]
  match tests.find? fun t => t.1 || t.2 with
  | some t => t.1
  | none => false

/-- Put a gang into its place in the order of victims. -/
def State.insVictim (s : State) (q : Nat) (g : Gang) : List Gang → List Gang
  | [] => [g]
  | x :: xs => if s.victimBefore q g x then g :: x :: xs else x :: s.insVictim q g xs

/-- The gangs that may be victims of a candidate, in order (R395); shadow copies make way by themselves (R406). -/
def State.victims (s : State) (c : Cand) (firmware : Bool) : List Gang :=
  let ok (g : Gang) : Bool :=
    !g.shadow && !s.leaving g && laterThan (s.gangDeadline g) c.deadline && !(g.launch == c.launch && g.idx == c.gang) &&
      (firmware || !s.onFirmware g)
  (s.gangs.filter ok).foldl (fun l g => s.insVictim c.queue g l) []

/-- A cluster in which a candidate fits. -/
def State.room (s : State) (c : Cand) : Option Nat := (List.range 24).find? fun cl => s.candFits c cl

/-- The fewest victims, first to last of an order, whose cores give a candidate room; those elsewhere are let be.
DESIGN CHOICE: log 40. -/
def State.enough (s : State) (c : Cand) (gone : List Gang) : List Gang → Option (List Gang)
  | [] => none
  | g :: rest =>
    match (s.without (g :: gone)).room c with
    | some cl => some ((g :: gone).filter fun x => (s.unitsOf x).any fun u => clusterOf u.core == cl)
    | none => s.enough c (g :: gone) rest

/-- PREEMPTION_DECISION (R395): a ready gang of a deadline queue with budget left finds too little room. -/
def execPreemptionDecision (launch gang : Nat) (s : State) : Host.Outcome State Fault Refusal :=
  match s.cands.find? fun c => c.launch == launch && c.gang == gang with
  | none => .next s
  | some c =>
    let going := s.gangs.filter s.leaving
    if !s.timely c.queue || (s.room c).isSome || ((s.without going).room c).isSome then .next s
    else
      let pick := match s.enough c going (s.victims c false) with
        | some vs => some vs
        | none => s.enough c going (s.victims c true)
      .next (((pick.getD []).filter fun g => !s.leaving g).foldl (fun s g => s.preempt g) s)

/-- DRAIN_BOUND_EXPIRY (R398): a drained gang that has not retired is saved, unless it is being cancelled (R404). -/
def execDrainBoundExpiry (launch gang : Nat) (s : State) : Host.Outcome State Fault Refusal :=
  match s.gangs.find? fun g => g.launch == launch && g.idx == gang && g.drainTill.isSome with
  | none => .next s
  | some g => match g.drainTill with
    | some t =>
      if t ≤ s.time && !((s.unitsOf g).all Unit.ending) then .next (s.saveGang g) else .next s
    | none => .next s

/-! ### The bounds of deadline gangs (R394) -/

/-- The cluster of whose reserved cores a candidate would take its place, if some have room. -/
def State.ownRoom (s : State) (c : Cand) : Option Nat :=
  (s.launch? c.launch).bind fun l => (List.range 24).find? fun cl => (s.ownChoice l (l.gangNos c.gang) cl).isSome

/-- Whether R394 bounds the start of a candidate: its queue has budget left, it is no continuation, which keeps its core, and
the reserved cores of a cluster would hold it beside the queue's other units. -/
def State.bounded (s : State) (c : Cand) : Bool :=
  let mine (g : Gang) : Bool := ((s.launch? g.launch).map Launch.queue) == some c.queue
  s.timely c.queue &&
    !((s.launch? c.launch).any fun l => l.conts.any fun n => n.1 / max l.part.gang 1 == c.gang) &&
    ((s.without (s.gangs.filter fun g => !mine g)).ownRoom c).isSome

/-- Keep the gangs whose start R394 bounds, each with the cycles since which it is ready and has reserved cores free. -/
def State.keepWaiting (s : State) : State :=
  if s.fe.queues.any Queue.timed then
    let entry (c : Cand) : WaitingGang :=
      let old := s.fe.waitingGangs.find? fun w => w.launch == c.launch && w.gang == c.gang
      { launch := c.launch, gang := c.gang, ready := (old.map WaitingGang.ready).getD s.clk
        free := if (s.ownRoom c).isSome then some ((old.bind WaitingGang.free).getD s.clk) else none }
    s.modFe fun e => { e with waitingGangs := (s.cands.filter s.bounded).map entry }
  else if s.fe.waitingGangs.isEmpty then s
  else s.modFe fun e => { e with waitingGangs := [] }

/-- Whether a waiting gang must start now for its first instructions to issue in time (R394): its reserved cores have been free
for the time of a start; or they are not, and it has waited for that time, so that what is left of the bound frees them where the
room elsewhere goes. -/
def State.mustStart (s : State) (w : WaitingGang) : Bool :=
  match w.free with
  | some t => decide (t + Config.startBound ≤ s.clk) || decide (w.ready + Config.bothBound ≤ s.clk)
  | none => decide (w.ready + Config.startBound ≤ s.clk)

/-- Whether cores must be freed soon for a gang that waits (R394). -/
def State.pressed (s : State) : Bool := s.fe.waitingGangs.any fun w => w.free.isNone && decide (w.ready + Config.saveBound / 2 ≤ s.clk)

/-- The events that start the gang that a cluster with room is given (R392). -/
def State.startsIn (s : State) (cl : Nat) : List Instr :=
  match s.cands.find? fun d => s.candFits d cl && s.chosen d cl with
  | none => []
  | some d => match s.launch? d.launch with
    | none => []
    | some l =>
      if l.nextGang == some d.gang then
        match s.choice l (l.gangNos d.gang) cl with
        | some cs => [.gangDispatch d.launch d.gang cs]
        | none => []
      else (s.bank.jobs.filter fun j => j.launch == d.launch && j.ready && j.gangs.contains d.gang).map fun j => .planting j.num

/-- What R394 makes happen to a waiting gang: it starts where it has room in time, and where it finds too little, pre-emption
is decided at once. DESIGN CHOICE: log 2. -/
def State.waitingDue (s : State) (w : WaitingGang) : List Instr :=
  match s.cands.find? fun c => c.launch == w.launch && c.gang == w.gang with
  | none => []
  | some c => match (match s.ownRoom c with | some cl => some cl | none => s.room c) with
    | none => [.preemptionDecision c.launch c.gang]
    | some cl => if s.mustStart w then s.startsIn cl else []

/-! ### SCREEN_COMPARE (R407) -/

/-- A difference that involves a cluster: at the third the cluster is excluded until reset. -/
def FrontEnd.difference (e : FrontEnd) (cl : Nat) : FrontEnd :=
  let n := (tget e.diffs cl).getD 0 + 1
  { e with diffs := tset e.diffs cl n, excluded := if 3 ≤ n then insNat e.excluded cl else e.excluded }

/-- SCREEN_COMPARE (R407): both copies of a unit have retired. `unit` is the launch's key times 2^24 plus the unit's
number. DESIGN CHOICE: log 36. -/
def execScreenCompare (unit : Nat) (s : State) : Host.Outcome State Fault Refusal :=
  let key := unit / 2 ^ 24
  let no := unit % 2 ^ 24
  match s.launch? key with
  | none => .next s
  | some l => match l.screens.filter fun e => e.1 == no with
    | [a, b] =>
      let s1 := s.modLaunch key fun l => { l with screens := l.screens.filter fun e => e.1 != no }
      if a.2.2.2 == b.2.2.2 then .next s1
      else
        let ca := a.2.2.1
        let cb := b.2.2.1
        let s2 := (s1.modFe fun e => (e.difference ca).difference cb).logRec 4 0x6C (BitVec.ofNat 32 no) (ca * 256 + cb)
        .next (s2.failLaunch key 0x6C (BitVec.ofNat 32 no))
    | _ => .next s

/-! ### Vectors (R380) -/

/-- VECTOR_TIME_EXPIRY (R380). -/
def execVectorTimeExpiry (func vec : Nat) (s : State) : Host.Outcome State Fault Refusal :=
  if (s.vec func vec).timeDue s.time then .next (s.modVec func vec Vec.fire) else .next s

/-- A write to IVCTL (R379). -/
def State.writeIvctl (s : State) (func vec : Nat) (v : Word) : State :=
  s.modVec func vec fun x =>
    ({ x with time := (v.extractLsb' 9 16).toNat, cnt := min 256 (max 1 (v.extractLsb' 0 9).toNat) }).check

/-- IVCTL (R379): of the vectors 0 to 63. -/
def execIvctl (func vec : Nat) (v : Word) (s : State) : Host.Outcome State Fault Refusal :=
  .next (s.whenReady (0x300000 + 4 * vec) fun s => if vec < 64 then s.writeIvctl func vec v else s)

/-- MSIX_VECTOR_UNMASK (R380): the pending message is sent. -/
def execMsixVectorUnmask (func vec : Nat) (s : State) : Host.Outcome State Fault Refusal :=
  .next (s.modVec func vec fun v => let w := { v with masked := false }; if w.pbit then w.fire else w)

end Sys2Proof.Machine
end

