-- ==== Sys2Proof/Machine/Traps.lean ====
section
/-! DEFINITION. Traps beyond the core (spec 18 R400 to R402), the mapping of pages (09 R190), and the debugger's hold on
`BREAK` records (R402). -/

namespace Sys2Proof.Machine

/-! ### Pages (R190) -/

/-- Put a page into a context's tables: it takes the place of every page that it overlaps.
DESIGN CHOICE: log 24. -/
def State.mapPage (s : State) (p : Page) : State :=
  let hit (x : Page) : Bool :=
    x.ctx == p.ctx && decide (x.va < p.va + pageBytes p.sizeCode) && decide (p.va < x.va + pageBytes x.sizeCode)
  { s with fabric := { s.fabric with pages := s.fabric.pages.filter (fun x => !hit x) ++ [p] } }

/-- Take the pages that overlap a page out of a context's tables. -/
def State.unmapPage (s : State) (ctx va sizeCode : Nat) : State :=
  let hit (x : Page) : Bool :=
    x.ctx == ctx && decide (x.va < va + pageBytes sizeCode) && decide (va < x.va + pageBytes x.sizeCode)
  { s with fabric := { s.fabric with pages := s.fabric.pages.filter fun x => !hit x } }

/-- A page of memory as firmware core 3 maps it. -/
def memPage (ctx va sizeCode phys : Nat) (rights : BitVec 3) : Page :=
  let n := pageBytes sizeCode
  { ctx := ctx, va := va / n * n, sizeCode := sizeCode, phys := phys / n * n, rights := rights, aperture := none
    absent := false, dirty := false }

/-- The virtual address that a faulting address of space 0 or 5 needs mapped: of a pool, the range at this device, its
home (R189, R190). DESIGN CHOICE: log 24. -/
def State.faultVa (s : State) (ctx space adr : Nat) : Option Nat :=
  if space = 0 then (if adr < 2 ^ 57 then some adr else none)
  else if space = 5 then
    let pool := 32 * ctx + adr / 2 ^ 52
    let off := adr % 2 ^ 52
    match s.fabric.granules.find? fun g => g.pool == pool && g.granule == off / 2 ^ 30 with
    | some g =>
      if g.home == s.selfIn (some pool) then some (g.range + off % 2 ^ 30)
      else none
    | none => none
  else none

/-! ### TRAP_COALESCE (R400) -/

/-- The page of a trap (R400): its space and its address divided by 64 KiB; the PC's where it carries no address. -/
def trapPage (pc : BitVec 57) (addr : Option (Nat × Nat)) : Nat × Nat :=
  match addr with
  | some a => (a.1 % 16, a.2 / 65536)
  | none => (0, pc.toNat / 65536)

/-- A trap joins an open record (R400, R401): `parked` says that its fibre is parked on it. -/
def TrapRec.join (r : TrapRec) (id : Word) (t : LateTrap) (parked : Bool) : TrapRec :=
  let known := r.units.contains (id, t.no)
  { r with
    count := min 65535 (r.count + 1)
    units := if known || 8 ≤ r.units.length then r.units else r.units ++ [(id, t.no)]
    more := r.more || (!known && decide (8 ≤ r.units.length))
    seats := r.seats ||| (1#256 <<< t.seat)
    launches := if r.launches.contains t.launch then r.launches else r.launches ++ [t.launch]
    covers := if parked then r.covers ++ [(t.unit, t.fid)] else r.covers
    late := if parked then r.late else r.late ++ [t.unit]
    fatal := r.fatal || (t.addr.any fun a => decide (16 ≤ a.1)) }

/-- Whether a record is the one that a trap joins (R400): a page is one of a context's.
DESIGN CHOICE: log 25. -/
def TrapRec.takes (r : TrapRec) (cause : Byte) (ctx : Nat) (page : Nat × Nat) : Bool :=
  !r.held && r.cause == cause && r.ctx == ctx && r.page == page.2 && (r.addr.map fun a => a.1 % 16).getD 0 == page.1

/-- The records of a core that are open: those not yet taken. -/
def Core.open' (c : Core) : Nat := c.records.countP fun r => !r.held

/-- A trap of a unit reaches its core's coalescer (R400): FIRST is the cycle in which it was taken (R401); none where sixteen
records are open and none takes it. DESIGN CHOICE: log 25. -/
def State.coalesce (s : State) (u : Unit) (t : LateTrap) (parked : Bool) : Option State :=
  let page := trapPage t.pc t.addr
  let ctx := s.ctxOf u
  let id := ((s.launch? t.launch).map Launch.id).getD 0
  match s.core? u.core with
  | none => none
  | some c => match c.records.find? fun r => r.takes t.cause ctx page with
    | some r =>
      some (s.modCore u.core fun c => { c with
        records := updIf c.records (fun x => x.num == r.num) fun x => x.join id t parked })
    | none =>
      if Config.openRecords ≤ c.open' then none
      else
        let r : TrapRec :=
          { num := s.seqCtr, cause := t.cause, units := [], more := false, arg := t.arg, page := page.2, count := 0
            pc := t.pc.setWidth 32, first := t.clk, seats := 0, covers := [], launches := [], late := [], fatal := false
            ctx := ctx, addr := t.addr, held := false }
        some ({ s with seqCtr := s.seqCtr + 1 }.modCore u.core fun c => { c with
          records := c.records ++ [r.join id t parked] })

/-- The trap that a parked fibre sends to the coalescer, if it is on its way. -/
def Unit.trapOf? (u : Unit) (f : Fibre) : Option LateTrap :=
  match f.wait with
  | some (.trapped cause arg addr) =>
    if f.live then
      some { unit := u.key, launch := u.launch, no := u.no, fid := f.fid, seat := u.seatNo f.fid, pc := f.pc, cause := cause
             arg := arg, addr := addr, clk := f.ready }
    else none
  | _ => none

/-- TRAP_COALESCE (R400): the trap of a parked fibre, or the fault of one that has ended, joins or opens a record. A
containment cause ends the gang at once (R82, R403). -/
def execTrapCoalesce (unit fid : Nat) (s : State) : Host.Outcome State Fault Refusal :=
  match s.unit? unit with
  | none => .next s
  | some u =>
    let late := ((s.core? u.core).map Core.lateTraps).getD []
    match (u.fibre? fid).bind u.trapOf?, late.find? fun t => t.unit == unit && t.fid == fid with
    | some t, _ =>
      if containment t.cause then .next (((s.coalesce u t true).getD s).killGang u.launch u.gang t.cause t.arg)
      else match s.coalesce u t true with
        | none => .next s
        | some s1 => .next (s1.modFibre unit fid fun f => { f with wait := some .record })
    | none, some t =>
      let out (s : State) : State := s.modCore u.core fun c => { c with lateTraps := c.lateTraps.erase t }
      if containment t.cause then .next ((out ((s.coalesce u t false).getD s)).killGang u.launch u.gang t.cause t.arg)
      else match s.coalesce u t false with
        | none => .next s
        | some s1 => .next (out s1)
    | none, none => .next s

/-! ### TRAP_RECORD_DISPOSAL (R402) -/

/-- Let the fibres that a record covers issue their instruction again. -/
def State.resumeCovered (s : State) (cs : List (Nat × Nat)) : State :=
  cs.foldl (fun s e => s.modFibre e.1 e.2 fun f => { f with wait := none, ready := s.clk }) s

/-- Fail the launches that a record covers (R402). -/
def State.failCovered (s : State) (r : TrapRec) : State :=
  r.launches.foldl (fun s l => s.failLaunch l r.cause r.arg) s

/-- Fail the launches of the fibres that had ended when their faults reached a record: no instruction of theirs is issued
again (R400, R402). DEDUCED: log 22. DESIGN CHOICE: log 25. -/
def State.failEnded (s : State) (r : TrapRec) : State :=
  r.late.foldl (fun s k => match s.unit? k with
    | some u => s.failLaunch u.launch r.cause r.arg
    | none => s) s

/-- The 128 bytes of a record (R401). -/
def TrapRec.bytes (r : TrapRec) (core : Nat) : List Byte :=
  let units := r.units.flatMap fun e => bytesOfNat 4 e.1.toNat ++ bytesOfNat 4 e.2
  [r.cause, BitVec.ofNat 8 r.units.length, BitVec.ofNat 8 (if r.more then 1 else 0), 0] ++ bytesOfNat 4 r.arg.toNat ++
    bytesOfNat 8 (r.page % 2 ^ 41) ++ bytesOfNat 2 core ++ bytesOfNat 2 r.count ++ bytesOfNat 4 r.pc.toNat ++
    bytesOfNat 8 r.first ++ bytesOfNat 32 r.seats.toNat ++ units ++ List.replicate (64 - units.length) 0

/-- The firmware core that disposes of a record. -/
def TrapRec.firmware (r : TrapRec) : Nat := if r.cause == 0x24 then 3 else 4

/-- Firmware has taken a record of a core (R400, R401): it is logged, and nothing more joins it. -/
def State.takeRecord (s : State) (core : Nat) (r : TrapRec) : State :=
  (s.logRec r.firmware r.cause r.arg r.page).modFe fun e => { e with taken := e.taken ++ [r.bytes core] }

/-- What a record still covers (R402): a launch that has failed is no longer its concern, and its fibres are ended.
DEDUCED: log 23. -/
def State.stillCovered (s : State) (r : TrapRec) : TrapRec :=
  let failed (l : Nat) : Bool := ((s.launch? l).map Launch.failed).getD false
  { r with
    launches := r.launches.filter fun l => !failed l
    covers := r.covers.filter fun e => !((s.unit? e.1).any fun u => failed u.launch) }

/-- What firmware core 3 maps for a page fault of a unit at an address, if it answers so (R190, R294, R383): a page of
space 0, or of space 5 at its home, or an entry of the host window. -/
def State.answerPage (s : State) (ctx unit space adr : Nat) (answer : PageAnswer) : Option State :=
  match answer with
  | .refuse => none
  | .map phys size rights =>
    if space = 4 then
      match s.unit? unit with
      | none => none
      | some u =>
        if decide (2 ^ 48 ≤ adr) || phys % 2097152 != 0 then none
        else
          let w : HostWin := { func := s.funcOf u, entry := adr / 2097152, pcie := phys, atomics := rights.getLsbD 0 }
          let rest := s.fabric.hostWin.filter fun x => !(x.func == w.func && x.entry == w.entry)
          some { s with fabric := { s.fabric with hostWin := rest ++ [w] } }
    else (s.faultVa ctx space adr).map fun va => s.mapPage (memPage ctx va size.toNat phys rights)

/-- Dispose of a record that has been taken (R402): where every launch that it covers has failed, it does nothing further.
DESIGN CHOICE: log 24. -/
def State.dispose (s : State) (core : Nat) (r0 : TrapRec) (answer : PageAnswer) (debugger : Bool) : State :=
  let ended := r0.launches.foldl (fun s l => if ((s.launch? l).map Launch.failed).getD false then s.endTrapped l else s) s
  let s0 := ended.takeRecord core r0
  let r := s.stillCovered r0
  let gone := s0.modCore core fun c => { c with records := c.records.filter fun x => x.num != r.num }
  let hold := s0.modCore core fun c => { c with
    records := updIf c.records (fun x => x.num == r.num) fun _ => { r with held := true } }
  if r.launches.isEmpty then gone
  else if r.cause == 0x24 then
    let unit := ((r.covers.head?).map (·.1)).getD 0
    match (if r.fatal then none else r.addr.bind fun a => gone.answerPage r.ctx unit a.1 (a.2 / 65536 * 65536) answer) with
    | some s1 => (s1.resumeCovered r.covers).failEnded r
    | none => gone.failCovered r
  else if r.cause == 0x09 && debugger then hold
  else if r.cause == 0x68 || containment r.cause then gone
  else gone.failCovered r

/-- A transfer of a core that a page fault holds (R294). -/
def Core.heldX (c : Core) : Option (XReq × Nat) :=
  (c.loadQ ++ c.storeQ).findSome? fun r => r.fault.map fun a => (r, a)

/-- Firmware core 3 answers the page fault of a paused transfer (R294). -/
def State.answerTransfer (s : State) (core : Nat) (r : XReq) (a : Nat) (answer : PageAnswer) : State :=
  let ctx := ((s.unit? r.unit).map s.ctxOf).getD 0
  match s.answerPage ctx r.unit (a / 2 ^ 64) (a % 2 ^ 64) answer with
  | some s1 => s1.next (.transferPageResume core r.id)
  | none => s.next (.transferFault core r.id .pageRefused)

/-- Firmware core 3 answers the page fault of a cond node (R375): its graph goes on, or fails. DESIGN CHOICE: log 78. -/
def State.answerGraph (s : State) (g : Graph) (space adr : Nat) (answer : PageAnswer) : State :=
  match s.answerPage g.ctx 0 space adr answer with
  | some s1 => s1.modGraph g.inst fun x => { x with fault := none }
  | none => s.failGraph g.inst (pageFault space adr).cause (pageFault space adr).arg

/-- TRAP_RECORD_DISPOSAL (R402): firmware takes the oldest open record of a core, or answers a paused transfer; where no core is
named it answers the page fault of a graph's node. -/
def execTrapRecordDisposal (core : Nat) (answer : PageAnswer) (debugger : Bool) (s : State) :
    Host.Outcome State Fault Refusal :=
  match s.core? core with
  | none => match s.fe.graphs.findSome? fun g => g.fault.map fun a => (g, a) with
    | some (g, a) => .next (s.answerGraph g a.1 a.2 answer)
    | none => .next s
  | some c => match c.records.find? fun r => !r.held with
    | some r => .next (s.dispose core r answer debugger)
    | none => match c.heldX with
      | some (r, a) => .next (s.answerTransfer core r a answer)
      | none => .next s

/-! ### DEBUGGER_ACTION (R402) -/

/-- Let a fibre that stands at a `BRK` go on with the instruction after it. -/
def State.stepOver (s : State) (unit fid : Nat) : State :=
  match s.unit? unit with
  | none => s
  | some u => s.modFibre unit fid fun f =>
    { f with pc := s.seqNext (s.ctxOf u) f.pc, wait := none, again := false, ready := s.clk }

/-- End a fibre, counting it in its unit (R371). -/
def State.endFibre (s : State) (unit fid : Nat) : State :=
  s.modUnit unit fun u => { u.modFibre fid Fibre.end with ended := u.ended + 1 }

/-- DEBUGGER_ACTION (R402): the fibres of the oldest record held for a debugger are resumed or ended. -/
def execDebuggerAction (core : Nat) (act : DebugAct) (s : State) : Host.Outcome State Fault Refusal :=
  match s.core? core with
  | none => .next s
  | some c => match c.records.find? fun r => r.held with
    | none => .next s
    | some r =>
      let s1 := s.modCore core fun c => { c with records := c.records.filter fun x => x.num != r.num }
      .next (r.covers.foldl (fun s e => match act with
        | .resume => s.stepOver e.1 e.2
        | .finish => s.endFibre e.1 e.2) s1)

end Sys2Proof.Machine
end

