-- ==== Sys2Proof/Machine/Regs.lean ====
section
/-! DEFINITION. The registers of BAR 0 as the host writes and reads them (spec 17 R356, R357, R377 to R379; 18 R389, R397, R405; 22 R449, R450,
R453 to R456). -/

namespace Sys2Proof.Machine

/-! ### Queue registers (R356, R357) -/

/-- Whether a function may write a queue's registers: the physical function, or the queue's own (R356). -/
def State.mayWriteQueue (s : State) (func q : Nat) : Bool := func == 0 || (s.queue q).func == func

/-- A write to QKICK (R357): of 8 bytes, aligned; the larger value stands; one beyond the ring sets ERR. -/
def State.writeQkick (s : State) (q size offset : Nat) (v : DWord) : State :=
  let x := s.queue q
  if size != 8 || offset % 8 != 0 then s.logRec 1 0 (BitVec.ofNat 32 q) offset
  else if x.ridx.toNat + 2 ^ x.size < v.toNat then s.modQueue q fun x => { x with err := 1 }
  else s.modQueue q fun x => { x with kick := if x.kick.ult v then v else x.kick }

/-- QKICK (R357): `offset` is counted from the register. -/
def execQkick (q size offset : Nat) (v : DWord) (s : State) : Host.Outcome State Fault Refusal :=
  .next (s.whenReady (0x100010 + 64 * q + offset) fun s => if q < 256 then s.writeQkick q size offset v else s)

/-- A write of 0 to QSTAT.ERR resumes parsing (R356). DESIGN CHOICE: log 37. -/
def State.writeQstat (s : State) (q : Nat) (v : Word) : State :=
  if v.setWidth 8 == 0#8 then s.modQueue q fun x => { x with err := 0 } else s

/-- QSTAT_ERR_CLEAR (R356). -/
def execQstatErrClear (q : Nat) (v : Word) (s : State) : Host.Outcome State Fault Refusal :=
  .next (s.whenReady (0x100028 + 64 * q) fun s => if q < 256 then s.writeQstat q v else s)

/-- The value that a write to QCTL stores (R356): the physical function alone writes FUNC and SYS, and EN cannot be set
while SIZE is outside 4 to 16. DESIGN CHOICE: log 37. -/
def qctlValue (old v : Word) (physical : Bool) : Word :=
  let kept : Word := if physical then v &&& 0x4000FF00 else old &&& 0x4000FF00
  let size := (v.extractLsb' 24 5).toNat
  let en : Word := if v.getLsbD 31 && decide (4 ≤ size) && decide (size ≤ 16) then 0x80000000 else 0
  (v &&& 0x1FF0003F) ||| kept ||| en

/-- A write to QCTL (R356). -/
def State.writeQctl (s : State) (func q : Nat) (v : Word) : State :=
  if s.mayWriteQueue func q then s.modQueue q fun x => { x with ctl := qctlValue x.ctl v (func == 0) } else s

/-- QCTL (R356). -/
def execQctl (func q : Nat) (v : Word) (s : State) : Host.Outcome State Fault Refusal :=
  .next (s.whenReady (0x100008 + 64 * q) fun s => if q < 256 then s.writeQctl func q v else s)

/-- A register of 64 bits after a write of all of it, or of an aligned half; another size is discarded.
DESIGN CHOICE: log 37. -/
def merge64 (old v : DWord) (size offset : Nat) : DWord :=
  if size = 8 && offset % 8 == 0 then v
  else if size = 4 && offset % 8 == 0 then (old &&& 0xFFFFFFFF00000000) ||| (v &&& 0xFFFFFFFF)
  else if size = 4 && offset % 8 == 4 then (old &&& 0xFFFFFFFF) ||| (v <<< 32)
  else old

/-- A write to one of the 64-byte block of registers of a queue (R356, R389).
DESIGN CHOICE: log 37. -/
def State.writeQueueReg (s : State) (func q r size : Nat) (v : DWord) : State :=
  let w : Word := v.setWidth 32
  let whole := size == 4
  if !s.mayWriteQueue func q then s
  else if r / 8 = 0 then s.modQueue q fun x => { x with base := merge64 x.base v size r &&& 0xFFFFFFFFFFFFF001 }
  else if r / 8 = 2 then s.writeQkick q size (r - 0x10) v
  else if r / 8 = 4 then s.modQueue q fun x => { x with recBase := merge64 x.recBase v size r &&& 0xFFFFFFFFFFFFFFC1 }
  else if r = 0x08 && whole then s.writeQctl func q w
  else if r = 0x28 && whole then s.writeQstat q w
  else if func != 0 || !whole then s
  else if r = 0x30 then s.writeQper q w
  else if r = 0x34 then s.writeQbud q w
  else if r = 0x38 then s.modQueue q fun x => { x with dl := w.toNat }
  else if r = 0x3C then s.writeQres q w
  else s

/-! ### Host rings (R377) -/

/-- A write to HRHEAD (R357, R377). -/
def State.writeHrhead (s : State) (func ring : Nat) (v : DWord) : State :=
  s.modHostRing func ring fun r => { r with head := if r.head.ult v then v else r.head }

/-- HRHEAD (R377). -/
def execHrhead (func ring : Nat) (v : DWord) (s : State) : Host.Outcome State Fault Refusal :=
  .next (s.whenReady (0x200010 + 32 * ring) fun s => if ring < 64 then s.writeHrhead func ring v else s)

/-- The value that a write to HRCTL stores: EN cannot be set while SIZE is outside 4 to 16 (R377). -/
def hrctlValue (v : Word) : Word :=
  let size := (v.extractLsb' 8 5).toNat
  let en : Word := if v.getLsbD 31 && decide (4 ≤ size) && decide (size ≤ 16) then 0x80000000 else 0
  (v &&& 0x1F3F) ||| en

/-- A write to HRCTL (R377). -/
def State.writeHrctl (s : State) (func ring : Nat) (v : Word) : State :=
  s.modHostRing func ring fun r => { r with ctl := hrctlValue v }

/-- HRCTL (R377). -/
def execHrctl (func ring : Nat) (v : Word) (s : State) : Host.Outcome State Fault Refusal :=
  .next (s.whenReady (0x200008 + 32 * ring) fun s => if ring < 64 then s.writeHrctl func ring v else s)

/-- A write to one of the 32-byte block of registers of a host ring (R377). -/
def State.writeRingReg (s : State) (func h r size : Nat) (v : DWord) : State :=
  if r / 8 = 0 then s.modHostRing func h fun x => { x with base := merge64 x.base v size r &&& 0xFFFFFFFFFFFFFFC0 }
  else if r = 0x08 && size == 4 then s.writeHrctl func h (v.setWidth 32)
  else if r / 8 = 2 then
    if size == 8 && r == 0x10 then s.writeHrhead func h v else s.logRec 1 0 (BitVec.ofNat 32 h) r
  else s

/-! ### The rest of BAR 0 (R397, R405, R453, R456) -/

/-- The value that a write to PWRCAP stores (R456). -/
def pwrcapValue (v : Word) : Nat := min 3000 (max 600 (v.extractLsb' 0 12).toNat)

/-- A write to PWRCAP (R456). -/
def State.writePwrcap (s : State) (v : Word) : State := { s with life := { s.life with pwrcap := pwrcapValue v } }

/-- PWRCAP (R456). -/
def execPwrcap (v : Word) (s : State) : Host.Outcome State Fault Refusal :=
  .next (s.whenReady 0x400010 fun s => s.writePwrcap v)

/-- Change a firmware core's mailbox. -/
def State.modMailbox (s : State) (n : Nat) (f : Mailbox → Mailbox) : State :=
  { s with life := { s.life with mailboxes := updAt s.life.mailboxes n f } }

/-- A write to MBCTL (R453): LOST is cleared by a 1; GO starts the request, or sets LOST while BUSY. -/
def Mailbox.control (m : Mailbox) (v : Word) : Mailbox :=
  let m1 := if v.getLsbD 30 then { m with lost := false } else m
  if v.getLsbD 0 then (if m1.busy then { m1 with lost := true } else { m1 with busy := true }) else m1

/-- A write into the register block of a mailbox (R453). -/
def State.writeMailbox (s : State) (n r size : Nat) (v : DWord) : State :=
  if r + size ≤ 0x40 then
    s.modMailbox n fun m => { m with req := m.req.take r ++ bytesOfNat size v.toNat ++ m.req.drop (r + size) }
  else if r = 0x80 && size == 4 then s.modMailbox n fun m => m.control (v.setWidth 32)
  else s

/-- Whether a function sees a core's aperture (R454): the physical function, or one whose launches the core runs. -/
def State.seesAperture (s : State) (func core : Nat) : Bool :=
  func == 0 || s.units.any fun u => u.core == core && s.funcOf u == func

/-- REGISTER_WRITE: a write to BAR 0 of a function. A register with a row of its own takes it in the same way; a
read-only one, and one that the function does not see, discards it (R3, R454). -/
def execRegisterWrite (func offset size : Nat) (v : DWord) (s : State) : Host.Outcome State Fault Refusal :=
  let w : Word := v.setWidth 32
  let block (base n : Nat) : Bool := decide (base ≤ offset) && decide (offset < base + n)
  if func == 0 && block 0x500000 0x100 then .next (s.writeMailbox 0 (offset - 0x500000) size v)
  else if !s.life.readyFlag then .next (s.logRec 0 0 0 offset)
  else if block 0x100000 0x4000 then
    .next (s.writeQueueReg func ((offset - 0x100000) / 64) ((offset - 0x100000) % 64) size v)
  else if block 0x200000 0x800 then
    .next (s.writeRingReg func ((offset - 0x200000) / 32) ((offset - 0x200000) % 32) size v)
  else if block 0x300000 0x100 then
    .next (if size == 4 && offset % 4 == 0 then s.writeIvctl func ((offset - 0x300000) / 4) w else s)
  else if block 0x1000000 (512 * Config.cores) then
    let core := (offset - 0x1000000) / 512
    if s.seesAperture func core then .next (s.next (.apertureStore core ((offset - 0x1000000) % 512) size v)) else .next s
  else if func != 0 || (size != 4 && !block 0x500000 0x800) then .next s
  else if offset = 0x400000 then .next (s.modFe fun e => { e with prectl := prectlValue w })
  else if offset = 0x400008 then .next (s.modFe fun e => { e with scrctl := scrctlValue w })
  else if offset = 0x400010 then .next (s.writePwrcap w)
  else if block 0x500000 0x800 then .next (s.writeMailbox ((offset - 0x500000) / 256) (offset % 256) size v)
  else .next s

/-! ### Reads of BAR 0 (R3, R356, R377, R379, R389, R397, R405, R449, R450, R453 to R456) -/

/-- Half `i` of a register of 64 bits. -/
def half64 (v : DWord) (i : Nat) : Word := (v >>> (32 * i)).setWidth 32

/-- The word at an offset of a queue's block of registers (R356, R389). -/
def Queue.regWord (q : Queue) (r : Nat) : Word :=
  match r / 4 with
  | 0 => half64 q.base 0
  | 1 => half64 q.base 1
  | 2 => q.ctl
  | 4 => half64 q.kick 0
  | 5 => half64 q.kick 1
  | 6 => half64 q.ridx 0
  | 7 => half64 q.ridx 1
  | 8 => half64 q.recBase 0
  | 9 => half64 q.recBase 1
  | 10 => BitVec.ofNat 32 q.err
  | 12 => BitVec.ofNat 32 q.per
  | 13 => BitVec.ofNat 32 q.bud
  | 14 => BitVec.ofNat 32 q.dl
  | 15 => BitVec.ofNat 32 (q.ovcnt * 65536 + q.rcores)
  | _ => 0

/-- The word at an offset of a host ring's block of registers (R377). -/
def HostRing.regWord (x : HostRing) (r : Nat) : Word :=
  match r / 4 with
  | 0 => half64 x.base 0
  | 1 => half64 x.base 1
  | 2 => x.ctl
  | 4 => half64 x.head 0
  | 5 => half64 x.head 1
  | 6 => half64 x.tail 0
  | 7 => half64 x.tail 1
  | _ => 0

/-- The word of IVCTL of a vector (R379). -/
def Vec.regWord (v : Vec) : Word := BitVec.ofNat 32 (v.time * 512 + v.cnt)

/-- The word at an offset of a mailbox's block (R453). -/
def Mailbox.regWord (m : Mailbox) (r : Nat) : Word :=
  if r < 0x40 then BitVec.ofNat 32 (field m.req r 4)
  else if r < 0x80 then BitVec.ofNat 32 (field m.reply (r - 0x40) 4)
  else if r = 0x80 then BitVec.ofNat 32 ((if m.busy then 2 ^ 31 else 0) + (if m.lost then 2 ^ 30 else 0))
  else 0

/-- The word of a link's status register (R455). -/
def Link.regWord (l : Link) : Word :=
  BitVec.ofNat 32 ((if l.up then 2 ^ 31 else 0) + (if l.half then 2 ^ 30 else 0) + l.retrain * 2 ^ 16 + l.replay)

/-- The bytes of device memory: 768 GiB (R449). -/
def deviceBytes : Nat := 768 * 2 ^ 30

/-- DETAIL: in stage 3 the per cent of memory that is written (R449). -/
def DeviceLife.detailNow (d : DeviceLife) : Nat :=
  if d.stage = 3 then 100 * min d.zeroed deviceBytes / deviceBytes else d.detail

/-- DEVSTAT, which can be read from the end of stage 1 onwards (R449). -/
def DeviceLife.devstat (d : DeviceLife) : Word :=
  if d.stage < 2 then 0
  else BitVec.ofNat 32 ((if d.readyFlag then 2 ^ 31 else 0) + d.stage * 2 ^ 28 + d.failCode * 256 + d.detailNow)

/-- PWRSTAT (R456). -/
def DeviceLife.pwrstat (d : DeviceLife) : Word := BitVec.ofNat 32 (d.power * 2 ^ 20 + d.mhz * 256 + d.tj)

/-- The word at an aligned offset of a function's BAR 0, as a read returns it: before READY all but DEVSTAT and mailbox 0 is
zero (R450), and so is what a virtual function does not see (R356, R454). -/
def State.barWord (s : State) (func offset : Nat) : Word :=
  let block (base n : Nat) : Bool := decide (base ≤ offset) && decide (offset < base + n)
  let mail (n : Nat) : Word := ((s.life.mailboxes[n]?).map fun m => m.regWord (offset % 256)).getD 0
  if func = 0 && block 0x500000 0x100 then mail 0
  else if func = 0 && offset = 0 then s.life.devstat
  else if !s.life.readyFlag then 0
  else if block 0x100000 0x4000 then
    let q := (offset - 0x100000) / 64
    if s.mayWriteQueue func q then (s.queue q).regWord (offset % 64) else 0
  else if block 0x200000 0x800 then (s.hostRing func ((offset - 0x200000) / 32)).regWord (offset % 32)
  else if block 0x300000 0x100 then (s.vec func ((offset - 0x300000) / 4)).regWord
  else if func != 0 then 0
  else if offset = 0x400000 then s.fe.prectl
  else if offset = 0x400008 then s.fe.scrctl
  else if offset = 0x400010 then BitVec.ofNat 32 s.life.pwrcap
  else if offset = 0x400014 then s.life.pwrstat
  else if block 0x500000 0x800 then mail ((offset - 0x500000) / 256)
  else if block 0x600000 0xC0 && offset % 16 = 0 then
    ((s.life.links[(offset - 0x600000) / 16]?).map Link.regWord).getD 0
  else 0

/-- The bytes that a read of a function's BAR 0 returns. -/
def State.barBytes (s : State) (func offset n : Nat) : List Byte :=
  (List.range n).map fun i => wordByte (s.barWord func ((offset + i) / 4 * 4)) ((offset + i) % 4)

/-- The link status registers that the physical function reads lose their REPLAY counts (R455). -/
def State.clearReplay (s : State) (func offset n : Nat) : State :=
  let read (k : Nat) : Bool := overlaps (0x600000 + 16 * k) 4 offset n
  if func = 0 && s.life.readyFlag then
    { s with life := { s.life with
      links := s.life.links.mapIdx fun k l => if read k then { l with replay := 0 } else l } }
  else s

end Sys2Proof.Machine
end

