-- ==== Sys2Proof/Machine/Sha.lean ====
section
/-! DEFINITION. SHA-384 over a list of bytes (spec 20 R420, R430, R432, R438; 22 R451). Its constants are computed from what
they are: the fractional parts of roots of the first primes. -/

namespace Sys2Proof.Machine

/-- The primes below 410, of which there are 80: those that no prime up to 19 divides. -/
def shaPrimes : List Nat :=
  (List.range 410).filter fun n => decide (2 ≤ n) && [2, 3, 5, 7, 11, 13, 17, 19].all fun d => n == d || n % d != 0

/-- The largest number of at most `k` bits, above the bits of `base`, whose `e`-th power is at most `n`. -/
def rootFrom (e n base : Nat) : Nat → Nat
  | 0 => base
  | k + 1 => rootFrom e n (if (base + 2 ^ k) ^ e ≤ n then base + 2 ^ k else base) k

/-- The first 64 bits of the fractional part of the `e`-th root of a number below 2^9. -/
def rootFraction (e p : Nat) : DWord := BitVec.ofNat 64 (rootFrom e (p * 2 ^ (64 * e)) 0 69)

/-- The 80 constants of the rounds: from the cube roots of the first 80 primes. -/
def shaRoundConsts : List DWord := shaPrimes.map (rootFraction 3)

/-- What a SHA-384 hash begins from: the square roots of the 9th to the 16th prime. -/
def shaStart : List DWord := ((shaPrimes.drop 8).take 8).map (rootFraction 2)

/-- A 64-bit word of a message, highest byte first. -/
def wordBE (b : List Byte) : DWord := BitVec.ofNat 64 (natOfBytes b.reverse)

/-- A message with its padding: a 1 bit, then zeros, then its length in bits in 16 bytes, highest first. -/
def shaPad (b : List Byte) : List Byte :=
  b ++ 0x80 :: List.replicate (127 - (b.length + 16) % 128) 0 ++ (bytesOfNat 16 (8 * b.length)).reverse

/-- Three images of a word, exclusive-or'ed: rotated by `i` and by `j`, and a third one. -/
def mix3 (x : DWord) (i j : Nat) (third : DWord) : DWord := third ^^^ x.rotateRight i ^^^ x.rotateRight j

/-- The sixteen latest words of a block's schedule, one word later. -/
def shaSlide (w : List DWord) : List DWord :=
  let early := w.getD 1 0
  let late := w.getD 14 0
  w.drop 1 ++ [w.getD 0 0 + w.getD 9 0 + mix3 early 1 8 (early >>> 7) + mix3 late 19 61 (late >>> 6)]

/-- What a round adds to the fourth and to the eighth of the working words, from all eight and the round's input. -/
def shaSums (v : List DWord) (input : DWord) : DWord × DWord :=
  let x (i : Nat) : DWord := v.getD i 0
  let low := input + x 7 + mix3 (x 4) 14 18 ((x 4).rotateRight 41) + (x 6 ^^^ (x 4 &&& (x 5 ^^^ x 6)))
  (low, low + mix3 (x 0) 28 34 ((x 0).rotateRight 39) + ((x 0 &&& (x 1 ||| x 2)) ||| (x 1 &&& x 2)))

/-- One round: every working word moves one place on. -/
def shaRound (v : List DWord) (input : DWord) : List DWord :=
  let sums := shaSums v input
  sums.2 :: v.take 3 ++ (v.getD 3 0 + sums.1) :: (v.drop 4).take 3

/-- One block of 128 bytes. -/
def shaBlock (v : List DWord) (b : List Byte) : List DWord :=
  let first := (List.range 16).map fun i => wordBE ((b.drop (8 * i)).take 8)
  let last := shaRoundConsts.foldl (fun e k => (shaRound e.1 (k + e.2.getD 0 0), shaSlide e.2)) (v, first)
  List.zipWith (fun x y => x + y) v last.1

/-- `n` blocks of bytes. -/
def shaBlocks (v : List DWord) (b : List Byte) : Nat → List DWord
  | 0 => v
  | n + 1 => shaBlocks (shaBlock v (b.take 128)) (b.drop 128) n

/-- SHA-384: 48 bytes. -/
def sha384 (b : List Byte) : List Byte :=
  let m := shaPad b
  ((shaBlocks shaStart m (m.length / 128)).take 6).flatMap fun w => (bytesOfNat 8 w.toNat).reverse

end Sys2Proof.Machine
end

