-- ==== Sys2Proof/Machine/Image.lean ====
section
/-! DEFINITION. The banked image as bytes (spec 20 R420 to R432, R435): portable locations, the items of each section,
the header and directory, and the length that `BANK` reserves (R439). -/

namespace Sys2Proof.Machine

/-! ### Bytes -/

/-- Bytes padded with zeros to a multiple. -/
def padTo (n : Nat) (b : List Byte) : List Byte := b ++ List.replicate ((n - b.length % n) % n) 0

/-- Zero bytes. -/
def zs (n : Nat) : List Byte := List.replicate n 0

/-- One flag byte from its bits, lowest first. -/
def flagByte (bs : List Bool) : Byte := BitVec.ofNat 8 ((bs.mapIdx fun i b => if b then 2 ^ i else 0).sum)

/-- A bitmap from bits, lowest first. -/
def bitBytes : List Bool → Nat → List Byte
  | _, 0 => []
  | bs, n + 1 => flagByte (bs.take 8) :: bitBytes (bs.drop 8) n

/-- A bitmap of `n` bits. -/
def bitmap (n : Nat) (p : Nat → Bool) : List Byte := bitBytes ((List.range n).map p) ((n + 7) / 8)

/-- The code bytes of words. -/
def codeBytesOf (ws : List Reg) : List Byte := ws.map Reg.code

/-! ### Portable locations (R430 to R432) -/

/-- The slots of a line that hold instructions and no filler (R431). -/
def FetchLine.codeSlots (l : FetchLine) : List Nat :=
  if l.packed then (List.range 30).filter fun k => (l.slotCode k).extractLsb' 0 10 != 0 else List.range 5

/-- How many instructions `n` lines hold from an address on. -/
def State.countSlots (s : State) (ctx addr : Nat) : Nat → Nat
  | 0 => 0
  | n + 1 => (match s.fetchLine ctx (BitVec.ofNat 57 addr) with | .ok l => l.codeSlots.length | .error _ => 0) +
      s.countSlots ctx (addr + 64) n

/-- The functions of a context's containers. -/
def State.functionsOf (s : State) (ctx : Nat) : List (DWord × Nat) :=
  (s.bank.functions.filter fun f => f.1 == ctx).map fun f => f.2

/-- The index that marks a location outside every container: its first eight bytes are the PC.
DESIGN CHOICE: log 42. -/
def rawIndex : Nat := 0xFFFFFFFF

/-- How many instructions of its line stand before a PC. -/
def State.slotsBefore (s : State) (ctx : Nat) (pc : BitVec 57) : Nat :=
  match s.fetchLine ctx pc with
  | .ok l => l.codeSlots.countP fun k => decide (k < slotOfPc pc)
  | .error _ => slotOfPc pc

/-- The function that a PC lies in: the last to begin at or before it. -/
def State.functionAt (s : State) (ctx : Nat) (pc : BitVec 57) : Option (DWord × Nat) :=
  (s.functionsOf ctx).foldl (fun (b : Option (DWord × Nat)) f =>
    if f.2 ≤ pc.toNat then (match b with | some g => if g.2 < f.2 then some f else b | none => some f) else b) none

/-- The portable location of a PC (R430): its function, and its index from the function's entry.
DESIGN CHOICE: log 42. -/
def State.locOf (s : State) (ctx : Nat) (pc : BitVec 57) : List Byte :=
  match s.functionAt ctx pc with
  | none => bytesOfNat 8 pc.toNat ++ bytesOfNat 4 rawIndex
  | some f =>
    let entry := BitVec.ofNat 57 f.2
    let before := s.countSlots ctx (lineAddr entry) ((lineAddr pc - lineAddr entry) / 64)
    bytesOfNat 8 f.1.toNat ++ bytesOfNat 4 (before + s.slotsBefore ctx pc - s.slotsBefore ctx entry)

/-- Find the slot of an index, from a line on, within a number of lines. -/
def State.walkSlots (s : State) (ctx addr idx : Nat) : Nat → Option (BitVec 57)
  | 0 => none
  | n + 1 => match s.fetchLine ctx (BitVec.ofNat 57 addr) with
    | .error _ => none
    | .ok l => match l.codeSlots[idx]? with
      | some k => some (BitVec.ofNat 57 (addr + k))
      | none => s.walkSlots ctx (addr + 64) (idx - l.codeSlots.length) n

/-- The native PC of a portable location (R432); none where it has no slot here. -/
def State.pcOf (s : State) (ctx : Nat) (b : List Byte) : Option (BitVec 57) :=
  let idx := field b 8 4
  if idx = rawIndex then (if field b 0 8 < 2 ^ 57 then some (BitVec.ofNat 57 (field b 0 8)) else none)
  else (((s.functionsOf ctx).find? fun f => f.1 == BitVec.ofNat 64 (field b 0 8)).bind fun f =>
    let entry := BitVec.ofNat 57 f.2
    s.walkSlots ctx (lineAddr entry) (idx + s.slotsBefore ctx entry) (idx + 65536))

/-- Note a kernel's function among those of its context (R431). -/
def State.noteFunction (s : State) (ctx : Nat) (d : KDesc) : State :=
  let f := (ctx, d.funcId, d.addr + 64)
  if s.bank.functions.contains f then s
  else { s with bank := { s.bank with functions := f :: s.bank.functions } }

/-- Note a function that the code of a kernel has called, by its entry (R430). DESIGN CHOICE: log 42. -/
def State.noteEntry (s : State) (ctx : Nat) (d : KDesc) (entry : BitVec 57) : State :=
  if (s.functionsOf ctx).any fun f => f.2 == entry.toNat then s
  else
    let id := Config.functionId ((tget s.bank.containers ctx).getD []) ((entry - BitVec.ofNat 57 (d.addr + 64)).toNat)
    { s with bank := { s.bank with functions := (ctx, id, entry.toNat) :: s.bank.functions } }

/-- Note the functions of a unit: its kernel, that of its next stage, and those that its fibres are in. -/
def State.noteUnit (s : State) (ctx : Nat) (u : Unit) : State :=
  let s1 := s.noteFunction ctx u.desc
  let s2 := match u.next with
    | some n => s1.noteFunction ctx n.desc
    | none => s1
  (u.fibres.flatMap Fibre.calls).foldl (fun s c => s.noteEntry ctx u.desc c.entry) s2

/-- The container digest of a context's code (R420, R431); zeros where none is loaded. -/
def State.chash (s : State) (ctx : Nat) : List Byte := (tget s.bank.containers ctx).getD (zs 48)

/-! ### The launch item (R422) -/

/-- Signed nanoseconds left to a deadline; the greatest where there is none.
DESIGN CHOICE: log 42. -/
def State.deadlineLeft (s : State) (d : Option Nat) : DWord :=
  match d with
  | none => BitVec.ofNat 64 (2 ^ 63 - 1)
  | some t => BitVec.ofInt 64 (((t : Int) - s.time) / 65536)

/-- A signal part's 64 bytes (R366). -/
def signalBytes (o : Option SignalPart) : List Byte :=
  match o with
  | none => zs 64
  | some p => bytesOfNat 8 p.addr.toNat ++ bytesOfNat 8 p.value.toNat ++
      [if p.add then 1 else 0, if p.irq then 1 else 0] ++ zs 46

/-- A range of memory as an item has it: bytes, codes and tags, each padded to a multiple. -/
def Memory.rangeBytes (m : Memory) (k n pad : Nat) : List Byte :=
  padTo pad (m.bytes k n) ++ padTo pad (codeBytesOf (m.words k (n / 4))) ++
    padTo pad (bitmap (n / 16) fun i => m.tag (k + 16 * i))

/-- The launch item (R422). -/
def State.launchItem (s : State) (l : Launch) : List Byte :=
  padTo 64 (bytesOfNat 4 l.id.toNat ++ bytesOfNat 2 l.queue ++ bytesOfNat 1 l.job ++ bytesOfNat 1 l.phase ++
    bytesOfNat 4 ((l.graph.map (·.1)).getD 0) ++ zs 4 ++ bytesOfNat 8 (s.deadlineLeft l.deadline).toNat ++
    bytesOfNat 12 l.startT.toNat ++ bytesOfNat 4 l.done ++ zs 4 ++ bytesOfNat 4 l.desc.args ++ l.part.raw ++
    signalBytes l.signal ++ s.locOf l.ctx l.desc.entryPc ++ zs 68 ++ s.mem.rangeBytes (keyArg l.key 0) l.desc.args 1)

/-! ### Unit, team and fibre items (R423 to R426) -/

/-- A template entry (R423). -/
def TplState.item (t : TplState) : List Byte :=
  let cap (c : Option CapReg) : List Byte := bytesOfNat 16 ((c.map CapReg.bits).getD 0).toNat
  let tag (c : Option CapReg) : Bool := (c.map CapReg.tag).getD false
  bytesOfNat 8 t.seq ++ bytesOfNat 8 t.wmark ++ [flagByte [t.from?.isSome, t.to?.isSome, tag t.from?, tag t.to?]] ++
    zs 15 ++ cap t.from? ++ cap t.to?

/-- A unit item (R423). -/
def State.unitItem (s : State) (u : Unit) : List Byte :=
  let d := u.desc
  let ctx := s.ctxOf u
  let cont := (u.next.map NextStage.cont).getD false
  bytesOfNat 4 u.no ++ bytesOfNat 4 u.gang ++ bytesOfNat 1 u.idx ++
    [flagByte [s.ownsEngine u, u.ring.isSome, u.channel.isSome, u.next.isSome, cont]] ++
    bytesOfNat 1 d.teamLog2 ++ bytesOfNat 1 d.shelf ++ bytesOfNat 2 d.fibres ++ bytesOfNat 2 d.stack ++
    bytesOfNat 1 d.frame ++ bytesOfNat 1 d.frameMax ++ bytesOfNat 1 (u.ring.getD 0xFF) ++ bytesOfNat 1 (u.channel.getD 0xFF) ++
    bytesOfNat 4 d.scratch ++ bytesOfNat 4 u.gen.toNat ++ bytesOfNat 4 (s.gangGen u).toNat ++ s.locOf ctx d.entryPc ++
    (match u.next with | some n => s.locOf ctx n.desc.entryPc | none => zs 12) ++ zs 8 ++
    (List.range 64).flatMap fun t => (u.tplState t).item

/-- A latch entry (R424), of an arrival or of a crew's operation that the engine has caught and not performed.
DESIGN CHOICE: log 41. -/
def latchItem (i : Instr) (rmode : Word) (ord : Nat) (scales : List Byte) : List Byte :=
  bytesOfNat 12 ((encode i).getD 0).toNat ++ bytesOfNat 4 rmode.toNat ++ bytesOfNat 4 ord ++ zs 12 ++
    (scales ++ zs 128).take 128

/-- The latch entries of a team: its part of each caught operation, then its arrivals. -/
def State.latchItems (s : State) (u : Unit) (team : Nat) : List (List Byte) :=
  let m := s.matrix u.core
  let caught := (m.ops.filter fun o => o.unit == u.key && o.crew.contains team).map fun o =>
    latchItem o.instr o.rmode o.ord (o.scales.getD (o.crew.idxOf team) [])
  let waiting := (m.latch.filter fun r => r.unit == u.key && r.team == team).map fun r =>
    latchItem r.instr r.rmode r.ord r.scales
  (caught ++ waiting).take 16

/-- A fibre's wait at a team instruction. -/
def Fibre.teamWait (f : Fibre) : Bool := f.live && (match f.wait with | some (.team _ _) => true | _ => false)

/-- A team item (R424). -/
def State.teamItem (s : State) (u : Unit) (team : Nat) : List Byte :=
  let t := u.team team
  let w := u.desc.team
  let ms := (u.fibres.filter fun f => f.fid / w == team && f.teamWait)
  let es := s.latchItems u team
  bytesOfNat 4 u.no ++ bytesOfNat 4 team ++ bytesOfNat 1 u.desc.teamLog2 ++ [flagByte [t.set, t.h], flagByte [!ms.isEmpty]] ++
    bytesOfNat 1 es.length ++ bytesOfNat 4 t.mask.toNat ++ bytesOfNat 4 t.count ++
    (match ms.head? with | some f => s.locOf (s.ctxOf u) f.pc | none => zs 12) ++
    bytesOfNat 16 ((ms.map fun f => 2 ^ (f.fid % w)).sum) ++ zs 16 ++ es.flatten

/-- WAIT of a fibre (R425). -/
def Fibre.waitCode (f : Fibre) : Nat :=
  match f.wait with
  | some (.team _ _) => 1
  | some (.barrier _ _) => 2
  | some (.monitor _ _ _) => 3
  | some (.sleep _ _) => 4
  | some (.xwait _) => 5
  | some (.tsrec _) => 6
  | some (.accept _ _) => 7
  | _ => 0

/-- WAITARG of a fibre (R425). -/
def Fibre.waitArg (f : Fibre) (clk : Nat) : Nat :=
  match f.wait with
  | some (.sleep till _) => till - clk
  | _ => 0

/-- A buffered granule of a DET stroke (R425): its space and index, data, mask and codes. -/
structure Granule where
  space : Nat
  idx : Nat
  data : List Byte
  mask : List Bool
  codes : List Byte
  deriving DecidableEq, Repr

/-- Lay one byte of a buffered store into the granules; a whole word brings its code. -/
def putGranule (gs : List Granule) (r : Req) (i : Nat) : List Granule :=
  let a := r.addr + i
  let put (g : Granule) : Granule :=
    { g with
      data := g.data.set (a % 8) (r.bytes.getD i 0), mask := g.mask.set (a % 8) true
      codes := g.codes.set (a % 8 / 4) ((r.codeAt (r.key + i)).getD 0) }
  let hit (g : Granule) : Bool := g.space == r.space && g.idx == a / 8
  if gs.any hit then updIf gs hit put
  else gs ++ [put { space := r.space, idx := a / 8, data := zs 8, mask := List.replicate 8 false, codes := zs 2 }]

/-- The granules that a fibre has buffered, in the order of their first write. -/
def Fibre.granules (f : Fibre) : List Granule :=
  f.stroke.stores.foldl (fun gs r => (List.range r.size).foldl (fun gs i => putGranule gs r i) gs) []

/-- A granule's 24 bytes (R425). -/
def Granule.item (g : Granule) : List Byte :=
  bytesOfNat 8 (g.space * 2 ^ 60 + 8 * g.idx % 2 ^ 57) ++ g.data ++ [flagByte g.mask] ++ g.codes ++ zs 5

/-- The rank of a fibre's creation stamp in its unit (R425). -/
def Unit.orderOf (u : Unit) (f : Fibre) : Nat :=
  u.fibres.countP fun g => decide (g.stamp < f.stamp) || (g.stamp == f.stamp && decide (g.fid < f.fid))

/-- The item of an ended fibre: its number and rank alone. -/
def endedItem (n rank stack : Nat) : List Byte :=
  padTo 64 (bytesOfNat 4 n ++ zs 68 ++ bytesOfNat 4 rank ++ zs (308 + (stack + 63) / 64 * 8))

/-- SINSN of a fibre (R425): a stroke that has ended full, or at a team operation, has all its instructions.
DESIGN CHOICE: log 42. -/
def Fibre.strokeCount (f : Fibre) : Nat := if f.wait == some (.stroke 0) then Config.strokeInsns else f.stroke.insns

/-- A fibre item (R425, R426). DESIGN CHOICE: log 42. -/
def State.fibreItem (s : State) (u : Unit) (n : Nat) : List Byte :=
  match u.fibre? n with
  | none => endedItem n 0 u.desc.stack
  | some g =>
    if !g.live then endedItem n (u.orderOf g) u.desc.stack
    else
      let f := (s.wholeFibre u g).settleAll
      let ctx := s.ctxOf u
      let loc (p : Option (BitVec 57)) : List Byte := match p with | some q => s.locOf ctx q | none => zs 12
      let gs := if s.detOf u then f.granules else []
      let slots := (List.range u.desc.stack).filterMap fun k => (tget f.stack k).map fun r => (k, r)
      padTo 64 (bytesOfNat 4 n ++ [flagByte [true, f.handler, f.waitCode != 0, f.marks.isSome]] ++ bytesOfNat 1 f.waitCode ++
        bytesOfNat 2 f.preds.toNat ++ s.locOf ctx f.pc ++ bytesOfNat 2 f.base ++ bytesOfNat 2 f.calls.length ++
        bytesOfNat 2 f.floor ++ zs 2 ++ bytesOfNat 4 f.fstat.toNat ++ bytesOfNat 4 f.rmode.toNat ++ bytesOfNat 4 f.prog.toNat ++
        bytesOfNat 8 (f.waitArg s.clk) ++ loc (f.marks.map (·.1)) ++ loc (f.marks.map (·.2)) ++ bytesOfNat 4 (u.orderOf f) ++
        bytesOfNat 2 f.strokeCount ++ bytesOfNat 1 gs.length ++ zs 1 ++
        (f.caps.toList.flatMap fun c => bytesOfNat 16 c.bits.toNat) ++ bitmap 16 (fun i => (f.cap (BitVec.ofNat 4 i)).tag) ++
        zs 46 ++ (f.calls.flatMap fun c => s.locOf ctx c.rpc ++ bytesOfNat 1 c.shift.toNat ++ zs 3) ++
        padTo 8 (bitmap u.desc.stack fun k => (tget f.stack k).isSome) ++
        padTo 8 (slots.flatMap fun e => bytesOfNat 4 e.2.val.toNat ++ [e.2.code]) ++ gs.flatMap Granule.item)

/-! ### Scratchpad, matrix, transfer and wire items (R427 to R429) -/

/-- A scratchpad item (R427). -/
def State.scratchItem (s : State) (u : Unit) : List Byte :=
  bytesOfNat 4 u.no ++ bytesOfNat 4 u.desc.scratch ++ zs 56 ++
    s.mem.rangeBytes (keyScratch u.core u.allocBase) u.desc.scratch 64

/-- FORMAT of a tile (R428). -/
def TileFmt.num : TileFmt → Nat
  | .clear => 0
  | .fp32 => 1
  | .int32 => 2

/-- A tile's 16 bytes (R428). -/
def TileState.head (t : TileState) : List Byte :=
  bytesOfNat 1 t.fmt.num ++ [flagByte [t.zero, t.red.isSome]] ++ bytesOfNat 1 t.log.length ++ zs 1 ++
    (match t.red with
      | some (n, next, bar) => bytesOfNat 2 n ++ bytesOfNat 2 next ++ bytesOfNat 4 bar.toNat
      | none => zs 8) ++ zs 4

/-- The place of a FIFO tile in its FIFO's retained order (R428). -/
def Matrix.placeOf (m : Matrix) (f num : Nat) : Nat :=
  ((m.fifos.getD f FifoState.reset).retained.takeWhile fun t => t.num != num).length

/-- rm as a number (R139). -/
def rmNum : RM → Nat
  | .rne => 0
  | .rtz => 1
  | .rdn => 2
  | .rup => 3
  | .rna => 4

/-- A log entry's 160 bytes (R428). -/
def Matrix.logItem (m : Matrix) (e : LogEntry) : List Byte :=
  bytesOfNat 1 e.fa ++ bytesOfNat 1 e.fb ++ bytesOfNat 1 (m.placeOf e.fa e.a) ++ bytesOfNat 1 (m.placeOf (e.fb + 2) e.b) ++
    bytesOfNat 1 (MTy.code e.ty).toNat ++ bytesOfNat 1 (rmNum e.rm) ++ [flagByte [e.daz, e.ftz]] ++ zs 25 ++
    (e.scales ++ zs 128).take 128

/-- A FIFO tile's part (R428). -/
def FifoTile.item (t : FifoTile) : List Byte :=
  bytesOfNat 4 t.size ++ zs 60 ++ padTo 64 (bytesOfWords t.words ++ codeBytesOf t.words)

/-- A contribution's part (R428): `held` at its sender, or in the target's buffer. -/
def Drain.item (d : Drain) (held : Bool) : List Byte :=
  let (_, _, t, rank) := d.target
  let ws := (List.range 4096).map fun i => (tget d.words i).getD Reg.zero
  bytesOfNat 1 t ++ [if d.int then 2 else 1] ++ bytesOfNat 1 (rmNum d.rm) ++ [flagByte [d.daz, d.ftz]] ++ bytesOfNat 2 rank ++ zs 2 ++
    (if held then bytesOfNat 8 d.desc.toNat else zs 8) ++ zs 48 ++ bytesOfWords ws ++ codeBytesOf ws

/-- The contributions that wait in a unit's reduction buffer. -/
def State.bufferedFor (s : State) (u : Unit) : List Drain :=
  s.drains.filter fun d => d.buffered && ((s.drainUnit d).map Unit.key) == some u.key

/-- The drains that a unit has read and not delivered (R325). -/
def State.heldBy (s : State) (u : Unit) : List Drain := s.drains.filter fun d => !d.buffered && d.sender == u.key

/-- A matrix item (R428). -/
def State.matrixItem (s : State) (u : Unit) : List Byte :=
  let m := s.matrix u.core
  let buf := s.bufferedFor u
  let held := s.heldBy u
  bytesOfNat 4 u.no ++ bytesOfNat 1 buf.length ++ zs 1 ++ bytesOfNat 2 held.length ++ zs 8 ++
    (m.fifos.flatMap fun f => bytesOfNat 1 f.retained.length ++ bytesOfNat 1 f.readyT.length) ++ zs 32 ++
    m.tiles.flatMap TileState.head ++ (m.tiles.flatMap fun t => t.log.flatMap m.logItem) ++
    (m.fifos.flatMap fun f => (f.retained ++ f.readyT).flatMap FifoTile.item) ++
    (buf.flatMap fun d => d.item false) ++ held.flatMap fun d => d.item true

/-- The unfinished requests of a unit in acceptance order. -/
def State.requestsOf (s : State) (u : Unit) : List XReq :=
  let all := ((s.core? u.core).map fun c => (c.loadQ ++ c.storeQ).filter fun r => r.unit == u.key).getD []
  let ids := all.foldl (fun l r => insNat l r.id) []
  ids.filterMap fun i => all.find? fun r => r.id == i

/-- A transfer item (R429). -/
def XReq.item (r : XReq) (no : Nat) : List Byte :=
  bytesOfNat 4 no ++ bytesOfNat 4 (r.fid.getD 0xFFFFFFFF) ++ bytesOfNat 1 r.tmpl ++
    [flagByte [r.store, r.fid.isNone, r.lateRaised]] ++ bytesOfNat 1 (r.chan.getD 0xFF) ++ zs 1 ++ bytesOfNat 4 r.rmode.toNat ++
    bytesOfNat 8 r.seq ++ bytesOfNat 2 r.x0.toNat ++ bytesOfNat 2 r.x1.toNat ++ bytesOfNat 2 r.x2.toNat ++ zs 2 ++
    bytesOfNat 8 r.progress ++ zs 24

/-- The number of a slot's state (R429). -/
def SlotState.num : SlotState → Nat
  | .free => 0
  | .landed => 1
  | .taken => 2
  | .released => 3

/-- The slot bitmap of a ring (R429). -/
def slotMap (ss : List SlotState) : List Byte :=
  bitmap (2 * ss.length) fun i => (ss.getD (i / 2) .free).num / 2 ^ (i % 2) % 2 == 1

/-- The posts of a unit that no port has sent, port 0's queue first. -/
def State.postsOf (s : State) (u : Unit) : List Post := (s.wire.ports.flatMap Port.posts).filter fun p => p.unit == u.key

/-- The length word of a post (R354): its length, and its port in bit 16. -/
def Post.lenWord (p : Post) : Nat := p.len + 65536 * (p.tag.toNat / 2 ^ 30)

/-- A post's 32 bytes (R429). -/
def Post.item (p : Post) : List Byte :=
  bytesOfNat 4 p.tag.toNat ++ bytesOfNat 4 p.fid ++ bytesOfNat 4 p.off ++ bytesOfNat 4 p.lenWord ++ bytesOfNat 1 p.mode ++ zs 1 ++
    bytesOfNat 2 p.h ++ zs 12

/-- A wire item (R429). -/
def State.wireItem (s : State) (u : Unit) : List Byte :=
  let ps := s.postsOf u
  let tail := ps.flatMap Post.item
  match u.ring with
  | some r =>
    let x := (s.ring? r).getD (Ring.empty r)
    padTo 64 (bytesOfNat 4 u.no ++ bytesOfNat 2 r ++ bytesOfNat 2 x.drops ++ bytesOfNat 4 x.rseq ++ bytesOfNat 4 ps.length ++
      bytesOfNat 8 x.desc.toNat ++ zs 40 ++ padTo 64 (slotMap x.slots) ++ tail)
  | none =>
    padTo 64 (bytesOfNat 4 u.no ++ bytesOfNat 2 0xFFFF ++ zs 6 ++ bytesOfNat 4 ps.length ++ zs 48 ++ tail)

/-! ### Unstarted units and pages (R429, R435) -/

/-- The unit numbers of a launch that have not been dispatched, those that flush returned among them. -/
def Launch.unstarted (l : Launch) : List Nat :=
  (List.range l.part.grid).filter fun n =>
    (decide (l.nextUnit ≤ n) || l.returned.contains (n / max l.part.gang 1)) && !(l.ends.any fun e => e.no == n)

/-- The unstarted item (R429). -/
def Launch.unstartedItem (l : Launch) : List Byte :=
  let ns := l.unstarted
  padTo 64 (bytesOfNat 8 (l.hdr.getD (2 ^ 64 - 1)) ++ bytesOfNat 4 ((l.graph.map (·.1)).getD 0) ++
    bytesOfNat 2 ((l.graph.map (·.2)).getD 0xFFFF) ++ zs 2 ++ bytesOfNat 4 ns.length ++ zs 44 ++ ns.flatMap fun n => bytesOfNat 4 n)

/-- Whether a page of a context holds pool memory that is homed here. -/
def State.poolPage (s : State) (p : Page) : Bool :=
  s.fabric.granules.any fun g => g.pool / 32 == p.ctx &&
    g.home == ((s.fabric.pools.find? fun q => q.pool == g.pool).map Pool.self).getD 0 && decide (g.range ≤ p.va) &&
      decide (p.va < g.range + 2 ^ 30)

/-- The pages of memory that a context has mapped. -/
def State.pagesOf (s : State) (ctx : Nat) : List Page := s.fabric.pages.filter fun p => p.ctx == ctx && p.aperture.isNone

/-- The ranges of a context's pools that are homed on other devices (R189). -/
def State.farRanges (s : State) (ctx : Nat) : List Nat :=
  (s.fabric.granules.filter fun g => g.pool / 32 == ctx &&
    g.home != ((s.fabric.pools.find? fun q => q.pool == g.pool).map Pool.self).getD 0).map PoolGranule.range

/-- The pages item (R435): pool memory that is homed elsewhere is listed by its range of 1 GiB. DESIGN CHOICE: log 42. -/
def State.pagesItem (s : State) (ctx : Nat) : List Byte :=
  let entry (va size : Nat) (dirty pool : Bool) : List Byte :=
    bytesOfNat 8 va ++ bytesOfNat 1 size ++ [flagByte [dirty, pool]] ++ zs 6
  let es := ((s.pagesOf ctx).map fun p => entry p.va p.sizeCode p.dirty (s.poolPage p)) ++
    (s.farRanges ctx).map fun r => entry r 2 false true
  padTo 64 (bytesOfNat 8 es.length ++ zs 56 ++ es.flatten)

/-! ### The whole image (R420, R421) -/

/-- Bit n is set when opcode n is assigned (R420). -/
def opsBytes : List Byte := bitmap 256 fun n => (formOf (unpack (BitVec.ofNat 96 (n * 2 ^ 88)))).isSome

/-- The units of a launch that are banked: those of some gangs, in ascending number. -/
def State.bankUnits (s : State) (l : Launch) (gangs : List Nat) : List Unit :=
  (List.range l.part.grid).filterMap fun n =>
    s.units.find? fun u => u.launch == l.key && u.no == n && !u.shadow && gangs.contains u.gang

/-- Whether a capability is one of space 5. -/
def poolCap (c : CapReg) : Bool := c.tag && c.space == 5

/-- Whether a range of memory holds a capability of space 5. -/
def Memory.poolCapIn (m : Memory) (k n : Nat) : Bool :=
  (List.range (n / 16)).any fun i => m.tag (k + 16 * i) &&
    poolCap { bits := BitVec.ofNat 128 (m.num (k + 16 * i) 16), tag := true, bad := false }

/-- Whether a unit holds a capability of space 5. -/
def State.unitPoolCap (s : State) (u : Unit) : Bool :=
  (u.fibres.any fun f => f.live && f.caps.toList.any poolCap) ||
    (u.tpl.any fun t => t.from?.toList.any poolCap || t.to?.toList.any poolCap) ||
    s.mem.poolCapIn (keyScratch u.core u.allocBase) u.desc.scratch

/-- The sizes of FIFO tiles and the types of log entries that a unit holds. -/
def State.mxKinds (s : State) (u : Unit) : List Nat × List MTy :=
  if s.ownsEngine u then
    let m := s.matrix u.core
    ((m.fifos.flatMap fun f => (f.retained ++ f.readyT).map FifoTile.size), m.tiles.flatMap fun t => t.log.map LogEntry.ty)
  else ([], [])

/-- REQ of an image (R420). -/
def State.reqBits (s : State) (l : Launch) (us : List Unit) : Nat :=
  let kinds := us.map s.mxKinds
  let size (n : Nat) : Bool := kinds.any fun k => k.1.contains n
  let ty (p : MTy → Bool) : Bool := kinds.any fun k => k.2.any p
  let bits : List Bool :=
    [size 3072 || ty (· == .l6), size 8192 || ty (fun t => t == .f16 || t == .bf16), size 4096 || ty (fun t => t == .i8 || t == .n8),
     us.any fun u => u.ring.isSome, us.any fun u => u.channel.isSome,
     us.any s.unitPoolCap || s.mem.poolCapIn (keyArg l.key 0) l.desc.args, l.det]
  (flagByte bits).toNat

/-- A section: its KIND, its number of items and its bytes. -/
structure Section where
  kind : Nat
  items : Nat
  bytes : List Byte
  deriving DecidableEq, Repr

/-- A section from its items. -/
def sectionOf (kind : Nat) (items : List (List Byte)) : Section :=
  { kind := kind, items := items.length, bytes := items.flatMap (padTo 64) }

/-- The directory (R421) of sections that begin at an offset. -/
def directory (off : Nat) : List Section → List Byte
  | [] => []
  | x :: xs => bytesOfNat 2 x.kind ++ zs 2 ++ bytesOfNat 4 x.items ++ bytesOfNat 8 off ++ bytesOfNat 8 x.bytes.length ++
      directory (off + x.bytes.length) xs

/-- MAGIC of an image (R420). -/
def imageMagic : Nat := 0x4D494B4E4142585A

/-- An image from its sections (R420, R421). -/
def imageOf (flags req : Nat) (chash : List Byte) (secs : List Section) : List Byte :=
  let first := (192 + 24 * secs.length + 63) / 64 * 64
  let rest := (directory first secs ++ zs first).take (first - 192) ++ secs.flatMap Section.bytes
  bytesOfNat 8 imageMagic ++ bytesOfNat 2 1 ++ bytesOfNat 2 Config.numVersion ++ bytesOfNat 4 flags ++ opsBytes ++
    bytesOfNat 8 Config.feat ++ bytesOfNat 8 req ++ chash ++ bytesOfNat 4 secs.length ++
    bytesOfNat 4 (Config.revisionId.toNat * 65536 + Config.deviceId.toNat) ++ bytesOfNat 8 (192 + rest.length) ++ sha384 rest ++
    zs 16 ++ rest

/-- The sections of a banking of some gangs of a launch; `whole` adds its unstarted units. -/
def State.sections (s : State) (l : Launch) (us : List Unit) (whole : Bool) : List Section :=
  let teams (u : Unit) : List Nat := List.range (u.desc.fibres / u.desc.team)
  let wired := us.filter fun u => u.ring.isSome || !(s.postsOf u).isEmpty
  let all : List Section :=
    [sectionOf 1 [s.launchItem l], sectionOf 2 (us.map s.unitItem),
     sectionOf 3 (us.flatMap fun u => (teams u).map (s.teamItem u)),
     sectionOf 4 (us.flatMap fun u => (List.range u.desc.fibres).map (s.fibreItem u)), sectionOf 5 (us.map s.scratchItem),
     sectionOf 6 ((us.filter s.ownsEngine).map s.matrixItem),
     sectionOf 7 (us.flatMap fun u => (s.requestsOf u).map fun r => r.item u.no), sectionOf 8 (wired.map s.wireItem),
     sectionOf 9 (if whole && !l.unstarted.isEmpty then [l.unstartedItem] else []), sectionOf 10 [s.pagesItem l.ctx]]
  all.filter fun x => x.items != 0

/-- The image of some gangs of a launch as they stand (R420). DESIGN CHOICE: log 41. -/
def State.formImage (s : State) (l : Launch) (us : List Unit) (whole : Bool) : List Byte :=
  let flags := (flagByte [l.det, whole]).toNat
  imageOf flags (s.reqBits l us) (s.chash l.ctx) (s.sections l us whole)

/-! ### The length that `BANK` reserves (R439) -/

/-- A number rounded up to a multiple of 64. -/
def up64 (n : Nat) : Nat := (n + 63) / 64 * 64

/-- The greatest length of a unit's items (R439). -/
def State.unitBound (s : State) (l : Launch) (u : Unit) : Nat :=
  let d := u.desc
  let teams := d.fibres / d.team
  let stack8 := (d.stack + 63) / 64 * 8
  let fibre := up64 (384 + 16 * (d.stack - 64) + stack8 + (5 * d.stack + 7) / 8 * 8 + (if l.det then 32 * 24 else 0))
  let matrix :=
    if s.ownsEngine u then 576 + 32 * 8 * 160 + 8 * 12 * (64 + 4096 + 1024) + (2 + 16) * (64 + 16384 + 4096) else 0
  let slots := match u.ring with | some r => up64 ((2 * ((s.ring? r).getD (Ring.empty r)).slots.length + 7) / 8) | none => 0
  4160 + teams * (64 + 16 * 160) + d.fibres * fibre +
    (64 + up64 d.scratch + up64 (d.scratch / 4) + up64 ((d.scratch / 16 + 7) / 8)) + up64 matrix + 32 * 64 +
    up64 (64 + slots + 2 * 256 * 32)

/-- L of `BANK` (R439): every variable part at its hardware maximum. -/
def State.bankBound (s : State) (l : Launch) (us : List Unit) : Nat :=
  let left := (List.range l.part.grid).countP fun n => !(l.ends.any fun e => e.no == n && e.how == .complete)
  up64 (192 + 24 * 10) + up64 (256 + l.desc.args + (l.desc.args + 3) / 4 + (l.desc.args / 16 + 7) / 8) +
    (us.map (s.unitBound l)).sum + up64 (64 + 4 * left) + up64 (64 + 16 * ((s.pagesOf l.ctx).length + (s.farRanges l.ctx).length))

end Sys2Proof.Machine
end

