-- ==== Sys2Proof/Machine/Bank.lean ====
section
/-! DEFINITION. Banking (spec 20 R415 to R420, R436, R439): a gang's way to its bank points, the copy of its state, the
writing of its image, and the instruction `BANK`. -/

namespace Sys2Proof.Machine

/-! ### A unit leaves its core without ending -/

/-- Take a unit off its core as it stands: its requests, posts and drains have been recorded, and its ring stays reserved
for its launch; an aperture store that still waits finds its channel bound to no unit (R282). DESIGN CHOICE: log 41. -/
def State.liftUnit (s : State) (u : Unit) : State :=
  let posts := (s.postsOf u).map Post.sb
  let reqs := (s.requestsOf u).map XReq.id
  let cut (p : Port) : Port := { p with posts := p.posts.filter fun x => x.unit != u.key }
  let free (r : Ring) : Ring := { r with unit := none, reserved := some u.launch, slots := [], landings := [] }
  let lost := ((s.core? u.core).map Core.apWait).getD []
  let s0 := (lost.filter fun a => a.unit == u.key).foldl (fun s a => s.logRec 4 0x41 0 (8 * a.chan)) s
  let s1 := { s0 with
    wire := { s.wire with ports := s.wire.ports.map cut, rings := updIf s.wire.rings (fun r => r.unit == some u.key) free }
    drains := s.drains.filter fun d =>
      if d.buffered then ((s.drainUnit d).map Unit.key) != some u.key else d.sender != u.key }
  let s2 := s1.modCore u.core fun c => { c with
    loadQ := c.loadQ.filter fun r => r.unit != u.key
    storeQ := c.storeQ.filter fun r => r.unit != u.key
    apWait := c.apWait.filter fun a => a.unit != u.key
    scoreboard := c.scoreboard.filter fun e => !(reqs.contains e.who || posts.contains e.who)
    channels := c.channels.filter fun e => e.2 != u.key
    matrix := if c.matrix.owner == some u.key then Matrix.reset else c.matrix
    batches := c.batches.map fun b => { b with fibres := b.fibres.filter fun e => e.1 != u.key }
    rows := c.rows.map (PartRows.without u.seats) }
  { (s2.wakeRanges u.core) with
    units := s2.units.filter fun v => v.key != u.key, issuing := s2.issuing.filter fun e => e.1 != u.key }

/-! ### BANKING_START and BANK_POINTS_REACHED (R416) -/

/-- A banking job. -/
def State.job? (s : State) (n : Nat) : Option BankJob := s.bank.jobs.find? fun j => j.num == n
/-- Change a banking job. -/
def State.modJob (s : State) (n : Nat) (f : BankJob → BankJob) : State :=
  { s with bank := { s.bank with jobs := updIf s.bank.jobs (fun j => j.num == n) f } }
/-- Remove a banking job. -/
def State.dropJob (s : State) (n : Nat) : State :=
  { s with bank := { s.bank with jobs := s.bank.jobs.filter fun j => j.num != n } }

/-- BANKING_START (R416 step 1): the gangs advance to their bank points. -/
def execBankingStart (job : Nat) (s : State) : Host.Outcome State Fault Refusal :=
  match s.job? job with
  | none => .next s
  | some j =>
    if j.step != 0 then .next s
    else
      let hit (g : Gang) : Bool := g.launch == j.launch && j.gangs.contains g.idx && !g.shadow
      .next { s with gangs := updIf s.gangs hit fun g => { g with banking := 1, drainTill := none } }

/-- Whether every fibre of a unit stands at a bank point and its requests are in a form that an image records (R416). -/
def State.bankable (s : State) (u : Unit) : Bool :=
  let m := s.matrix u.core
  let c := (s.core? u.core).getD (Core.reset u.core)
  !u.ending && (u.fibres.all fun f => !f.live || s.atBankPoint u f) && (u.fibres.all fun f => f.outst.isEmpty) &&
    !(c.lateTraps.any fun t => t.unit == u.key) && !(c.records.any fun r => r.late.contains u.key) &&
    !(s.wire.ports.any fun p => p.sending.any fun x => x.post.unit == u.key) &&
    !((s.requestsOf u).any XReq.written) && !(s.drains.any fun d => d.sender == u.key && !d.buffered && !s.unsent d) && !(m.ops.any fun o => o.unit == u.key && o.crew.isEmpty) &&
    !(s.wire.rings.any fun r => r.unit == some u.key && !r.landings.isEmpty)

/-- The gangs of a job that are resident. -/
def State.jobGangs (s : State) (j : BankJob) : List Gang :=
  s.gangs.filter fun g => g.launch == j.launch && j.gangs.contains g.idx && !g.shadow

/-- Stop the transfers of a unit that are moving (R416 step 4): each has written a part of its bytes, which stays written; in a
DET launch none is between rounds. -/
def State.stopMoves (s : State) (u : Unit) : State :=
  if s.detOf u then s
  else (s.requestsOf u).foldl (fun s r => match s.core? u.core, u.xplanOf r with
    | some c, some p =>
      if u.mayMove c r then
        let (s1, n) := s.writePart u r p p.elems
        s1.modXReq u.core r.id fun x => { x with progress := n }
      else s
    | _, _ => s) s

/-- Keep the pages of memory that an image lists for the device that plants it (R435): the image holds all of its launch and is
written out. -/
def State.keepPages (s : State) (j : BankJob) (l : Launch) : State :=
  if !j.whole || j.dest.isNone then s
  else
    let ps := (s.pagesOf l.ctx).filter fun p => !s.poolPage p
    { s with bank := { s.bank with
      carried := s.bank.carried ++ ps.map fun p => { launch := l.key, ctx := l.ctx, va := p.va, fetched := false } } }

/-- Take the shadow copies of gangs off (R406). -/
def State.dropShadows (s : State) (launch : Nat) (gangs : List Nat) : State :=
  (s.gangs.filter fun g => g.launch == launch && gangs.contains g.idx && g.shadow).foldl (fun s g => s.dropShadow g) s

/-- The faults recorded on the fibres of units, by unit number. -/
def faultsOf (us : List Unit) : List (Nat × Nat × Deferred) :=
  us.flatMap fun u => u.fibres.flatMap fun f => f.faults.map fun d => (u.no, f.fid, d)

/-- The keys of the bytes at a destination (R439); none where one cannot be written. -/
def State.destKeys (s : State) (d : BankDest) (n : Nat) : Option (List Nat) :=
  (List.range n).mapM fun i =>
    if d.pcie then some (keyHost (d.adr + i))
    else if d.space = 4 then (s.hostKey d.func (d.adr + i)).map (·.1) else s.vaKey d.ctx (d.adr + i) rightW

/-- Write bytes at a destination; where they cannot be written, firmware core 7 logs it. -/
def State.writeDest (s : State) (d : BankDest) (b : List Byte) : State :=
  match s.destKeys d b.length with
  | some ks => s.pokeKeys ks b
  | none => s.logRec 7 0x24 0 d.adr

/-- A job's gangs are at their bank points: their transfers stop, their writes are performed at `.sys`, and the functions that
they are in are known (R416 steps 4 and 6, R430). -/
def State.settleGangs (s : State) (j : BankJob) (l : Launch) : State :=
  let us := s.bankUnits l j.gangs
  let s1 := us.foldl State.stopMoves s
  us.foldl (fun s u => s.noteUnit l.ctx u) (((s1.settleLags 0 .sys).reveal l.key).noteFunction l.ctx l.desc)

/-- The image of a job's gangs is formed and their cores are freed (R416 steps 3 to 8). -/
def State.copyOut (s : State) (j : BankJob) (l : Launch) : State :=
  let s1 := (s.settleGangs j l).keepPages j l
  let us := s1.bankUnits l j.gangs
  let image := s1.formImage l us j.whole
  let kept := (s1.jobGangs j).map fun g => (g.idx, s1.residence g)
  let s2 := us.foldl (fun s u => (s.liftUnit u).logRec 7 0x70 (BitVec.ofNat 32 u.no) l.key) (s1.dropShadows l.key j.gangs)
  let s3 := { s2 with gangs := s2.gangs.filter fun g => !(g.launch == l.key && j.gangs.contains g.idx) }
  let mine (n : Nat) : Bool := j.gangs.contains (n / max l.part.gang 1)
  let s4 := s3.modLaunch l.key fun l => { l with
    banked := l.banked ++ j.gangs, conts := l.conts.filter fun c => !mine c.1
    nextUnit := if j.whole then l.part.grid else l.nextUnit, returned := if j.whole then [] else l.returned }
  let save := j.dest.isNone
  let s5 := s4.modJob j.num fun j => { j with
    step := if save then 2 else 1, image := image, ready := save, resident := kept, faults := if save then faultsOf us else []
    fronts := (us.filter Unit.usedFront).map Unit.no
    issues := us.filterMap fun u => u.next.map fun n => (u.no, n.issued) }
  match j.dest with
  | some d => s5.writeDest d (zs 8)
  | none => s5

/-- BANK_POINTS_REACHED (R416): every fibre of the gangs is at a bank point, and their state is copied to staging.
DESIGN CHOICE: log 41. -/
def execBankPointsReached (job : Nat) (s : State) : Host.Outcome State Fault Refusal :=
  match s.job? job with
  | none => .next s
  | some j => match s.launch? j.launch with
    | none => .next (s.dropJob job)
    | some l =>
      let us := s.bankUnits l j.gangs
      if j.step != 0 || !((s.jobGangs j).all fun g => g.banking == 1) || !us.all s.bankable then .next s
      else .next (s.copyOut j l)

/-- IMAGE_WRITTEN (R420, R440): the image is written, MAGIC with it as a release at `.sys`.
DESIGN CHOICE: log 41. -/
def execImageWritten (job : Nat) (s : State) : Host.Outcome State Fault Refusal :=
  match s.job? job with
  | none => .next s
  | some j => match j.dest with
    | none => .next s
    | some d =>
      if j.step != 1 then .next s
      else
        let s0 := (s.settleLags 0 .sys).reveal j.launch
        let s1 := (s0.writeDest d j.image).dropJob job
        .next { s1 with bank := { s1.bank with written := (j.image.drop 128).take 48 :: s1.bank.written } }

/-! ### BANK (R439) -/

/-- What a request to bank comes to: nothing found, a gang that cannot be banked now, no room for so many bytes, or a
banking of so many. -/
inductive BankGo where
  | absent
  | busy
  | short (n : Nat)
  | go (n : Nat) (gangs : List Nat)
  deriving DecidableEq, Repr

/-- The answer to a request to bank gang `g` of a launch, or all of it, into `room` bytes (R439 lines 002 to 006). -/
def State.bankAsk (s : State) (l : Launch) (g : Nat) (room : Option Nat) : BankGo :=
  let whole := g == 0xFFFFFFFF
  let placed := s.gangs.filter fun x => x.launch == l.key && !x.shadow
  let gone (n : Nat) : Bool := l.banked.contains n || l.returned.contains n ||
    (tget l.kills n).isSome && !placed.any (fun x => x.idx == n) || s.bank.jobs.any fun j => j.launch == l.key && j.gangs.contains n
  let named := if whole then placed.map Gang.idx else [g]
  if l.over' then .absent
  else if !whole && gone g || whole && (!l.banked.isEmpty || !l.returned.isEmpty || placed.any fun x => gone x.idx) then .busy
  else if !whole && !placed.any fun x => x.idx == g then .absent
  else if placed.any fun x => named.contains x.idx && x.banking != 0 then .busy
  else
    let n := s.bankBound l (s.bankUnits l named)
    match room with
    | some r => if r < n then .short n else .go n named
    | none => .go n named

/-- Begin a banking of gangs of a launch: of one that is failing or being cancelled, none is made (R416 step 2, R436). -/
def State.startBank (s : State) (l : Launch) (gangs : List Nat) (whole : Bool) (d : BankDest) : State :=
  if l.failed || l.cancelled then s else s.startJob l.key gangs whole (some d)

/-- vD of `BANK` (R439). DESIGN CHOICE: log 42. -/
def BankGo.word : BankGo → DWord
  | .absent => BitVec.allOnes 64
  | .busy => BitVec.ofNat 64 (2 ^ 63)
  | .short n => BitVec.ofNat 64 (2 ^ 63 + n)
  | .go n _ => BitVec.ofNat 64 n

/-- BANK (R439): a release at `.dev`. -/
def execBank (c : Ctl) (d : VReg) (p : MemOp) (v : RSrc) (s : State) : Host.Outcome State Fault Refusal :=
  let o : Op := { op0 c with
    reads := p.reads ++ groupReads 3 v.n.toNat 2 true, last := p.lastRegs ++ v.lastRegs 2, regs := dstRegs d 2, ends := 3
    takes := [.plant] }
  s.privileged <| s.issue o fun x s =>
    let cap := x.f.cap p.cap.n
    match s.reachMem x p 192 64 permW rightW [0, 4] with
    | .error t => .trap t
    | .ok a =>
      if !s.released x then .wait s .fence
      else
        let s := s.releaseTo x.u .dev
        let me := s.myLaunch x
        let w := x.f.pairAt v.n.toNat
        let give (s : State) (w : DWord) : Fx := .done (s.modCur fun f => f.pendRegs (x.f.slotOf d.toNat) (regs64 w))
        match s.launchById me.key (w.extractLsb' 0 32) with
        | none => give s (BitVec.allOnes 64)
        | some l =>
          if !me.reaches l.ctx l.job then give s (BitVec.allOnes 64)
          else
            let g := s.bankAsk l (w.extractLsb' 32 32).toNat (some (cap.length - (x.f.offset p).toNat))
            match g with
            | .go _ gangs =>
              give (s.startBank l gangs ((w.extractLsb' 32 32).toNat == 0xFFFFFFFF)
                { ctx := s.ctxOf x.u, func := s.funcOf x.u, space := a.space, adr := a.adr, pcie := false }) g.word
            | _ => give s g.word

end Sys2Proof.Machine
end

