-- ==== Sys2Proof/Machine/Batch.lean ====
section
/-! DEFINITION. Batches and the heavy port (spec 05 R67 to R72). -/

namespace Sys2Proof.Machine

/-! ### The fibres of a partition (R67) -/

/-- A live fibre of a partition as its batcher sees it. -/
structure Seated where
  unit : Nat
  fid : Nat
  pc : BitVec 57
  lane : Nat
  seat : Nat
  waiting : Nat
  stamp : Nat
  deriving DecidableEq, Repr, Inhabited

/-- Whether a fibre of a unit may issue now: not parked, not held by its stall count, and its unit takes part (R69). -/
def State.issuable (s : State) (u : Unit) (f : Fibre) : Bool :=
  f.live && f.wait.isNone && decide (f.ready ≤ s.clk) && s.takesPart u

/-- The ready fibres of a partition. -/
def State.readyIn (s : State) (core part : Nat) : List Seated :=
  (s.unitsOn core).flatMap fun u => u.fibres.filterMap fun f =>
    let seat := u.seatOf f.fid
    if seat.1 == part && s.issuable u f then
      some { unit := u.key, fid := f.fid, pc := f.pc, lane := f.fid % 32, seat := seat.2, waiting := f.waiting, stamp := f.stamp }
    else none

/-! ### Forming a batch (R69) -/

/-- Whether a fibre comes before another: the larger waiting count, the older stamp, the lower seat. -/
def Seated.before (a b : Seated) : Bool :=
  decide (b.waiting < a.waiting) || (a.waiting == b.waiting && (decide (a.stamp < b.stamp) ||
    (a.stamp == b.stamp && decide (a.seat < b.seat))))

/-- The first of some fibres; of two that tie in every respect R69 names, at different PCs, the first of the core's list.
DESIGN CHOICE: log 49. -/
def firstSeated (l : List Seated) : Option Seated :=
  l.foldl (fun (b : Option Seated) x => match b with
    | none => some x
    | some y => if x.before y then some x else some y) none

/-- The fibres of a PC, counted at most once for each home lane. -/
def laneCount (l : List Seated) (pc : BitVec 57) : Nat :=
  ((l.filter fun x => x.pc == pc).foldl (fun m x => insNat m x.lane) []).length

/-- The PC with the most fibres, the lowest of equals. DESIGN CHOICE: log 49. -/
def mostPc (l : List Seated) : Option (BitVec 57) :=
  (l.foldl (fun (b : Option (Nat × BitVec 57)) x =>
    let n := laneCount l x.pc
    match b with
    | none => some (n, x.pc)
    | some (m, p) => if decide (m < n) || (m == n && decide (x.pc < p)) then some (n, x.pc) else b) none).map (·.2)

/-- The PC that a regroup chooses (R69 step 2). DESIGN CHOICE: log 49. -/
def choosePc (l : List Seated) : Option (BitVec 57) :=
  if l.any (fun x => decide (Config.waitBound ≤ x.waiting)) then (firstSeated l).map Seated.pc else mostPc l

/-- The fibres that a batch takes at a PC: one for each home lane (R69 step 3). -/
def takeBatch (l : List Seated) (pc : BitVec 57) : List Seated :=
  (List.range Config.lanes).filterMap fun k => firstSeated (l.filter fun x => x.pc == pc && x.lane == k)

/-- Whether some fibres took part in a partition's batch that lost the heavy port (R72). DEDUCED: log 67. -/
def Core.lostIn (c : Core) (part : Nat) (fs : List (Nat × Nat)) : Bool :=
  c.batches.any fun x => x.part == part && x.lost && x.fibres.any fs.contains

/-- Put fibres as a partition's batch in place of the one it has: an instruction that lost the heavy port in the cycle before
keeps its place (R72). DEDUCED: log 67. -/
def Core.setBatch (c : Core) (part : Nat) (fs : List (Nat × Nat)) : Core :=
  { c with batches := c.batches.filter (fun x => x.part != part) ++ [{ part := part, fibres := fs, lost := c.lostIn part fs }] }

/-- A regroup of one partition (R69): fibres that yielded are ready again (R100). -/
def State.regroup (s : State) (core part : Nat) : State :=
  let inPart (u : Unit) (f : Fibre) : Bool := u.core == core && (u.seatOf f.fid).1 == part
  let wake (u : Unit) (f : Fibre) : Fibre :=
    if inPart u f && f.wait == some .regroup then { f with wait := none, waiting := 0 } else f
  let woken : State := { s with units := s.units.map fun u => { u with fibres := u.fibres.map (wake u) } }
  let l := woken.readyIn core part
  let taken : List Seated := match choosePc l with
    | some pc => takeBatch l pc
    | none => []
  let count (u : Unit) (f : Fibre) : Fibre :=
    if taken.any (fun x => x.unit == u.key && x.fid == f.fid) then { f with waiting := 0 }
    else if l.any (fun x => x.unit == u.key && x.fid == f.fid) then { f with waiting := f.waiting + 1 } else f
  let recount (u : Unit) : Unit := if u.core == core then { u with fibres := u.fibres.map (count u) } else u
  let s1 : State := { woken with units := woken.units.map recount }
  (s1.modCore core fun c => c.setBatch part (taken.map fun x => (x.unit, x.fid))).count core 0x0004 1

/-- BATCH_REGROUP (R69): it comes every 4 cycles. -/
def execBatchRegroup (core part : Nat) (s : State) : Host.Outcome State Fault Refusal :=
  if decide (Config.cores ≤ core) || decide (Config.partitions ≤ part) || s.clk % 4 != 0 then .next s
  else .next (s.regroup core part)

/-! ### Issuing a batch (R69, R70, R72) -/

/-- What a partition would issue in this cycle. -/
structure Offer where
  part : Nat
  fibres : List (Nat × Nat)
  heavy : Bool
  lost : Bool
  age : Nat
  parked : Bool
  deriving DecidableEq, Repr, Inhabited

/-- Whether the instruction at a fibre's PC is heavy (R51). -/
def State.heavyAt (s : State) (u : Unit) (f : Fibre) : Bool :=
  match s.fetch u f with
  | .ok (.word w _) => pairOf w
  | .ok (.packed code) => (match s.dictEntry (s.ctxOf u) u.desc (code.extractLsb' 0 10).toNat with
    | .ok (w, _) => pairOf w
    | .error _ => false)
  | .error _ => false

/-- The live fibres of a batch. -/
def State.batchMembers (s : State) (b : Batch) : List (Unit × Fibre) :=
  b.fibres.filterMap fun e => (s.unit? e.1).bind fun u => (u.fibre? e.2).bind fun f => if f.live then some (u, f) else none

/-- What a batch offers: its fibres at its PC, where none is held by its stall count; those that have parked or branched
away have left it. -/
def State.offer (s : State) (b : Batch) : Offer :=
  let ms := s.batchMembers b
  let up := ms.filter fun m => m.2.wait.isNone
  let seated (m : Unit × Fibre) : Seated :=
    { unit := m.1.key, fid := m.2.fid, pc := m.2.pc, lane := m.2.fid % 32, seat := (m.1.seatOf m.2.fid).2, waiting := 0
      stamp := m.2.stamp }
  let mine : List (Unit × Fibre) := match mostPc (up.map seated) with
    | some pc => up.filter fun m => m.2.pc == pc
    | none => []
  let go := !mine.isEmpty && mine.all fun m => s.issuable m.1 m.2
  { part := b.part, fibres := mine.map fun m => (m.1.key, m.2.fid), heavy := go && mine.any fun m => s.heavyAt m.1 m.2
    lost := b.lost, age := (minOf (mine.map fun m => m.2.stamp)).getD 0, parked := ms.any fun m => m.2.wait.isSome } |>
    fun (o : Offer) => if go then o else { o with heavy := false }

/-- Whether an offer holds fibres that issue now. -/
def State.offers (s : State) (o : Offer) : Bool :=
  !o.fibres.isEmpty && o.fibres.all fun e => match s.unit? e.1 with
    | some u => ((u.fibre? e.2).map (s.issuable u)).getD false
    | none => false

/-- Which of two heavy offers of a pair of partitions has the port (R72). -/
def Offer.wins (a b : Offer) : Bool :=
  if a.lost then true else if b.lost then false
  else decide (a.age < b.age) || (a.age == b.age && a.part % 2 == 0)

/-- Put a fibre into a list in ascending order of its index, after those of the same index. -/
def insFid (l : List (Nat × Nat)) (e : Nat × Nat) : List (Nat × Nat) :=
  match l with
  | [] => [e]
  | x :: xs => if e.2 < x.2 then e :: x :: xs else x :: insFid xs e

/-- Fibres in ascending order of their indices: the order in which those of one cycle issue (R96, R279, R353).
DESIGN CHOICE: log 3. -/
def byFid (l : List (Nat × Nat)) : List (Nat × Nat) := l.foldl insFid []

/-- A cycle of one core: what each partition issues, and its batches and counts after it.
DESIGN CHOICE: log 3. -/
def State.issueCore (s : State) (core : Nat) : State :=
  match s.core? core with
  | none => s
  | some c =>
    let os := c.batches.map s.offer
    let loses (o : Offer) : Bool := o.heavy && os.any fun x => x.heavy && x.part != o.part && x.part / 2 == o.part / 2 && x.wins o
    let out := os.filter fun o => s.offers o && !loses o
    let keep (o : Offer) : Batch := { part := o.part, fibres := o.fibres, lost := loses o }
    let s1 := s.modCore core fun c => { c with batches := os.map keep }
    let s2 := ((s1.count core 0x0002 out.length).count core 0x0005 (os.countP loses)).count core 0x0006 (os.countP Offer.parked)
    let (n, s3) := s2.draw
    let hit := Config.freeNat n % (out.length + 1)
    let s4 := (s3.count core 0x0007 hit).count core 0x0008 (out.length - hit)
    { s4 with issuing := s4.issuing ++ byFid (out.flatMap Offer.fibres) }

/-- One member of each team that has converged without any of them issuing it: a member that ended made it so (R80). -/
def State.convergedTeams (s : State) : List (Nat × Nat) :=
  s.units.flatMap fun u => (List.range (u.desc.fibres / u.desc.team)).filterMap fun t =>
    if s.takesPart u && u.gathered t then
      (u.fibres.find? fun f => f.live && f.fid / u.desc.team == t).map fun f => (u.key, f.fid)
    else none

end Sys2Proof.Machine
end

