-- ==== Sys2Proof/Machine/Check.lean ====
section
/-! DEFINITION. Reading a banked image and the checks that planting makes of it (spec 20 R420 to R429, R433, R435). -/

namespace Sys2Proof.Machine

/-! ### The directory (R421) -/

/-- Some bytes of an image; short where the image ends. -/
def sub (b : List Byte) (off n : Nat) : List Byte := (b.drop off).take n

/-- Bit `i` of the byte at an offset. -/
def bitAt (b : List Byte) (off i : Nat) : Bool := field b off 1 / 2 ^ i % 2 == 1

/-- A directory entry: its index, KIND, ITEMS, OFFSET and LENGTH. -/
structure SecRef where
  idx : Nat
  kind : Nat
  items : Nat
  off : Nat
  len : Nat
  deriving DecidableEq, Repr, Inhabited

/-- The directory of an image. -/
def secRefs (b : List Byte) : List SecRef :=
  (List.range (min (field b 112 4) (b.length / 24))).map fun i =>
    let o := 192 + 24 * i
    { idx := i, kind := field b o 2, items := field b (o + 4) 4, off := field b (o + 8) 8, len := field b (o + 16) 8 }

/-- The section of a KIND, if there is one. -/
def secOf (b : List Byte) (kind : Nat) : Option SecRef := (secRefs b).find? fun r => r.kind == kind

/-- The directory index of a section that a refusal names; all ones where the image has none. -/
def secIdx (b : List Byte) (kind : Nat) : Nat := ((secOf b kind).map SecRef.idx).getD 0xFFFF

/-- Cut a section into items, the size of each given by its number and its bytes. -/
def splitItems (size : Nat → List Byte → Nat) (i : Nat) : Nat → List Byte → List (List Byte)
  | 0, _ => []
  | n + 1, b =>
    if b.isEmpty then []
    else
      let k := size i b
      b.take k :: splitItems size (i + 1) n (b.drop k)

/-- The items of a section of a KIND. -/
def itemsOf (b : List Byte) (kind : Nat) (size : Nat → List Byte → Nat) : List (List Byte) :=
  match secOf b kind with
  | none => []
  | some r => splitItems size 0 r.items (sub b r.off r.len)

/-! ### The length of each item, padded to 64 bytes (R421 to R429, R435) -/

/-- The launch item. -/
def launchSize (b : List Byte) : Nat :=
  let n := field b 44 4
  up64 (256 + n + (n + 3) / 4 + (n / 16 + 7) / 8)

/-- A team item. -/
def teamSize (b : List Byte) : Nat := up64 (64 + 160 * field b 11 1)

/-- The bytes of a slot map (R425). -/
def mapBytes (stack : Nat) : Nat := (stack + 63) / 64 * 8

/-- The slots that a slot map at an offset sets. -/
def mapSlots (b : List Byte) (off stack : Nat) : List Nat := (List.range stack).filter fun k => bitAt b (off + k / 8) (k % 8)

/-- A fibre item of a unit with `stack` slots. -/
def fibreSize (stack : Nat) (b : List Byte) : Nat :=
  let map := 384 + 16 * field b 22 2
  up64 (map + mapBytes stack + (5 * (mapSlots b map stack).length + 7) / 8 * 8 + 24 * field b 78 1)

/-- A scratchpad item. -/
def scratchSize (b : List Byte) : Nat :=
  let n := field b 4 4
  64 + up64 n + up64 (n / 4) + up64 ((n / 16 + 7) / 8)

/-- The bytes of one FIFO tile: its head, its bytes and its codes. -/
def fifoTileSize (b : List Byte) : Nat := 64 + up64 (field b 0 4 + field b 0 4 / 4)

/-- The bytes of some FIFO tiles. -/
def fifoTilesSize : Nat → List Byte → Nat
  | 0, _ => 0
  | n + 1, b => let k := fifoTileSize b; k + fifoTilesSize n (b.drop k)

/-- The log entries of a matrix item. -/
def logCount (b : List Byte) : Nat := ((List.range 32).map fun t => field b (64 + 16 * t + 2) 1).sum
/-- The FIFO tiles of a matrix item. -/
def fifoCount (b : List Byte) : Nat := ((List.range 16).map fun i => field b (16 + i) 1).sum
/-- Where the FIFO tiles of a matrix item begin. -/
def fifoStart (b : List Byte) : Nat := 576 + 160 * logCount b
/-- Where the contributions of a matrix item begin. -/
def drainStart (b : List Byte) : Nat := fifoStart b + fifoTilesSize (fifoCount b) (b.drop (fifoStart b))
/-- The bytes of one contribution. -/
def drainSize : Nat := 64 + 16384 + 4096

/-- A matrix item. -/
def matrixSize (b : List Byte) : Nat := up64 (drainStart b + drainSize * (field b 4 1 + field b 6 2))

/-- The slots of the ring of a wire item. -/
def wireSlots (b : List Byte) : Nat := if field b 4 2 = 0xFFFF then 0 else ringSlots (BitVec.ofNat 64 (field b 16 8))

/-- Where the posts of a wire item begin. -/
def postStart (b : List Byte) : Nat := 64 + up64 ((2 * wireSlots b + 7) / 8)

/-- A wire item. -/
def wireSize (b : List Byte) : Nat := up64 (postStart b + 32 * field b 12 4)

/-! ### The items of an image -/

/-- The launch item. -/
def imageLaunch (b : List Byte) : List Byte := (itemsOf b 1 fun _ x => launchSize x).headD []
/-- The unit items. -/
def imageUnits (b : List Byte) : List (List Byte) := itemsOf b 2 fun _ _ => 4160
/-- The unit and stack size of each fibre item, in order. -/
def fibreOwners (b : List Byte) : List (Nat × Nat) :=
  (imageUnits b).flatMap fun u => List.replicate (field u 12 2) (field u 0 4, field u 14 2)
/-- The size of each item of a section of a KIND. -/
def itemSize (b : List Byte) (kind : Nat) : Nat → List Byte → Nat :=
  match kind with
  | 1 => fun _ x => launchSize x
  | 2 => fun _ _ => 4160
  | 3 => fun _ x => teamSize x
  | 4 => let own := fibreOwners b; fun i x => fibreSize ((own.getD i (0, 0)).2) x
  | 5 => fun _ x => scratchSize x
  | 6 => fun _ x => matrixSize x
  | 7 => fun _ _ => 64
  | 8 => fun _ x => wireSize x
  | 9 => fun _ x => up64 (64 + 4 * field x 16 4)
  | _ => fun _ x => up64 (64 + 16 * field x 0 8)

/-- The items of the section of a KIND. -/
def items (b : List Byte) (kind : Nat) : List (List Byte) := itemsOf b kind (itemSize b kind)
/-- The team items. -/
def imageTeams (b : List Byte) : List (List Byte) := items b 3
/-- The fibre items, each with its unit number. -/
def imageFibres (b : List Byte) : List (Nat × List Byte) := ((fibreOwners b).map (·.1)).zip (items b 4)
/-- The scratchpad items. -/
def imageScratch (b : List Byte) : List (List Byte) := items b 5
/-- The matrix items. -/
def imageMatrix (b : List Byte) : List (List Byte) := items b 6
/-- The transfer items. -/
def imageTransfers (b : List Byte) : List (List Byte) := items b 7
/-- The wire items. -/
def imageWires (b : List Byte) : List (List Byte) := items b 8
/-- The unstarted item. -/
def imageUnstarted (b : List Byte) : List Byte := (items b 9).headD []
/-- The pages item. -/
def imagePages (b : List Byte) : List Byte := (items b 10).headD []

/-- The unit numbers of an unstarted item. -/
def unstartedNos (b : List Byte) : List Nat := (List.range (field b 16 4)).map fun i => field b (64 + 4 * i) 4

/-- The gangs of the unit items, each once. -/
def imageGangs (b : List Byte) : List Nat := ((imageUnits b).map fun u => field u 4 4).foldl insNat []

/-! ### Reserved bytes and bits (R433 reason 1) -/

/-- Whether the bits of a byte from `n` up are clear. -/
def highZero (b : List Byte) (off n : Nat) : Bool := decide (field b off 1 < 2 ^ n)

/-- Whether everything from an offset on is zero. -/
def restZero (b : List Byte) (off : Nat) : Bool := (b.drop off).all fun x => x == 0

/-- Whether the bits of a bitmap at an offset from `n` up to its end are clear. -/
def padClear (b : List Byte) (off n bytes : Nat) : Bool :=
  (List.range (8 * bytes - n)).all fun i => !bitAt b (off + (n + i) / 8) ((n + i) % 8)

/-- A launch item: what R364 and R366 mark zero in its launch and signal parts is, too. -/
def launchClean (b : List Byte) : Bool :=
  let n := field b 44 4
  padClear b (256 + n + (n + 3) / 4) (n / 16) ((n / 16 + 7) / 8) && launchZeros (sub b 48 64) true && zeros b 130 46 && !signalBad (sub b 112 64) && zeros b 12 4 && zeros b 40 4 && zeros b 188 68 && restZero b (256 + n + (n + 3) / 4 + (n / 16 + 7) / 8)

/-- A template entry of a unit item. -/
def tplClean (b : List Byte) : Bool := highZero b 16 4 && zeros b 17 15

/-- A unit item. -/
def unitClean (b : List Byte) : Bool :=
  highZero b 9 5 && (bitAt b 9 3 || zeros b 44 12) && zeros b 56 8 &&
    (List.range 64).all fun t => tplClean (sub b (64 + 64 * t) 64)

/-- Whether a word that holds `$rmode` has its reserved bits clear (R138). -/
def rmodeClean (b : List Byte) (off : Nat) : Bool := decide (field b off 4 < 2 ^ 5)

/-- A latch entry: the word of a crew instruction, whose scales are zero but for L6 (R424). -/
def latchClean (b : List Byte) : Bool :=
  rmodeClean b 12 && zeros b 20 12 && (match decode (wordOfBytes (sub b 0 12)) true with
    | .ok (.mma _ t _ _ _ _ _ _) => t == .l6 || zeros b 32 128
    | .ok (.acmt _ _) => zeros b 32 128
    | .ok (.aroll _ _ _ _) => zeros b 32 128
    | _ => false)

/-- A team item. -/
def teamClean (b : List Byte) : Bool :=
  highZero b 9 2 && highZero b 10 1 && (bitAt b 10 0 || zeros b 20 12) && zeros b 48 16 &&
    ((List.range (field b 11 1)).all fun i => latchClean (sub b (64 + 160 * i) 160)) && restZero b (64 + 160 * field b 11 1)

/-- A fibre item of a unit with `stack` slots, with the reserved bits of `$fstat`, `$rmode` and `$prog` (R68, R106, R138). -/
def fibreClean (stack : Nat) (b : List Byte) : Bool :=
  let calls := field b 22 2
  let map := 384 + 16 * calls
  let n := (mapSlots b map stack).length
  let slots := map + mapBytes stack
  let gran := slots + (5 * n + 7) / 8 * 8
  highZero b 4 4 && highZero b 7 7 && zeros b 26 2 && decide (field b 28 4 < 2 ^ 7) && rmodeClean b 32 &&
    decide (field b 36 4 < 2 ^ 8) && zeros b 79 1 && zeros b 338 46 &&
    ((List.range calls).all fun i => zeros b (384 + 16 * i + 13) 3) && padClear b map stack (mapBytes stack) && zeros b (slots + 5 * n) (gran - (slots + 5 * n)) &&
    ((List.range (field b 78 1)).all fun i => decide (field b (gran + 24 * i + 7) 1 % 16 < 2) && zeros b (gran + 24 * i + 19) 5) && restZero b (gran + 24 * field b 78 1)

/-- A scratchpad item. -/
def scratchClean (b : List Byte) : Bool :=
  let n := field b 4 4
  let codes := 64 + up64 n
  let tags := codes + up64 (n / 4)
  zeros b 8 56 && zeros b (64 + n) (codes - (64 + n)) && zeros b (codes + n / 4) (tags - (codes + n / 4)) &&
    padClear b tags (n / 16) ((n / 16 + 7) / 8) && restZero b (tags + (n / 16 + 7) / 8)

/-- One FIFO tile after another. -/
def fifoTilesClean : Nat → List Byte → Bool
  | 0, _ => true
  | n + 1, b =>
    let k := fifoTileSize b
    let full := 64 + field b 0 4 + field b 0 4 / 4
    zeros b 4 60 && zeros b full (k - full) && fifoTilesClean n (b.drop k)

/-- A contribution, in the target's buffer or held at its sender with its descriptor (R323). -/
def drainClean (held : Bool) (b : List Byte) : Bool :=
  highZero b 3 2 && zeros b 6 2 && (if held then zeros b 10 2 && zeros b 15 1 else zeros b 8 8) && zeros b 16 48

/-- A matrix item. -/
def matrixClean (b : List Byte) : Bool :=
  let buf := field b 4 1
  let all := buf + field b 6 2
  zeros b 5 1 && zeros b 8 8 && zeros b 32 32 &&
    ((List.range 32).all fun t => highZero b (64 + 16 * t + 1) 2 && zeros b (64 + 16 * t + 3) 1 && zeros b (64 + 16 * t + 12) 4) &&
    ((List.range (logCount b)).all fun i => highZero b (576 + 160 * i + 6) 2 && zeros b (576 + 160 * i + 7) 25) &&
    fifoTilesClean (fifoCount b) (b.drop (fifoStart b)) &&
    ((List.range all).all fun i => drainClean (decide (buf ≤ i)) (sub b (drainStart b + drainSize * i) drainSize)) &&
    restZero b (drainStart b + drainSize * all)

/-- A transfer item. -/
def transferClean (b : List Byte) : Bool := rmodeClean b 12 && highZero b 9 3 && zeros b 11 1 && zeros b 30 2 && restZero b 40

/-- A wire item, with the reserved bits of its descriptor (R338) and of its posts' length words (R354). -/
def wireClean (b : List Byte) : Bool :=
  let map := (2 * wireSlots b + 7) / 8
  (if field b 4 2 = 0xFFFF then zeros b 16 8 else field b 21 1 % 8 == 0) && padClear b 64 (2 * wireSlots b) map &&
    zeros b 24 40 && zeros b (64 + map) (postStart b - (64 + map)) &&
    ((List.range (field b 12 4)).all fun i => highZero b (postStart b + 32 * i + 13) 6 && highZero b (postStart b + 32 * i + 14) 1 &&
      zeros b (postStart b + 32 * i + 15) 1 && zeros b (postStart b + 32 * i + 17) 1 && zeros b (postStart b + 32 * i + 20) 12) &&
    restZero b (postStart b + 32 * field b 12 4)

/-- An unstarted item. -/
def unstartedClean (b : List Byte) : Bool := zeros b 14 2 && zeros b 20 44 && restZero b (64 + 4 * field b 16 4)

/-- A pages item. -/
def pagesClean (b : List Byte) : Bool :=
  let n := field b 0 8
  zeros b 8 56 && ((List.range (min n b.length)).all fun i =>
    decide (field b (64 + 16 * i) 8 < 2 ^ 57) && highZero b (64 + 16 * i + 9) 2 && zeros b (64 + 16 * i + 10) 6) &&
    restZero b (64 + 16 * n)

/-- Whether item `i` of a section of a KIND holds no reserved byte that is not zero. -/
def itemClean (b : List Byte) (kind i : Nat) (x : List Byte) : Bool :=
  match kind with
  | 1 => launchClean x
  | 2 => unitClean x
  | 3 => teamClean x
  | 4 => fibreClean (((fibreOwners b).getD i (0, 0)).2) x
  | 5 => scratchClean x
  | 6 => matrixClean x
  | 7 => transferClean x
  | 8 => wireClean x
  | 9 => unstartedClean x
  | _ => pagesClean x

/-- Whether a section holds no reserved byte that is not zero: in its items, or after them. One of reserved KIND has none. -/
def secClean (b : List Byte) (r : SecRef) : Bool :=
  if r.kind = 0 ∨ 10 < r.kind then true
  else
    let bytes := sub b r.off r.len
    let items := splitItems (itemSize b r.kind) 0 r.items bytes
    (items.zipIdx.all fun x => itemClean b r.kind x.2 x.1) && restZero bytes (items.map List.length).sum

/-- Whether the header, the directory and what lies outside every section hold no reserved byte that is not zero (R420,
R421). -/
def headClean (b : List Byte) : Bool :=
  let fin := 192 + 24 * field b 112 4
  let secs := secRefs b
  decide (field b 12 4 < 8) && zeros b 119 1 && zeros b 176 16 && (secs.all fun r => zeros b (192 + 24 * r.idx + 2) 2) &&
    (b.zipIdx.drop fin).all fun e => e.1 == 0 || secs.any fun r => decide (r.off ≤ e.2) && decide (e.2 < r.off + r.len)

/-! ### The checks (R433) -/

/-- A refusal: its reason and the directory entry of the section concerned (R441). -/
abbrev Refused := Nat × Nat

/-- No section in particular (R441). -/
def noSection : Nat := 0xFFFF

/-- Whether a unit item states more than this part has (R433 reason 5). -/
def unitTooBig (b : List Byte) : Bool :=
  decide (Config.scratchBytes < field b 20 4) || decide (1024 < field b 14 2) || decide (2048 < field b 12 2) ||
    decide (32 < field b 11 1) || decide (7 < field b 10 1)

/-- Whether every location that an item records has a native slot here (R433 reason 6). -/
def State.located (s : State) (ctx : Nat) (locs : List (List Byte)) : Bool := locs.all fun l => (s.pcOf ctx l).isSome

/-- Whether a location is the first instruction of a kernel that this device holds. -/
def State.kernelAt (s : State) (ctx : Nat) (loc : List Byte) : Option KDesc :=
  (s.pcOf ctx loc).bind fun pc => if 64 ≤ pc.toNat then s.readDesc ctx (pc.toNat - 64) else none

/-- The locations of a fibre item; an ended fibre's has none. -/
def fibreLocs (b : List Byte) : List (List Byte) :=
  if !bitAt b 4 0 then []
  else sub b 8 12 :: (if bitAt b 4 3 then [sub b 48 12, sub b 60 12] else []) ++
    (List.range (field b 22 2)).map fun i => sub b (384 + 16 * i) 12

/-- The section whose locations or container have no translation here (R433 reason 6). -/
def State.untranslated (s : State) (ctx : Nat) (b : List Byte) : Option Nat :=
  let kernels (u : List Byte) : List (List Byte) := sub u 32 12 :: (if bitAt u 9 3 then [sub u 44 12] else [])
  if sub b 64 48 != s.chash ctx || (s.kernelAt ctx (sub (imageLaunch b) 176 12)).isNone then some (secIdx b 1)
  else if !(imageUnits b).all fun u => (kernels u).all fun k => (s.kernelAt ctx k).isSome then some (secIdx b 2)
  else if !(imageTeams b).all fun t => !bitAt t 10 0 || s.located ctx [sub t 20 12] then some (secIdx b 3)
  else if !(imageFibres b).all fun f => s.located ctx (fibreLocs f.2) then some (secIdx b 4)
  else none

/-- DIGEST of an image. -/
def imageDigest (b : List Byte) : List Byte := sub b 128 48

/-- The launch that an image was banked from, where this device wrote it and still holds the launch (R434 step 5). -/
def State.ownLaunch (s : State) (b : List Byte) : Option Launch :=
  if !s.bank.written.contains (imageDigest b) then none
  else s.fe.launches.find? fun l => l.id.toNat == field (imageLaunch b) 0 4 && !l.over'

/-- Whether the launch of an image is resident here already (R433 reason 7, R436): its gangs have not all left, or the
image has been planted and its launch has not settled. -/
def State.resident (s : State) (b : List Byte) : Bool :=
  (match s.ownLaunch b with
    | some l => !(imageGangs b).all fun g => l.banked.contains g
    | none => false) ||
  s.bank.planted.any fun e => e.1 == imageDigest b && ((s.launch? e.2).map fun l => !l.over').getD false

/-- Whether a section lies outside the image, or has a reserved KIND (R421, R433 reason 9). -/
def secBad (b : List Byte) (r : SecRef) : Bool :=
  r.kind == 0 || decide (10 < r.kind) || decide (field b 120 8 < r.off + r.len) || r.off % 64 != 0

/-- The checks of R433, in order; none where the image is accepted.
DEDUCED: log 21. DESIGN CHOICE: log 44. -/
def State.plantRefusal (s : State) (ctx : Nat) (b : List Byte) : Option Refused :=
  let dirty := (secRefs b).find? fun r => !secClean b r
  if field b 0 8 != imageMagic || field b 8 2 != 1 || !headClean b then some (1, noSection)
  else match dirty with
    | some r => some (1, r.idx)
    | none =>
      if b.length != field b 120 8 || sha384 (b.drop 192) != imageDigest b then some (2, noSection)
      else if field b 10 2 != Config.numVersion then some (3, noSection)
      else if (List.range 64).any fun i => field b 56 8 / 2 ^ i % 2 == 1 && Config.feat / 2 ^ i % 2 == 0 then some (4, noSection)
      else if (imageUnits b).any unitTooBig then some (5, secIdx b 2)
      else match s.untranslated ctx b with
        | some i => some (6, i)
        | none =>
          if s.resident b then some (7, noSection)
          else if !bitAt b 12 1 && !s.bank.written.contains (imageDigest b) then some (8, noSection)
          else match (secRefs b).find? (secBad b) with
            | some r => some (9, r.idx)
            | none => if decide (b.length / 24 < field b 112 4) then some (9, noSection) else none

/-- The argument of PLANTMISMATCH (R441). -/
def Refused.arg (r : Refused) : Word := BitVec.ofNat 32 (r.1 + 256 * (r.2 % 65536))

end Sys2Proof.Machine
end

