-- ==== Sys2Proof/Machine/Plant.lean ====
section
/-! DEFINITION. Planting (spec 20 R434 to R437, R439, R441): a launch is taken up again, its gangs are placed and their
state restored, and the instruction `PLANT`. -/

namespace Sys2Proof.Machine

/-! ### Reading the parts of an item -/

/-- Whether a bit of a bitmap of an item is set. -/
def mapBit (b : List Byte) (off i : Nat) : Bool := bitAt b (off + i / 8) (i % 8)

/-- Words with their codes, from their bytes and their code bytes. -/
def regsFrom (bytes codes : List Byte) : List Reg := (wordsOfBytes bytes).zipWith (fun w c => { w with code := c }) codes

/-- A capability register from an item. -/
def capFrom (b : List Byte) (off : Nat) (tag : Bool) : CapReg :=
  { bits := BitVec.ofNat 128 (field b off 16), tag := tag, bad := false }

/-- Write a range of memory as an item has it: bytes, codes and tags. -/
def Memory.putRange (m : Memory) (k n : Nat) (bytes codes tags : List Byte) : Memory :=
  let m1 := m.setWords k (regsFrom (bytes.take n) codes)
  (List.range (n / 16)).foldl (fun m i => if mapBit tags 0 i then m.setTag (k + 16 * i) else m) m1

/-! ### New generations (R434 step 1) -/

/-- Old generations with the new ones, by space. -/
abbrev GenMap := List (Nat × Word × Word)

/-- Rewrite a capability of space 1 or 2 of an old generation. -/
def GenMap.cap (g : GenMap) (c : CapReg) : CapReg :=
  match if c.tag then g.find? fun e => e.1 == c.space && e.2.1 == c.gen else none with
  | some e => { c with bits := e.2.2 ++ c.bits.extractLsb' 0 96 }
  | none => c

/-- Rewrite the tagged capabilities in a range of memory. -/
def GenMap.range (g : GenMap) (m : Memory) (k n : Nat) : Memory :=
  (List.range (n / 16)).foldl (fun m i =>
    let a := k + 16 * i
    let old : CapReg := { bits := BitVec.ofNat 128 (m.num a 16), tag := m.tag a, bad := false }
    let new := g.cap old
    if new == old then m else (m.setWord (a + 12) (fresh new.gen)).setTag a) m

/-! ### A fibre (R425, R426, R434 step 3) -/

/-- The stores of one buffered granule, each of a word or of a byte. -/
def State.granuleStores (s : State) (u : Unit) (seq : Nat) (b : List Byte) : List Req :=
  let space := field b 0 8 / 2 ^ 60
  let adr := field b 0 8 % 2 ^ 57
  let req (i n : Nat) (codes : List Byte) : Req :=
    { seq := seq, kind := .store (sub b (8 + i) n) codes, cls := .st, acquire := false, scope := .unit, space := space
      addr := adr + i, key := (s.storeKey u space (adr + i)).getD 0, size := n, dests := [], creg := 0, sent := false, pc := 0
      issued := s.clk, undo := [], time := s.time }
  [0, 4].flatMap fun w =>
    let set := (List.range 4).filter fun i => bitAt b 16 (w + i)
    if set.length = 4 then [req w 4 (sub b (17 + w / 4) 1)] else set.map fun i => req (w + i) 1 []

/-- The entry of the function that a portable location lies in; a kernel's where it names none that is known. -/
def State.entryOf (s : State) (ctx : Nat) (d : KDesc) (loc : List Byte) : BitVec 57 :=
  match (s.functionsOf ctx).find? fun f => f.1 == BitVec.ofNat 64 (field loc 0 8) && field loc 8 4 != rawIndex with
  | some f => BitVec.ofNat 57 f.2
  | none => d.entryPc

/-- A fibre from its item. -/
def State.fibreFrom (s : State) (u : Unit) (ctx : Nat) (g : GenMap) (faults : List Deferred) (b : List Byte) : Fibre :=
  let pc (off : Nat) : BitVec 57 := (s.pcOf ctx (sub b off 12)).getD 0
  let calls := field b 22 2
  let map := 384 + 16 * calls
  let slots := mapSlots b map u.desc.stack
  let vals := map + mapBytes u.desc.stack
  let gran := vals + (5 * slots.length + 7) / 8 * 8
  let stores := (List.range (field b 78 1)).flatMap fun i => s.granuleStores u (s.seqCtr + i) (sub b (gran + 24 * i) 24)
  let insns := field b 76 2
  let base := Fibre.start (field b 0 4) (pc 8) (field b 72 4) CapReg.empty CapReg.empty CapReg.empty
  if !bitAt b 4 0 then { base with pc := 0 }.end
  else
    { base with
      preds := BitVec.ofNat 15 (field b 6 2), base := field b 20 2, fstat := BitVec.ofNat 32 (field b 28 4)
      rmode := rmodeWrite (BitVec.ofNat 32 (field b 32 4)), prog := BitVec.ofNat 32 (field b 36 4)
      caps := Vector.ofFn fun i : Fin 16 => g.cap (capFrom b (80 + 16 * i.val) (mapBit b 336 i.val))
      stack := slots.zipIdx.map fun x =>
        (x.1, { val := BitVec.ofNat 32 (field b (vals + 5 * x.2) 4), code := (b.getD (vals + 5 * x.2 + 4) 0) })
      calls := (List.range calls).map fun i =>
        { shift := BitVec.ofNat 6 (field b (384 + 16 * i + 12) 1), rpc := pc (384 + 16 * i)
          entry := s.entryOf ctx u.desc (sub b (if i = 0 then 8 else 368 + 16 * i) 12) }
      handler := bitAt b 4 1, floor := field b 24 2
      marks := if bitAt b 4 3 then some (pc 48, pc 60) else none
      stroke := { insns := insns, granules := stores.foldl (fun l r => insNat l (r.key / 8)) [], stores := stores, pass := false }
      came := s.clk, ready := s.clk
      wait := if field b 5 1 = 4 then some (.sleep (s.clk + field b 40 8) true)
        else if s.detOf u && decide (Config.strokeInsns ≤ insns) then some (.stroke 0) else none
      faults := faults }

/-! ### Tiles, FIFOs and contributions (R428, R434 step 2) -/

/-- The FORMAT of a tile. -/
def fmtFrom (n : Nat) : TileFmt :=
  match n with
  | 1 => .fp32
  | 2 => .int32
  | _ => .clear

/-- The TYPE of an `MMA` from its code (R21); L6 where it is no type. -/
def mtyFrom (n : Nat) : MTy := ([MTy.l6, .i8, .n8, .f16, .bf16].find? fun t => (MTy.code t).toNat == n).getD .l6

/-- Cut FIFO tiles out of a matrix item, numbered from `num`. -/
def fifoTilesFrom (num : Nat) : Nat → List Byte → List FifoTile × List Byte
  | 0, b => ([], b)
  | n + 1, b =>
    let size := field b 0 4
    let t : FifoTile := { num := num, size := size, words := regsFrom (sub b 64 size) (sub b (64 + size) (size / 4)) }
    let r := fifoTilesFrom (num + 1) n (b.drop (fifoTileSize b))
    (t :: r.1, r.2)

/-- The FIFOs of a matrix item from number `f` on. -/
def fifosFrom (head : List Byte) (f : Nat) : Nat → List Byte → List FifoState
  | 0, _ => []
  | n + 1, b =>
    let held := field head (16 + 2 * f) 1
    let ready := field head (17 + 2 * f) 1
    let r := fifoTilesFrom 0 (held + ready) b
    { retained := r.1.take held, readyT := r.1.drop held, filling := [], nextNum := held + ready } :: fifosFrom head (f + 1) n r.2

/-- A log entry of a matrix item. -/
def logFrom (fifos : List FifoState) (b : List Byte) : LogEntry :=
  let num (f place : Nat) : Nat := (((fifos.getD f FifoState.reset).retained[place]?).map FifoTile.num).getD 0
  { fa := field b 0 1, fb := field b 1 1, a := num (field b 0 1) (field b 2 1), b := num (field b 1 1 + 2) (field b 3 1)
    ty := mtyFrom (field b 4 1), rm := rmOfNat (field b 5 1), daz := bitAt b 6 0, ftz := bitAt b 6 1, scales := sub b 32 128 }

/-- Replay one entry of a tile's log (R321). -/
def replay (fifos : List FifoState) (t : TileState) (e : LogEntry) : TileState :=
  let tile (f n : Nat) : List (List MElem) :=
    match (fifos.getD f FifoState.reset).retained.find? fun x => x.num == n with
    | some x => melems e.ty e.daz x.bytes
    | none => []
  { t with
    words := tileWords (mmaTile e.ty { rm := e.rm, daz := e.daz, ftz := e.ftz } (tile e.fa e.a) (tile (e.fb + 2) e.b)
      (e.scales.drop 64) (e.scales.take 64) t)
    log := t.log ++ [e] }

/-- A tile from its head, its log entries and its committed value. -/
def tileFrom (fifos : List FifoState) (committed : List Reg) (head : List Byte) (log : List (List Byte)) : TileState :=
  let zero := bitAt head 1 0
  let t0 : TileState :=
    { words := if zero || field head 0 1 = 0 then [] else tileWords committed, fmt := fmtFrom (field head 0 1), zero := zero, log := []
      red := if bitAt head 1 1 then some (field head 4 2, field head 6 2, BitVec.ofNat 32 (field head 8 4)) else none }
  (log.map (logFrom fifos)).foldl (replay fifos) t0

/-- The log entries of a tile in a matrix item. -/
def logItems (b : List Byte) (t : Nat) : List (List Byte) :=
  let count (t : Nat) : Nat := field b (64 + 16 * t + 2) 1
  let before := ((List.range t).map count).sum
  (List.range (count t)).map fun i => sub b (576 + 160 * (before + i)) 160

/-- The words of a tile's slot on the commit shelf of a unit whose scratchpad is restored. -/
def State.shelfWords (s : State) (u : Unit) (t : Nat) : List Reg :=
  if t < u.desc.shelf then s.mem.words (u.shelfKey t) 4096 else []

/-- What the replay of a tile reads: its shelf slot, unless it is zero or clear, and the FIFO tiles that its log names. -/
def State.replayReads (s : State) (u : Unit) (b : List Byte) (t : Nat) : List Reg × List Reg :=
  let fifos := fifosFrom b 0 8 (b.drop (fifoStart b))
  let head := sub b (64 + 16 * t) 16
  let es := (logItems b t).map (logFrom fifos)
  let used (f : Nat) : List FifoTile := (fifos.getD f FifoState.reset).retained.filter fun x => es.any fun e => e.used f x.num
  (if bitAt head 1 0 || field head 0 1 = 0 then [] else s.shelfWords u t,
    ((List.range 8).flatMap used).flatMap FifoTile.words)

/-- RESIDUE of a matrix item whose replay reads an uncorrectable word (R317): the first tile's. -/
def State.replayFault (s : State) (u : Unit) (b : List Byte) : Option TrapInfo :=
  (List.range 32).findSome? fun t =>
    let r := s.replayReads u b t
    if r.1.any fun w => (checkWord w).isNone then some (residue 3 t)
    else if r.2.any fun w => (checkWord w).isNone then some (residue 4 t)
    else none

/-- The engine's tiles and FIFOs from a matrix item, of a unit whose scratchpad is restored. -/
def State.matrixFrom (s : State) (u : Unit) (b : List Byte) : Matrix :=
  let fifos := fifosFrom b 0 8 (b.drop (fifoStart b))
  let tile (t : Nat) : TileState := tileFrom fifos (s.shelfWords u t) (sub b (64 + 16 * t) 16) (logItems b t)
  { owner := some u.key, tiles := (List.range 32).map tile, fifos := fifos, latch := [], ops := [] }

/-- A contribution from its part: its descriptor where it is held at its sender, else its place in this unit. -/
def drainFrom (u : Unit) (num : Nat) (held : Bool) (b : List Byte) : Drain :=
  let words := regsFrom (sub b 64 16384) (sub b (64 + 16384) 4096)
  { num := num, sender := if held then u.key else 0, team := 0, launch := u.launch
    desc := if held then BitVec.ofNat 64 (field b 8 8)
      else BitVec.ofNat 64 (u.gang * 2 ^ 32 + u.idx * 2 ^ 13 + field b 0 1 * 2 ^ 8 + field b 4 2)
    int := field b 1 1 == 2, rm := rmOfNat (field b 2 1), daz := bitAt b 3 0, ftz := bitAt b 3 1
    words := (words.zipIdx.map fun x => (x.2, x.1)).filter fun x => x.2 != Reg.zero, buffered := !held, held := held, shadow := false }

/-- Restore a unit's matrix item. -/
def State.plantMatrix (s : State) (u : Unit) (b : List Byte) : State :=
  let buf := field b 4 1
  let all := buf + field b 6 2
  let ds := (List.range all).map fun i =>
    drainFrom u (s.seqCtr + i) (decide (buf ≤ i)) (sub b (drainStart b + drainSize * i) drainSize)
  let read := (List.range 32).flatMap fun t => let r := s.replayReads u b t; if (logItems b t).isEmpty then [] else r.1 ++ r.2
  { (s.noteWords u.core read).modMatrix u.core (fun _ => s.matrixFrom u b) with
    drains := s.drains ++ ds, seqCtr := s.seqCtr + all }

/-! ### Latch entries, transfers, posts and rings (R434 step 4) -/

/-- A latch entry of a team. -/
def latchFrom (u : Unit) (team num clk : Nat) (b : List Byte) : Option MxReq :=
  match decode (wordOfBytes (sub b 0 12)) true with
  | .ok i => some { num := num, unit := u.key, team := team, instr := i, rmode := BitVec.ofNat 32 (field b 12 4)
                    scales := sub b 32 128, crew := (u.team team).crew, ord := field b 16 4, since := clk }
  | .illegal _ => none

/-- Present a team's latch entries to the catch latch again. -/
def State.plantLatch (s : State) (u : Unit) (b : List Byte) : State :=
  (List.range (field b 11 1)).foldl (fun s i =>
    match latchFrom u (field b 4 4) s.seqCtr s.clk (sub b (64 + 160 * i) 160) with
    | some r => { s.modMatrix u.core (fun m => { m with latch := m.latch ++ [r] }) with
        seqCtr := s.seqCtr + 1, agenda := s.agenda ++ [.crewCatch u.core r.num] }
    | none => s) s

/-- Restart a stopped transfer from byte 0 with a new promise. -/
def State.plantTransfer (s : State) (key : Nat) (b : List Byte) : State :=
  match s.unit? key with
  | none => s
  | some u =>
    let x (off : Nat) : BitVec 16 := BitVec.ofNat 16 (field b off 2)
    let fid := if bitAt b 9 1 then none else some (field b 4 4)
    let pc := ((fid.bind u.fibre?).map Fibre.pc).getD 0
    let asker := fid.map fun n => ({ fid := n, pc := pc, made := s.clk } : Asker)
    match s.xplan u (field b 8 1) ((x 24).toInt, (x 26).toInt, (x 28).toInt) with
    | .error t => s.engineFault u asker .transfer t
    | .ok p =>
      let (pr, s1) := s.promise u p
      let late := bitAt b 9 2
      let r : XReq :=
        { id := s.seqCtr, unit := key, fid := fid, chan := if bitAt b 9 1 then u.channel else none, tmpl := field b 8 1, x0 := x 24
          x1 := x 26, x2 := x 28, rmode := BitVec.ofNat 32 (field b 12 4), seq := field b 16 8, store := bitAt b 9 0
          promise := pr, late := late, lateRaised := late, src := p.src, dst := p.dst, work := s.xwork u p
          accepted := s.clk, fault := none, written := false, pc := pc, progress := 0 }
      { s1.enqueue u p r with seqCtr := s.seqCtr + 1 }

/-- Post an unread transmit post again: it keeps its tag. -/
def State.plantPost (s : State) (u : Unit) (b : List Byte) : State :=
  let tag : Word := BitVec.ofNat 32 (field b 0 4)
  let port := field b 0 4 / 2 ^ 30 % 2
  let num := field b 0 4 % 2 ^ 30
  let len := field b 12 4 % 2 ^ 14
  let key := keyScratch u.core (u.allocBase + field b 8 4)
  let post : Post :=
    { num := num, tag := tag, unit := u.key, fid := field b 4 4, key := key, off := field b 8 4, len := len, mode := field b 16 1
      h := field b 18 2, sb := s.seqCtr, pc := ((u.fibre? (field b 4 4)).map Fibre.pc).getD 0, made := s.clk }
  let rec' : PostRec := { num := num, state := 1, fail := false, reason := 0, mode := field b 16 1, ts := none }
  let s1 := s.modPort port fun p => { p with
    posts := p.posts ++ [post], hist := if p.hist.any fun r => r.num == num then p.hist else p.hist ++ [rec'] }
  { s1.modCore u.core (fun c => { c with scoreboard := c.scoreboard ++ [postRange key len s.seqCtr] }) with seqCtr := s.seqCtr + 1 }

/-- The state of a ring slot from its number. -/
def slotFrom (n : Nat) : SlotState :=
  match n with
  | 1 => .landed
  | 2 => .taken
  | 3 => .released
  | _ => .free

/-- Bind a unit's ring again with its slot states, and post its posts. -/
def State.plantWire (s : State) (u : Unit) (b : List Byte) : State :=
  let n := wireSlots b
  let rseq := field b 8 4
  let slot (i : Nat) : SlotState := slotFrom (field b (64 + i / 4) 1 / 4 ^ (i % 4) % 4)
  let s1 := match u.ring with
    | some r => s.modRing r fun x => { x with
        unit := some u.key, reserved := none, desc := BitVec.ofNat 64 (field b 16 8), slots := (List.range n).map slot
        nextSlot := if n = 0 then 0 else rseq % n, rseq := rseq, drops := field b 6 2, landings := [] }
    | none => s
  (List.range (field b 12 4)).foldl (fun s i => s.plantPost u (sub b (postStart b + 32 * i) 32)) s1

/-! ### A unit (R423, R424, R434) -/

/-- The items of one unit among those that begin with a unit number. -/
def itemsFor (no : Nat) (items : List (List Byte)) : List (List Byte) := items.filter fun b => field b 0 4 == no

/-- A team's crew register and count from its item. -/
def teamFrom (b : List Byte) : Team :=
  { idx := field b 4 4, set := bitAt b 9 0, mask := BitVec.ofNat 32 (field b 12 4), h := bitAt b 9 1, count := field b 16 4 }

/-- A template's state from its entry: the requests above the watermark that the image does not list have finished. -/
def tplFrom (g : GenMap) (open' : List Nat) (b : List Byte) : TplState :=
  let seq := field b 0 8
  let mark := field b 8 8
  { seq := seq, wmark := mark
    finished := ((List.range (min (seq - mark) 65536)).map fun i => mark + 1 + i).filter fun n => !open'.contains n
    from? := if bitAt b 16 0 then some (g.cap (capFrom b 32 (bitAt b 16 2))) else none
    to? := if bitAt b 16 1 then some (g.cap (capFrom b 48 (bitAt b 16 3))) else none }

/-- Restore a placed unit from its items. -/
def State.plantUnit (s : State) (l : Launch) (j : BankJob) (g : GenMap) (key : Nat) (b : List Byte) : State :=
  let image := j.image
  match s.unit? key with
  | none => s
  | some u =>
    let no := field b 0 4
    let transfers := itemsFor no (imageTransfers image)
    let openOf (t : Nat) : List Nat := (transfers.filter fun x => field x 8 1 == t).map fun x => field x 16 8
    let s1 := match (itemsFor no (imageScratch image)).head? with
      | some x =>
        let n := field x 4 4
        let k := keyScratch u.core u.allocBase
        let codes := 64 + up64 n
        let m := s.mem.putRange k n (sub x 64 n) (sub x codes (n / 4)) (x.drop (codes + up64 (n / 4)))
        { s with mem := g.range m k n }
      | none => s
    let teams := (itemsFor no (imageTeams image)).map teamFrom
    let next : Option NextStage :=
      if bitAt b 9 3 then (s1.kernelAt l.ctx (sub b 44 12)).map fun d =>
        { cont := bitAt b 9 4, desc := d, issued := (tget j.issues no).getD s.time }
      else none
    let u1 := { u with
      teams := teams, tpl := (List.range 64).map fun t => tplFrom g (openOf t) (sub b (64 + 64 * t) 64), next := next
      usedFront := j.fronts.contains no }
    let fs := ((imageFibres image).filter fun f => f.1 == no).map fun f =>
      s1.fibreFrom u1 l.ctx g ((j.faults.filter fun e => e.1 == no && e.2.1 == field f.2 0 4).map fun e => e.2.2) f.2
    let u2 := { u1 with fibres := fs, ended := fs.countP fun f => !f.live }
    let grans := (fs.map fun f => f.stroke.stores.length).sum
    let s2 := { s1.modUnit key (fun _ => u2) with seqCtr := s1.seqCtr + grans }
    let s3 := match (itemsFor no (imageMatrix image)).head? with
      | some x => s2.plantMatrix u2 x
      | none => s2
    let s4 := (itemsFor no (imageTeams image)).foldl (fun s x => s.plantLatch u2 x) s3
    let s5 := transfers.foldl (fun s x => s.plantTransfer key x) s4
    match (itemsFor no (imageWires image)).head? with
    | some x => s5.plantWire u2 x
    | none => s5

/-! ### PLANTING (R434) -/

/-- The units of a gang in an image: number, kernel and item; none where a kernel is not held here. -/
def State.gangItems (s : State) (ctx : Nat) (image : List Byte) (gang : Nat) : Option (List (Nat × KDesc × List Byte)) :=
  ((imageUnits image).filter fun b => field b 4 4 == gang).mapM fun b =>
    (s.kernelAt ctx (sub b 32 12)).map fun d => (field b 0 4, { d with matrix := bitAt b 9 0 }, b)

/-- The launch as it binds one unit of an image. DESIGN CHOICE: log 44. -/
def plantLaunch (l : Launch) (d : KDesc) (b : List Byte) : Launch :=
  { l with desc := d, part := { l.part with bindRing := bitAt b 9 1, bindChan := bitAt b 9 2 } }

/-- Cores of a list for the units of an image, each the first that has room. -/
def State.plantCores (s : State) (l : Launch) (cores : List Nat) : List (Nat × KDesc × List Byte) → Option (List Nat)
  | [] => some []
  | (no, d, b) :: rest =>
    match cores.findSome? fun c => (s.placeUnit (plantLaunch l d b) no c false false).map fun s1 => (c, s1) with
    | none => none
    | some (c, s1) => (s1.plantCores l cores rest).map fun cs => c :: cs

/-- Whether the ring of an image's unit is free for its launch. -/
def State.ringFree (s : State) (l : Launch) (us : List (Nat × KDesc × List Byte)) : Bool :=
  us.all fun e => !bitAt e.2.2 9 1 || (match s.ring? l.part.ring with
    | some r => r.unit.isNone && (r.reserved.isNone || r.reserved == some l.key)
    | none => true)

/-- The cores of its queue's reservation that a gang of an image would take in a cluster, where they have room (R392). -/
def State.plantOwn (s : State) (l : Launch) (us : List (Nat × KDesc × List Byte)) (cl : Nat) : Option (List Nat) :=
  if !s.timely l.queue then none
  else match (clusterCores cl).filter fun c => s.reservedFor c == some l.queue && s.mayPlace l.queue c with
    | [] => none
    | own => s.unshadowed.plantCores l own us

/-- The cores that a gang of an image would take in a cluster (R392): its reserved ones; else, where those of no cluster have
room for all of it, its reserved ones first and then others. -/
def State.plantChoice (s : State) (l : Launch) (us : List (Nat × KDesc × List Byte)) (cl : Nat) : Option (List Nat) :=
  match s.plantOwn l us cl with
  | some cs => some cs
  | none =>
    if (List.range 24).any fun k => (s.plantOwn l us k).isSome then none
    else s.unshadowed.plantCores l (s.openCores l.queue cl) us

/-- The new generation of a space for a recorded one, where an accepted image has it. -/
def GenMap.new? (g : GenMap) (space old : Nat) : Option Word :=
  (g.find? fun e => e.1 == space && e.2.1 == BitVec.ofNat 32 old).map fun e => e.2.2

/-- Place the units of an image on cores and restore each; their generations are known before any is restored. Those of an
accepted image are given for all its gangs, and its argument block has them. -/
def State.plantUnits (s : State) (l : Launch) (j : BankJob) (gangGen : Word)
    (us : List ((Nat × KDesc × List Byte) × Nat)) : Option State :=
  let placed := us.foldl (fun (o : Option (State × List (Nat × List Byte) × GenMap)) e => match o with
    | none => none
    | some (s, keys, g) =>
      let (no, d, b) := e.1
      let key := s.seqCtr
      match s.placeUnit (plantLaunch l d b) no e.2 false false with
      | none => none
      | some s1 =>
        let gen := (GenMap.new? j.gens 1 (field b 24 4)).getD (((s1.unit? key).map Unit.gen).getD 0)
        some (s1.modUnit key fun u => { u with gen := gen }, keys ++ [(key, b)], (1, BitVec.ofNat 32 (field b 24 4), gen) :: (2, BitVec.ofNat 32 (field b 28 4), gangGen) :: g))
    (some (s, [], j.gens))
  match placed with
  | none => none
  | some (s1, keys, g) =>
    let s2 := if j.gens.isEmpty then { s1 with mem := g.range s1.mem (keyArg l.key 0) l.desc.args } else s1
    some (keys.foldl (fun s k => s.plantUnit l j g k.1 k.2) s2)

/-- A planted gang whose replay read an uncorrectable word takes RESIDUE, a containment cause (R317). -/
def State.raiseReplay (s : State) (image : List Byte) (launch gang : Nat) : State :=
  match (s.gangUnits launch gang).findSome? fun u =>
      ((itemsFor u.no (imageMatrix image)).head?.bind (s.replayFault u)).map fun t => (u, t) with
  | some (u, t) => s.orphan u t
  | none => s

/-- Plant one gang of a job in a cluster; shadow copies make way (R406). -/
def State.plantGang (s : State) (j : BankJob) (l : Launch) (gang cl : Nat) : Option State :=
  match s.gangItems l.ctx j.image gang with
  | none => none
  | some us => match if s.ringFree l us then s.plantChoice l us cl else none with
    | none => none
    | some cores =>
      let (fresh', s1) := s.takeGangGen
      let gen := (((us.head?.map fun e => e.2.2).bind fun b => GenMap.new? j.gens 2 (field b 28 4))).getD fresh'
      let put (s : State) : Option State := (s.addGang l.key gang cl false gen).plantUnits l j gen (us.zip cores)
      match (match put s1 with | some t => some t | none => put (s1.clearShadows cores)) with
      | none => none
      | some s2 =>
        let back := (tget j.resident gang).getD 0
        let s3 := { s2 with gangs := updIf s2.gangs (fun g => g.launch == l.key && g.idx == gang) fun g => { g with resident := back } }
        let s4 := s3.modLaunch l.key fun l => { l with banked := l.banked.filter fun g => g != gang, started := true }
        let left := j.gangs.filter fun g => g != gang
        some ((if left.isEmpty then s4.dropJob j.num else s4.modJob j.num fun j => { j with gangs := left }).raiseReplay
          j.image l.key gang)

/-- What planting a banked gang of a job may come to: each gang with each cluster that R392 lets it have and that has room.
DESIGN CHOICE: log 63. -/
def State.plantings (s : State) (j : BankJob) (l : Launch) : List State :=
  let cand (g : Nat) : Cand := s.candOf l g l.deadline
  (j.gangs.filter fun g => l.banked.contains g).flatMap fun g => (List.range 24).filterMap fun cl =>
    if s.chosen (cand g) cl && !s.shunned l g cl then s.plantGang j l g cl else none

/-- PLANTING (R434): a gang of an accepted image, or of a save, is planted where R392 has it. The spec gives no choice among
the clusters that may take it: a free value chooses. DESIGN CHOICE: log 63. -/
def execPlanting (job : Nat) (s : State) : Host.Outcome State Fault Refusal :=
  match s.job? job with
  | none => .next s
  | some j => match s.launch? j.launch with
    | none => .next (s.dropJob job)
    | some l =>
      if !j.ready || !l.startable then .next s
      else
        let (k, s1) := s.draw
        let all := s1.plantings j l
        .next (if all.isEmpty then s else all.getD (Config.freeNat k % all.length) s)

/-! ### The pages of an image (R435) -/

/-- Map the pages that an image lists and that the context lacks here as absent, on memory above all that is in use.
DESIGN CHOICE: log 44. -/
def State.mapAbsent (s : State) (ctx : Nat) (item : List Byte) : State :=
  (List.range (min (field item 0 8) item.length)).foldl (fun s i =>
    let o := 64 + 16 * i
    let va := field item o 8
    let size := field item (o + 8) 1
    let top := (s.fabric.pages.filter fun p => p.aperture.isNone).foldl (fun m p => max m (p.phys + pageBytes p.sizeCode)) 0
    let n := pageBytes size
    if bitAt item (o + 9) 1 || (s.page? ctx va).isSome then s
    else s.mapPage { memPage ctx va size ((top + n - 1) / n * n) 7 with absent := true, dirty := bitAt item (o + 9) 0 }) s

/-- The records of a core that wait for a page. -/
def TrapRec.waitsOn (r : TrapRec) (ctx lo hi : Nat) (va : Option Nat) : Bool :=
  r.cause == 0x24 && r.ctx == ctx && (match va with | some v => decide (lo ≤ v) && decide (v < hi) | none => false)

/-- The device that an image was planted on has fetched a page that this one keeps for it; when it has every page of a launch,
none is kept (R435). -/
def State.pageFetched (s : State) (ctx va : Nat) : State :=
  let cs := updIf s.bank.carried (fun c => c.ctx == ctx && c.va == va) fun c => { c with fetched := true }
  { s with bank := { s.bank with carried := cs.filter fun c => cs.any fun x => x.launch == c.launch && !x.fetched } }

/-- PAGE_CARRIAGE (R435): a page that was absent arrives, and the fibres and transfers that it held go on; or the target of an
image reports that it has fetched a page of this device. -/
def execPageCarriage (ctx page : Nat) (data : List Byte) (s : State) : Host.Outcome State Fault Refusal :=
  match s.page? ctx page with
  | none => .next s
  | some p =>
    if !p.absent then .next (s.pageFetched ctx p.va)
    else
      let n := pageBytes p.sizeCode
      let hit (x : Page) : Bool := x.ctx == ctx && x.va == p.va
      let pages := updIf s.fabric.pages hit fun (x : Page) => { x with absent := false }
      let s1 : State := { s with
        mem := (s.mem.clearRange p.phys (p.phys + n)).setBytes p.phys (data.take n), fabric := { s.fabric with pages := pages } }
      let waits (r : TrapRec) : Bool := r.waitsOn ctx p.va (p.va + n) (r.addr.bind fun a => s.faultVa ctx (a.1 % 16) a.2)
      let held := s1.cores.flatMap fun c => (c.records.filter waits).flatMap TrapRec.covers
      let s2 : State := { s1 with cores := s1.cores.map fun c => { c with records := c.records.filter fun r => !waits r } }
      let inPage (a : Nat) : Bool :=
        match s.faultVa ctx (a / 2 ^ 64) (a % 2 ^ 64) with
        | some v => decide (p.va ≤ v) && decide (v < p.va + n)
        | none => false
      let moves := s2.cores.flatMap fun c => ((c.loadQ ++ c.storeQ).filter fun r =>
        (r.fault.map inPage).getD false && ((s.unit? r.unit).map s.ctxOf).getD 0 == ctx).map fun r =>
          Instr.transferPageResume c.idx r.id
      .next { (s2.resumeCovered held) with agenda := moves ++ s.agenda }

/-! ### Taking up a launch (R434 step 5, R437) -/

/-- Whether a signal part is there (R422). -/
def signalFrom (b : List Byte) : Option SignalPart := if b.all fun x => x == 0 then none else some (signalPartOf b)

/-- The deadline of a launch planted on a device whose front end does not hold it. -/
def State.deadlineFrom (s : State) (left : DWord) : Option Nat :=
  if left.toInt = 2 ^ 63 - 1 then none else some ((s.time : Int) + left.toInt * 65536).toNat

/-- The command at an index of a queue (R360); none where it cannot be read. -/
def State.commandAt (s : State) (q : Queue) (i : Nat) : Option Cmd :=
  ((s.ringEntries q i 1).bind fun h => s.ringEntries q i (1 + partCount h)).map cmdOf

/-- Who plants: the function, context, queue and job. -/
structure Planter where
  func : Nat
  ctx : Nat
  queue : Nat
  job : Nat
  deriving DecidableEq, Repr

/-- Put a launch of an image into this front end, all its units gone but those that the image holds. A launch that has moved takes
its TAG and its post copies from its command (R437). DESIGN CHOICE: log 45. -/
def State.takeUp (s : State) (who : Planter) (image : List Byte) (d : KDesc) : State × Launch :=
  let item := imageLaunch image
  let rest := imageUnstarted image
  let own := s.bank.written.contains (imageDigest image)
  let moved := (imageUnits image).isEmpty
  let part := launchPartOf (sub item 48 64)
  let key := s.fe.nextKey
  let n := field item 44 4
  let m := s.mem.putRange (keyArg key 0) n (sub item 256 n) (sub item (256 + n) ((n + 3) / 4)) (item.drop (256 + n + (n + 3) / 4))
  let taken := part.bindRing && s.ringTaken part.ring
  let hdr := if moved && field rest 0 8 != 2 ^ 64 - 1 then some (field rest 0 8) else none
  let cmd := hdr.bind (s.commandAt (s.queue who.queue))
  let a : Admit :=
    { func := who.func, ctx := who.ctx, queue := who.queue, job := who.job, phase := field item 7 1, graph := none
      tag := (cmd.map Cmd.tag).getD 0, hdr := hdr
      deadline := s.deadlineFrom (BitVec.ofNat 64 (field item 16 8)), pre := []
      post := ((cmd.bind Cmd.post).map copiesOf).getD [], signal := signalFrom (sub item 112 64) }
  let s1 := ({ s with mem := m }.enlist a (some { part with bindRing := part.bindRing && !taken }) d).1
  let back := unstartedNos rest
  let here := (imageUnits image).map fun u => field u 0 4
  let gone := (List.range part.grid).filter fun k => !back.contains k && !here.contains k
  let start := field item 24 12
  let s2 := s1.modLaunch key fun l => { l with
    id := if own then BitVec.ofNat 32 (field item 0 4) else l.id, part := part, startT := BitVec.ofNat 96 start, started := start != 0
    nextUnit := part.grid, returned := (back.map fun k => k / max part.gang 1).foldl insNat []
    ends := if moved then [] else gone.map fun k => { no := k, how := .complete, fibres := 0, resident := 0, front := false }
    done := if moved then 0 else field item 36 4
    moved := if moved then some 0 else none, banked := imageGangs image }
  let s3 := if own then s2.modFe fun e => { e with nextLaunch := s.fe.nextLaunch } else s2
  (s3, (s3.launch? key).getD default)

/-- Keep the translation of a container for this part in a context's cache, under its key (R432). -/
def State.noteTranslation (s : State) (ctx : Nat) (chash : List Byte) : State :=
  let key := sha384 (chash ++ bytesOfNat 4 Config.translator.toNat ++ opsBytes ++ bytesOfNat 8 Config.feat ++
    bytesOfNat 4 Config.microcode.toNat ++ bytesOfNat 2 Config.numVersion)
  if s.bank.cache.contains (ctx, key) then s else { s with bank := { s.bank with cache := (ctx, key) :: s.bank.cache } }

/-- New generations for all units and gangs that an image records (R434 step 1). -/
def State.newGens (s : State) (image : List Byte) : GenMap × State :=
  (imageUnits image).foldl (fun r b =>
    let (gen, s1) := r.2.takeGen
    let r1 : GenMap × State := ((1, BitVec.ofNat 32 (field b 24 4), gen) :: r.1, s1)
    if (r1.1.new? 2 (field b 28 4)).isSome then r1
    else
      let (gg, s2) := s1.takeGangGen
      ((2, BitVec.ofNat 32 (field b 28 4), gg) :: r1.1, s2)) ([], s)

/-- Plant an image that has passed R433: the launch it goes on as, and a job that places its gangs (R434). An image does not
say whether a unit has executed an opcode of 0xE0 to 0xEF (R396): one whose kernel may is taken to have.
DESIGN CHOICE: log 44. -/
def State.plantImage (s : State) (who : Planter) (image : List Byte) : State × Word :=
  let gangs := imageGangs image
  let unit := max (launchPartOf (sub (imageLaunch image) 48 64)).gang 1
  let (s1, l) := match s.ownLaunch image, s.kernelAt who.ctx (sub (imageLaunch image) 176 12) with
    | some l, _ =>
      let back := ((unstartedNos (imageUnstarted image)).map fun n => n / unit).foldl insNat l.returned
      (s.modLaunch l.key fun l => { l with returned := back }, l)
    | none, some d => 
      let (s1, l) := s.takeUp who image d
      ((s1.mapAbsent who.ctx (imagePages image)).noteTranslation who.ctx (sub image 64 48), l)
    | none, none => (s, default)
  let fronts := ((imageUnits image).filter fun b =>
    ((s1.kernelAt who.ctx (sub b 32 12)).map KDesc.front).getD true).map fun b => field b 0 4
  let (gens, s2) := s1.newGens image
  let s1 := { s2 with mem := gens.range s2.mem (keyArg l.key 0) l.desc.args }
  let job : BankJob :=
    { num := s1.bank.nextJob, launch := l.key, gangs := gangs, whole := bitAt image 12 1, dest := none, step := 2
      image := image, ready := true, since := s.clk, resident := [], faults := [], fronts := fronts, issues := [], gens := gens }
  let bank := { s1.bank with
    jobs := if gangs.isEmpty then s1.bank.jobs else s1.bank.jobs ++ [job], nextJob := s1.bank.nextJob + 1
    planted := (imageDigest image, l.key) :: s1.bank.planted }
  ({ s1 with bank := bank }, l.id)

/-- MOVE_REPORT (R437): the source of a moved launch reports how many of its units have completed there.
DEDUCED: log 45. -/
def execMoveReport (launch done : Nat) (s : State) : Host.Outcome State Fault Refusal :=
  if s.bank.moves.any fun r => r.launch == launch then .next s
  else .next (s.modLaunch launch fun l => match l.moved with
    | some k => { l with moved := some (max k (min done (l.part.grid - l.unstarted.length))) }
    | none => l)

/-! ### PLANT (R439, R441) -/

/-- Read bytes at an access, a line at a time; a byte that cannot be read ends it. -/
def State.readAt (s : State) (u : Unit) (a : Acc) (off : Nat) : Nat → Except TrapInfo (List Byte)
  | 0 => .ok []
  | n + 1 => match s.locate u a.space (a.adr + off) rightR with
    | none => .error (pageFault a.space (a.adr + off))
    | some k => match s.blockAt { a with key := k - off } off 64 with
      | .error t => .error t
      | .ok b => (s.readAt u a (off + 64) n).map fun r => b ++ r

/-- The image at an access: its header, then as much as TOTAL says and the capability holds. -/
def State.readImage (s : State) (u : Unit) (a : Acc) (room : Nat) : Except TrapInfo (List Byte) :=
  match s.readAt u a 0 3 with
  | .error t => .error t
  | .ok h =>
    let n := min (field h 120 8) room
    (s.readAt u a 0 ((n + 63) / 64)).map fun b => b.take (max n 192)

/-- PLANT (R439): an acquire at `.sys`; a refusal is taken later (R441). -/
def execPlant (c : Ctl) (d : VReg) (p : MemOp) (s : State) : Host.Outcome State Fault Refusal :=
  let o : Op := { opM c p [] [] (dstRegs d 1) 3 with takes := [.plant] }
  s.privileged <| s.issue o fun x s =>
    let cap := x.f.cap p.cap.n
    match s.reachMem x p 192 64 permR rightR [0, 4, 5] with
    | .error t => .trap t
    | .ok a => match s.readImage x.u a (cap.length - (x.f.offset p).toNat) with
      | .error t => .trap t
      | .ok b =>
        let me := s.myLaunch x
        let s1 := s.dropL1Shared x.u.core
        let give (s : State) (w : Word) : Fx := .done (s.modCur fun f => f.pendRegs (x.f.slotOf d.toNat) [fresh w])
        match s1.plantRefusal me.ctx b with
        | some r => give (s1.engineFault x.u (some x.asker) .plant (trapOf 0x71 (Refused.arg r))) 0
        | none =>
          let r := s1.plantImage { func := me.func, ctx := me.ctx, queue := me.queue, job := me.job } b
          give r.1 r.2

end Sys2Proof.Machine
end

