-- ==== Sys2Proof/Machine/Mailbox.lean ====
section
/-! DEFINITION. The mailbox commands of the firmware cores (spec 22 R451 to R453, with 09 R187 to R190, R208, R210, 16 R337,
R344, R347, 17 R372, 20 R433, R437 to R439). -/

namespace Sys2Proof.Machine

/-! ### Requests and replies (R453) -/

/-- A firmware core's mailbox. -/
def State.mailbox (s : State) (n : Nat) : Mailbox := s.life.mailboxes.getD n Mailbox.reset

/-- Argument `i` of a request: 8 bytes. -/
def Mailbox.arg (m : Mailbox) (i : Nat) : Nat := field m.req (8 + 8 * i) 8

/-- What a command comes to: done with results, or refused with a reason. -/
inductive Reply where
  | done (results : List Byte)
  | refused (reason : Nat)
  | unknown
  deriving DecidableEq, Repr

/-- The 64 bytes of a reply. -/
def Reply.bytes (r : Reply) (tag : List Byte) : List Byte :=
  let form (status reason : Nat) (results : List Byte) : List Byte :=
    (bytesOfNat 1 status ++ zs 3 ++ tag ++ bytesOfNat 4 reason ++ zs 4 ++ results ++ zs 48).take 64
  match r with
  | .done b => form 0 0 b
  | .refused n => form 1 n []
  | .unknown => form 2 0 []

/-- Write a reply and raise the event of vector 63 of the physical function. -/
def State.answer (s : State) (n : Nat) (r : Reply) : State :=
  (s.modMailbox n fun m => { m with reply := r.bytes (sub m.req 4 4), busy := false }).raiseEvent 0 63

/-- Serve a command of a firmware core's mailbox, where that is the request that waits there. -/
def State.serve (s : State) (n cmd : Nat) (f : Mailbox → State → State × Reply) : Host.Outcome State Fault Refusal :=
  let m := s.mailbox n
  if m.busy && field m.req 0 1 == cmd then
    let r := f m s
    .next (r.1.answer n r.2)
  else .next s

/-- The commands that a firmware core knows. -/
def knownCommands (core : Nat) : List Nat :=
  match core with
  | 0 => [0x01, 0x02]
  | 1 => [0x10]
  | 3 => [0x30, 0x31, 0x32]
  | 4 => [0x40, 0x41]
  | 5 => [0x50, 0x51, 0x52, 0x53]
  | 6 => [0x60, 0x61, 0x62, 0x63]
  | 7 => [0x70, 0x71, 0x72, 0x73, 0x74]
  | _ => []

/-- MAILBOX_UNKNOWN_COMMAND (R453). -/
def execMailboxUnknownCommand (core : Nat) (s : State) : Host.Outcome State Fault Refusal :=
  let m := s.mailbox core
  if m.busy && !(knownCommands core).contains (field m.req 0 1) then .next (s.answer core .unknown) else .next s

/-- The reason of a refusal for which the spec gives no number. DESIGN CHOICE: log 48. -/
def plainReason : Nat := 0

/-- Write bytes to the physical function's host window; refused where a byte is not mapped. -/
def State.toWindow (s : State) (off : Nat) (b : List Byte) (results : List Byte) : State × Reply :=
  match (List.range b.length).mapM fun i => (s.hostKey 0 (off + i)).map (·.1) with
  | some ks => (s.pokeKeys ks b, .done results)
  | none => (s, .refused plainReason)

/-! ### Firmware core 0 (R451, R452) -/

/-- Bytes 0 to 511 of an attestation report. DESIGN CHOICE: log 48. -/
def State.report (s : State) (nonce : List Byte) : List Byte :=
  let body := bytesOfNat 8 0x545345545441585A ++ bytesOfNat 2 1 ++ zs 6 ++ nonce ++
    bytesOfNat 4 (Config.deviceId.toNat + Config.revisionId.toNat * 65536) ++ zs 4 ++ bytesOfNat 8 Config.serial.toNat ++
    s.life.measure.flatten ++ bytesOfNat 4 (s.life.lowVersion.getD 0) ++ bytesOfNat 12 s.wire.ptp.toNat ++ zs 48
  body.take 512

/-- ATTESTATION_REPORT (R452): the report with its two signatures. -/
def execAttestationReport (s : State) : Host.Outcome State Fault Refusal :=
  s.serve 0 0x01 fun m s =>
    let (n, s1) := s.draw
    s1.toWindow (m.arg 4) (s.report (sub m.req 8 32) ++ (List.range 3373).map (Config.signatureByte n)) (bytesOfNat 8 3885)

/-- CERTIFICATE_CHAIN (R452). -/
def execCertificateChain (s : State) : Host.Outcome State Fault Refusal :=
  s.serve 0 0x02 fun m s =>
    s.toWindow (m.arg 0) ((List.range Config.certLength).map Config.certByte) (bytesOfNat 8 Config.certLength)

/-! ### Firmware core 1: cancel (R372, R387) -/

/-- Cancel a level at the host's request: the high half of the identifier names the launch of a unit and the context of a
phase or job. -/
def State.hostCancel (s : State) (level id : Nat) : State × Reply :=
  let a : Word := BitVec.ofNat 32 id
  let hi := id / 2 ^ 32
  let give (r : State × Nat) : State × Reply := (r.1, .done (bytesOfNat 8 r.2))
  let wide : Launch := { (default : Launch) with sys := true, ctx := hi }
  if 4 < level then (s, .refused plainReason)
  else match levelOf (BitVec.ofNat 4 level) with
    | .unit => match s.launchById 0 (BitVec.ofNat 32 hi) with
      | some l => give (s.cancelBy l .unit a)
      | none => give (s, 2)
    | lv => if lv == .launch && a == 0 then give (s, 2) else give (s.cancelBy wide lv a)

/-- MAILBOX_CANCEL (R372). -/
def execMailboxCancel (s : State) : Host.Outcome State Fault Refusal :=
  s.serve 1 0x10 fun m s => s.hostCancel (m.arg 0) (m.arg 1)

/-! ### Firmware core 3: mappings (R187, R190, R241, R282) -/

/-- The extents of a context's `const` sections without those that meet a range. -/
def State.constsOff (s : State) (ctx lo hi : Nat) : List ConstExtent :=
  s.fabric.consts.filter fun e => !(e.ctx == ctx && decide (e.lo < hi) && decide (lo < e.hi))

/-- Place a `const` section of a context (R31): `n` bytes of device memory from a physical address, with their codes and tags,
at an address of space 3. DESIGN CHOICE: log 77. -/
def State.placeConst (s : State) (ctx adr n phys : Nat) : State :=
  let k := keyConst ctx adr
  let m := s.mem.setWords k (s.mem.words phys ((n + 3) / 4))
  { s with
    mem := (List.range (n / 16)).foldl (fun m i => if s.mem.tag (phys + 16 * i) then m.setTag (k + 16 * i) else m) m
    fabric := { s.fabric with consts := s.constsOff ctx adr (adr + n) ++ [{ ctx := ctx, lo := adr, hi := adr + n }] } }

/-- Whether a page that overlaps a range of a context is kept for the device that an image was planted on (R435). -/
def State.pageKept (s : State) (ctx va sizeCode : Nat) : Bool :=
  s.fabric.pages.any fun x => x.ctx == ctx && decide (x.va < va + pageBytes sizeCode) && decide (va < x.va + pageBytes x.sizeCode) &&
    s.bank.carried.any fun c => c.ctx == ctx && c.va == x.va

/-- MAILBOX_MAP (R190): bit 63 of the physical range names, in its low bits, the core whose transfer aperture the page
begins with (R282). Bit 63 of the virtual address says that a `const` section is placed in space 3 (R31); the size is then its
length in bytes. A page that is kept for the reader of an image stays (R435). DESIGN CHOICE: log 44 and 77. -/
def execMailboxMap (s : State) : Host.Outcome State Fault Refusal :=
  s.serve 3 0x30 fun m s =>
    let (ctx, va, size, phys, rights) := (m.arg 0, m.arg 1, m.arg 2, m.arg 3, m.arg 4)
    let core := phys % 2 ^ 63
    let adr := va % 2 ^ 63
    if 2 ^ 63 ≤ va then
      if decide (16 ≤ ctx) || decide (adr < 65536) || adr % 64 != 0 || decide (2 ^ 57 < adr + size) || phys % 64 != 0 ||
          decide (768 * 2 ^ 30 < phys + size) then (s, .refused plainReason)
      else (s.placeConst ctx adr size phys, .done [])
    else if decide (16 ≤ ctx) || decide (2 < size) || va % pageBytes size != 0 || decide (2 ^ 57 ≤ va) || decide (8 ≤ rights) ||
        s.pageKept ctx va size then
      (s, .refused plainReason)
    else if 2 ^ 63 ≤ phys then
      if Config.cores ≤ core then (s, .refused plainReason)
      else (s.mapPage { memPage ctx va size 0 (BitVec.ofNat 3 rights) with aperture := some core }, .done [])
    else if phys % pageBytes size != 0 then (s, .refused plainReason)
    else (s.mapPage (memPage ctx va size phys (BitVec.ofNat 3 rights)), .done [])

/-- MAILBOX_UNMAP (R190); with bit 63 of the virtual address, of `const` sections (R31). A page that is kept for the reader of an
image stays (R435). DESIGN CHOICE: log 44 and 77. -/
def execMailboxUnmap (s : State) : Host.Outcome State Fault Refusal :=
  s.serve 3 0x31 fun m s =>
    let adr := m.arg 1 % 2 ^ 63
    if 2 ^ 63 ≤ m.arg 1 then
      ({ s with fabric := { s.fabric with consts := s.constsOff (m.arg 0) adr (adr + m.arg 2) } }, .done [])
    else if decide (16 ≤ m.arg 0) || decide (2 < m.arg 2) || s.pageKept (m.arg 0) (m.arg 1) (m.arg 2) then (s, .refused plainReason)
    else (s.unmapPage (m.arg 0) (m.arg 1) (m.arg 2), .done [])

/-- HOST_WINDOW_ENTRY (R187, R241). -/
def execHostWindowEntry (s : State) : Host.Outcome State Fault Refusal :=
  s.serve 3 0x32 fun m s =>
    let (func, entry, pcie, atomics) := (m.arg 0, m.arg 1, m.arg 2, m.arg 3)
    if decide (16 < func) || decide (2 ^ 27 ≤ entry) || pcie % 2097152 != 0 then (s, .refused plainReason)
    else
      let w : HostWin := { func := func, entry := entry, pcie := pcie, atomics := atomics % 2 == 1 }
      let rest := s.fabric.hostWin.filter fun x => !(x.func == func && x.entry == entry)
      ({ s with fabric := { s.fabric with hostWin := rest ++ [w] } }, .done [])

/-! ### Firmware core 4: the log and the counters (R453, R457) -/

/-- One log record in 16 bytes: the core, the cause, the argument and what else it holds.
DESIGN CHOICE: log 48. -/
def LogRec.bytes (r : LogRec) : List Byte :=
  bytesOfNat 1 r.core ++ [r.cause] ++ zs 2 ++ bytesOfNat 4 r.arg.toNat ++ bytesOfNat 8 r.info

/-- READ_LOG (R453): as many records as the range holds. -/
def execReadLog (s : State) : Host.Outcome State Fault Refusal :=
  s.serve 4 0x40 fun m s =>
    let rs := s.fe.log.take (m.arg 1 / 16)
    s.toWindow (m.arg 0) (rs.flatMap LogRec.bytes) (bytesOfNat 8 rs.length)

/-- READ_COUNTERS (R453, R457): the counters of each core and then of each die. -/
def execReadCounters (s : State) : Host.Outcome State Fault Refusal :=
  s.serve 4 0x41 fun m s =>
    let cs := (s.cores.flatMap Core.counters ++ s.life.dieCounters).take (m.arg 1 / 8)
    s.toWindow (m.arg 0) (cs.flatMap fun c => bytesOfNat 8 c.val.toNat) (bytesOfNat 8 cs.length)

/-! ### Firmware core 5: pools (R189, R208, R210) -/

/-- A pool with no entry in the tables. -/
def Pool.empty (n : Nat) : Pool := { pool := n, members := [], self := 0, ownerTime := 200, silent := [] }

/-- Change a pool, making its entry where there is none. -/
def State.modPool (s : State) (n : Nat) (f : Pool → Pool) : State :=
  let p := (s.fabric.pools.find? fun p => p.pool == n).getD (Pool.empty n)
  { s with fabric := { s.fabric with pools := (s.fabric.pools.filter fun q => q.pool != n) ++ [f p] } }

/-- Whether a number names a pool of a device context (R189): 32 times the context, and the pool. DESIGN CHOICE: log 27. -/
def poolNo (n : Nat) : Bool := decide (n < 32 * 16)

/-- POOL_TABLE (R189): the lines of a granule that has a home are lines of its pool from then on. -/
def execPoolTable (s : State) : Host.Outcome State Fault Refusal :=
  s.serve 5 0x50 fun m s =>
    let (pool, granule, home, range) := (m.arg 0, m.arg 1, m.arg 2, m.arg 3)
    if !poolNo pool || decide (2 ^ 22 ≤ granule) || decide (16 ≤ home) || range % 2 ^ 30 != 0 then
      (s, .refused plainReason)
    else
      let g : PoolGranule := { pool := pool, granule := granule, home := home, range := range }
      let rest := s.fabric.granules.filter fun x => !(x.pool == pool && x.granule == granule)
      let s1 := s.modPool pool fun p => p
      (({ s1 with fabric := { s1.fabric with granules := rest ++ [g] } }).rejoin, .done [])

/-- MEMBER_ADD (R210): the third argument says that the member is this device. A member that comes back holds nothing of what it
held before (R277). -/
def execMemberAdd (s : State) : Host.Outcome State Fault Refusal :=
  s.serve 5 0x51 fun m s =>
    let (pool, member) := (m.arg 0, m.arg 1)
    let known := s.fabric.pools.any fun p => p.pool == pool && p.members.contains member
    if !poolNo pool || decide (16 ≤ member) then (s, .refused plainReason)
    else (((if known then s else s.forgetMember pool member).modPool pool fun p => { p with
      members := insNat p.members member, silent := p.silent.filter fun x => x != member
      self := if m.arg 2 % 2 = 1 then member else p.self }).rejoin, .done [])

/-- MEMBER_REMOVE (R206, R210): the tokens that the member holds are gone with it. -/
def execMemberRemove (s : State) : Host.Outcome State Fault Refusal :=
  s.serve 5 0x52 fun m s =>
    let (pool, member) := (m.arg 0, m.arg 1)
    if !poolNo pool || decide (16 ≤ member) then (s, .refused plainReason)
    else ((s.forgetMember pool member).modPool pool fun p => { p with
      members := p.members.filter (fun x => x != member), silent := p.silent.filter fun x => x != member }, .done [])

/-- The owner time-out that a write stores (R208): the value's low 14 bits, clamped. DESIGN CHOICE: log 99. -/
def ownerTimeValue (v : Nat) : Nat := min 10000 (max 50 (v % 2 ^ 14))

/-- OWNER_TIME_OUT_SET (R208): of a pool, or of the space 0 lines where the pool is all ones. -/
def execOwnerTimeOutSet (s : State) : Host.Outcome State Fault Refusal :=
  s.serve 5 0x53 fun m s =>
    let t := ownerTimeValue (m.arg 1)
    if poolNo (m.arg 0) then (s.modPool (m.arg 0) fun p => { p with ownerTime := t }, .done [])
    else if m.arg 0 = 2 ^ 64 - 1 then ({ s with fabric := { s.fabric with ownerTime := t } }, .done [])
    else (s, .refused plainReason)

/-! ### Firmware core 6: flows, clock and ports (R337, R344, R347) -/

/-- A flow-table entry from its 64 bytes, little-endian (R2). DESIGN CHOICE: log 47. -/
def flowFrom (idx : Nat) (b : List Byte) : Flow :=
  let v6 := field b 2 1 == 6
  let adr (off : Nat) : BitVec 128 := BitVec.ofNat 128 (field b off (if v6 then 16 else 4))
  let port (off : Nat) : Option (BitVec 16) := if field b off 4 < 65536 then some (BitVec.ofNat 16 (field b off 4)) else none
  { idx := idx, valid := bitAt b 0 0, ports := BitVec.ofNat 2 (field b 1 1), ipv6 := v6, daddr := adr 16, dplen := field b 3 1
    saddr := adr 32, splen := field b 4 1, dport := port 8, sport := port 12, ring := field b 5 1, payload := bitAt b 6 0
    keepBad := bitAt b 7 0 }

/-- FLOW_ENTRY (R337). -/
def execFlowEntry (s : State) : Host.Outcome State Fault Refusal :=
  s.serve 6 0x60 fun m s =>
    if 4096 ≤ m.arg 0 then (s, .refused plainReason)
    else match (List.range 64).mapM fun i => (s.hostKey 0 (m.arg 1 + i)).map fun k => s.mem.byte k.1 with
      | none => (s, .refused plainReason)
      | some b =>
        let e := flowFrom (m.arg 0) b
        ({ s with wire := { s.wire with flows := (s.wire.flows.filter fun x => x.idx != e.idx) ++ [e] } }, .done [])

/-- CLOCK_SOURCE (R347): the internal oscillator, the 10 MHz input, or a servo on port 0 or 1. -/
def execClockSource (s : State) : Host.Outcome State Fault Refusal :=
  s.serve 6 0x61 fun m s =>
    if 4 ≤ m.arg 0 then (s, .refused plainReason)
    else (({ s with wire := { s.wire with clockSource := m.arg 0 } }).discipline, .done [])

/-- CLOCK_STEP (R347): the clock takes the time given, and the step is counted. -/
def execClockStep (s : State) : Host.Outcome State Fault Refusal :=
  s.serve 6 0x62 fun m s =>
    let t := BitVec.ofNat 96 (m.arg 0 + (m.arg 1 % 2 ^ 32) * 2 ^ 64)
    if 1000000000 ≤ (t.extractLsb' 16 32).toNat then (s, .refused plainReason)
    else ({ s with wire := { s.wire with ptp := t, steps := s.wire.steps + 1 } }, .done [])

/-- Flush the posts of a port (R344). -/
def State.flushPosts (s : State) (port : Nat) : State :=
  (s.port port).posts.foldl (fun s p =>
    let gone (r : PostRec) : PostRec := { r with state := 0, fail := true, reason := 2 }
    (((s.modPostRec port p.num gone).leaveQueue port p).wakeStamp p).postFault p (txFault 2 port)) s

/-- PORT_RESET (R344). -/
def execPortReset (s : State) : Host.Outcome State Fault Refusal :=
  s.serve 6 0x63 fun m s => if 2 ≤ m.arg 0 then (s, .refused plainReason) else (s.flushPosts (m.arg 0), .done [])

/-! ### Firmware core 7: banking (R433 to R439) -/

/-- A counted launch by its identifier. -/
def State.launchOf (s : State) (id : Nat) : Option Launch :=
  s.fe.launches.find? fun l => l.id.toNat == id && l.counted && !l.over'

/-- MAILBOX_BANK (R439): to a PCIe address where bit 63 is set, else to the launch's space 0. -/
def execMailboxBank (s : State) : Host.Outcome State Fault Refusal :=
  s.serve 7 0x70 fun m s =>
    match s.launchOf (m.arg 0) with
    | none => (s, .refused plainReason)
    | some l =>
      let gang := m.arg 1 % 2 ^ 32
      let d := m.arg 2
      if d % 64 != 0 then (s, .refused plainReason)
      else match s.bankAsk l gang none with
        | .go n gangs =>
          (s.startBank l gangs (gang == 0xFFFFFFFF)
            { ctx := l.ctx, func := l.func, space := 0, adr := d % 2 ^ 63, pcie := decide (2 ^ 63 ≤ d) }, .done (bytesOfNat 8 n))
        | _ => (s, .refused plainReason)

/-- MAILBOX_PLANT (R433): the image, and the queue and job that take it. -/
def execMailboxPlant (s : State) : Host.Outcome State Fault Refusal :=
  s.serve 7 0x71 fun m s =>
    let q := s.queue (m.arg 1)
    if decide (256 ≤ m.arg 1) || decide (16 ≤ m.arg 2) then (s, .refused plainReason)
    else match (s.extRead q.ctx (m.arg 0) 192).bind fun h => s.extRead q.ctx (m.arg 0) (max (field h 120 8) 192) with
      | none => (s, .refused plainReason)
      | some b =>
        let s := s.noteExt q.ctx (m.arg 0) b.length
        match s.plantRefusal q.ctx b with
        | some r => (s, .refused r.1)
        | none =>
          let r := s.plantImage { func := q.func, ctx := q.ctx, queue := m.arg 1, job := m.arg 2 } b
          (r.1, .done (bytesOfNat 8 r.2.toNat))

/-- Whether a launch may move (R437). DEDUCED: log 45. -/
def State.mayMove (s : State) (l : Launch) : Bool :=
  let cap (i : Nat) : CapReg :=
    { bits := BitVec.ofNat 128 (s.mem.num (keyArg l.key (16 * i)) 16), tag := s.mem.tag (keyArg l.key (16 * i)), bad := false }
  !l.det && !l.part.bindRing && !l.part.bindChan && l.banked.isEmpty &&
    (List.range (l.desc.args / 16)).all fun i => !(cap i).tag || (cap i).space == 4 || (cap i).space == 5

/-- MOVE (R437): the unstarted units leave as an image, and the source keeps what runs; the target writes the record, the
post copies and the signal. DEDUCED: log 45. -/
def execMove (s : State) : Host.Outcome State Fault Refusal :=
  s.serve 7 0x72 fun m s =>
    match s.launchOf (m.arg 0) with
    | none => (s, .refused plainReason)
    | some l =>
      if !s.mayMove l then (s, .refused plainReason)
      else
        let s0 := s.noteFunction l.ctx l.desc
        let secs := [sectionOf 1 [s0.launchItem l], sectionOf 9 [l.unstartedItem]]
        let image := imageOf (flagByte [false, true]).toNat 0 (s0.chash l.ctx) secs
        let n := l.unstarted.length
        let rec' : MoveRec := { launch := l.key, target := m.arg 1, sent := n, image := image, reported := l.done }
        let s1 := s0.modLaunch l.key fun l => { l with
          nextUnit := l.part.grid, returned := [], moved := some n, hdr := none, signal := none
          posts := if l.hdr.isSome then [] else l.posts }
        ({ s1 with bank := { s1.bank with moves := s1.bank.moves ++ [rec'] } }, .done (bytesOfNat 8 n))

/-- The units of a launch that were banked out of this device and not planted again: those that have left without ending. -/
def State.outUnits (s : State) (l : Launch) : List Nat :=
  let g := max l.part.gang 1
  let here := (s.units.filter fun u => u.launch == l.key && !u.shadow).map Unit.no
  let kept := (s.bank.jobs.filter fun j => j.launch == l.key).flatMap BankJob.gangs
  (List.range (min l.part.grid l.nextUnit)).filter fun n =>
    !here.contains n && !(l.ends.any fun e => e.no == n) && !l.returned.contains (n / g) && !kept.contains (n / g)

/-- RELEASE (R439, R441): a banked launch that will not be planted settles with STATUS 3 and CAUSE BANKED, whose argument is the
number of its first banked unit.
DEDUCED: log 45. -/
def execRelease (s : State) : Host.Outcome State Fault Refusal :=
  s.serve 7 0x73 fun m s =>
    match s.launchOf (m.arg 0) with
    | none => (s, .refused plainReason)
    | some l =>
      let ns := s.outUnits l
      let first := BitVec.ofNat 32 (ns.headD 0)
      if ns.isEmpty || l.moved.isSome then (s, .refused plainReason)
      else
        let s1 := s.modLaunch l.key fun l => { l with
          cause := 0x70, errArg := first, banked := l.banked.filter fun g => (s.bank.jobs.any fun j => j.launch == l.key && j.gangs.contains g)
          ends := l.ends ++ ns.map fun n => { no := n, how := .ended, fibres := 0, resident := 0, front := false } }
        (s1.logRec 7 0x70 first l.key, .done [])

/-- One entry of a checkpoint's list (R438): KIND, source, length and destination; KIND 0 ends it and names the place of the
manifest. -/
structure ShardAsk where
  kind : Nat
  src : Nat
  len : Nat
  dst : Nat
  deriving DecidableEq, Repr

/-- The entries of a list until the one of KIND 0. -/
def State.shardList (s : State) (ctx a : Nat) : Nat → Option (List ShardAsk × Nat)
  | 0 => none
  | n + 1 => match s.extRead ctx a 32 with
    | none => none
    | some b =>
      if field b 0 8 = 0 then some ([], field b 24 8)
      else (s.shardList ctx (a + 32) n).map fun r =>
        ({ kind := field b 0 8, src := field b 8 8, len := field b 16 8, dst := field b 24 8 } :: r.1, r.2)

/-- The bytes of a shard: those of memory, or of an image with CKPT set. -/
def State.shardBytes (s : State) (ctx : Nat) (a : ShardAsk) : Option (List Byte) :=
  (s.extRead ctx a.src a.len).map fun b => if a.kind = 2 then b.set 12 (b.getD 12 0 ||| 4) else b

/-- A shard's 80 bytes in the manifest. -/
def shardEntry (a : ShardAsk) (b : List Byte) : List Byte :=
  bytesOfNat 4 a.kind ++ zs 4 ++ bytesOfNat 8 b.length ++ bytesOfNat 8 a.dst ++ sha384 b ++ zs 8

/-- The manifest of a checkpoint without its SELF. -/
def manifestBody (job : Nat) (time : BitVec 96) (prev : List Byte) (shards : List (List Byte)) : List Byte :=
  bytesOfNat 8 0x464E414D4B43585A ++ bytesOfNat 2 1 ++ bytesOfNat 2 job ++ bytesOfNat 4 shards.length ++ bytesOfNat 12 time.toNat ++
    prev ++ zs 52 ++ shards.flatten

/-- CHECKPOINT (R438): the shards are written, then the manifest, its MAGIC last. -/
def execCheckpoint (s : State) : Host.Outcome State Fault Refusal :=
  s.serve 7 0x74 fun m s =>
    let (job, list, ctx) := (m.arg 0, m.arg 1, m.arg 2)
    match if 16 ≤ job then none else s.shardList ctx list (2 ^ 52) with
    | none => (s, .refused plainReason)
    | some (asks, place) => match asks.mapM fun a => (s.shardBytes ctx a).map fun b => (a, b) with
      | none => (s, .refused plainReason)
      | some shards =>
        let prev := (tget s.bank.prevManifest job).getD (zs 48)
        let body := manifestBody job s.wire.ptp prev (shards.map fun x => shardEntry x.1 x.2)
        let self := sha384 body
        let s0 := asks.foldl (fun s a => s.noteExt ctx a.src a.len) (s.noteExt ctx list (32 * (asks.length + 1)))
        let s1 := shards.foldl (fun s x => s.extWrite ctx x.1.dst x.2) s0
        let s2 := (s1.extWrite ctx (place + 8) ((body ++ self).drop 8)).extWrite ctx place (body.take 8)
        ({ s2 with bank := { s2.bank with prevManifest := tset s2.bank.prevManifest job self } }, .done [])

end Sys2Proof.Machine
end

