-- ==== Sys2Proof/Machine/Device.lean ====
section
/-! DEFINITION. Power-up, resets, links, power, the host's accesses to device memory, stored-word errors and the event
counters (spec 22 R449 to R458, 09 R195 to R199, 10 R225, 16 R344). -/

namespace Sys2Proof.Machine

/-- Change what belongs to the life of the device. -/
def State.modLife (s : State) (f : DeviceLife → DeviceLife) : State := { s with life := f s.life }

/-- STAGE 7 with a FAILCODE and DETAIL (R449). -/
def State.failDevice (s : State) (code detail : Nat) : State :=
  s.modLife fun d => { d with readyFlag := false, stage := 7, failCode := code, detail := detail % 256 }

/-! ### Event counters (R457, R458) -/

/-- Whether a code selects an event of a counter of a core, or of a die (R457). -/
def eventOk (core : Bool) (code : Nat) : Bool :=
  decide (code ≤ 1) || (if core then decide (code ≤ 0xF) else decide (0x101 ≤ code) && decide (code ≤ 0x10A))

/-- Change the counter of a number that a fibre of a core names (R457). -/
def State.modCounter (s : State) (core n : Nat) (f : Counter → Counter) : State :=
  if n < 16 then s.modCore core fun c => { c with counters := updAt c.counters n f }
  else s.modLife fun d => { d with dieCounters := updAt d.dieCounters (64 * dieOf core + (n - 16)) f }

/-- The value of a counter that a fibre of a core names; all ones for a number that names none (R458). -/
def State.counterVal (s : State) (core n : Nat) : DWord :=
  if n < 16 then (((s.core? core).bind fun c => c.counters[n]?).map Counter.val).getD 0
  else if n < 80 then ((s.life.dieCounters[64 * dieOf core + (n - 16)]?).map Counter.val).getD 0
  else BitVec.allOnes 64

/-- What a selector does to a counter of a number (R458): the selection and the clear are one step. -/
def State.select (s : State) (core n : Nat) (sel : Word) : State :=
  let code := sel.extractLsb' 0 16
  if decide (80 ≤ n) || sel.extractLsb' 17 15 != 0 || !eventOk (decide (n < 16)) code.toNat then s
  else s.modCounter core n fun c => { sel := code, val := if sel.getLsbD 16 then 0 else c.val }

/-- EVSEL (R458): privileged. -/
def execEvsel (c : Ctl) (a b : Src) (s : State) : Host.Outcome State Fault Refusal :=
  s.privileged <| s.issue (op2 c a false b false true []) fun x s =>
    .done (s.select x.u.core (x.f.src32 a).toNat (x.f.src32 b))

/-- EVRD (R458). -/
def execEvrd (c : Ctl) (d : VReg) (a : Src) (s : State) : Host.Outcome State Fault Refusal :=
  s.issue (op1 c a false true (dstRegs d 2)) fun x s =>
    .done (s.modCur fun f => f.pendRegs (x.f.slotOf d.toNat) (regs64 (s.counterVal x.u.core (x.f.src32 a).toNat)))

/-! ### Host accesses to device memory (R197, R198, R225, R454) -/

/-- Whether a range lies in device memory. -/
def inDevice (adr n : Nat) : Bool := decide (adr + n ≤ deviceBytes)

/-- The lines of a range of device memory. -/
def rangeLines (adr n : Nat) : List Nat := keyLines ((List.range n).map fun i => adr + i)

/-- HOST_WRITE (R196, R198, R225): the bytes gain fresh codes at ingress; a poisoned write poisons its lines; what falls on a
lost line is discarded and logged. DESIGN CHOICE: log 51, 70. -/
def execHostWrite (addr : Nat) (data : List Byte) (poisoned _relaxed : Bool) (s : State) :
    Host.Outcome State Fault Refusal :=
  if !s.life.readyFlag || !inDevice addr data.length then .next (s.logRec 0 0 0 addr)
  else if poisoned then
    .next ((rangeLines addr data.length).foldl (fun s n => (s.gatherHome n).modLine n fun l => { l with poisoned := true }) s)
  else
    let bs := (data.zipIdx.map fun e => (addr + e.2, e.1)).filter fun e => !s.gone (e.1 / 64)
    let lost := (rangeLines addr data.length).filter s.gone
    let s1 := lost.foldl (fun s n => s.logRec 4 0x27 0 (64 * n)) s
    .next (s1.pokeKeys (bs.map (·.1)) (bs.map (·.2)))

/-- Whether a line of a range is lost or poisoned. DESIGN CHOICE: log 70. -/
def State.rangeDead (s : State) (adr n : Nat) : Bool :=
  (rangeLines adr n).any fun k => s.gone k || (s.line k).poisoned

/-- A completion to the host, logged where it is poisoned (R197). -/
def State.completeHost (s : State) (adr : Nat) (b : List Byte) (ep : Bool) : State :=
  let s1 := s.modLife fun d => { d with hostData := b, hostEp := ep }
  if ep then s1.logRec 4 0x26 0 adr else s1

/-- A read of a function's BAR 0 (R450, R454): a function that there is not answers with all ones. -/
def State.readBar (s : State) (func addr len : Nat) : State :=
  let b := if func ≤ 16 then s.barBytes func addr len else List.replicate len 0xFF
  (s.completeHost addr b false).clearReplay func addr len

/-- HOST_READ (R197, R225, R235): of device memory, where single bits are corrected and an uncorrectable word is sent marked
poisoned; or of the registers of a function's BAR 0. -/
def execHostRead (src : HostAt) (len : Nat) (s : State) : Host.Outcome State Fault Refusal :=
  let addr := src.addr
  match src.bar with
  | some func => .next (s.readBar func addr len)
  | none =>
  if !s.life.readyFlag || !inDevice addr len then .next (s.completeHost addr (List.replicate len 0xFF) false)
  else
    let s0 := s.look hostAgent addr len
    let m := s0.hostMem
    let bad := s.rangeDead addr len || (decide (0 < len) && (m.badWord addr len).isSome)
    let s1 := if len = 0 then s0 else s0.noteHome m addr len
    .next ((s1.countDie (homeDie (addr / 64)) 0x0108 len).completeHost addr (m.goodBytes addr len) bad)

/-- The new value of a host's AtomicOp (R454). -/
def hostAtomicNew (op : HostAtomic) (old operand compare : DWord) : DWord :=
  match op with
  | .fetchAdd => old + operand
  | .swap => operand
  | .cas => if old == compare then operand else old

/-- HOST_ATOMICOP (R196, R242, R454): performed at the home; the completion carries the old value. -/
def execHostAtomicop (op : HostAtomic) (eight : Bool) (addr : Nat) (operand compare : DWord) (s : State) :
    Host.Outcome State Fault Refusal :=
  let n := if eight then 8 else 4
  if !s.life.readyFlag || !inDevice addr n || addr % n != 0 then .next (s.logRec 0 0 0 addr)
  else if s.rangeDead addr n || (s.mem.badWord addr n).isSome then
    .next (s.completeHost addr (s.mem.bytes addr n) true)
  else
    let old := s.mem.goodBytes addr n
    let cut (v : DWord) : DWord := if eight then v else v &&& 0xFFFFFFFF
    let new := hostAtomicNew op (BitVec.ofNat 64 (natOfBytes old)) (cut operand) (cut compare)
    let s0 := ((s.noteHome s.mem addr n).countDie (homeDie (addr / 64)) 0x0108 n).countDie (homeDie (addr / 64)) 0x0109 n
    let s1 := (s0.gatherHome (addr / 64)).showAll addr n
    .next ({ s1 with mem := s1.mem.setWords addr (wordsOfBytes (bytesOfNat n (cut new).toNat)) }.completeHost addr old false)

/-- The value of a register of a function's configuration space (R1, R188). PRESUMED: log 79. -/
def State.configWord (s : State) (func : Nat) (reg : ConfigReg) : Word :=
  match reg with
  | .ids => (if func = 0 then Config.deviceId else Config.virtualId) ++ Config.vendorId
  | .classRev => Config.classCode ++ Config.revisionId
  | .devCtl2 => BitVec.ofNat 32 ((tget s.life.cplTimes func).getD 0)

/-- A write to a register of a function's configuration space: only the completion timeout can be written (R188).
PRESUMED: log 79. -/
def State.configWrite (s : State) (func : Nat) (reg : ConfigReg) (v : Word) : State :=
  let code := v.toNat % 16
  if reg == .devCtl2 && (cplRange code).isSome then s.modLife fun d => { d with cplTimes := tset d.cplTimes func code } else s

/-- Whether stage 2 has begun: every firmware core's images had been measured then, in a device that has failed too. -/
def DeviceLife.calibrates (d : DeviceLife) : Bool := decide (2 ≤ d.stage) && (d.stage != 7 || d.measure.all fun x => x != zs 48)

/-- HOST_CONFIG_REQUEST (R1, R188, R450): answered with Configuration Request Retry Status until stage 2 begins; then a read is
answered with the register's value, and a write takes what it brings. -/
def execHostConfigRequest (s : State) (ask : ConfigAsk := {}) : Host.Outcome State Fault Refusal :=
  if !s.life.calibrates then .next (s.modLife fun d => { d with configRetries := d.configRetries + 1 })
  else if 16 < ask.func then .next (s.completeHost 0 (List.replicate 4 0xFF) false)
  else match ask.value with
    | some w => .next (s.configWrite ask.func ask.reg w)
    | none => .next (s.completeHost 0 (bytesOfNat 4 (s.configWord ask.func ask.reg).toNat) false)

/-! ### Stored words (R42, R85, R195, R198, R199) -/

/-- Write a word with its code, leaving the granule's tag as it is. -/
def Memory.flipWord (m : Memory) (k : Nat) (flip : Word) (codeFlip : Byte) : Memory :=
  let old := m.word k
  let m1 := m.setWord k { val := old.val ^^^ flip, code := old.code ^^^ codeFlip }
  if m.tag k then m1.setTag k else m1

/-- PATROL_SCRUB (R199): of a line whose tokens are all at home, words with one bit in error are rewritten. -/
def execPatrolScrub (line : Nat) (s : State) : Host.Outcome State Fault Refusal :=
  if (s.line line).homeTokens != Config.tokens || !inDevice (64 * line) 64 then .next s
  else
    let words := (List.range 16).map fun i => 64 * line + 4 * i
    .next (words.foldl (fun s k => match checkWord (s.mem.word k) with
      | none => s.logRec 4 0x26 0 k
      | some (w, true) =>
        let m := s.mem.setWord k (fresh w)
        ({ s with mem := if s.mem.tag k then m.setTag k else m }.countDie (homeDie line) 0x0106 1).logRec 4 0 0 k
      | some (_, false) => s) s)

/-- LINE_STATE_STORE_FAULT (R198): the line is poisoned for data. -/
def execLineStateStoreFault (line : Nat) (s : State) : Host.Outcome State Fault Refusal :=
  .next ((s.modLine line fun l => { l with poisoned := true }).logRec 4 0x28 0 (64 * line))

/-- A capability register after bits of its first word and of that word's code have changed (R85). -/
def CapReg.hit (c : CapReg) (flip : Word) (codeFlip : Byte) : CapReg :=
  let w := c.bits.extractLsb' 0 32
  match checkWord { val := w ^^^ flip, code := codeOf w ^^^ codeFlip } with
  | some (v, _) => { c with bits := c.bits.extractLsb' 32 96 ++ v }
  | none => { c with bad := true }

/-- STORED_WORD_ERROR (R42, R143, R195): bits of a word or of its code change where it is stored, or in the next result that a
fibre's vector unit delivers; a bad cached copy of a fetch line is fetched once more and counted. DEDUCED: log 31. -/
def execStoredWordError (site : StoreSite) (flip : Word) (codeFlip : Byte) (s : State) : Host.Outcome State Fault Refusal :=
  match site with
  | .mem key => .next { s with mem := s.mem.flipWord (wordKey key) flip codeFlip }
  | .reg unit fid slot =>
    .next (s.modFibre unit fid fun f => match tget f.stack slot with
      | some r => { f with stack := tset f.stack slot { val := r.val ^^^ flip, code := r.code ^^^ codeFlip } }
      | none => f)
  | .cap unit fid c =>
    .next (s.modFibre unit fid fun f => f.setCap (BitVec.ofNat 4 c) ((f.cap (BitVec.ofNat 4 c)).hit flip codeFlip))
  | .result unit fid => .next (s.modFibre unit fid fun f => { f with strike := flip })
  | .line addr =>
    let runs (core : Nat) : Bool := (s.unitsOn core).any fun u => u.fibres.any fun f => f.live && lineAddr f.pc == addr / 64 * 64
    .next (((List.range Config.cores).filter runs).foldl (fun s c => s.count c 0x000C 1) s)

/-! ### Power-up (R449 to R451) -/

/-- A host's memory and what other devices hold stay as they are across a reset. -/
def Memory.outside (m : Memory) : Memory :=
  let mine (k : Nat) : Bool := !((decide (region 2 ≤ k) && decide (k < region 3) || decide (region 8 ≤ k)))
  { cells := m.cells.filter fun c => !mine c.1, synd := m.synd.filter fun c => !mine c.1, tags := m.tags.filter fun t => !mine t }

/-- MODULE_RESET (R449, R450): everything in the device goes back to its state at reset. -/
def execModuleReset (s : State) : Host.Outcome State Fault Refusal :=
  .next { State.reset with mem := s.mem.outside, agenda := s.agenda, freeCtr := s.freeCtr }

/-- Whether both signatures of a firmware image verify over the digest of its body, under keys whose digests are fused (R451). -/
def signVerifies (g : FirmSign) (body : List Byte) : Bool :=
  g.digest == sha384 body && sha384 g.edKey == Config.edKeyDigest && sha384 g.mlKey == Config.mlKeyDigest &&
    Config.ed25519Verifies g.edKey g.digest g.edSig && Config.mlDsa65Verifies g.mlKey g.digest g.mlSig

/-- FIRMWARE_MEASURED (R451): a firmware core's image and its microcode blocks, in load order, are verified and measured, or the
device fails. -/
def execFirmwareMeasured (core : Nat) (images : List (List Byte)) (signed : FirmSign) (version : Nat) (s : State) :
    Host.Outcome State Fault Refusal :=
  if decide (1 < s.life.stage) || decide (8 ≤ core) then .next s
  else if !signVerifies signed (images.headD []) then .next (s.failDevice 1 core)
  else if version < Config.minVersion then .next (s.failDevice 2 core)
  else
    let m := images.foldl (fun m b => sha384 (m ++ sha384 b)) (s.life.measure.getD core (zs 48))
    let all := updAt s.life.measure core fun _ => m
    .next (s.modLife fun d => { d with
      measure := all, stage := if all.all (fun x => x != zs 48) then 2 else 1
      lowVersion := some (min (d.lowVersion.getD version) version) })

/-- CALIBRATION_DONE (R449, R455): the links have trained and memory is initialised next, or the device fails. Bit k of `detail`
then says that link k has failed lanes and runs on four at half rate. -/
def execCalibrationDone (failcode detail : Nat) (s : State) : Host.Outcome State Fault Refusal :=
  if s.life.stage != 2 then .next s
  else if failcode = 0 then
    .next (s.modLife fun d => { d with
      stage := 3, detail := 0, zeroed := 0, links := d.links.mapIdx fun k l => { l with up := true, half := detail.testBit k } })
  else if failcode = 3 || failcode = 4 then .next (s.failDevice failcode detail)
  else .next s

/-- READY (R450): memory is zero with code 0x00, tokens are at home, caches are empty and nothing is bound. Or initialisation
fails on one of the 12 stacks: a free value says which. DESIGN CHOICE: log 62. -/
def execReady (failed : Bool) (s : State) : Host.Outcome State Fault Refusal :=
  if s.life.stage != 3 then .next s
  else if failed then
    let (n, s1) := s.draw
    .next (s1.failDevice 5 (Config.freeNat n % 12))
  else if s.life.zeroed < deviceBytes then .next s
  else .next ({ s with
    clk := 0
    mem := s.mem.outside
    units := [], gangs := [], cores := State.reset.cores, drains := [], issuing := [], ir := none
    fabric := { s.fabric with lines := [], lostDir := [], lags := [], hidden := [] }
    wire := { s.wire with rings := [], ptp := 0, steps := 0 }
    fe := { s.fe with queues := [], launches := [], graphs := [] } }.modLife fun d =>
      { d with readyFlag := true, stage := 4, detail := 0 })

/-- FUNCTION_LEVEL_RESET (R450): the launches of a virtual function's queues are cancelled and the queues disabled. -/
def execFunctionLevelReset (vf : Nat) (s : State) : Host.Outcome State Fault Refusal :=
  if vf = 0 || decide (16 < vf) then .next s
  else
    let mine (q : Nat) : Bool := (s.queue q).func == vf
    let s1 := (s.fe.graphs.filter fun g => mine g.queue && !g.settled).foldl (fun s g => s.cancelGraph g.inst) s
    let s2 := (s1.fe.launches.filter fun l => mine l.queue && !l.over').foldl (fun s l => s.cancelLaunch l.key) s1
    let off (q : Queue) : Queue := if q.func == vf then { q with ctl := q.ctl &&& 0x7FFFFFFF } else q
    .next (s2.modFe fun e => { e with queues := e.queues.map off })

/-! ### Links and ports (R344, R455) -/

/-- Change a link. -/
def State.modLink (s : State) (k : Nat) (f : Link → Link) : State := s.modLife fun d => { d with links := updAt d.links k f }

/-- FLIT_REPLAY (R455). -/
def execFlitReplay (link : Nat) (s : State) : Host.Outcome State Fault Refusal :=
  .next (s.modLink link fun l => { l with replay := min 65535 (l.replay + 1) })

/-- Other members of pools fall silent or answer again, and some have been reset (R272, R277): pairs of a pool and a member.
DESIGN CHOICE: log 69. -/
def State.hearMembers (s : State) (up : Bool) (quiet reset : List (Nat × Nat)) : State :=
  let now (p : Pool) : Pool :=
    let more := (quiet.filter fun e => e.1 == p.pool && e.2 != p.self).map (·.2)
    { p with silent := ((if up then [] else p.silent) ++ more).eraseDups.filter fun m => !reset.contains (p.pool, m) }
  let heard : State := { s with fabric := { s.fabric with pools := s.fabric.pools.map now } }
  reset.foldl (fun s e => s.forgetMember e.1 e.2) heard

/-- LINK_RETRAIN (R455): what it does to the members that the link reaches comes with it. DESIGN CHOICE: log 69. -/
def execLinkRetrain (link : Nat) (half : Bool) (news : LinkNews) (s : State) : Host.Outcome State Fault Refusal :=
  .next ((s.modLink link fun l => { l with
    up := news.up, half := news.up && half, retrain := min 16383 (l.retrain + 1) }).hearMembers news.up news.quiet news.reset)

/-- LINK_STATUS_READ (R455): the read clears REPLAY. -/
def execLinkStatusRead (link : Nat) (s : State) : Host.Outcome State Fault Refusal :=
  .next (s.readBar 0 (0x600000 + 16 * link) 4)

/-- PORT_LINK_CHANGE (R344). -/
def execPortLinkChange (port : Nat) (up : Bool) (s : State) : Host.Outcome State Fault Refusal :=
  .next (s.modPort port fun p => { p with up := up })

/-! ### Power (R456) -/

/-- The mean of the samples. DESIGN CHOICE: log 50. -/
def meanOf (l : List Nat) : Nat := if l.isEmpty then 0 else l.sum / l.length

/-- What a power sample does to the power controller's state: the clock follows the 1 ms average and the temperature. -/
def DeviceLife.sampled (d : DeviceLife) (watts tj : Nat) : DeviceLife :=
  let samples := (watts :: d.samples).take 10
  let avg := meanOf samples
  let mhz := if decide (d.pwrcap < avg) || decide (100 ≤ tj) then max 850 (d.mhz - 50)
    else if decide (100 * avg ≤ 95 * d.pwrcap) && decide (d.mhz < 1700) then min 1700 (d.mhz + 50) else d.mhz
  { d with samples := samples, power := min 4095 avg, tj := min 255 tj, mhz := mhz }

/-- THERMAL_STOP (R456): every launch fails with CAUSE 0, and the device stops.
DESIGN CHOICE: log 50. -/
def execThermalStop (die : Nat) (s : State) : Host.Outcome State Fault Refusal :=
  let s1 := (s.fe.launches.filter fun l => !l.over').foldl (fun s l => s.failLaunch l.key 0 0) s
  let s2 := s1.units.foldl (fun s u => match s.unit? u.key with
    | some v => s.finishUnit v .ended
    | none => s) s1
  .next ({ s2 with issuing := [] }.failDevice 6 die)

/-- POWER_SAMPLE (R456): every 100 µs. At 110 °C the device stops: which die has reached it is a free value.
DESIGN CHOICE: log 50. -/
def execPowerSample (watts tj : Nat) (s : State) : Host.Outcome State Fault Refusal :=
  let s1 := s.modLife fun d => d.sampled watts tj
  if tj < 110 then .next s1
  else
    let (n, s2) := s1.draw
    execThermalStop (Config.freeNat n % 4) s2

end Sys2Proof.Machine
end

