-- ==== Sys2Proof/Machine/Integer.lean ====
section
/-! DEFINITION. The integer instructions (spec 06 R109 to R115). Each computes its exact value on integers and narrows
it at the end (R63, R110). -/

namespace Sys2Proof.Machine

/-! ### Shapes -/

/-- Two operands of one type and the exact value of their result (R110). -/
def intOp2 (c : Ctl) (t : ITy) (sat : Bool) (d : VReg) (a b : Src) (g : Int → Int → Int) (s : State) :
    Host.Outcome State Fault Refusal :=
  s.issue (op2 c a t.wide b t.wide true (dstRegs d (wordsOf t.wide))) <|
    fxFlags latInt d fun f => t.result sat (g (f.srcInt t a) (f.srcInt t b))

/-- Two operands of one type and the bits of their result. -/
def bitOp2 (c : Ctl) (t : ITy) (d : VReg) (a b : Src) (g : DWord → DWord → DWord) (s : State) :
    Host.Outcome State Fault Refusal :=
  s.issue (op2 c a t.wide b t.wide true (dstRegs d (wordsOf t.wide))) <|
    fxFixed latInt d fun f => regsAt t.wide (g (f.srcBits t a) (f.srcBits t b))

/-- One operand and a 32-bit count of its bits. -/
def countOp (c : Ctl) (t : ITy) (d : VReg) (a : Src) (g : Nat → DWord → Nat) (s : State) :
    Host.Outcome State Fault Refusal :=
  s.issue (op1 c a t.wide true (dstRegs d 1)) <|
    fxFixed latInt d fun f => [fresh (BitVec.ofNat 32 (g t.regBits (f.srcBits t a)))]

/-- A shift: the exact value from the operand and the unsigned amount (R110). DEDUCED: log 13. -/
def shiftOp (c : Ctl) (t : ITy) (d : VReg) (a b : Src) (g : DWord → Nat → DWord) (s : State) :
    Host.Outcome State Fault Refusal :=
  s.issue (op2 c a t.wide b false true (dstRegs d (wordsOf t.wide))) <|
    fxFixed latInt d fun f => regsAt t.wide (g (f.srcBits t a) (f.src32 b).toNat)

/-! ### Arithmetic -/

/-- IADD. -/
def execIadd (c : Ctl) (t : ITy) (sat : Bool) (d : VReg) (a b : Src) (s : State) : Host.Outcome State Fault Refusal :=
  intOp2 c t sat d a b (· + ·) s
/-- ISUB. -/
def execIsub (c : Ctl) (t : ITy) (sat : Bool) (d : VReg) (a b : Src) (s : State) : Host.Outcome State Fault Refusal :=
  intOp2 c t sat d a b (· - ·) s
/-- IMUL. -/
def execImul (c : Ctl) (t : ITy) (sat : Bool) (d : VReg) (a b : Src) (s : State) : Host.Outcome State Fault Refusal :=
  intOp2 c t sat d a b (· * ·) s
/-- IMULH. -/
def execImulh (c : Ctl) (t : ITy) (d : VReg) (a b : Src) (s : State) : Host.Outcome State Fault Refusal :=
  intOp2 c t false d a b (fun x y => (x * y) / 4294967296) s

/-- IMAD. -/
def execImad (c : Ctl) (t : ITy) (d : VReg) (a b e : Src) (s : State) : Host.Outcome State Fault Refusal :=
  s.issue (op3 c a false b false e false (dstRegs d 1)) <|
    fxFixed latInt d fun f => [fresh (bits32 (f.srcInt t a * f.srcInt t b + f.srcInt t e))]

/-- The 64-bit type of the same signedness. -/
def widen (t : ITy) : ITy := if t.signed then .i64 else .n64

/-- IMADW: c and the result are 64 bits wide. -/
def execImadw (c : Ctl) (t : ITy) (d : VReg) (a b e : Src) (s : State) : Host.Outcome State Fault Refusal :=
  s.issue (op3 c a false b false e true (dstRegs d 2)) <|
    fxFixed latInt d fun f => regs64 (bits64 (f.srcInt t a * f.srcInt t b + f.srcInt (widen t) e))

/-- The quotient of R111. -/
def divInt (t : ITy) (a b : Int) : Int := if b = 0 then (if t.signed then -1 else t.maxVal) else Int.tdiv a b
/-- The remainder of R111. -/
def remInt (a b : Int) : Int := if b = 0 then a else Int.tmod a b

/-- IDIV (R111). -/
def execIdiv (c : Ctl) (t : ITy) (d : VReg) (a b : Src) (s : State) : Host.Outcome State Fault Refusal :=
  s.issue (op2 c a t.wide b t.wide true (dstRegs d (wordsOf t.wide))) <|
    fxVar d fun f => (t.result false (divInt t (f.srcInt t a) (f.srcInt t b))).1
/-- IREM (R111). -/
def execIrem (c : Ctl) (t : ITy) (d : VReg) (a b : Src) (s : State) : Host.Outcome State Fault Refusal :=
  s.issue (op2 c a t.wide b t.wide true (dstRegs d (wordsOf t.wide))) <|
    fxVar d fun f => (t.result false (remInt (f.srcInt t a) (f.srcInt t b))).1

/-- IMIN. -/
def execImin (c : Ctl) (t : ITy) (d : VReg) (a b : Src) (s : State) : Host.Outcome State Fault Refusal :=
  intOp2 c t false d a b min s
/-- IMAX. -/
def execImax (c : Ctl) (t : ITy) (d : VReg) (a b : Src) (s : State) : Host.Outcome State Fault Refusal :=
  intOp2 c t false d a b max s

/-- IABS. -/
def execIabs (c : Ctl) (t : ITy) (sat : Bool) (d : VReg) (a : Src) (s : State) : Host.Outcome State Fault Refusal :=
  s.issue (op1 c a t.wide true (dstRegs d (wordsOf t.wide))) <|
    fxFlags latInt d fun f => t.result sat |f.srcInt t a|
/-- INEG. -/
def execIneg (c : Ctl) (t : ITy) (sat : Bool) (d : VReg) (a : Src) (s : State) : Host.Outcome State Fault Refusal :=
  s.issue (op1 c a t.wide true (dstRegs d (wordsOf t.wide))) <|
    fxFlags latInt d fun f => t.result sat (-f.srcInt t a)

/-- The carry in of R112: 0 for selector 15. DEDUCED: log 12. -/
def Fibre.carryIn (f : Fibre) (k : PReg) : Int := if k == 15 then 0 else if f.pred k then 1 else 0

/-- An add or subtract with carry (R112). DEDUCED: log 12. -/
def carryOp (c : Ctl) (d : VReg) (a b : Src) (k : PReg) (g : Int → Int → Int → Int) (s : State) :
    Host.Outcome State Fault Refusal :=
  s.issue { op2 c a false b false true (dstRegs d 1) with
      reads := a.reads 1 false true ++ b.reads 2 false true ++ [.pred k], preds := [k] } <|
    fx fun x clk f =>
      let v := g (x.f.srcInt .n32 a) (x.f.srcInt .n32 b) (x.f.carryIn k)
      let f := f.flyRegs (clk + latInt) (x.f.slotOf d.toNat) [fresh (bits32 v)]
      if k == 15 then f else f.fly (clk + latInt) (.pred k) (.bit (decide (v < 0) || decide (4294967296 ≤ v)))

/-- IADDC (R112). -/
def execIaddc (c : Ctl) (d : VReg) (a b : Src) (k : PReg) (s : State) : Host.Outcome State Fault Refusal :=
  carryOp c d a b k (fun x y z => x + y + z) s
/-- ISUBB (R112). -/
def execIsubb (c : Ctl) (d : VReg) (a b : Src) (k : PReg) (s : State) : Host.Outcome State Fault Refusal :=
  carryOp c d a b k (fun x y z => x - y - z) s

/-! ### Logic -/

/-- AND. -/
def execAnd (c : Ctl) (t : ITy) (d : VReg) (a b : Src) (s : State) : Host.Outcome State Fault Refusal :=
  bitOp2 c t d a b (· &&& ·) s
/-- OR. -/
def execOr (c : Ctl) (t : ITy) (d : VReg) (a b : Src) (s : State) : Host.Outcome State Fault Refusal :=
  bitOp2 c t d a b (· ||| ·) s
/-- XOR. -/
def execXor (c : Ctl) (t : ITy) (d : VReg) (a b : Src) (s : State) : Host.Outcome State Fault Refusal :=
  bitOp2 c t d a b (· ^^^ ·) s
/-- ANDN. -/
def execAndn (c : Ctl) (t : ITy) (d : VReg) (a b : Src) (s : State) : Host.Outcome State Fault Refusal :=
  bitOp2 c t d a b (fun x y => x &&& ~~~y) s

/-- The value of a truth table on three words, as the OR of its rows (R114). -/
def tableBits (table : Byte) (a b c : DWord) : DWord :=
  (List.range 8).foldl (fun acc i =>
    if table.getLsbD i then
      acc ||| ((if i / 4 % 2 == 1 then a else ~~~a) &&& (if i / 2 % 2 == 1 then b else ~~~b) &&&
        (if i % 2 == 1 then c else ~~~c))
    else acc) 0

/-- LOGT (R114). -/
def execLogt (c : Ctl) (t : ITy) (d : VReg) (a b e : Src) (table : Byte) (s : State) :
    Host.Outcome State Fault Refusal :=
  s.issue (op3 c a t.wide b t.wide e t.wide (dstRegs d (wordsOf t.wide))) <|
    fxFixed latInt d fun f => regsAt t.wide (tableBits table (f.srcBits t a) (f.srcBits t b) (f.srcBits t e))

/-! ### Shifts and fields -/

/-- SHL. -/
def execShl (c : Ctl) (t : ITy) (d : VReg) (a b : Src) (s : State) : Host.Outcome State Fault Refusal :=
  shiftOp c t d a b (fun x n => if t.regBits ≤ n then 0 else x <<< n) s
/-- SHR. -/
def execShr (c : Ctl) (t : ITy) (d : VReg) (a b : Src) (s : State) : Host.Outcome State Fault Refusal :=
  shiftOp c t d a b (fun x n => if t.regBits ≤ n then 0 else x >>> n) s
/-- SAR: the operand is read signed whatever the type. DEDUCED: log 13. -/
def execSar (c : Ctl) (t : ITy) (d : VReg) (a b : Src) (s : State) : Host.Outcome State Fault Refusal :=
  shiftOp c t d a b (fun x n => bits64 ((if t.wide then x.toInt else (x.setWidth 32).toInt) /
    (2 ^ min n (t.regBits - 1) : Int))) s
/-- ROT. -/
def execRot (c : Ctl) (t : ITy) (d : VReg) (a b : Src) (s : State) : Host.Outcome State Fault Refusal :=
  shiftOp c t d a b (fun x n => if t.wide then x.rotateLeft (n % 64)
    else ((x.setWidth 32).rotateLeft (n % 32)).setWidth 64) s

/-- The position of a field descriptor (R113). -/
def fieldPos (desc : Word) : Nat := (desc.extractLsb' 0 5).toNat
/-- The width of a field descriptor (R113). -/
def fieldWidth (desc : Word) : Nat := min (desc.extractLsb' 8 6).toNat (32 - fieldPos desc)

/-- The value BFX extracts (R113). -/
def bfxVal (signed : Bool) (a desc : Word) : Word :=
  let wd := fieldWidth desc
  let v := a.toNat / 2 ^ fieldPos desc % 2 ^ wd
  if wd = 0 then 0
  else if signed && decide (2 ^ (wd - 1) ≤ v) then BitVec.ofInt 32 ((v : Int) - 2 ^ wd) else BitVec.ofNat 32 v

/-- BFX (R113). -/
def execBfx (c : Ctl) (t : ITy) (d : VReg) (a b : Src) (s : State) : Host.Outcome State Fault Refusal :=
  s.issue (op2 c a false b false true (dstRegs d 1)) <|
    fxFixed latInt d fun f => [fresh (bfxVal t.signed (f.src32 a) (f.src32 b))]

/-- The value BFI inserts (R113). -/
def bfiVal (a b desc : Word) : Word :=
  let mask : Word := BitVec.ofNat 32 ((2 ^ fieldWidth desc - 1) * 2 ^ fieldPos desc)
  (a &&& ~~~mask) ||| ((b <<< fieldPos desc) &&& mask)

/-- BFI (R113). -/
def execBfi (c : Ctl) (d : VReg) (a b e : Src) (s : State) : Host.Outcome State Fault Refusal :=
  s.issue (op3 c a false b false e false (dstRegs d 1)) <|
    fxFixed latInt d fun f => [fresh (bfiVal (f.src32 a) (f.src32 b) (f.src32 e))]

/-- The number of ones in the low `n` bits. -/
def popc (n : Nat) (x : DWord) : Nat := (List.range n).countP fun i => x.getLsbD i
/-- The trailing zeros of the low `n` bits; `n` when there is no one. -/
def ctz (n : Nat) (x : DWord) : Nat := ((List.range n).find? fun i => x.getLsbD i).getD n
/-- The leading zeros of the low `n` bits; `n` when there is no one. -/
def clz (n : Nat) (x : DWord) : Nat := ((List.range n).find? fun i => x.getLsbD (n - 1 - i)).getD n

/-- POPC. -/
def execPopc (c : Ctl) (t : ITy) (d : VReg) (a : Src) (s : State) : Host.Outcome State Fault Refusal :=
  countOp c t d a popc s
/-- CLZ. -/
def execClz (c : Ctl) (t : ITy) (d : VReg) (a : Src) (s : State) : Host.Outcome State Fault Refusal :=
  countOp c t d a clz s
/-- CTZ. -/
def execCtz (c : Ctl) (t : ITy) (d : VReg) (a : Src) (s : State) : Host.Outcome State Fault Refusal :=
  countOp c t d a ctz s

/-- BREV. -/
def execBrev (c : Ctl) (t : ITy) (d : VReg) (a : Src) (s : State) : Host.Outcome State Fault Refusal :=
  s.issue (op1 c a t.wide true (dstRegs d (wordsOf t.wide))) <|
    fxFixed latInt d fun f => regsAt t.wide
      (if t.wide then (f.srcBits t a).reverse else (((f.srcBits t a).setWidth 32).reverse).setWidth 64)

/-! ### Comparison, choice and moves (R115) -/

/-- ICMP. -/
def execIcmp (c : Ctl) (cond : Cond) (t : ITy) (d : PReg) (a b : Src) (s : State) :
    Host.Outcome State Fault Refusal :=
  s.issue { op2 c a t.wide b t.wide true [] with preds := [d] } <|
    fxPred latInt d fun f => cond.holds (some (compare (f.srcInt t a) (f.srcInt t b)))

/-- SEL: the chosen value carries its code (R85). -/
def execSel (c : Ctl) (t : ITy) (d : VReg) (k : PReg) (inv : Bool) (a b : Src) (s : State) :
    Host.Outcome State Fault Refusal :=
  s.issue { op2 c a t.wide b t.wide false (dstRegs d (wordsOf t.wide)) with
      reads := a.reads 1 t.wide false ++ b.reads 2 t.wide false ++ [.pred k] } <|
    fxFixed latInt d fun f => if f.pred k != inv then f.srcRegs t a else f.srcRegs t b

/-- MOV: the code is carried (R85). -/
def execMov (c : Ctl) (t : ITy) (d : VReg) (a : Src) (s : State) : Host.Outcome State Fault Refusal :=
  s.issue (op1 c a t.wide false (dstRegs d (wordsOf t.wide))) <| fxFixed latInt d fun f => f.srcRegs t a

end Sys2Proof.Machine
end

