-- ==== Sys2Proof/Machine/Dispatch.lean ====
section
/-! DEFINITION. The dispatcher: one arm for each constructor of `Instr`, each a direct call of its meaning. -/

namespace Sys2Proof.Machine

def exec (i : Instr) (s : State) : Host.Outcome State Fault Refusal :=
  match i with
  | .packedCode code => Sys2Proof.Machine.execPackedCode code s
  | .nop stall entry => Sys2Proof.Machine.execNop stall entry s
  | .bra c t => Sys2Proof.Machine.execBra c t s
  | .brx c a => Sys2Proof.Machine.execBrx c a s
  | .call c t => Sys2Proof.Machine.execCall c t s
  | .callx c a => Sys2Proof.Machine.execCallx c a s
  | .ret c => Sys2Proof.Machine.execRet c s
  | .fork c d a b t => Sys2Proof.Machine.execFork c d a b t s
  | .fend c => Sys2Proof.Machine.execFend c s
  | .exit c => Sys2Proof.Machine.execExit c s
  | .exitSuccessor c delta => Sys2Proof.Machine.execExitSuccessor c delta s
  | .yield c => Sys2Proof.Machine.execYield c s
  | .sleepu c a => Sys2Proof.Machine.execSleepu c a s
  | .trap c a => Sys2Proof.Machine.execTrap c a s
  | .brk c a => Sys2Proof.Machine.execBrk c a s
  | .trapret c => Sys2Proof.Machine.execTrapret c s
  | .trapretResume c => Sys2Proof.Machine.execTrapretResume c s
  | .wspill c f m n => Sys2Proof.Machine.execWspill c f m n s
  | .wfill c f m n => Sys2Proof.Machine.execWfill c f m n s
  | .pset c k d a b => Sys2Proof.Machine.execPset c k d a b s
  | .pmovRd c d => Sys2Proof.Machine.execPmovRd c d s
  | .pmovWr c a => Sys2Proof.Machine.execPmovWr c a s
  | .srd c d r => Sys2Proof.Machine.execSrd c d r s
  | .swr c r a => Sys2Proof.Machine.execSwr c r a s
  | .loopd c d t => Sys2Proof.Machine.execLoopd c d t s
  | .iadd c t sat d a b => Sys2Proof.Machine.execIadd c t sat d a b s
  | .isub c t sat d a b => Sys2Proof.Machine.execIsub c t sat d a b s
  | .imul c t sat d a b => Sys2Proof.Machine.execImul c t sat d a b s
  | .imulh c t d a b => Sys2Proof.Machine.execImulh c t d a b s
  | .imad c t d a b e => Sys2Proof.Machine.execImad c t d a b e s
  | .imadw c t d a b e => Sys2Proof.Machine.execImadw c t d a b e s
  | .idiv c t d a b => Sys2Proof.Machine.execIdiv c t d a b s
  | .irem c t d a b => Sys2Proof.Machine.execIrem c t d a b s
  | .imin c t d a b => Sys2Proof.Machine.execImin c t d a b s
  | .imax c t d a b => Sys2Proof.Machine.execImax c t d a b s
  | .iabs c t sat d a => Sys2Proof.Machine.execIabs c t sat d a s
  | .ineg c t sat d a => Sys2Proof.Machine.execIneg c t sat d a s
  | .iaddc c d a b k => Sys2Proof.Machine.execIaddc c d a b k s
  | .isubb c d a b k => Sys2Proof.Machine.execIsubb c d a b k s
  | .and c t d a b => Sys2Proof.Machine.execAnd c t d a b s
  | .or c t d a b => Sys2Proof.Machine.execOr c t d a b s
  | .xor c t d a b => Sys2Proof.Machine.execXor c t d a b s
  | .andn c t d a b => Sys2Proof.Machine.execAndn c t d a b s
  | .logt c t d a b e table => Sys2Proof.Machine.execLogt c t d a b e table s
  | .shl c t d a b => Sys2Proof.Machine.execShl c t d a b s
  | .shr c t d a b => Sys2Proof.Machine.execShr c t d a b s
  | .sar c t d a b => Sys2Proof.Machine.execSar c t d a b s
  | .rot c t d a b => Sys2Proof.Machine.execRot c t d a b s
  | .bfx c t d a b => Sys2Proof.Machine.execBfx c t d a b s
  | .bfi c d a b e => Sys2Proof.Machine.execBfi c d a b e s
  | .popc c t d a => Sys2Proof.Machine.execPopc c t d a s
  | .clz c t d a => Sys2Proof.Machine.execClz c t d a s
  | .ctz c t d a => Sys2Proof.Machine.execCtz c t d a s
  | .brev c t d a => Sys2Proof.Machine.execBrev c t d a s
  | .icmp c cond t d a b => Sys2Proof.Machine.execIcmp c cond t d a b s
  | .sel c t d k inv a b => Sys2Proof.Machine.execSel c t d k inv a b s
  | .mov c t d a => Sys2Proof.Machine.execMov c t d a s
  | .fadd c t r d a b => Sys2Proof.Machine.execFadd c t r d a b s
  | .fsub c t r d a b => Sys2Proof.Machine.execFsub c t r d a b s
  | .fmul c t r d a b => Sys2Proof.Machine.execFmul c t r d a b s
  | .ffma c t r d a b e => Sys2Proof.Machine.execFfma c t r d a b e s
  | .fdiv c t r d a b => Sys2Proof.Machine.execFdiv c t r d a b s
  | .fsqrt c t r d a => Sys2Proof.Machine.execFsqrt c t r d a s
  | .fscale c t r d a b => Sys2Proof.Machine.execFscale c t r d a b s
  | .fmin c t d a b => Sys2Proof.Machine.execFmin c t d a b s
  | .fmax c t d a b => Sys2Proof.Machine.execFmax c t d a b s
  | .fcmp c cond t d a b => Sys2Proof.Machine.execFcmp c cond t d a b s
  | .fclass c t d a => Sys2Proof.Machine.execFclass c t d a s
  | .frcp c t r d a => Sys2Proof.Machine.execFrcp c t r d a s
  | .frsq c t r d a => Sys2Proof.Machine.execFrsq c t r d a s
  | .fexp2 c t r d a => Sys2Proof.Machine.execFexp2 c t r d a s
  | .flog2 c t r d a => Sys2Proof.Machine.execFlog2 c t r d a s
  | .fsin c t r d a => Sys2Proof.Machine.execFsin c t r d a s
  | .fcos c t r d a => Sys2Proof.Machine.execFcos c t r d a s
  | .ftanh c t r d a => Sys2Proof.Machine.execFtanh c t r d a s
  | .frnd c t r d a => Sys2Proof.Machine.execFrnd c t r d a s
  | .fcopys c t d a b => Sys2Proof.Machine.execFcopys c t d a b s
  | .cvtfi c t src r d a => Sys2Proof.Machine.execCvtfi c t src r d a s
  | .cvtif c t src r d a => Sys2Proof.Machine.execCvtif c t src r d a s
  | .cvtff c t src r d a => Sys2Proof.Machine.execCvtff c t src r d a s
  | .cvtl6 c j r d a b e => Sys2Proof.Machine.execCvtl6 c j r d a b e s
  | .cvt6f c j d a b => Sys2Proof.Machine.execCvt6f c j d a b s
  | .hadd2 c t r d a b => Sys2Proof.Machine.execHadd2 c t r d a b s
  | .hmul2 c t r d a b => Sys2Proof.Machine.execHmul2 c t r d a b s
  | .hfma2 c t r d a b e => Sys2Proof.Machine.execHfma2 c t r d a b e s
  | .hmnx2 c max t d a b => Sys2Proof.Machine.execHmnx2 c max t d a b s
  | .padd2 c t sat d a b => Sys2Proof.Machine.execPadd2 c t sat d a b s
  | .psub2 c t sat d a b => Sys2Proof.Machine.execPsub2 c t sat d a b s
  | .pmul2 c t sat d a b => Sys2Proof.Machine.execPmul2 c t sat d a b s
  | .pmac2 c d a b e => Sys2Proof.Machine.execPmac2 c d a b e s
  | .pmnx2 c max t d a b => Sys2Proof.Machine.execPmnx2 c max t d a b s
  | .pshr2 c arith d a b => Sys2Proof.Machine.execPshr2 c arith d a b s
  | .shrr c t nar d a b => Sys2Proof.Machine.execShrr c t nar d a b s
  | .pack2 c hi t sat d a b => Sys2Proof.Machine.execPack2 c hi t sat d a b s
  | .unpk2 c hi t d a => Sys2Proof.Machine.execUnpk2 c hi t d a s
  | .ldot4 c r d a b e => Sys2Proof.Machine.execLdot4 c r d a b e s
  | .idot4 c t sat d a b e => Sys2Proof.Machine.execIdot4 c t sat d a b e s
  | .tsync stall => Sys2Proof.Machine.execTsync stall s
  | .tslide c down t fill d a b => Sys2Proof.Machine.execTslide c down t fill d a b s
  | .tshfl c byXor t d a b e => Sys2Proof.Machine.execTshfl c byXor t d a b e s
  | .tbcast c t d a k => Sys2Proof.Machine.execTbcast c t d a k s
  | .tscan c op ex t sat r d a => Sys2Proof.Machine.execTscan c op ex t sat r d a s
  | .tred c op t sat r d a => Sys2Proof.Machine.execTred c op t sat r d a s
  | .tvote c op d a => Sys2Proof.Machine.execTvote c op d a s
  | .tballot c k d a => Sys2Proof.Machine.execTballot c k d a s
  | .tmatch c k t d a => Sys2Proof.Machine.execTmatch c k t d a s
  | .telect c d => Sys2Proof.Machine.execTelect c d s
  | .ld c t m d p => Sys2Proof.Machine.execLd c t m d p s
  | .st c t m p v => Sys2Proof.Machine.execSt c t m p v s
  | .ldv c four m d p => Sys2Proof.Machine.execLdv c four m d p s
  | .stv c four m p v => Sys2Proof.Machine.execStv c four m p v s
  | .pref c l2 hint p => Sys2Proof.Machine.execPref c l2 hint p s
  | .ldc c m d p => Sys2Proof.Machine.execLdc c m d p s
  | .stc c m p v => Sys2Proof.Machine.execStc c m p v s
  | .cderive c d a b e => Sys2Proof.Machine.execCderive c d a b e s
  | .cperm c d a b => Sys2Proof.Machine.execCperm c d a b s
  | .cget c f d a => Sys2Proof.Machine.execCget c f d a s
  | .caddr c d a b => Sys2Proof.Machine.execCaddr c d a b s
  | .cmov c d a => Sys2Proof.Machine.execCmov c d a s
  | .ctest c d a b e mask => Sys2Proof.Machine.execCtest c d a b e mask s
  | .amo c op t m d p v => Sys2Proof.Machine.execAmo c op t m d p v s
  | .cas c t m d p v => Sys2Proof.Machine.execCas c t m d p v s
  | .cas16 c m d p v => Sys2Proof.Machine.execCas16 c m d p v s
  | .amof c op m d p v => Sys2Proof.Machine.execAmof c op m d p v s
  | .fence c order scope => Sys2Proof.Machine.execFence c order scope s
  | .barinit c scope p v => Sys2Proof.Machine.execBarinit c scope p v s
  | .bararr c scope d p => Sys2Proof.Machine.execBararr c scope d p s
  | .bartx c scope d p v => Sys2Proof.Machine.execBartx c scope d p v s
  | .barwait c scope p v => Sys2Proof.Machine.execBarwait c scope p v s
  | .bartest c scope d p v => Sys2Proof.Machine.execBartest c scope d p v s
  | .mwait c ge t m d p v => Sys2Proof.Machine.execMwait c ge t m d p v s
  | .stroke c => Sys2Proof.Machine.execStroke c s
  | .lnflush c p => Sys2Proof.Machine.execLnflush c p s
  | .lninv c p => Sys2Proof.Machine.execLninv c p s
  | .lnreclaim c m d p v => Sys2Proof.Machine.execLnreclaim c m d p v s
  | .lnstat c d p => Sys2Proof.Machine.execLnstat c d p s
  | .xfer c d t b => Sys2Proof.Machine.execXfer c d t b s
  | .xtpl c a t toSide => Sys2Proof.Machine.execXtpl c a t toSide s
  | .xprom c d t b => Sys2Proof.Machine.execXprom c d t b s
  | .xwait c a => Sys2Proof.Machine.execXwait c a s
  | .xcancel c d a => Sys2Proof.Machine.execXcancel c d a s
  | .xstat c d a => Sys2Proof.Machine.execXstat c d a s
  | .crew stall h a => Sys2Proof.Machine.execCrew stall h a s
  | .mma stall t k r d fa fb s' => Sys2Proof.Machine.execMma stall t k r d fa fb s' s
  | .aclr stall d => Sys2Proof.Machine.execAclr stall d s
  | .aload stall int d p => Sys2Proof.Machine.execAload stall int d p s
  | .astore stall int d p => Sys2Proof.Machine.execAstore stall int d p s
  | .adrain stall int r d a => Sys2Proof.Machine.execAdrain stall int r d a s
  | .adrainS stall int d cap idx bar => Sys2Proof.Machine.execAdrainS stall int d cap idx bar s
  | .areduce stall int d n bar => Sys2Proof.Machine.execAreduce stall int d n bar s
  | .acmt stall d => Sys2Proof.Machine.execAcmt stall d s
  | .fqstat c d f => Sys2Proof.Machine.execFqstat c d f s
  | .fqdrop stall f => Sys2Proof.Machine.execFqdrop stall f s
  | .aroll stall d fa fb => Sys2Proof.Machine.execAroll stall d fa fb s
  | .rxtake c d r => Sys2Proof.Machine.execRxtake c d r s
  | .rxrel c r o => Sys2Proof.Machine.execRxrel c r o s
  | .txpost c d a b w => Sys2Proof.Machine.execTxpost c d a b w s
  | .txpostTs2 c d a b w => Sys2Proof.Machine.execTxpostTs2 c d a b w s
  | .txpostTs1 c d a b w h => Sys2Proof.Machine.execTxpostTs1 c d a b w h s
  | .txstat c d a => Sys2Proof.Machine.execTxstat c d a s
  | .ptprd c d => Sys2Proof.Machine.execPtprd c d s
  | .tsrec c d a => Sys2Proof.Machine.execTsrec c d a s
  | .launch c d p => Sys2Proof.Machine.execLaunch c d p s
  | .cont c delta => Sys2Proof.Machine.execCont c delta s
  | .garm c a => Sys2Proof.Machine.execGarm c a s
  | .gcond c k v => Sys2Proof.Machine.execGcond c k v s
  | .signalWrite c p v => Sys2Proof.Machine.execSignalWrite c p v s
  | .signalAdd c p v => Sys2Proof.Machine.execSignalAdd c p v s
  | .cancel c l d a => Sys2Proof.Machine.execCancel c l d a s
  | .lvlq c l d a => Sys2Proof.Machine.execLvlq c l d a s
  | .hpost c d h v => Sys2Proof.Machine.execHpost c d h v s
  | .bank c d p v => Sys2Proof.Machine.execBank c d p v s
  | .plant c d p => Sys2Proof.Machine.execPlant c d p s
  | .evsel c a b => Sys2Proof.Machine.execEvsel c a b s
  | .evrd c d a => Sys2Proof.Machine.execEvrd c d a s
  | .teamConvergenceTimeout unit team => Sys2Proof.Machine.execTeamConvergenceTimeout unit team s
  | .loadDataReturn unit fid => Sys2Proof.Machine.execLoadDataReturn unit fid s
  | .registerFill unit fid => Sys2Proof.Machine.execRegisterFill unit fid s
  | .batchRegroup core part => Sys2Proof.Machine.execBatchRegroup core part s
  | .sleepExpiry unit fid => Sys2Proof.Machine.execSleepExpiry unit fid s
  | .monitorWake unit fid => Sys2Proof.Machine.execMonitorWake unit fid s
  | .monitorRereadTimer unit fid => Sys2Proof.Machine.execMonitorRereadTimer unit fid s
  | .coherenceRequest line req write holder => Sys2Proof.Machine.execCoherenceRequest line req write holder s
  | .tokenArrival line got => Sys2Proof.Machine.execTokenArrival line got s
  | .attemptTimeout line req => Sys2Proof.Machine.execAttemptTimeout line req s
  | .persistentRequest line req => Sys2Proof.Machine.execPersistentRequest line req s
  | .persistentSatisfied line req => Sys2Proof.Machine.execPersistentSatisfied line req s
  | .activationMessage line dst => Sys2Proof.Machine.execActivationMessage line dst s
  | .ownerTimeout line => Sys2Proof.Machine.execOwnerTimeout line s
  | .l2Eviction line holder => Sys2Proof.Machine.execL2Eviction line holder s
  | .l1CopyExpiry core line => Sys2Proof.Machine.execL1CopyExpiry core line s
  | .directoryEntryFree line => Sys2Proof.Machine.execDirectoryEntryFree line s
  | .detRoundCommit launch => Sys2Proof.Machine.execDetRoundCommit launch s
  | .transferAccept core req => Sys2Proof.Machine.execTransferAccept core req s
  | .transferComplete core req => Sys2Proof.Machine.execTransferComplete core req s
  | .sequenceStampWrite core req => Sys2Proof.Machine.execSequenceStampWrite core req s
  | .fifoPushComplete core req => Sys2Proof.Machine.execFifoPushComplete core req s
  | .transferFault core req why => Sys2Proof.Machine.execTransferFault core req why s
  | .transferPageResume core req => Sys2Proof.Machine.execTransferPageResume core req s
  | .promiseExpiry core req => Sys2Proof.Machine.execPromiseExpiry core req s
  | .crewCatch core entry => Sys2Proof.Machine.execCrewCatch core entry s
  | .catchTimeout core entry => Sys2Proof.Machine.execCatchTimeout core entry s
  | .mmaPerform core => Sys2Proof.Machine.execMmaPerform core s
  | .drainArrival core drain => Sys2Proof.Machine.execDrainArrival core drain s
  | .frameLanding ring => Sys2Proof.Machine.execFrameLanding ring s
  | .frameTransmit port => Sys2Proof.Machine.execFrameTransmit port s
  | .ppsOutputSecond => Sys2Proof.Machine.execPpsOutputSecond s
  | .commandParse q => Sys2Proof.Machine.execCommandParse q s
  | .preloadComplete done => Sys2Proof.Machine.execPreloadComplete done s
  | .gangDispatch launch gang cores => Sys2Proof.Machine.execGangDispatch launch gang cores s
  | .unitRetire unit => Sys2Proof.Machine.execUnitRetire unit s
  | .launchSettle launch => Sys2Proof.Machine.execLaunchSettle launch s
  | .postCopiesDone done => Sys2Proof.Machine.execPostCopiesDone done s
  | .graphEvent inst => Sys2Proof.Machine.execGraphEvent inst s
  | .vectorTimeExpiry func vec => Sys2Proof.Machine.execVectorTimeExpiry func vec s
  | .periodStart q => Sys2Proof.Machine.execPeriodStart q s
  | .budgetExhausted q => Sys2Proof.Machine.execBudgetExhausted q s
  | .preemptionDecision launch gang => Sys2Proof.Machine.execPreemptionDecision launch gang s
  | .drainBoundExpiry launch gang => Sys2Proof.Machine.execDrainBoundExpiry launch gang s
  | .prectlCopy => Sys2Proof.Machine.execPrectlCopy s
  | .trapCoalesce unit fid => Sys2Proof.Machine.execTrapCoalesce unit fid s
  | .screenCompare unit => Sys2Proof.Machine.execScreenCompare unit s
  | .bankingStart job => Sys2Proof.Machine.execBankingStart job s
  | .bankPointsReached job => Sys2Proof.Machine.execBankPointsReached job s
  | .imageWritten job => Sys2Proof.Machine.execImageWritten job s
  | .planting job => Sys2Proof.Machine.execPlanting job s
  | .unassignedOpcode reason => Sys2Proof.Machine.execUnassignedOpcode reason s
  | .variableLatencyResult unit fid => Sys2Proof.Machine.execVariableLatencyResult unit fid s
  | .accessPerformed unit fid k => Sys2Proof.Machine.execAccessPerformed unit fid k s
  | .staleEpochDiscard line msg => Sys2Proof.Machine.execStaleEpochDiscard line msg s
  | .pcieCompletion unit fid status poisoned => Sys2Proof.Machine.execPcieCompletion unit fid status poisoned s
  | .pcieCompletionTimeout unit fid => Sys2Proof.Machine.execPcieCompletionTimeout unit fid s
  | .hostWrite addr data poisoned relaxed => Sys2Proof.Machine.execHostWrite addr data poisoned relaxed s
  | .hostRead src len => Sys2Proof.Machine.execHostRead src len s
  | .hostAtomicop op eight addr operand compare => Sys2Proof.Machine.execHostAtomicop op eight addr operand compare s
  | .patrolScrub line => Sys2Proof.Machine.execPatrolScrub line s
  | .apertureStore core offset size data => Sys2Proof.Machine.execApertureStore core offset size data s
  | .frameReceive port frame fcsBad => Sys2Proof.Machine.execFrameReceive port frame fcsBad s
  | .ppsInputEdge => Sys2Proof.Machine.execPpsInputEdge s
  | .qkick q size offset v => Sys2Proof.Machine.execQkick q size offset v s
  | .qstatErrClear q v => Sys2Proof.Machine.execQstatErrClear q v s
  | .qctl func q v => Sys2Proof.Machine.execQctl func q v s
  | .qperQbudWrite q bud v => Sys2Proof.Machine.execQperQbudWrite q bud v s
  | .qres q v => Sys2Proof.Machine.execQres q v s
  | .ovcntClear q => Sys2Proof.Machine.execOvcntClear q s
  | .hrhead func ring v => Sys2Proof.Machine.execHrhead func ring v s
  | .ivctl func vec v => Sys2Proof.Machine.execIvctl func vec v s
  | .prectl v => Sys2Proof.Machine.execPrectl v s
  | .trapRecordDisposal core answer debugger => Sys2Proof.Machine.execTrapRecordDisposal core answer debugger s
  | .scrctl v => Sys2Proof.Machine.execScrctl v s
  | .pageCarriage ctx page data => Sys2Proof.Machine.execPageCarriage ctx page data s
  | .moveReport launch done => Sys2Proof.Machine.execMoveReport launch done s
  | .attestationReport => Sys2Proof.Machine.execAttestationReport s
  | .certificateChain => Sys2Proof.Machine.execCertificateChain s
  | .mailboxCancel => Sys2Proof.Machine.execMailboxCancel s
  | .mailboxMap => Sys2Proof.Machine.execMailboxMap s
  | .mailboxUnmap => Sys2Proof.Machine.execMailboxUnmap s
  | .hostWindowEntry => Sys2Proof.Machine.execHostWindowEntry s
  | .poolTable => Sys2Proof.Machine.execPoolTable s
  | .memberAdd => Sys2Proof.Machine.execMemberAdd s
  | .memberRemove => Sys2Proof.Machine.execMemberRemove s
  | .ownerTimeOutSet => Sys2Proof.Machine.execOwnerTimeOutSet s
  | .flowEntry => Sys2Proof.Machine.execFlowEntry s
  | .clockSource => Sys2Proof.Machine.execClockSource s
  | .clockStep => Sys2Proof.Machine.execClockStep s
  | .portReset => Sys2Proof.Machine.execPortReset s
  | .mailboxBank => Sys2Proof.Machine.execMailboxBank s
  | .mailboxPlant => Sys2Proof.Machine.execMailboxPlant s
  | .move => Sys2Proof.Machine.execMove s
  | .release => Sys2Proof.Machine.execRelease s
  | .checkpoint => Sys2Proof.Machine.execCheckpoint s
  | .readLog => Sys2Proof.Machine.execReadLog s
  | .readCounters => Sys2Proof.Machine.execReadCounters s
  | .pwrcap v => Sys2Proof.Machine.execPwrcap v s
  | .registerWrite func offset size v => Sys2Proof.Machine.execRegisterWrite func offset size v s
  | .powerSample watts tj => Sys2Proof.Machine.execPowerSample watts tj s
  | .thermalStop die => Sys2Proof.Machine.execThermalStop die s
  | .moduleReset => Sys2Proof.Machine.execModuleReset s
  | .firmwareMeasured core images signed version => Sys2Proof.Machine.execFirmwareMeasured core images signed version s
  | .calibrationDone failcode detail => Sys2Proof.Machine.execCalibrationDone failcode detail s
  | .ready failed => Sys2Proof.Machine.execReady failed s
  | .functionLevelReset vf => Sys2Proof.Machine.execFunctionLevelReset vf s
  | .flitReplay link => Sys2Proof.Machine.execFlitReplay link s
  | .linkRetrain link half news => Sys2Proof.Machine.execLinkRetrain link half news s
  | .portLinkChange port up => Sys2Proof.Machine.execPortLinkChange port up s
  | .lineStateStoreFault line => Sys2Proof.Machine.execLineStateStoreFault line s
  | .storedWordError site flip codeFlip => Sys2Proof.Machine.execStoredWordError site flip codeFlip s
  | .debuggerAction core act => Sys2Proof.Machine.execDebuggerAction core act s
  | .mailboxUnknownCommand core => Sys2Proof.Machine.execMailboxUnknownCommand core s
  | .hrctl func ring v => Sys2Proof.Machine.execHrctl func ring v s
  | .linkStatusRead link => Sys2Proof.Machine.execLinkStatusRead link s
  | .msixVectorUnmask func vec => Sys2Proof.Machine.execMsixVectorUnmask func vec s
  | .hostConfigRequest ask => Sys2Proof.Machine.execHostConfigRequest s ask

end Sys2Proof.Machine
end

