-- ==== Sys2Proof/Machine/Cycle.lean ====
section
/-! DEFINITION. The running of the machine (spec 01 R6, 05 R65 to R72): what happens of itself, the passing of one cycle of the
arithmetic clock, and the issue of the next fibre of a cycle. The spec gives no order among the events that may happen at
once: a free value chooses one, or the end of the cycle. -/

namespace Sys2Proof.Machine

/-! ### What may happen of itself -/

/-- Something that may happen before the cycle ends: an event inside the device, the service of a firmware core's mailbox,
or the acceptance of an instruction that waits for room. -/
inductive Chore where
  | event (i : Instr)
  | mail (core : Nat)
  | accept (unit fid : Nat)
  deriving DecidableEq, Repr

/-- An event for each that holds. -/
def evIf (b : Bool) (i : Instr) : List Chore := if b then [.event i] else []

/-- What brings an access of a requester nearer to the tokens it needs (R201, R202). -/
def State.seekTokens (s : State) (n req : Nat) (write : Bool) : List Chore :=
  let number := reqNumber n req
  match (s.line n).attempt? req with
  | none => [.event (.coherenceRequest n number write none)]
  | some a => if write && !a.write then [.event (.coherenceRequest n number true none)] else [.event (.attemptTimeout n number)]

/-- What may happen to an accepted access of a fibre. -/
def State.reqChores (s : State) (u : Unit) (fid k : Nat) (r : Req) : List Chore :=
  let n := r.key / 64
  let req := s.reqOf (s.line n) (dieOf u.core)
  if r.sent then []
  else if s.tokensFor req r || u.phantom r.key then [.event (.accessPerformed u.key fid k)]
  else s.seekTokens n req true

/-- What may end a fibre's wait; in a DET launch acceptance comes as a round begins (R237). -/
def State.waitChores (s : State) (u : Unit) (f : Fibre) : List Chore :=
  match f.wait with
  | some (.load _ key _ _) =>
    let n := key / 64
    let l := s.line n
    let req := s.reqOf l (dieOf u.core)
    if !tokenKey key || l.lost || l.poisoned || l.canRead req then [.event (.loadDataReturn u.key f.fid)]
    else s.seekTokens n req false
  | some (.fill _) => [.event (.registerFill u.key f.fid)]
  | some (.monitor _ true _) => [.event (.monitorWake u.key f.fid)]
  | some (.trapped _ _ _) => [.event (.trapCoalesce u.key f.fid)]
  | some (.accept (.xfer _ _ _ _) n) => if s.detOf u then [] else [.event (.transferAccept u.core n)]
  | some (.accept _ _) => if s.detOf u then [] else [.accept u.key f.fid]
  | _ => []

/-- What may happen to a fibre. -/
def State.fibreChores (s : State) (u : Unit) (f : Fibre) : List Chore :=
  evIf (f.pending.any fun p => p.val.isSome) (.variableLatencyResult u.key f.fid) ++
    (if f.live then s.waitChores u f else []) ++ (f.outst.mapIdx fun k r => s.reqChores u f.fid k r).flatten

/-- What may happen to a unit. -/
def State.unitChores (s : State) (u : Unit) : List Chore :=
  u.fibres.flatMap (s.fibreChores u) ++ evIf (u.ending || !u.fibres.any Fibre.live) (.unitRetire u.key)

/-- What may happen to a line of spaces 0 and 5 (R200 to R206). -/
def State.lineChores (s : State) (l : Line) : List Chore :=
  let number := reqNumber l.line
  (l.msgs.map fun m => Chore.event (.tokenArrival l.line { id := m.id })) ++
    ((l.asks.filter fun a => s.askReaches l a.2.2).map fun a =>
      Chore.event (.coherenceRequest l.line (number a.1) a.2.1 (a.2.2.map number))) ++
    (if s.homeAnswers l then l.pleas.map fun r => Chore.event (.persistentRequest l.line (number r)) else []) ++
    (l.actMsgs.map fun m => Chore.event (.activationMessage l.line ⟨number m.dst, m.num⟩)) ++
    (match l.active with
      | some r => evIf (((l.attempt? r).map fun a => l.holds r a.write).getD true) (.persistentSatisfied l.line (number r))
      | none => []) ++
    ((l.holders.filter fun h => h.tokens != 0).map fun h => Chore.event (.l2Eviction l.line (number h.req))) ++
    evIf (s.entryFrees l) (.directoryEntryFree l.line)

/-- What may happen in a core's engines and its L1. -/
def Core.chores (c : Core) : List Chore :=
  (c.apWait.map fun a => Chore.event (.transferAccept c.idx a.seq)) ++
    ((c.loadQ ++ c.storeQ).flatMap fun r =>
      evIf r.fault.isSome (.transferPageResume c.idx r.id) ++
        (if r.written then [.event (.sequenceStampWrite c.idx r.id)]
         else [.event (.transferComplete c.idx r.id), .event (.fifoPushComplete c.idx r.id)])) ++
    (c.matrix.latch.map fun q => Chore.event (.crewCatch c.idx q.num)) ++
    evIf (!c.matrix.ops.isEmpty) (.mmaPerform c.idx) ++ (c.lateTraps.map fun t => Chore.event (.trapCoalesce t.unit t.fid)) ++
    (c.l1.map fun x => Chore.event (.l1CopyExpiry c.idx x.line))

/-- What may happen in the wire engine. -/
def Wire.chores (w : Wire) : List Chore :=
  (w.rings.flatMap fun r => evIf (!r.landings.isEmpty) (.frameLanding r.idx)) ++
    (w.ports.mapIdx fun i p => evIf (!p.posts.isEmpty || p.sending.isSome) (.frameTransmit i)).flatten

/-- The ways in which gangs of a launch may start (R392). DESIGN CHOICE: log 63. -/
def State.dispatchChores (s : State) (l : Launch) : List Chore :=
  ((s.freeConts l).map fun n => Chore.event (.gangDispatch l.key (n.1 / max l.part.gang 1) [])) ++
    (match s.nextGang l with
      | none => []
      | some g => (List.range 24).filterMap fun cl =>
        (s.choice l (l.gangNos g) cl).map fun cs => Chore.event (.gangDispatch l.key g cs))

/-- What may happen to a launch. -/
def State.launchChores (s : State) (l : Launch) : List Chore :=
  (match l.stage with
    | .preload => [.event (.preloadComplete { launch := l.key })]
    | .ready => evIf (decide (l.part.grid ≤ l.gone)) (.launchSettle l.key)
    | .posting => []
    | _ => [.event (.postCopiesDone { launch := l.key })]) ++
  s.dispatchChores l ++ evIf l.det (.detRoundCommit l.key)

/-- What may happen in the front end and the banking engine. -/
def State.frontChores (s : State) : List Chore :=
  (s.fe.queues.flatMap fun q => evIf (s.parses q) (.commandParse q.idx)) ++ s.fe.launches.flatMap s.launchChores ++
    (s.fe.graphs.map fun g => Chore.event (.graphEvent g.inst)) ++
    ((s.cands.filter fun c => s.timely c.queue && (s.room c).isNone).map fun c =>
      Chore.event (.preemptionDecision c.launch c.gang)) ++
    s.bank.jobs.flatMap fun j =>
      evIf (j.step == 0) (.bankPointsReached j.num) ++ evIf (j.step == 1 && j.dest.isSome) (.imageWritten j.num) ++
        evIf j.ready (.planting j.num)

/-- Everything that may happen of itself in a state. DESIGN CHOICE: log 2. -/
def State.chores (s : State) : List Chore :=
  s.units.flatMap s.unitChores ++ s.fabric.lines.flatMap s.lineChores ++ s.cores.flatMap Core.chores ++
    (s.drains.map fun d => Chore.event (.drainArrival (((s.drainUnit d).map Unit.core).getD 0) d.num)) ++
    s.wire.chores ++ s.frontChores ++
    (s.life.mailboxes.mapIdx fun i m => if m.busy then [Chore.mail i] else []).flatten

/-! ### Doing it -/

/-- A firmware core serves the command in its mailbox (R453). DESIGN CHOICE: log 46. -/
def State.serveMail (s : State) (core : Nat) : Host.Outcome State Fault Refusal :=
  match core, field (s.mailbox core).req 0 1 with
  | 0, 0x01 => execAttestationReport s
  | 0, 0x02 => execCertificateChain s
  | 1, 0x10 => execMailboxCancel s
  | 3, 0x30 => execMailboxMap s
  | 3, 0x31 => execMailboxUnmap s
  | 3, 0x32 => execHostWindowEntry s
  | 4, 0x40 => execReadLog s
  | 4, 0x41 => execReadCounters s
  | 5, 0x50 => execPoolTable s
  | 5, 0x51 => execMemberAdd s
  | 5, 0x52 => execMemberRemove s
  | 5, 0x53 => execOwnerTimeOutSet s
  | 6, 0x60 => execFlowEntry s
  | 6, 0x61 => execClockSource s
  | 6, 0x62 => execClockStep s
  | 6, 0x63 => execPortReset s
  | 7, 0x70 => execMailboxBank s
  | 7, 0x71 => execMailboxPlant s
  | 7, 0x72 => execMove s
  | 7, 0x73 => execRelease s
  | 7, 0x74 => execCheckpoint s
  | n, _ => execMailboxUnknownCommand n s

/-- Whether a fibre waits for acceptance. -/
def Fibre.asks (f : Fibre) : Bool := match f.wait with | some (.accept _ _) => true | _ => false

/-- Perform the instruction of a fibre that waits for acceptance, if there is room for it now. -/
def State.tryAccept (s : State) (unit fid : Nat) : Option State :=
  match s.live? unit fid with
  | none => none
  | some (_, f) => match f.wait with
    | some (.accept i _) =>
      match exec i { s.modFibre unit fid (fun f => { f with wait := none }) with cur := (unit, fid) } with
      | .next t =>
        if ((t.unit? unit).bind fun u => u.fibre? fid).any Fibre.asks then none else some t
      | _ => none
    | _ => none

/-- The kind of room that an instruction waits for: a transmit queue, a host ring or a launch (R344, R370, R383). -/
def roomKind (i : Instr) : Nat :=
  match i with
  | .txpost _ _ _ _ _ => 1
  | .txpostTs2 _ _ _ _ _ => 1
  | .txpostTs1 _ _ _ _ _ _ => 1
  | .hpost _ _ _ _ => 2
  | .launch _ _ _ => 3
  | _ => 0

/-- The fibres that wait for the same kind of room and came before one. -/
def State.askedBefore (s : State) (i : Instr) (n : Nat) : List (Nat × Nat) :=
  s.units.flatMap fun u => u.fibres.filterMap fun f => match f.wait with
    | some (.accept j m) => if f.live && roomKind i == roomKind j && decide (m < n) then some (u.key, f.fid) else none
    | _ => none

/-- Accept the instruction of a waiting fibre, where none that came before it has room (R279, R344, R383). -/
def State.acceptNow (s : State) (unit fid : Nat) : State :=
  match s.live? unit fid with
  | none => s
  | some (_, f) => match f.wait with
    | some (.accept i n) =>
      if (s.askedBefore i n).any fun e => (s.tryAccept e.1 e.2).isSome then s else (s.tryAccept unit fid).getD s
    | _ => s

/-- Do one of the things that may happen. -/
def State.doChore (s : State) (c : Chore) : Host.Outcome State Fault Refusal :=
  match c with
  | .event i => exec i s
  | .mail n => s.serveMail n
  | .accept k f => .next (s.acceptNow k f)

/-! ### A cycle ends -/

/-- The time-outs of a fibre that are due (R101, R188, R256, R261). -/
def State.fibreDue (s : State) (u : Unit) (f : Fibre) : List Instr :=
  (if s.cplLate u f then [.pcieCompletionTimeout u.key f.fid] else []) ++
  ((s.reclaimsLate f).map fun r => Instr.ownerTimeout (r.key / 64)) ++
  match f.wait with
  | some (.sleep till _) => if till ≤ s.clk then [.sleepExpiry u.key f.fid] else []
  | some (.monitor key false since) => if since + rereadTime key ≤ s.time then [.monitorRereadTimer u.key f.fid] else []
  | _ => []

/-- The teams of a unit of which some member has waited too long (R80). -/
def State.teamsDue (s : State) (u : Unit) : List Instr :=
  ((List.range (u.desc.fibres / u.desc.team)).filter fun t => !(s.stalledAt u t).isEmpty).map fun t =>
    Instr.teamConvergenceTimeout u.key t

/-- The bounds of a core's requests that have passed (R293, R313). -/
def State.coreDue (s : State) (c : Core) : List Instr :=
  ((c.loadQ ++ c.storeQ).filterMap fun r =>
    if !r.late && decide (r.promise ≤ s.clk) then some (Instr.promiseExpiry c.idx r.id) else none) ++
  (c.matrix.latch.filterMap fun q =>
    if q.since + Config.stallBound ≤ s.clk then some (Instr.catchTimeout c.idx q.num) else none) ++
  c.l1.filterMap fun x => if x.filled + Config.l1Life ≤ s.time then some (Instr.l1CopyExpiry c.idx x.line) else none

/-- The bounds of a line that have passed (R202, R205). -/
def State.lineDue (s : State) (l : Line) : List Instr :=
  (l.attempts.filterMap fun a =>
    if !a.persistent && decide (a.sent + Config.attemptTime ≤ s.time) then some (Instr.attemptTimeout l.line (reqNumber l.line a.req))
    else none) ++
  match l.active, l.timer with
  | some _, some t => if t ≤ s.time then [.ownerTimeout l.line] else []
  | _, _ => []

/-- The times of the front end that have come (R380, R390, R393, R397, R398). DEDUCED: log 39. -/
def State.frontDue (s : State) : List Instr :=
  (s.fe.vecs.filterMap fun v =>
    if v.timeDue s.time && !(v.masked && v.pbit) then some (Instr.vectorTimeExpiry v.func v.idx) else none) ++
  (s.fe.queues.flatMap fun q =>
    (if q.timed && decide (q.periodEnd ≤ s.time) then [Instr.periodStart q.idx] else []) ++
    if q.timed && q.budget == 0 && !q.overrun && s.coresOf q.idx != 0 then [Instr.budgetExhausted q.idx] else []) ++
  (s.gangs.filterMap fun g => match g.drainTill with
    | some t => if t ≤ s.time then some (Instr.drainBoundExpiry g.launch g.idx) else none
    | none => none) ++
  (s.fe.waitingGangs.flatMap s.waitingDue) ++
  if s.fe.prectl != s.fe.prectlCopy then [Instr.prectlCopy] else []

/-- The landings and the frames whose time has come (R349). DESIGN CHOICE: log 2. -/
def State.wireDue (s : State) : List Instr :=
  let evIf' (b : Bool) (port : Nat) : List Instr := if b then [.frameTransmit port] else []
  (s.wire.rings.filterMap fun r => match r.landings with
    | l :: _ => if l.since + Config.landBound ≤ s.clk then some (Instr.frameLanding r.idx) else none
    | [] => none) ++
  (s.wire.ports.mapIdx fun i p => match p.sending, p.posts with
    | some _, _ => evIf' (decide (p.freeAt ≤ s.clk)) i
    | none, x :: _ => evIf' (p.up && decide (max (x.made + Config.sendBound) p.freeAt ≤ s.clk)) i
    | none, [] => []).flatten

/-- The units that a save waits for in the second half of its time (R398). -/
def State.hurried (s : State) : List Unit :=
  s.units.filter fun u => !u.shadow && s.bank.jobs.any fun j => j.dest.isNone && j.step == 0 && j.launch == u.launch &&
    j.gangs.contains u.gang && decide (j.since + Config.saveBound / 2 ≤ s.clk)

/-- What lies between a unit and its bank points (R398, R416): its fibres' accesses and results, what its engines have under
way, and the lines that these wait for. DESIGN CHOICE: log 2. -/
def State.hurryUnit (s : State) (u : Unit) : List Chore :=
  let awaited (f : Fibre) : List Nat := (f.outst.map fun r => r.key / 64) ++
    (match f.wait with | some (.load _ key _ _) => [key / 64] | _ => [])
  let lines := u.fibres.flatMap awaited
  (s.fabric.lines.filter fun l => lines.contains l.line).flatMap s.lineChores ++ s.unitChores u ++
    (((s.requestsOf u).filter XReq.written).map fun r => Chore.event (.sequenceStampWrite u.core r.id)) ++
    evIf ((s.matrix u.core).ops.any fun o => o.unit == u.key) (.mmaPerform u.core) ++
    ((s.drains.filter fun d => d.sender == u.key && !d.buffered).map fun d =>
      Chore.event (.drainArrival (((s.drainUnit d).map Unit.core).getD 0) d.num)) ++
    ((s.wire.rings.filter fun r => r.unit == some u.key).map fun r => Chore.event (.frameLanding r.idx)) ++
    (s.wire.ports.mapIdx fun i p => evIf (p.sending.any fun x => x.post.unit == u.key) (.frameTransmit i)).flatten

/-- How much longer than its bound a save of images of more than 2 MiB a unit may take, in cycles: 3 ns for each KiB (R398). -/
def State.saveExtra (s : State) (j : BankJob) : Nat :=
  match s.launch? j.launch with
  | none => 0
  | some l =>
    let us := s.bankUnits l j.gangs
    ((s.formImage l us j.whole).length - us.length * 2 ^ 21) / 1024 * 51 / 10

/-- What the bound of a save makes happen (R398): its units hurry to their bank points, and at the bound their state is copied
if they stand there. DESIGN CHOICE: log 2. -/
def State.saveDue (s : State) : List Instr :=
  (s.hurried.flatMap s.hurryUnit).filterMap (fun c => match c with | .event i => some i | _ => none) ++
  s.bank.jobs.filterMap fun j =>
    if j.dest.isNone && j.step == 0 && decide (j.since + Config.saveBound ≤ s.clk) && decide (j.since + Config.saveBound +
        s.saveExtra j ≤ s.clk) then some (Instr.bankPointsReached j.num) else none

/-- What a gang that waits for cores makes happen to units that are being ended there (R372, R394): they hurry to their bank
points and leave. DESIGN CHOICE: log 2. -/
def State.endDue (s : State) : List Instr :=
  if s.pressed then
    let us := s.units.filter fun u => u.ending && !u.shadow
    (us.flatMap s.hurryUnit).filterMap (fun c => match c with | .event i => some i | _ => none) ++
      us.map fun u => .unitRetire u.key
  else []

/-- Everything whose time has come. DESIGN CHOICE: log 2. -/
def State.due (s : State) : List Instr :=
  (s.units.flatMap fun u => (u.fibres.filter Fibre.live).flatMap (s.fibreDue u) ++ s.teamsDue u) ++
    s.cores.flatMap s.coreDue ++ s.fabric.lines.flatMap s.lineDue ++ s.frontDue ++ s.wireDue ++ s.saveDue ++ s.endDue

/-- The clocks after one cycle of the arithmetic clock (R17, R346, R456): `$clk`, device time, the PTP time, the budgets and
the counters of cycles. -/
def State.advance (s : State) : State :=
  let dt := (65536000 + s.timeRem) / s.life.mhz
  let wire := s.wire.goOn dt
  let second := wire.ptp.extractLsb' 48 48 != s.wire.ptp.extractLsb' 48 48
  let s1 := { s.drawBudgets dt with
    clk := s.clk + 1, time := s.time + dt, timeRem := (65536000 + s.timeRem) % s.life.mhz
    wire := wire }.dropLags
  let tick (x : Counter) : Counter := if x.sel == 0x0001 then { x with val := x.val + 1 } else x
  let s2 := { s1 with
    cores := s1.cores.map fun c => { c with counters := c.counters.map tick }
    life := { s1.life with
      dieCounters := s1.life.dieCounters.map tick
      zeroed := s1.life.zeroed + (if s1.life.stage = 3 then 57600 * dt / 65536 else 0) } }
  if second then { s2 with agenda := s2.agenda ++ [.ppsOutputSecond] } else s2

/-- The fibres that stopped at bank points for a banking that is over go on. -/
def State.freeStopped (s : State) : State :=
  let held (u : Unit) : Bool := s.gangs.any fun g =>
    g.launch == u.launch && g.idx == u.gang && g.shadow == u.shadow && g.banking != 0
  s.wakeWhere fun u w => w == .stopped && !held u && !u.ending

/-- The partitions of a core in which some unit has a seat. DESIGN CHOICE: log 49. -/
def State.seatedParts (s : State) (core : Nat) : List Nat := ((s.unitsOn core).flatMap fun u => u.seats.map (·.1)).eraseDups

/-- The regroups that every fourth cycle brings (R69). -/
def State.regroups (s : State) : State :=
  if s.clk % 4 != 0 then s
  else (List.range Config.cores).foldl (fun s c => (s.seatedParts c).foldl (fun s p => s.regroup c p) s) s

/-- Accept the requests of a DET launch's fibres that have room as a round begins, in the order of their linear index (R235,
R237). -/
def State.acceptRound (s : State) (l : Launch) : State :=
  (detFibres (s.detUnits l) Fibre.asks).foldl (fun s e => match s.live? e.1 e.2 with
    | none => s
    | some (u, f) => match f.wait with
      | some (.accept (.xfer _ _ _ _) n) => (match exec (.transferAccept u.core n) s with
        | .next t => t
        | _ => s)
      | _ => s.acceptNow e.1 e.2) s

/-- Begin the rounds whose due units are resident (R236). -/
def State.beginRounds (s : State) : State :=
  (s.fe.launches.filter fun l => l.det && l.stage == .ready && !l.begun && !l.committing).foldl (fun s l =>
    if s.roundReady l then (s.acceptRound l).beginRound l else s) s

/-- Whether the device runs: it is ready and has not stopped (R449, R456). -/
def State.running (s : State) : Bool := s.life.readyFlag && s.life.stage != 7

/-- One cycle ends and the next begins: what is due happens next, and then the fibres of the new batches issue.
DESIGN CHOICE: log 3. -/
def State.tick (s : State) : State :=
  let s1 := s.advance.freeStopped.keepWaiting
  let s2 := { s1 with agenda := s1.agenda ++ s1.due }
  if !s2.running then s2
  else
    let s3 := s2.beginRounds.regroups
    let s4 := (List.range Config.cores).foldl (fun s c => if (s.unitsOn c).isEmpty then s else s.issueCore c) s3
    { s4 with issuing := s4.issuing ++ s4.convergedTeams }

/-- One thing happens of itself, or the cycle ends: a free value chooses. DESIGN CHOICE: log 2. -/
def State.housekeep (s : State) : Host.Outcome State Fault Refusal :=
  let (n, s1) := s.draw
  let cs := s1.chores
  match cs[Config.freeNat n % (cs.length + 1)]? with
  | some c => s1.doChore c
  | none => .next s1.tick

/-! ### Issue -/

/-- Whether a word is an `MMA.l6` whose scales field the issuing fibre's team width does not admit (R62, R316): reason 7,
which decoding cannot find without the width. -/
def State.scalesWord (s : State) (w : IWord) : Bool :=
  let r := unpack w
  r.op == 0xD1 && r.ty == 11 && (r.sc.rsrc?.any fun n =>
    scaleBad (((s.current?).map fun e => e.1.desc.team).getD 0) (.reg n))

/-- Decode a word and run it: a word that is no instruction traps with the smallest reason that applies (R45, R62). -/
def execWord (w : IWord) (pair : Bool) (s : State) : Host.Outcome State Fault Refusal :=
  match decode w pair with
  | .ok i => exec i s
  | .illegal r => exec (.unassignedOpcode (if s.scalesWord w && decide (7 < r) then 7 else r)) s

/-- Run a packed code (R40): its dictionary word is found, and then decoded and run. -/
def execCode (code : BitVec 16) (s : State) : Host.Outcome State Fault Refusal :=
  match exec (.packedCode code) s with
  | .next s1 => match s1.ir with
    | some (w, p) => execWord w p { s1 with ir := none }
    | none => .next s1
  | .fault e => .fault e
  | .refused e => .refused e

/-- Count and log the corrections of a line that a fibre fetches (R195). -/
def State.noteFetch (s : State) (u : Unit) (f : Fibre) : State :=
  if s.mem.synd.isEmpty then s
  else match s.vaKey (s.ctxOf u) (lineAddr f.pc) rightX with
    | some k => s.noteRange s.mem u.core k 64
    | none => s

/-- Run the instruction at the PC of the fibre that issues. -/
def State.runCur (s : State) (u : Unit) (f : Fibre) : Host.Outcome State Fault Refusal :=
  let s1 := s.noteFetch u f
  match s.fetch u f with
  | .error t => .next (s1.takeTrap u.key f.fid t)
  | .ok (.word w p) => execWord w p s1
  | .ok (.packed code) => execCode code s1

/-- Whether a fibre of a unit may issue: it is not held by its stall count, it waits for nothing but its team, and at the commit
of a round it is one that the commit has passed (R235). -/
def State.mayIssue (s : State) (u : Unit) (f : Fibre) : Bool :=
  decide (f.ready ≤ s.clk) && s.takesPart u &&
    (f.stroke.pass || !((s.launch? u.launch).any Launch.committing)) &&
    (match f.wait with
      | none => true
      | some (.team _ _) => true
      | _ => false)

/-- Whether a unit's gang is being banked (R416). -/
def State.bankingOf (s : State) (u : Unit) : Bool := s.gangs.any fun g =>
  g.launch == u.launch && g.idx == u.gang && g.shadow == u.shadow && g.banking != 0

/-- Wake the fibres that wait on a barrier object whose phase is no longer theirs, whatever wrote it (R252); one whose object
cannot be read any more reads it again, and traps. DESIGN CHOICE: log 57. -/
def State.wakePhases (s : State) : State :=
  let flipped (w : Wait) : Option Bool := match w with
    | .barrier key phase =>
      if (s.mem.badWord key 8).isSome then some false
      else if (s.mem.dword key).getLsbD 63 != phase then some true else none
    | _ => none
  if s.units.any fun u => !s.detOf u && u.fibres.any fun f => (f.wait.bind flipped).isSome then
    { s with units := s.units.map fun u =>
      if s.detOf u then u
      else { u with fibres := u.fibres.map fun f => match f.wait.bind flipped with
        | some seen => { f with wait := none, served := seen }
        | none => f } }
  else s

/-- Settle the register rows of units after a step from `s0` (R74, R78), and the waits on barrier objects (R252) and on
results before a handler (R56). -/
def settled (s0 : State) (us : List Nat) (r : Host.Outcome State Fault Refusal) : Host.Outcome State Fault Refusal :=
  match r with
  | .next s => .next (us.foldl (fun s k => s.settleRows s0 k) s).wakePhases.startHandlers
  | .fault e => .fault e
  | .refused e => .refused e

/-- The next fibre of the cycle issues: an ending unit's fibre ends at a bank point (R372), and one of a gang that is banked
stops there (R416); before a marked slot it waits for the results that are in flight (R415). -/
def State.issueFibre (s : State) (e : Nat × Nat) : Host.Outcome State Fault Refusal :=
  match s.live? e.1 e.2 with
  | none => .next s
  | some (u, f) =>
    if !s.mayIssue u f then .next s
    else if u.ending && s.atBankPoint u f then
      .next ((s.modFibre e.1 e.2 Fibre.end).modUnit e.1 fun v => { v with ended := v.ended + 1 })
    else if s.bankingOf u && s.atBankPoint u f then
      .next (if f.wait.isNone then s.modFibre e.1 e.2 fun f => { f with wait := some .stopped } else s)
    else if (u.ending || s.bankingOf u) && s.onMark u f && !f.stroke.pass then .next s
    else settled s [e.1] ({ s with cur := e }.runCur u f)

/-- Settle the register rows of every unit after a step from `s0` (R74, R78). -/
def settledAll (s0 : State) (r : Host.Outcome State Fault Refusal) : Host.Outcome State Fault Refusal :=
  match r with
  | .next s => settled s0 (s.units.map Unit.key) (.next s)
  | .fault e => .fault e
  | .refused e => .refused e

/-- The launch whose round is being committed and can go on (R235), if there is one: what the commit has passed has issued, or
may issue now. -/
def State.committing? (s : State) : Option Launch :=
  s.fe.launches.find? fun l => l.committing && ((s.passing l).isEmpty || !(s.passable l).isEmpty)

/-- One step: the next event of the agenda; else the next fibre of the cycle; else the commit of a round that is under way;
else something that happens of itself or the end of the cycle. DESIGN CHOICE: log 2 and 4. -/
def State.stepOnce (s : State) : Host.Outcome State Fault Refusal :=
  match s.agenda with
  | i :: rest => settledAll s (exec i { s with agenda := rest })
  | [] => match s.issuing with
    | e :: rest => { s with issuing := rest }.issueFibre e
    | [] => match s.committing? with
      | some l => settledAll s (exec (.detRoundCommit l.key) s)
      | none => settledAll s s.housekeep

end Sys2Proof.Machine
end

