-- ==== Sys2Proof/Machine/Load.lean ====
section
/-! DEFINITION. How an instruction word is put where the machine fetches its next instruction: it stands for the loading of a
program and the dispatch of a unit, which no step from reset performs without the host. -/

namespace Sys2Proof.Machine

/-- The descriptor of the kernel that a placed word belongs to: a team of eight, with the matrix engine. -/
def loadDesc : KDesc :=
  { addr := 0, teamLog2 := 3, matrix := true, front := true, idemp := false, det := false, dict := false, hasHandler := false
    fibres := 8, frame := 64, frameMax := 63, stack := 1024, args := 0, scratch := 4096, shelf := 0, handlerBr := 0
    dictAddr := 0, tplAddr := 0, layAddr := 0, funcId := 0 }

/-- A launch part with nothing bound. -/
def loadPart : LaunchPart :=
  { raw := [], kdesc := 0, grid := 1, gang := 1, det := false, chk := false, sys := true, gangIdem := false, raceFree := false
    ring := 0, bindRing := false, bindChan := false, args := 0, capMask := 0, ringDesc := 0, signExt := false, detw := 0 }

/-- The launch of a placed word. -/
def loadLaunch (key ctx : Nat) : Launch :=
  { key := key, id := 1, func := 0, ctx := ctx, queue := 0, job := 0, phase := 0, graph := none, tag := 0, hdr := none
    part := loadPart, desc := loadDesc, sys := true, det := false, preloads := [], posts := [], signal := none
    stage := .ready, deadline := none, parsed := 0, startT := 0, started := true, endT := 0, nextUnit := 1, returned := []
    conts := [], ends := [], done := 0, moved := none, cancelled := false, failed := false, cause := 0, errArg := 0
    kills := [], shun := [], round := 0, roundEnds := [], contribs := [], passQ := []
    committing := false, sysRound := false, begun := false, screens := [], banked := [], chan := none }

/-- The unit of a placed word, on core 0, in seat 0 of partition 0. -/
def loadUnit (key launch : Nat) : Unit :=
  { key := key, launch := launch, no := 0, gang := 0, idx := 0, core := 0, seats := [(0, 0)], desc := loadDesc, shadow := false
    gen := 1, allocBase := 0, backing := key * 8388608, fibres := [], teams := [], templates := [], layouts := []
    tpl := List.replicate 64 TplState.reset, xdone := [], ring := none, channel := none, next := none, ended := 0
    usedFront := false, ending := false, dispatched := 0, deadline := none, screened := false, writes := [] }

/-- The line of a full fetch line whose slot 0 holds a word, with its parity, the word's PAIR bit and every slot marked
(R38, R39, R42, R51). DESIGN CHOICE: log 1. -/
def loadLine (w : IWord) : List Byte :=
  let group (i : Nat) : Word := if parity60 ((w.setWidth 480).extractLsb' (60 * i) 60) then 1#32 <<< i else 0
  let lw : Word := (group 0 ||| group 1) ||| (if pairOf w then 1#32 <<< 21 else 0) ||| (0x1F#32 <<< 26)
  bytesOfWord w ++ List.replicate 48 0 ++ bytesOfNat 4 lw.toNat

/-- Put a fetch line at a key, as words with their check codes. -/
def State.putLine (s : State) (k : Nat) (w : IWord) : State := { s with mem := s.mem.setWords k (wordsOfBytes (loadLine w)) }

/-- The key of the line that the next fibre to issue fetches from, where step fetches from one now. -/
def State.fetchKey? (s : State) : Option Nat :=
  match s.agenda, s.issuing with
  | [], e :: _ => (s.live? e.1 e.2).bind fun x =>
    if s.mayIssue x.1 x.2 && !x.1.ending && !s.bankingOf x.1 && slotOfPc x.2.pc == 0 then
      s.vaKey (s.ctxOf x.1) (lineAddr x.2.pc) rightX
    else none
  | _, _ => none

/-- A unit of a new launch with one live fibre at the first slot of its kernel, which issues next; its page is mapped at
device memory address 0. DESIGN CHOICE: log 1. -/
def State.seatProgram (s : State) : State :=
  let key := s.fe.nextKey
  let uk := s.seqCtr + 1
  let l := loadLaunch key 0
  let page : Page := { ctx := 0, va := 0, sizeCode := 0, phys := 0, rights := 5, aperture := none, absent := false, dirty := false }
  let s1 := { s with
    fabric := { s.fabric with pages := page :: s.fabric.pages }
    fe := { s.fe with launches := s.fe.launches ++ [l], nextKey := key + 1 }
    units := s.units ++ [loadUnit uk key], seqCtr := s.seqCtr + 2 }
  let s2 := s1.addGang key 0 0 false 1
  let s3 := s2.modUnit uk fun u => { u with fibres := [s2.newFibre u 0 loadDesc.entryPc] }
  let s4 := s3.modFibre uk 0 fun f => { f with ready := s.clk }
  { s4 with agenda := [], issuing := [(uk, 0)] }

/-- Put a word where the next step fetches its instruction. DESIGN CHOICE: log 1. -/
def State.placeWord (s : State) (w : IWord) : State :=
  match s.fetchKey? with
  | some k => s.putLine k w
  | none => s.seatProgram.putLine 64 w

end Sys2Proof.Machine
end

