-- ==== Sys2Proof/Safety.lean ====
section
/-! DEFINITION. The terms in which claims are stated: what counts as a safe run; when nothing holds back the instruction
of a fibre whose turn has come (spec 04 R50); the state in which such an instruction has been carried out; and what an
instruction of one fibre leaves alone. -/

namespace Sys2Proof

/-- An outcome that is not a fault and not a refusal. -/
def Safe (r : Host.Outcome Machine.State Machine.Fault Machine.Refusal) : Prop := ∃ t, r = .next t

/-- No launch of the machine has failed (R371). -/
def Machine.State.unfailed (s : Machine.State) : Bool := s.fe.launches.all fun l => !l.failed

end Sys2Proof

namespace Sys2Proof.Machine

/-! ### The turn of a fibre -/

/-- It is the turn of fibre `f` of unit `u`: the fibre is live, and `f` is it with the results that have landed written. -/
def State.turn (s : State) (u : Unit) (f : Fibre) : Prop := ∃ g, s.current? = some (u, g) ∧ f = g.settle s.clk

/-- Nothing holds back an instruction of form `o` (R50): no recorded fault is due at it (R209), its guard is known and true,
its registers are not pending (R54) and not spilled (R78), no read of it traps (R57, R85), and its DET stroke goes on
(R234). -/
structure State.Clear (s : State) (u : Unit) (f : Fibre) (o : Op) : Prop where
  cur : s.turn u f
  late : f.again = true ∨ takeFault f.faults [.late] = none
  guardKnown : o.ctl.ps = 15 ∨ f.isPending (.pred o.ctl.ps) = false
  guardRead : f.readTrap (s.chkOf u) [.pred o.ctl.ps] = none
  guard : f.pred o.ctl.ps ≠ o.ctl.pn
  fault : takeFault f.faults o.takes = none
  ready : o.blocked f = false
  rows : o.spilledReads f (s.spilledOf u f.fid) = []
  reads : f.readTrap (s.chkOf u) o.reads = none
  stroke : s.detOf u = false ∨ o.ends = 0 ∨ f.stroke.pass = true

/-- The fibre as its instruction reads it: words with one bit in error are corrected (R85). -/
def Fibre.seen (f : Fibre) (o : Op) : Fibre := (f.scrub o.reads).1

/-- The state in which the fibre has passed its instruction and the effect is still to come: RRD is raised for a released
read (R76), the marked sources are released (R75), the PC is the successor (R43), and the stall count has begun (R55). -/
def State.passed (s : State) (u : Unit) (f : Fibre) (o : Op) : State :=
  s.modCur fun _ => (if (f.seen o).readsReleased o.reads then (f.seen o).raise 0x40 else f.seen o).pass o.last
    (s.seqNext (s.ctxOf u) f.pc) s.clk o.ctl.stall

/-- The state after the effect: what the core counts, the mark of R396, and the stroke of a DET launch (R234). -/
def State.closed (s : State) (u : Unit) (f : Fibre) (o : Op) (t : State) : State :=
  let t1 := (t.count u.core 0x000B (f.scrub o.reads).2).count u.core 0x0003 1
  let t2 := if o.front then t1.modUnit u.key fun v => { v with usedFront := true } else t1
  if s.detOf u then t2.endStroke (o.ends != 0) else t2

/-- The state in which an instruction has been carried out whose effect changes its own fibre alone. -/
def State.carried (s : State) (u : Unit) (f : Fibre) (o : Op) (k : Fibre → Fibre) : State :=
  s.closed u f o ((s.passed u f o).modCur k)

/-! ### What an instruction of one fibre leaves alone -/

/-- Nothing but the current fibre, the counters of cores, a unit's mark of R396 and the agenda differs. -/
structure State.Local (s t : State) : Prop where
  rest : t = { s with units := t.units, cores := t.cores, agenda := t.agenda }
  units : t.units.map (fun u => { u with fibres := [], usedFront := false }) =
    s.units.map fun u => { u with fibres := [], usedFront := false }
  others : ∀ k fid, (k, fid) ≠ s.cur →
    ((t.unit? k).bind fun u => u.fibre? fid) = (s.unit? k).bind fun u => u.fibre? fid
  cores : t.cores.map (fun c => { c with counters := [] }) = s.cores.map fun c => { c with counters := [] }

end Sys2Proof.Machine
end

