-- ==== Sys2Proof/Certificates/Slice0/Obligations.lean ====
section
/-! DEFINITION. The statements about the model, each a proposition `Obligations.<Name>`, and the tables in which they say
what an instruction of a family reads, releases and writes. -/

namespace Sys2Proof.Machine.Claims

/-! ### How a result reaches its registers (spec 04 R54) -/

/-- Words that land `lat` cycles later. -/
def lands (lat : Nat) (d : VReg) (v : Fibre → List Reg) : Ctx → Nat → Fibre → Fibre :=
  fun x clk f => f.flyRegs (clk + lat) (x.f.slotOf d.toNat) (v x.f)
/-- Words that land `lat` cycles later, with flags of `$fstat` that are raised. -/
def landsFlags (lat : Nat) (d : VReg) (v : Fibre → List Reg × Word) : Ctx → Nat → Fibre → Fibre :=
  fun x clk f => (f.flyRegs (clk + lat) (x.f.slotOf d.toNat) (v x.f).1).raise (v x.f).2
/-- Words of variable latency. -/
def comes (d : VReg) (v : Fibre → List Reg) : Ctx → Nat → Fibre → Fibre :=
  fun x _ f => f.pendRegs (x.f.slotOf d.toNat) (v x.f)
/-- Words of variable latency, with flags. -/
def comesFlags (d : VReg) (v : Fibre → List Reg × Word) : Ctx → Nat → Fibre → Fibre :=
  fun x _ f => (f.pendRegs (x.f.slotOf d.toNat) (v x.f).1).raise (v x.f).2
/-- A predicate that lands `lat` cycles later; 15 discards it (R48). -/
def landsPred (lat : Nat) (p : PReg) (v : Fibre → Bool) : Ctx → Nat → Fibre → Fibre :=
  fun x clk f => if p == 15 then f else f.fly (clk + lat) (.pred p) (.bit (v x.f))

/-- What an instruction whose effect changes its own fibre alone comes to: its form, and the change. -/
abbrev Own := Op × (Ctx → Nat → Fibre → Fibre)

/-- The claim that the instructions of a table are carried out, whatever their operands, where nothing holds them back. -/
def CarriesOut (table : Instr → Option Own) : Prop :=
  ∀ (i : Instr) (o : Op) (k : Ctx → Nat → Fibre → Fibre), table i = some (o, k) →
    ∀ (s : State) (u : Unit) (f : Fibre), s.Clear u f o →
      exec i s = .next (s.carried u f o (k { u := u, f := f.seen o } s.clk))

/-- The instructions whose results the shadow unit checks (R143). -/
def shadowed : Instr → Bool
  | .fadd .. | .fsub .. | .fmul .. | .ffma .. | .fdiv .. | .fsqrt .. | .fscale .. => true
  | .frcp .. | .frsq .. | .fexp2 .. | .flog2 .. | .fsin .. | .fcos .. | .ftanh .. => true
  | .cvtif .. | .cvtff .. | .hadd2 .. | .hmul2 .. | .hfma2 .. | .ldot4 .. => true
  | _ => false

/-- The same, where the fibre's vector floating unit delivers what the rules give, if the shadow unit checks it (R143). -/
def CarriesOutSound (table : Instr → Option Own) : Prop :=
  ∀ (i : Instr) (o : Op) (k : Ctx → Nat → Fibre → Fibre), table i = some (o, k) →
    ∀ (s : State) (u : Unit) (f : Fibre), s.Clear u f o → (shadowed i = true → f.strike = 0) →
      exec i s = .next (s.carried u f o (k { u := u, f := f.seen o } s.clk))

/-! ### Integer instructions (06 R109 to R115) -/

/-- A two-source form at the width of an integer type. -/
def wide2 (c : Ctl) (t : ITy) (d : VReg) (a b : Src) : Op := op2 c a t.wide b t.wide true (dstRegs d (wordsOf t.wide))
/-- A one-source form. -/
def wide1 (c : Ctl) (t : ITy) (d : VReg) (a : Src) : Op := op1 c a t.wide true (dstRegs d (wordsOf t.wide))
/-- A shift's form: the amount is 32 bits wide. -/
def shift2 (c : Ctl) (t : ITy) (d : VReg) (a b : Src) : Op := op2 c a t.wide b false true (dstRegs d (wordsOf t.wide))
/-- A form of two 32-bit sources and one destination. -/
def word2 (c : Ctl) (d : VReg) (a b : Src) : Op := op2 c a false b false true (dstRegs d 1)
/-- A form of one 32-bit source. -/
def word1 (c : Ctl) (d : VReg) (a : Src) : Op := op1 c a false true (dstRegs d 1)
/-- A form of three 32-bit sources. -/
def word3 (c : Ctl) (d : VReg) (a b e : Src) : Op := op3 c a false b false e false (dstRegs d 1)
/-- A carry form: the carry is read last and written (R112). -/
def carry2 (c : Ctl) (d : VReg) (a b : Src) (k : PReg) : Op :=
  { word2 c d a b with reads := a.reads 1 false true ++ b.reads 2 false true ++ [.pred k], preds := [k] }

/-- A 32-bit sum or difference with carry, and the carry out (R112). -/
def carries (d : VReg) (k : PReg) (v : Fibre → Int) : Ctx → Nat → Fibre → Fibre := fun x clk f =>
  let g := f.flyRegs (clk + 4) (x.f.slotOf d.toNat) [fresh (BitVec.ofInt 32 (v x.f))]
  if k == 15 then g else g.fly (clk + 4) (.pred k) (.bit (decide (v x.f < 0) || decide (4294967296 ≤ v x.f)))

/-- The integer instructions: forms and results (R110 to R115). -/
def integers : Instr → Option Own
  | .iadd c t sat d a b => some (wide2 c t d a b, landsFlags 4 d fun f => t.result sat (f.srcInt t a + f.srcInt t b))
  | .isub c t sat d a b => some (wide2 c t d a b, landsFlags 4 d fun f => t.result sat (f.srcInt t a - f.srcInt t b))
  | .imul c t sat d a b => some (wide2 c t d a b, landsFlags 4 d fun f => t.result sat (f.srcInt t a * f.srcInt t b))
  | .imulh c t d a b =>
    some (wide2 c t d a b, landsFlags 4 d fun f => t.result false (f.srcInt t a * f.srcInt t b / 2 ^ 32))
  | .imad c t d a b e =>
    some (word3 c d a b e, lands 4 d fun f => [fresh (BitVec.ofInt 32 (f.srcInt t a * f.srcInt t b + f.srcInt t e))])
  | .imadw c t d a b e =>
    some (op3 c a false b false e true (dstRegs d 2),
      lands 4 d fun f => regs64 (BitVec.ofInt 64 (f.srcInt t a * f.srcInt t b + f.srcInt (widen t) e)))
  | .idiv c t d a b => some (wide2 c t d a b, comes d fun f => (t.result false (divInt t (f.srcInt t a) (f.srcInt t b))).1)
  | .irem c t d a b => some (wide2 c t d a b, comes d fun f => (t.result false (remInt (f.srcInt t a) (f.srcInt t b))).1)
  | .imin c t d a b => some (wide2 c t d a b, landsFlags 4 d fun f => t.result false (min (f.srcInt t a) (f.srcInt t b)))
  | .imax c t d a b => some (wide2 c t d a b, landsFlags 4 d fun f => t.result false (max (f.srcInt t a) (f.srcInt t b)))
  | .iabs c t sat d a => some (wide1 c t d a, landsFlags 4 d fun f => t.result sat |f.srcInt t a|)
  | .ineg c t sat d a => some (wide1 c t d a, landsFlags 4 d fun f => t.result sat (-f.srcInt t a))
  | .iaddc c d a b k => some (carry2 c d a b k, carries d k fun f => f.srcInt .n32 a + f.srcInt .n32 b + f.carryIn k)
  | .isubb c d a b k => some (carry2 c d a b k, carries d k fun f => f.srcInt .n32 a - f.srcInt .n32 b - f.carryIn k)
  | .and c t d a b => some (wide2 c t d a b, lands 4 d fun f => regsAt t.wide (f.srcBits t a &&& f.srcBits t b))
  | .or c t d a b => some (wide2 c t d a b, lands 4 d fun f => regsAt t.wide (f.srcBits t a ||| f.srcBits t b))
  | .xor c t d a b => some (wide2 c t d a b, lands 4 d fun f => regsAt t.wide (f.srcBits t a ^^^ f.srcBits t b))
  | .andn c t d a b => some (wide2 c t d a b, lands 4 d fun f => regsAt t.wide (f.srcBits t a &&& ~~~f.srcBits t b))
  | .logt c t d a b e table =>
    some (op3 c a t.wide b t.wide e t.wide (dstRegs d (wordsOf t.wide)),
      lands 4 d fun f => regsAt t.wide (tableBits table (f.srcBits t a) (f.srcBits t b) (f.srcBits t e)))
  | .shl c t d a b => some (shift2 c t d a b, lands 4 d fun f => regsAt t.wide
      (if t.regBits ≤ (f.src32 b).toNat then 0 else f.srcBits t a <<< (f.src32 b).toNat))
  | .shr c t d a b => some (shift2 c t d a b, lands 4 d fun f => regsAt t.wide
      (if t.regBits ≤ (f.src32 b).toNat then 0 else f.srcBits t a >>> (f.src32 b).toNat))
  | .sar c t d a b => some (shift2 c t d a b, lands 4 d fun f => regsAt t.wide (BitVec.ofInt 64
      ((if t.wide then (f.srcBits t a).toInt else ((f.srcBits t a).setWidth 32).toInt) /
        (2 ^ min (f.src32 b).toNat (t.regBits - 1) : Int))))
  | .rot c t d a b => some (shift2 c t d a b, lands 4 d fun f => regsAt t.wide
      (if t.wide then (f.srcBits t a).rotateLeft ((f.src32 b).toNat % 64)
        else (((f.srcBits t a).setWidth 32).rotateLeft ((f.src32 b).toNat % 32)).setWidth 64))
  | .bfx c t d a b => some (word2 c d a b, lands 4 d fun f => [fresh (bfxVal t.signed (f.src32 a) (f.src32 b))])
  | .bfi c d a b e => some (word3 c d a b e, lands 4 d fun f => [fresh (bfiVal (f.src32 a) (f.src32 b) (f.src32 e))])
  | .popc c t d a =>
    some (op1 c a t.wide true (dstRegs d 1), lands 4 d fun f => [fresh (BitVec.ofNat 32 (popc t.regBits (f.srcBits t a)))])
  | .clz c t d a =>
    some (op1 c a t.wide true (dstRegs d 1), lands 4 d fun f => [fresh (BitVec.ofNat 32 (clz t.regBits (f.srcBits t a)))])
  | .ctz c t d a =>
    some (op1 c a t.wide true (dstRegs d 1), lands 4 d fun f => [fresh (BitVec.ofNat 32 (ctz t.regBits (f.srcBits t a)))])
  | .brev c t d a => some (wide1 c t d a, lands 4 d fun f => regsAt t.wide
      (if t.wide then (f.srcBits t a).reverse else (((f.srcBits t a).setWidth 32).reverse).setWidth 64))
  | .icmp c cond t d a b =>
    some ({ op2 c a t.wide b t.wide true [] with preds := [d] },
      landsPred 4 d fun f => cond.holds (some (compare (f.srcInt t a) (f.srcInt t b))))
  | .sel c t d k inv a b =>
    some ({ op2 c a t.wide b t.wide false (dstRegs d (wordsOf t.wide)) with
        reads := a.reads 1 t.wide false ++ b.reads 2 t.wide false ++ [.pred k] },
      lands 4 d fun f => if f.pred k != inv then f.srcRegs t a else f.srcRegs t b)
  | .mov c t d a => some (op1 c a t.wide false (dstRegs d (wordsOf t.wide)), lands 4 d fun f => f.srcRegs t a)
  | _ => none

/-! ### Floating instructions (07 R145 to R158) -/

/-- Two operands as read under DAZ (R140). -/
def floats2 (t : FTy) (r : Option RM) (a b : Src) (g : Round → FVal → FVal → Nat × Word) (f : Fibre) : List Reg × Word :=
  fres (g (f.rounding r) (fread t (f.rounding r).daz (f.fsrc a)) (fread t (f.rounding r).daz (f.fsrc b)))

/-- One operand's bits. -/
def floats1 (r : Option RM) (a : Src) (g : Round → Nat → Nat × Word) (f : Fibre) : List Reg × Word :=
  fres (g (f.rounding r) (f.fsrc a))

/-- A comparison: the flag at once, the predicate after its latency (R148). -/
def compares (cond : Cond) (t : FTy) (d : PReg) (a b : Src) : Ctx → Nat → Fibre → Fibre := fun x clk f =>
  let daz := (x.f.rounding none).daz
  let p := fread t daz (x.f.fsrc a)
  let q := fread t daz (x.f.fsrc b)
  let g := f.raise (fcmpFlag cond p q)
  if d == 15 then g else g.fly (clk + 6) (.pred d) (.bit (cond.holds (fcompare p q)))

/-- The floating instructions: forms and results. -/
def floats : Instr → Option Own
  | .fadd c t r d a b => some (word2 c d a b, landsFlags 6 d (floats2 t r a b (fadd t)))
  | .fsub c t r d a b => some (word2 c d a b, landsFlags 6 d (floats2 t r a b fun rd x y => fadd t rd x y.negate))
  | .fmul c t r d a b => some (word2 c d a b, landsFlags 6 d (floats2 t r a b (fmul t)))
  | .ffma c t r d a b e => some (word3 c d a b e, landsFlags 6 d fun f =>
      let rd := f.rounding r
      fres (ffma t rd (fread t rd.daz (f.fsrc a)) (fread t rd.daz (f.fsrc b)) (fread t rd.daz (f.fsrc e))))
  | .fdiv c t r d a b => some (word2 c d a b, comesFlags d (floats2 t r a b (fdiv t)))
  | .fsqrt c t r d a => some (word1 c d a, comesFlags d (floats1 r a fun rd x => fsqrt t rd (fread t rd.daz x)))
  | .fscale c t r d a b => some (word2 c d a b, landsFlags 6 d fun f =>
      fres (fscale t (f.rounding r) (fread t (f.rounding r).daz (f.fsrc a)) (f.src32 b).toInt))
  | .fmin c t d a b =>
    some (word2 c d a b, landsFlags 6 d fun f => fres (fminmax t (f.rounding none).daz false (f.fsrc a) (f.fsrc b)))
  | .fmax c t d a b =>
    some (word2 c d a b, landsFlags 6 d fun f => fres (fminmax t (f.rounding none).daz true (f.fsrc a) (f.fsrc b)))
  | .fcmp c cond t d a b => some ({ op2 c a false b false true [] with preds := [d] }, compares cond t d a b)
  | .fclass c t d a => some (word1 c d a, lands 6 d fun f => [fresh (BitVec.ofNat 32 (fclass t (f.fsrc a)))])
  | .frcp c t r d a => some (word1 c d a, comesFlags d (floats1 r a fun rd x => frcp t rd (fread t rd.daz x)))
  | .frsq c t r d a => some (word1 c d a, comesFlags d (floats1 r a fun rd x => frsq t rd (fread t rd.daz x)))
  | .fexp2 c t r d a => some (word1 c d a, comesFlags d (floats1 r a (fexp2 t)))
  | .flog2 c t r d a => some (word1 c d a, comesFlags d (floats1 r a (flog2 t)))
  | .fsin c t r d a => some (word1 c d a, comesFlags d (floats1 r a (fsin t)))
  | .fcos c t r d a => some (word1 c d a, comesFlags d (floats1 r a (fcos t)))
  | .ftanh c t r d a => some (word1 c d a, comesFlags d (floats1 r a (ftanh t)))
  | .frnd c t r d a => some (word1 c d a, landsFlags 6 d (floats1 r a (frnd t)))
  | .fcopys c t d a b => some (word2 c d a b, lands 6 d fun f =>
      [fresh (BitVec.ofNat 32 (f.fsrc a % t.signBit + (if f.fsrc b / t.signBit % 2 = 1 then t.signBit else 0)))])
  | .cvtfi c t src r d a => some (op1 c a false true (dstRegs d (wordsOf t.wide)), landsFlags 6 d fun f =>
      let v := cvtfi t (f.rounding r) (fread src (f.rounding r).daz (f.fsrc a))
      (regsAt t.wide (BitVec.ofInt 64 v.1), v.2))
  | .cvtif c t src r d a => some (op1 c a src.wide true (dstRegs d 1), landsFlags 6 d fun f =>
      fres (cvtif t (f.rounding r) (smallInt src (f.srcBits src a))))
  | .cvtff c t src r d a => some (word1 c d a, landsFlags 6 d fun f =>
      fres (cvtff t (f.rounding r) (fread src (f.rounding r).daz (f.fsrc a))))
  | .cvtl6 c i r d a b e => some (word3 c d a b e, landsFlags 6 d fun f =>
      let v := cvtl6 (f.rounding r) (fread .f32 (f.rounding r).daz (f.fsrc a)) ((f.src32 b).setWidth 8)
      ([fresh (setL6 (f.src32 e) i v.1)], v.2))
  | .cvt6f c i d a b => some (word2 c d a b, lands 6 d fun f =>
      [fresh (BitVec.ofNat 32 (cvt6f ((f.src32 a >>> (6 * i.toNat)).setWidth 6) ((f.src32 b).setWidth 8)))])
  | .hadd2 c t r d a b => some (word2 c d a b, landsFlags 6 d fun f =>
      let rd := f.rounding r
      fres (halves2 (f.fsrc a) (f.fsrc b) fun x y => fadd t rd (fread t rd.daz x) (fread t rd.daz y)))
  | .hmul2 c t r d a b => some (word2 c d a b, landsFlags 6 d fun f =>
      let rd := f.rounding r
      fres (halves2 (f.fsrc a) (f.fsrc b) fun x y => fmul t rd (fread t rd.daz x) (fread t rd.daz y)))
  | .hfma2 c t r d a b e => some (word3 c d a b e, landsFlags 6 d fun f =>
      let one (sh : Nat) : Nat × Word := ffma t (f.rounding r) (fread t (f.rounding r).daz (f.fsrc a / sh))
        (fread t (f.rounding r).daz (f.fsrc b / sh)) (fread t (f.rounding r).daz (f.fsrc e / sh))
      fres ((one 1).1 + 65536 * (one 65536).1, (one 1).2 ||| (one 65536).2))
  | .hmnx2 c max t d a b => some (word2 c d a b, landsFlags 6 d fun f =>
      fres (halves2 (f.fsrc a) (f.fsrc b) (fminmax t (f.rounding none).daz max)))
  | _ => none

/-! ### Packed integers and dots (07 R159 to R165) -/

/-- An operation on both halves of two words (R159). -/
def halves (t : ITy) (sat : Bool) (a b : Src) (g : Int → Int → Int) (f : Fibre) : List Reg × Word :=
  pairResult t sat (g (halfInt t (f.src32 a) 0) (halfInt t (f.src32 b) 0))
    (g (halfInt t (f.src32 a) 1) (halfInt t (f.src32 b) 1))

/-- The packed integer and dot instructions: forms and results. -/
def packeds : Instr → Option Own
  | .padd2 c t sat d a b => some (word2 c d a b, landsFlags 6 d (halves t sat a b (· + ·)))
  | .psub2 c t sat d a b => some (word2 c d a b, landsFlags 6 d (halves t sat a b (· - ·)))
  | .pmul2 c t sat d a b => some (word2 c d a b, landsFlags 6 d (halves t sat a b (· * ·)))
  | .pmac2 c d a b e => some (word3 c d a b e, landsFlags 6 d fun f => ITy.i32.result true ((f.src32 e).toInt +
      halfInt .i16 (f.src32 a) 0 * halfInt .i16 (f.src32 b) 0 + halfInt .i16 (f.src32 a) 1 * halfInt .i16 (f.src32 b) 1))
  | .pmnx2 c mx t d a b => some (word2 c d a b, landsFlags 6 d (halves t false a b
      fun x y => if mx then (if x < y then y else x) else (if y < x then y else x)))
  | .pshr2 c arith d a b => some (word2 c d a b, landsFlags 6 d fun f =>
      let n := ((f.src32 b).extractLsb' 0 5).toNat
      let t : ITy := if arith then .i16 else .n16
      pairResult t false (halfInt t (f.src32 a) 0 / 2 ^ n) (halfInt t (f.src32 a) 1 / 2 ^ n))
  | .shrr c t nar d a b =>
    some (op2 c a t.wide b false true (dstRegs d (wordsOf (t.wide && nar == .none))), landsFlags 6 d fun f =>
      let n := ((f.src32 b).extractLsb' 0 8).toNat
      let y := if n = 0 then f.srcInt t a else (f.srcInt t a + 2 ^ (n - 1)) / 2 ^ n
      match narrowTo t.signed nar with
      | none => (regsAt t.wide (BitVec.ofInt 64 y), 0)
      | some v => ([fresh (BitVec.ofInt 32 (clampInt v.minVal v.maxVal y))],
          if clampInt v.minVal v.maxVal y != y then flagSAT else 0))
  | .pack2 c hi t sat d a b => some (word2 c d a b, landsFlags 6 d fun f =>
      if sat then pairResult (if t.signed then .i16 else .n16) true (f.srcInt t a) (f.srcInt t b)
      else pairResult t false (halfInt t (f.src32 a) (if hi then 1 else 0)) (halfInt t (f.src32 b) (if hi then 1 else 0)))
  | .unpk2 c hi t d a => some (word1 c d a, lands 6 d fun f =>
      [fresh (BitVec.ofInt 32 (halfInt t (f.src32 a) (if hi then 1 else 0)))])
  | .ldot4 c r d a b e => some (word3 c d a b e, landsFlags 8 d fun f =>
      fres (ldot4 (f.rounding r) (f.src32 a) (f.src32 b) (f.src32 e)))
  | .idot4 c t sat d a b e => some (word3 c d a b e, landsFlags 8 d fun f =>
      let ct : ITy := if t.signed then .i32 else .n32
      let p (i : Nat) : Int := byteInt t.signed (f.src32 a) i * byteInt t.signed (f.src32 b) i
      ct.result sat (f.srcInt ct e + p 0 + p 1 + p 2 + p 3))
  | _ => none

/-! ### Predicates and special registers (06 R102 to R106) -/

/-- The instructions on predicates and on the special registers that a program writes. -/
def predicates : Instr → Option Own
  | .pset c k d a b => some ({ op0 c with reads := sortPreds a b, preds := [d] },
      landsPred 4 d fun f => k.getLsbD (2 * (f.pred a).toNat + (f.pred b).toNat))
  | .pmovRd c d => some ({ op0 c with reads := allPreds.map .pred, regs := dstRegs d 1 },
      lands 4 d fun f => [fresh (f.preds.setWidth 32)])
  | .pmovWr c a => some ({ op1 c a false true [] with preds := allPreds }, fun x clk f =>
      allPreds.foldl (fun (g : Fibre) p => g.fly (clk + 4) (.pred p) (.bit ((x.f.src32 a).getLsbD p.toNat))) f)
  | .swr c r a => some (op1 c a false true [], fun x _ f => match r with
      | .rmode => { f with rmode := rmodeWrite (x.f.src32 a) }
      | .fstat => { f with fstat := x.f.src32 a &&& 0x7F }
      | .prog => { f with prog := x.f.src32 a &&& 0xFF })
  | _ => none

end Sys2Proof.Machine.Claims

open Sys2Proof Sys2Proof.Machine

/-- Every integer instruction completes with its result, at every operand, where nothing holds it back. -/
def Obligations.IntegerInstructionsComplete : Prop := Claims.CarriesOut Claims.integers

/-- Every floating instruction and conversion completes with its result and flags, where its unit delivers what the rules give
(R143). -/
def Obligations.FloatInstructionsComplete : Prop := Claims.CarriesOutSound Claims.floats

/-- Every packed integer and dot instruction completes with its result and flags, where its unit delivers what the rules give
(R143). -/
def Obligations.PackedInstructionsComplete : Prop := Claims.CarriesOutSound Claims.packeds

/-- PSET, PMOV and SWR complete. -/
def Obligations.PredicateInstructionsComplete : Prop := Claims.CarriesOut Claims.predicates

namespace Sys2Proof.Machine.Claims

/-- The claim that an instruction of form `o` is carried out with the effect `eff` on the state in which its fibre has passed
it, where nothing holds it back. -/
def Does (s : State) (u : Unit) (f : Fibre) (o : Op) (i : Instr) (eff : State → State) : Prop :=
  s.Clear u f o → exec i s = .next (s.closed u f o (eff (s.passed u f o)))

/-- Where a fibre is once it has passed its instruction. -/
def after (s : State) (u : Unit) (f : Fibre) : BitVec 57 := s.seqNext (s.ctxOf u) f.pc

/-- A target may be branched to (R44). -/
def reaches (s : State) (u : Unit) (t : BitVec 57) (marks : List (BitVec 57)) : Prop :=
  ∃ l, s.checkTarget (s.ctxOf u) t marks = .ok l

/-- A target begins with an entry word whose shift is `sh` (R89). -/
def enters (s : State) (u : Unit) (t : BitVec 57) (sh : Nat) : Prop :=
  ∃ l, s.checkTarget (s.ctxOf u) t [] = .ok l ∧ (s.wordAt (s.ctxOf u) u.desc l (slotOfPc t)).bind entryShift = some sh

/-- The fibre has called: a record is pushed, the window has moved up by the shift, and the PC is the target (R90). -/
def called (sh : Nat) (ret t : BitVec 57) (g : Fibre) : Fibre :=
  { g with calls := { shift := BitVec.ofNat 6 sh, rpc := ret, entry := t } :: g.calls, base := g.base + sh, pc := t }

/-- The fibre has returned from a call (R92): the record is popped, the window has moved down by its shift, and every slot
above the window is released. -/
def returned (f : Fibre) (r : CallRec) (rest : List CallRec) (g : Fibre) : Fibre :=
  { ({ g with calls := rest, base := f.base - r.shift.toNat }).releaseFrom (f.base - r.shift.toNat + 64) with pc := r.rpc }

/-- The target of a `TRAPRET`: the PC in v0 and v1 of the handler's window, or its sequential successor (R83). -/
def trapTarget (s : State) (u : Unit) (f : Fibre) (succ : Bool) : BitVec 57 :=
  if succ then s.seqNext (s.ctxOf u) ((f.pairAt 0).setWidth 57) else (f.pairAt 0).setWidth 57

/-- The fibre's return marks (R83). -/
def marksOf (f : Fibre) : List (BitVec 57) := match f.marks with | some (a, b) => [a, b] | none => []

/-- The form of a `TRAPRET` in a handler (R94). -/
def trapretForm (c : Ctl) : Op :=
  { op0 c with reads := [.reg 0 0 false false, .reg 0 1 false false, .reg 0 4 false false], preds := allPreds }

/-- The form of an instruction that ends its DET stroke and its fibre. -/
def endForm (c : Ctl) (store : Bool) : Op :=
  { op0 c with ends := 2, takes := if store then .store :: engineFaults else engineFaults }

end Sys2Proof.Machine.Claims

open Sys2Proof Sys2Proof.Machine

/-- NOP, BRA, BRX, LOOPD and YIELD complete: the PC, the loop's register and the wait they leave (R86 to R88, R95, R100). -/
def Obligations.BranchesComplete : Prop :=
  ∀ (s : State) (u : Machine.Unit) (f : Fibre) (c : Ctl),
    (∀ st e, Claims.Does s u f (op0 (unpredCtl st)) (.nop st e) id) ∧
    (∀ t, Claims.reaches s u (branchTarget f.pc t) [] →
      Claims.Does s u f (op0 c) (.bra c t) fun s1 => s1.modCur fun g => { g with pc := branchTarget f.pc t }) ∧
    (∀ a : RSrc, let v := (f.seen (opPairA c a)).pairAt a.n.toNat
      v.toNat < 2 ^ 57 → Claims.reaches s u (v.setWidth 57) [] →
      Claims.Does s u f (opPairA c a) (.brx c a) fun s1 => s1.modCur fun g => { g with pc := v.setWidth 57 }) ∧
    (∀ d t, let o : Op := { op0 c with reads := groupReads 1 d.toNat 1 true, regs := dstRegs d 1 }
      let n := ((f.seen o).reg d.toNat).val - 1
      let put (g : Fibre) : Fibre := g.fly (s.clk + 4) (.slot (f.base + d.toNat)) (.reg (fresh n))
      (n = 0 → Claims.Does s u f o (.loopd c d t) fun s1 => s1.modCur put) ∧
      (n ≠ 0 → Claims.reaches s u (branchTarget f.pc t) [] →
        Claims.Does s u f o (.loopd c d t) fun s1 => s1.modCur fun g => { put g with pc := branchTarget f.pc t })) ∧
    Claims.Does s u f (op0 c) (.yield c) fun s1 => s1.modCur fun g => { g with wait := some .regroup }

/-- CALL, CALLX and RET complete: the record of the call, the window, the PC and the slots a return releases (R90, R92). -/
def Obligations.CallsComplete : Prop :=
  ∀ (s : State) (u : Machine.Unit) (f : Fibre) (c : Ctl),
    (∀ t sh, Claims.enters s u (branchTarget f.pc t) sh → sh ≤ u.desc.frameMax → f.base + sh + 64 ≤ u.desc.stack →
      Claims.Does s u f (op0 c) (.call c t) fun s1 =>
        s1.modCur (Claims.called sh (Claims.after s u f) (branchTarget f.pc t))) ∧
    (∀ (a : RSrc) sh, let v := (f.seen (opPairA c a)).pairAt a.n.toNat
      v.toNat < 2 ^ 57 → Claims.enters s u (v.setWidth 57) sh → sh ≤ u.desc.frameMax →
      f.base + sh + 64 ≤ u.desc.stack →
      Claims.Does s u f (opPairA c a) (.callx c a) fun s1 =>
        s1.modCur (Claims.called sh (Claims.after s u f) (v.setWidth 57))) ∧
    (∀ r rest, f.calls = r :: rest → f.floorNow < f.calls.length → r.shift.toNat ≤ f.base →
      Claims.reaches s u r.rpc [] →
      Claims.Does s u f (op0 c) (.ret c) fun s1 => s1.modCur (Claims.returned f r rest))

/-- FORK, FEND, EXIT, EXIT with a successor and SLEEPU complete: the status of a fork and the fibre it starts, the end of a
fibre, the recorded successor, and a sleep (R96 to R98, R101): its fibre is parked at it until the core's cycle counter reaches
the operand, or passes it where the counter has. -/
def Obligations.FibreLifeCompletes : Prop :=
  ∀ (s : State) (u : Machine.Unit) (f : Fibre) (c : Ctl),
    (∀ d a b t, let o := Claims.word2 c d a b
      let g := f.seen o
      let n := (g.src32 a).toNat
      let status (w : Word) (s1 : State) : State := s1.modCur fun h => h.pend (.slot (f.base + d.toNat)) (some (.reg (fresh w)))
      Claims.reaches s u (branchTarget f.pc t) [] →
      (u.desc.fibres ≤ n → Claims.Does s u f o (.fork c d a b t) (status 2)) ∧
      (n < u.desc.fibres → ((u.fibre? n).map Fibre.live = some true →
        Claims.Does s u f o (.fork c d a b t) (status 1)) ∧
        ((u.fibre? n).map Fibre.live ≠ some true → Claims.Does s u f o (.fork c d a b t) fun s1 =>
          status 0 (s1.modUnit u.key fun v =>
            v.addFibre ((s.newFibre u n (branchTarget f.pc t)).setReg 0 (fresh (g.src32 b))))))) ∧
    Claims.Does s u f (Claims.endForm c false) (.fend c) State.endCur ∧
    Claims.Does s u f (Claims.endForm c true) (.exit c) State.endCur ∧
    (∀ delta d, s.successor { u := u, f := f } delta = .ok d →
      Claims.Does s u f (Claims.endForm c true) (.exitSuccessor c delta) fun s1 =>
        (s1.recordNext { u := u, f := f } false d).endCur) ∧
    (∀ a, let o : Op := { op1 c a true true [] with ends := 2, takes := engineFaults }
      let till := ((f.seen o).src64 false a).toNat
      (till ≤ s.clk → Claims.Does s u f o (.sleepu c a) id) ∧
      (s.clk < till → s.Clear u f o → exec (.sleepu c a) s = .next ((s.passed u f o).modCur fun _ =>
        { f with wait := some (.sleep till false), served := false, again := true })))

/-- SRD completes with the special register's value in the cycle of its issue (R104). -/
def Obligations.SpecialRegisterReads : Prop :=
  ∀ (s : State) (u : Machine.Unit) (f : Fibre) (c : Ctl) (d : VReg) (r : SReg),
    Claims.Does s u f { op0 c with regs := dstRegs d (sregWords r) } (.srd c d r) fun s1 =>
      s1.modCur fun g => g.pendRegs (f.base + d.toNat) (s.sregVal { u := u, f := f } r)

/-- TRAP and BRK complete by taking their traps (R93), and a word that no encoding admits by taking ILLEGAL (R62). -/
def Obligations.TrapInstructionsTakeTheirTraps : Prop :=
  ∀ (s : State) (u : Machine.Unit) (f : Fibre),
    (∀ c a, s.Clear u f (op1 c a false false []) →
      exec (.trap c a) s = .next ((s.modCur fun _ => f).takeTrap u.key f.fid
        { cause := 0x08, arg := f.src32 a, addr := none }) ∧
      exec (.brk c a) s = .next ((s.modCur fun _ => f).takeTrap u.key f.fid
        { cause := 0x09, arg := f.src32 a, addr := none })) ∧
    (∀ g reason, s.current? = some (u, g) → exec (.unassignedOpcode reason) s =
      .next (s.takeTrap u.key g.fid { cause := 0x01, arg := BitVec.ofNat 32 reason, addr := none }))

/-- A packed code's dictionary word goes to decoding with its stall count and L bits (R40). -/
def Obligations.PackedCodesExpand : Prop :=
  ∀ (s : State) (u : Machine.Unit) (f : Fibre) (code : BitVec 16) (w : IWord) (p : Bool),
    s.current? = some (u, f) → s.dictEntry (s.ctxOf u) u.desc (code.extractLsb' 0 10).toNat = .ok (w, p) →
    ∃ v, exec (.packedCode code) s = .next { s with ir := some (v, p) } ∧
      v.extractLsb' 80 4 = (code.extractLsb' 13 3).setWidth 4 ∧
      v.getLsbD 68 = (w.getLsbD 68 || code.getLsbD 10) ∧ v.getLsbD 60 = (w.getLsbD 60 || code.getLsbD 11) ∧
      v.getLsbD 52 = (w.getLsbD 52 || code.getLsbD 12) ∧
      ∀ i, i < 96 → i ≠ 68 → i ≠ 60 → i ≠ 52 → (i < 80 ∨ 84 ≤ i) → v.getLsbD i = w.getLsbD i

/-- TRAPRET and TRAPRET.1 complete: they leave the handler for the PC held in v0 and v1, or its successor, with the
predicate word of v4 (R83, R94). -/
def Obligations.TrapReturnsComplete : Prop :=
  ∀ (s : State) (u : Machine.Unit) (f : Fibre) (c : Ctl), f.handler = true → (f.pairAt 0).toNat < 2 ^ 57 →
    (Claims.reaches s u (Claims.trapTarget s u f false) (Claims.marksOf f) →
      Claims.Does s u f (Claims.trapretForm c) (.trapret c) fun s1 => s1.modCur fun g =>
        { g.leaveHandler (f.reg 4).val with pc := Claims.trapTarget s u f false }) ∧
    (Claims.reaches s u (Claims.trapTarget s u f true) (Claims.marksOf f) →
      Claims.Does s u f (Claims.trapretForm c) (.trapretResume c) fun s1 => s1.modCur fun g =>
        { g.leaveHandler (f.reg 4).val with pc := Claims.trapTarget s u f true })

/-- What leaving a handler restores (R83): the window moves down by 64, the flag and the marks are cleared, the predicates
come from bits [14:0] of the word given, the call records above the handler's floor are discarded, and every slot from the
handler's base upwards is released. -/
def Obligations.LeavingAHandler : Prop :=
  ∀ (f : Fibre) (w : Word), 64 ≤ f.base →
    (f.leaveHandler w).base = f.base - 64 ∧ (f.leaveHandler w).handler = false ∧ (f.leaveHandler w).marks = none ∧
    (∀ p : PReg, p ≠ 15 → (f.leaveHandler w).pred p = w.getLsbD p.toNat) ∧
    (f.leaveHandler w).calls = f.calls.drop (f.calls.length - f.floor) ∧
    (∀ n, f.base ≤ n → tget (f.leaveHandler w).stack n = none) ∧
    (f.leaveHandler w).caps = f.caps ∧ (f.leaveHandler w).fstat = f.fstat ∧ (f.leaveHandler w).rmode = f.rmode ∧
    (f.leaveHandler w).prog = f.prog

namespace Sys2Proof.Machine.Claims

/-- What a team operation gives a member: from what was gathered, the member's index, the fibre as read, and the fibre that
has passed the instruction. -/
abbrev Gives := Gather → Nat → Fibre → Fibre → Fibre

/-- The current fibre has arrived at its team operation and waits there (R80). -/
def arrives (s : State) (f : Fibre) : State :=
  s.modCur fun g => { g with
    wait := some (.team f.pc f.came)
    served := false }

/-- With the arrival of the current fibre its team has converged (R80): the fibre has no late transfer to take as it comes to
the operation, and every live member stands at it, awaits no result that the operation reads or writes, and reads no spilled
slot. -/
structure Converges (s : State) (u : Unit) (f : Fibre) (v : Unit) (o : Op) : Prop where
  cur : s.current? = some (u, f)
  late : f.again = true ∨ f.arrivedAt f.pc = true ∨ takeFault f.faults [.late] = none
  unit : (arrives s f).unit? u.key = some v
  all : v.converged (f.fid / u.desc.team) f.pc = true
  ready : ∀ m ∈ v.teamLive (f.fid / u.desc.team), o.memberBlocked (m.settle s.clk) = false
  rows : (arrives s f).teamSpills v (f.fid / u.desc.team) o = []

/-- The members' vector floating units deliver what the rules give, which counts for `.f32` scans and reductions (R143). -/
def sound (i : Instr) (v : Unit) (team : Nat) : Prop :=
  match i with
  | .tscan _ _ _ .f32 _ _ _ _ => ∀ m ∈ v.teamLive team, m.strike = 0
  | .tred _ _ .f32 _ _ _ _ => ∀ m ∈ v.teamLive team, m.strike = 0
  | _ => True

/-- A variable-latency result of a team operation. -/
def receives (d : VReg) (x f : Fibre) (rs : List Reg) : Fibre := f.pendRegs (x.base + d.toNat) rs

/-- The form of a slide. -/
def slideForm (c : Ctl) (t : ITy) (fill : Fill) (d : VReg) (a b : Src) : Op :=
  { op0 c with
    reads := a.reads 1 t.wide t.is16 ++ b.reads 2 false true ++
      (match fill with | .fc e => e.reads 3 t.wide t.is16 | _ => [])
    last := a.lastRegs t.wide ++ b.lastRegs false ++ (match fill with | .fc e => e.lastRegs t.wide | _ => [])
    regs := dstRegs d (wordsOf t.wide) }

/-- What a slide gives (R168). -/
def slides (down : Bool) (t : ITy) (fill : Fill) (d : VReg) (a b : Src) : Gives := fun g tid x f =>
  let n := (x.src32 b).toNat
  let own : Src := match fill with | .fc e => e | _ => .const 0
  let half (h : Nat) : BitVec 16 := match slideFrom down fill (2 * g.width) (2 * tid + h) n with
    | .elem j => ((g.reg (j / 2) a).val).extractLsb' (16 * (j % 2)) 16
    | .own => (x.src32 own).extractLsb' (16 * h) 16
    | .zero => 0
  receives d x f (if t.is16 then [fresh (half 1 ++ half 0)]
    else match slideFrom down fill g.width tid n with
      | .elem j => g.words j t a
      | .own => x.srcRegs t own
      | .zero => if t.wide then [Reg.zero, Reg.zero] else [Reg.zero])

/-- The team operations: forms and what each member receives (R166 to R176). -/
def teams : Instr → Option (Op × Gives)
  | .tsync stall => some (op0 (unpredCtl stall), fun _ _ _ f => f)
  | .tslide c down t fill d a b => some (slideForm c t fill d a b, slides down t fill d a b)
  | .tshfl c byXor t d a b e =>
    some ({ op0 c with
        reads := a.reads 1 t.wide false ++ b.reads 2 false true ++ e.reads 3 t.wide false
        last := a.lastRegs t.wide ++ b.lastRegs false ++ e.lastRegs t.wide, regs := dstRegs d (wordsOf t.wide) },
      fun g tid x f =>
        let i := if byXor then (BitVec.ofNat 32 tid ^^^ x.src32 b).toNat else (x.src32 b).toNat
        receives d x f (if i < g.width then g.words i t a else x.srcRegs t e))
  | .tbcast c t d a k =>
    some ({ op0 c with reads := a.reads 1 t.wide false, last := a.lastRegs t.wide, regs := dstRegs d (wordsOf t.wide) },
      fun g _ x f => receives d x f (if (x.src32 k).toNat < g.width then g.words (x.src32 k).toNat t a else x.srcRegs t a))
  | .tscan c op ex t sat r d a =>
    some (op1 c a (scanWide t) true (dstRegs d (wordsOf (scanWide t))), fun g tid x f =>
      let out := scanChain op t sat (x.rounding r) a g (if ex then tid else tid + 1)
      (receives d x f out.1).raise out.2)
  | .tred c op t sat r d a =>
    some (op1 c a (scanWide t) true (dstRegs d (wordsOf (scanWide t))), fun g _ x f =>
      let out := scanChain op t sat (x.rounding r) a g g.width
      (receives d x f out.1).raise out.2)
  | .tvote c op d a => some ({ op0 c with reads := [.pred a], preds := [d] }, fun g _ _ f => f.pendPred d (match op with
      | .all => (g.votes a).all id
      | .any => (g.votes a).any id
      | .uni => (g.votes a).all id || (g.votes a).all not))
  | .tballot c k d a => some ({ op0 c with reads := [.pred a], regs := dstRegs d 1 }, fun g _ x f =>
      receives d x f [fresh (ballotWord k fun i => decide (i < g.width) && ((g.mem i).map fun m => m.pred a).getD false)])
  | .tmatch c k t d a => some (op1 c a t.wide true (dstRegs d 1), fun g _ x f =>
      receives d x f [fresh (ballotWord k fun i =>
        decide (i < g.width) && ((g.mem i).map fun m => m.srcBits t a == x.srcBits t a).getD false)])
  | .telect c d => some ({ op0 c with preds := [d] }, fun g tid _ f => f.pendPred d (!(List.range tid).any g.run))
  | _ => none

/-- What a team gathers for an operation (R167): of every live member whose reads do not trap, the fibre as read and whether
its guard holds. -/
def gathered (s : State) (u : Unit) (team : Nat) (o : Op) : Gather :=
  let good := ((u.teamLive team).map fun f => f.settle s.clk).filter fun f => (o.memberTrap (s.chkOf u) f).isNone
  { mem := fun t => ((good.map fun f => (f, f.scrub o.reads)).find? fun e => e.1.fid % u.desc.team == t).map fun e => e.2.1
    run := fun t => good.any fun f => f.fid % u.desc.team == t && f.runs o.ctl
    width := u.desc.team }

end Sys2Proof.Machine.Claims

open Sys2Proof Sys2Proof.Machine

/-- Every team operation is executed, once for the whole team, when the last live member arrives (R80, R166). -/
def Obligations.TeamOperationsComplete : Prop :=
  ∀ (i : Instr) (o : Op) (eff : Claims.Gives), Claims.teams i = some (o, eff) →
    ∀ (s : State) (u : Machine.Unit) (f : Fibre) (v : Machine.Unit), Claims.Converges s u f v o →
      Claims.sound i v (f.fid / u.desc.team) →
      exec i s = .next ((Claims.arrives s f).teamRun v (f.fid / u.desc.team) o (plainFx eff))

/-- What becomes of a member when its team operation is executed (R50, R166, R167): a member whose reads do not trap has passed
the instruction, whatever the other members do. Where its guard lets it, it holds what the operation gives it; where its guard
is false, it receives nothing, and a released source counts for nothing. -/
def Obligations.TeamMembersReceive : Prop :=
  ∀ (s : State) (u : Machine.Unit) (team : Nat) (o : Op) (eff : Claims.Gives) (m : Fibre),
    s.unit? u.key = some u → (u.fibres.map Fibre.fid).Nodup → s.detOf u = false → m ∈ u.teamLive team →
    (∀ g tid x f, (eff g tid x f).fid = f.fid) →
    o.memberTrap (s.chkOf u) (m.settle s.clk) = none →
    let x := (m.settle s.clk).seen o
    let becomes (g : Fibre) : Prop :=
      ((s.teamRun u team o (plainFx eff)).unit? u.key).bind (fun v => v.fibre? m.fid) = some g
    ((m.settle s.clk).runs o.ctl = true →
      becomes (eff (Claims.gathered s u team o) (m.fid % u.desc.team) x
        ((if x.readsReleased o.reads then x.raise 0x40 else x).pass o.last (s.seqNext (s.ctxOf u) m.pc) s.clk o.ctl.stall))) ∧
    ((m.settle s.clk).runs o.ctl = false →
      becomes (x.pass o.last (s.seqNext (s.ctxOf u) m.pc) s.clk o.ctl.stall))

namespace Sys2Proof.Machine.Claims

/-- What an instruction comes to whose effect reaches beyond its fibre: its form, and when, from the state in which its fibre
has passed it, its effect leaves which state. -/
abbrev Reach := Op × (Ctx → State → State → Prop)

/-- The claim that the instructions of a table are carried out where nothing holds them back and their access allows it. -/
def CarriesOutWhere (table : Instr → Option Reach) : Prop :=
  ∀ (i : Instr) (o : Op) (R : Ctx → State → State → Prop), table i = some (o, R) →
    ∀ (s : State) (u : Unit) (f : Fibre) (t : State), s.Clear u f o →
      R { u := u, f := f.seen o } (s.passed u f o) t → exec i s = .next (s.closed u f o t)

/-! ### Loads (06 R120 to R122, R126) -/

/-- Nothing of this fibre or of its core holds an access back (R13, R217, R222). -/
def free (s : State) (x : Ctx) (m : MMod) (a : Acc) (size : Nat) : Prop :=
  x.f.served = false ∧ s.rangeBusy x.u.core a.key size false = false ∧ x.f.ownBusy x.u.core a.key size = false ∧
    (m.order = .acq → x.f.releaseOut = false) ∧ a.space ≠ 4

/-- A load's value is fixed now, from the source named: the memory system has served it (its line is neither lost nor
poisoned), it lies in no coherent line, or a copy in L1 may serve it. -/
def fixedBy (s : State) (x : Ctx) (m : MMod) (a : Acc) (size : Nat) (l1 : Bool) : Source → Prop
  | .mem => (x.f.served = true ∧
      (tokenKey a.key = true → (s.line (a.key / 64)).lost = false ∧ (s.line (a.key / 64)).poisoned = false)) ∨
    (free s x m a size ∧ tokenKey a.key = false)
  | .l1 c => free s x m a size ∧ tokenKey a.key = true ∧ l1 = true ∧ discards m = false ∧ s.detOf x.u = false ∧
    s.l1? x.u.core (a.key / 64) = some c

/-- The words of a load of `n` words are fixed in the state `s1` (R123, R217, R224): at once, as a load of up to 8 bytes is,
one that a copy in L1 serves, one in a round of a DET launch, or one that is `whole`; or, of 16 bytes, the half that its fibre
has not read yet, beside the half that it holds. -/
def fixes (m : MMod) (a : Acc) (n : Nat) (whole : Bool) (x : Ctx) (s s1 : State) (src : Source) (ws : List Reg) : Prop :=
  let words (k n : Nat) : List Reg := (List.range n).map fun j => s1.sourceWord x src (k + 4 * j)
  (x.f.half = none ∧ fixedBy s x m a (4 * n) true src ∧ (n ≠ 4 ∨ whole = true ∨ src ≠ .mem ∨ s.overlaid x.u = true) ∧
    s1 = s.fixView x src a (4 * n) ∧ ws = words a.key n) ∨
  ∃ upper held, x.f.half = some (upper, held) ∧
    let b : Acc := if upper = true then a else { a with adr := a.adr + 8, key := a.key + 8 }
    fixedBy s x m b 8 true src ∧ s1 = s.fixView x src b 8 ∧
      ws = if upper = true then words b.key 2 ++ held else held ++ words b.key 2

/-- A load of whole words, with their codes, as its cluster has come to see them (R217, R224). -/
def loads (m : MMod) (p : MemOp) (d : VReg) (n : Nat) (x : Ctx) (s t : State) : Prop :=
  ∃ a s1 src ws, s.reachMem x p (4 * n) (4 * n) permR rightR allSpaces = .ok a ∧ fixes m a n false x s s1 src ws ∧
    t = (s1.afterLoad x m a src).modCur fun f => f.pendRegs (x.f.base + d.toNat) ws

/-- A load of one or two bytes, extended as its type says (R120); the word it lies in is readable. -/
def loadsSmall (t : ITy) (m : MMod) (p : MemOp) (d : VReg) (x : Ctx) (s t' : State) : Prop :=
  ∃ a src w fixed, s.reachMem x p (memBytes t) (memBytes t) permR rightR allSpaces = .ok a ∧
    fixedBy s x m a (memBytes t) true src ∧ let s1 := s.fixView x src a (memBytes t)
    checkWord (s1.sourceWord x src (wordKey a.key)) = some (w, fixed) ∧
    t' = ((s1.afterLoad x m a src).noteFix x.u.core (wordKey a.key) fixed).modCur fun f =>
      f.pendRegs (x.f.base + d.toNat) [fresh (extendLoad t w (a.key % 4))]

/-- A load of a capability: its tag counts in the spaces that keep tags, where it is one access (R126). -/
def loadsCap (m : MMod) (d : CReg) (p : MemOp) (x : Ctx) (s t : State) : Prop :=
  ∃ a s1 src ws bits, s.reachMem x p 16 16 (permR ||| permL) rightR allSpaces = .ok a ∧
    let tagged : Bool := a.space == 1 || a.space == 2 || a.space == 3
    fixes m a 4 tagged x s s1 src ws ∧ capWords ws = .ok bits ∧
    let seen := s1.viewTag x.u.core a.key
    t = (((List.range 4).foldl (fun s j => s.noteFix x.u.core (a.key + 4 * j) (corrected (ws.getD j Reg.zero)))
        (s1.afterLoad x m a src)).modCur fun f => f.pend (.cap d) (some (.cap
        { bits := bits, bad := false, tag := tagged && (if s.overlaid x.u then x.f.overlayTag a.key seen else seen) })))

/-- A load of 16 bytes reads one of its two halves, either of them, and waits for the other (R123); which it reads first is
log 91's free value. -/
def readsHalf (i : Instr) (m : MMod) (a : Acc) (x : Ctx) (s : State) (t : State) : Prop :=
  x.f.half = none ∧ s.overlaid x.u = false ∧ fixedBy s x m a 16 true .mem ∧
    let s0 := s.draw.2
    let upper := Config.freeNat s.draw.1 % 2 == 1
    let at' (upper : Bool) : Acc := if upper then { a with adr := a.adr + 8, key := a.key + 8 } else a
    let b := at' upper
    let c := at' !upper
    let s1 := s0.fixView x .mem b 8
    let words := (List.range 2).map fun j => s1.sourceWord x .mem (b.key + 4 * j)
    t = s1.modCur fun _ => { x.f with
      half := some (upper, words), served := false, again := true
      wait := some (if a.space = 4 then .hostRead i s1.time else .load i c.key c.space c.adr) }

/-! ### Stores (06 R121, R122, R126) -/

/-- A store is performed as two halves of 8 bytes. -/
def inHalves (kind : ReqKind) (a : Acc) (size : Nat) : Bool :=
  size == 16 && !decide (region 6 ≤ a.key ∧ a.key < region 7) &&
    (decide (a.space = 0 ∨ a.space = 4 ∨ a.space = 5) || match kind with | .store _ _ => true | _ => false)

/-- A store that has passed its checks. A DET stroke and a shadow copy keep it; one to the core's own scratchpad is
performed at once where no earlier one is outstanding (R219 note 2); any other is left with the fabric, one of 16 bytes as two
halves (R123), but for a capability in spaces 1 and 2, which is stored whole with its tag, and a transfer aperture (R282). -/
def stores (kind : ReqKind) (m : MMod) (a : Acc) (size : Nat) (last : List Nat) (x : Ctx) (s t : State) : Prop :=
  let r := s.newReq x kind (if m.order == .rel then .rel else .st) false m.scope a size [] last
  let s1 := s.sigWrite x.u x.f.fid r.seq a.space a.adr r.bytes
  let own := (s.current?.map (·.2)).getD x.f
  let gs := (granulesOf a.key size).foldl insNat own.stroke.granules
  s.rangeBusy x.u.core a.key size true = false ∧
    if s.detOf x.u = true then
      gs.length ≤ Config.strokeGranules ∧ t = { (s1.modCur fun f => { f with
        stroke := { f.stroke with granules := gs, stores := f.stroke.stores ++ [r] } }) with seqCtr := s.seqCtr + 1 }
    else if x.u.phantom a.key = true then
      t = { (s1.modCur fun f => { f with stroke := { f.stroke with stores := f.stroke.stores ++ [r] } }) with
        seqCtr := s.seqCtr + 1 }
    else if ownScratch x.u.core a.key = true ∧ m.order ≠ .rel ∧ own.ownBusy x.u.core a.key size = false ∧
        inHalves kind a size = false then
      t = { s1 with seqCtr := s.seqCtr + 1 }.doStore x.u x.f.fid 0 r
    else if inHalves kind a size = true then
      t = (s1.leave x.u.core r.halves.1).leave x.u.core { r.halves.2 with seq := s.seqCtr + 1 }
    else t = s1.leave x.u.core r

/-- A store through a memory operand of words with their codes. -/
def storesWords (m : MMod) (p : MemOp) (ws : Fibre → List Reg) (last : List Nat) (x : Ctx) (s t : State) : Prop :=
  ∃ a, s.reachStore x p (4 * (ws x.f).length) (4 * (ws x.f).length) permW storeSpaces = .ok a ∧
    stores (.store (bytesOfWords (ws x.f)) ((ws x.f).map Reg.code)) m a (4 * (ws x.f).length) last x s t

/-! ### Window moves (06 R107, R108) -/

/-- A plain access of unit scope. -/
def plainMod : MMod := { order := .plain, scope := .unit, hint := .dflt }

/-- WSPILL stores the words from index `i` on, one after the other, and then clears its progress. -/
def spills (x : Ctx) (r : VReg) (space adr : Nat) (i : Nat) : Nat → State → State → Prop
  | 0, s, t => t = s.modCur fun f => { f with prog := 0 }
  | k + 1, s, t => ∃ key s1, s.storeKey x.u space (adr + 4 * i) = some key ∧
      stores (.store (bytesOfWords [x.f.reg (r.toNat + i)]) [(x.f.reg (r.toNat + i)).code]) plainMod
        { space := space, adr := adr + 4 * i, key := key } 4 [] x s s1 ∧
      spills x r space adr (i + 1) k s1 t

/-- WFILL loads the words from index `i` on into the window, one after the other, and then clears its progress; `g` is the
fibre with what it has loaded so far. -/
def fills (x : Ctx) (r : VReg) (space adr : Nat) (i : Nat) : Nat → Fibre → State → State → Prop
  | 0, g, s, t => t = s.modCur fun f => { f with stack := g.stack, flights := g.flights, prog := 0 }
  | k + 1, g, s, t => ∃ key src, s.locate x.u space (adr + 4 * i) rightR = some key ∧
      fixedBy s { x with f := g } plainMod { space := space, adr := adr + 4 * i, key := key } 4 true src ∧
      let a : Acc := { space := space, adr := adr + 4 * i, key := key }
      let s1 := s.fixView { x with f := g } src a 4
      (checkWord (s1.sourceWord { x with f := g } src key) ≠ none ∨ Config.fillChecks = false) ∧
      fills x r space adr (i + 1) k
        { g.load1 (x.f.base + r.toNat + i) (s1.sourceWord { x with f := g } src key) with served := false }
        (s1.afterLoad { x with f := g } plainMod a src) t

/-- A window move: nothing to move, or the words left to move. -/
def moves (r : VReg) (p : MemOp) (n : Src) (need : Byte) (ok : Fibre → Prop) (go : Nat → Nat → Nat → Ctx → State → State → Prop)
    (x : Ctx) (s t : State) : Prop :=
  let cnt := (x.f.src32 n).toNat
  if cnt = 0 ∨ cnt ≤ x.f.moved then t = s.modCur fun f => { f with prog := 0 }
  else r.toNat + cnt ≤ 64 ∧ ok x.f ∧ ∃ adr,
    s.access x.u (x.f.cap p.cap.n) p.cap.n (x.f.offset p) (4 * cnt) 4 need = .ok adr ∧
      go adr x.f.moved (cnt - x.f.moved) x s t

/-- A prefetch: a line that the slice can read is fetched into the level named; another is asked for, and goes on into the L1
named when it comes; where anything is wrong nothing happens (R124). -/
def prefetches (l2 : Bool) (p : MemOp) (x : Ctx) (s t : State) : Prop :=
  (∀ a, s.reachMem x p 1 1 permR rightR allSpaces ≠ .ok a ∨ tokenKey a.key = false) ∧ t = s ∨
  ∃ a, s.reachMem x p 1 1 permR rightR allSpaces = .ok a ∧ tokenKey a.key = true ∧
    let n := a.key / 64
    let l := s.line n
    let req := s.reqOf l (dieOf x.u.core)
    if l.lost = true ∨ l.poisoned = true then t = s
    else if l.canRead req = true then t = (if l2 then s else s.fillL1 x.u.core n)
    else
      let s1 := if (l.attempt? req).isSome then s else s.noteAttempt n req false
      let s2 := if l2 then s1 else s1.modLine n fun l => { l with
        attempts := updIf l.attempts (fun y => y.req == req) fun y => { y with fill := insNat y.fill x.u.core } }
      t = s2.ask n req false [none]

/-- The memory instructions: forms and effects. -/
def memories : Instr → Option Reach
  | .ld c t m d p => some ({ opM c p [] [] (dstRegs d (wordsOf t.wide)) 0 with takes := acqTakes m },
      fun x s t' => if 4 ≤ memBytes t then loads m p d (memBytes t / 4) x s t' else loadsSmall t m p d x s t')
  | .ldv c four m d p => some ({ opM c p [] [] (dstRegs d (if four then 4 else 2)) 0 with takes := acqTakes m },
      loads m p d (if four then 4 else 2))
  | .ldc c m d p => some ({ opM c p [] [] [] 0 with caps := [d], takes := acqTakes m }, loadsCap m d p)
  | .st c t m p v =>
    let o := opM c p (v.reads 3 t.wide (decide (memBytes t < 4))) (v.lastRegs t.wide) [] 0
    some (o, fun x s t' => if 4 ≤ memBytes t then storesWords m p (fun f => f.srcRegs t v) o.last x s t'
      else ∃ a, s.reachStore x p (memBytes t) (memBytes t) permW storeSpaces = .ok a ∧
        stores (.store (bytesOfNat (memBytes t) (x.f.src32 v).toNat) []) m a (memBytes t) o.last x s t')
  | .stv c four m p v =>
    let n := if four then 4 else 2
    let o := opM c p (groupReads 3 v.n.toNat n false) (v.lastRegs n) [] 0
    some (o, storesWords m p (fun f => (List.range n).map fun i => f.reg (v.n.toNat + i)) o.last)
  | .stc c m p v =>
    let o := opM c p [.cap 3 v.n true] [] [] 0
    some (o, fun x s t => ∃ a, s.reachStore x p 16 16 (permW ||| permS) storeSpaces = .ok a ∧
      stores (.storeCap (x.f.cap v.n)) m a 16 o.last x s t)
  | .pref c l2 _ p => some (opM c p [] [] [] 0, prefetches l2 p)
  | _ => none

/-! ### Capabilities (06 R127 to R132) -/

/-- A capability result that lands four cycles later. -/
def landsCap (d : CReg) (v : CapReg) (s : State) : State := s.modCur fun f => f.fly (s.clk + 4) (.cap d) (.cap v)

/-- A tagged capability that may be derived from. -/
def derivable (v : CapReg) : Prop := v.tag = true ∧ permD &&& v.perms = permD

/-- The words of a field of a capability (R129). -/
def fieldWords (k : CapField) (v : CapReg) : List Reg :=
  match k with
  | .base => regs64 (v.bits.extractLsb' 0 64)
  | .len => regs64 (BitVec.ofNat 64 (min v.length (2 ^ 64 - 1)))
  | .perms => [fresh (v.perms.setWidth 32)]
  | .space => [fresh (BitVec.ofNat 32 v.space)]
  | .gen => [fresh v.gen]
  | .tag => [fresh (if v.tag then 1 else 0)]

/-- The capability instructions: forms and effects. -/
def capabilities : Instr → Option Reach
  | .cderive c d a b e => some ({ opC c a true (b.reads 2 false true ++ e.reads 3 false true)
        (b.lastRegs false ++ e.lastRegs false) [] with caps := [d] }, fun x s t =>
      let v := x.f.cap a.n
      let off := (x.f.src32 b).toNat
      let len := (x.f.src32 e).toNat
      derivable v ∧ off + lenMant len * 2 ^ lenExp len ≤ v.length ∧ t = landsCap d { v with
        bits := capBits v.gen v.space v.perms (lenMant len) (lenExp len) (v.base + off) } s)
  | .cperm c d a b => some ({ opC c a true (b.reads 2 false true) (b.lastRegs false) [] with caps := [d] }, fun x s t =>
      let v := x.f.cap a.n
      derivable v ∧ t = landsCap d { v with
        bits := capBits v.gen v.space (v.perms &&& (x.f.src32 b).setWidth 8) v.mant v.exp v.base } s)
  | .cget c k d a => some (opC c a true [] [] (dstRegs d (match k with | .base => 2 | .len => 2 | _ => 1)), fun x s t =>
      t = s.modCur fun f => f.flyRegs (s.clk + 4) (x.f.base + d.toNat) (fieldWords k (x.f.cap a.n)))
  | .caddr c d a b =>
    some (opC c a true (b.reads 2 false true) (b.lastRegs false) (dstRegs d 2), fun x s t =>
      let v := x.f.cap a.n
      v.tag = true ∧ (x.f.src32 b).toNat ≤ v.length ∧ t = s.modCur fun f =>
        f.flyRegs (s.clk + 4) (x.f.base + d.toNat) (regs64 (BitVec.ofNat 64 (v.base + (x.f.src32 b).toNat))))
  | .cmov c d a => some ({ opC c a false [] [] [] with caps := [d] }, fun x s t => t = landsCap d (x.f.cap a.n) s)
  | .ctest c d a b e mask => some ({ opC c a true (b.reads 2 false true ++ e.reads 3 false true)
        (b.lastRegs false ++ e.lastRegs false) [] with preds := [d] }, fun x s t =>
      let v := x.f.cap a.n
      let ok := v.tag && decide (v.space < 6) && s.genOk x.u v && mask &&& v.perms == mask &&
        decide ((x.f.src32 b).toNat + (x.f.src32 e).toNat ≤ v.length)
      t = if d == 15 then s else s.modCur fun f => f.fly (s.clk + 4) (.pred d) (.bit ok))
  | _ => none

/-! ### The fabric (11 R239 to R262) -/

/-- A request that waits at the commit of a DET round as one of any other launch does: its tokens cannot be gathered, until
the line is lost (R203, R205), or it reclaims a line whose home is silent (R261). -/
def stranded (s : State) (u : Unit) (r : Req) : Bool :=
  let l := s.line (r.key / 64)
  r.needsTokens && !u.phantom r.key && if l.lost then !r.failsLost && !s.homeAnswers l else s.gone (r.key / 64)

/-- A request that has passed its checks: left with the fabric, its destinations pending and its fibre waiting if it
acquires; or, in a DET launch, performed at the commit that issues it, where its line's tokens are gathered (R235), but for an
AtomicOp, which leaves for the host (R241), and one that is stranded. -/
def requests (kind : ReqKind) (cls : AccClass) (acq : Bool) (sc : Scope) (a : Acc) (size : Nat) (dests last : List Nat)
    (x : Ctx) (s t : State) : Prop :=
  let r := s.newReq x kind cls acq sc a size dests last
  let s1 := s.modCur fun f => f.pendEmpty (r.dests.headD 0) r.dests.length
  let n := a.key / 64
  s.rangeBusy x.u.core a.key size true = false ∧ ∃ host : Bool,
    (host = true ↔ s.detOf x.u = true ∧ a.space = 4 ∧ r.isAtomic = true ∧ x.u.phantom a.key = false) ∧
    if s.detOf x.u = true ∧ host = false ∧ stranded s x.u r = false then
      let req := s1.reqOf (s1.line n) (dieOf x.u.core)
      let s2 := s1.countL2 x.u.core r
      if r.gathers = true ∧ x.u.phantom a.key = false then
        let s3 := s2.gatherAt n req
        t = ({ s3 with seqCtr := s3.seqCtr + 1 }.perform x.u x.f.fid req r).passOn n
      else t = { s2 with seqCtr := s2.seqCtr + 1 }.perform x.u x.f.fid req r
    else
      let s2 := s1.leave x.u.core { r with sent := host }
      t = if acq = true then s2.modCur fun f => { f with wait := some (.acquire r.seq) } else s2

/-- An atomic: its access may be made, and it is requested with its order and scope (R239 to R246). -/
def atomics (p : MemOp) (size : Nat) (pcie : Bool) (m : MMod) (kind : Fibre → ReqKind) (regs last : List Nat)
    (x : Ctx) (s t : State) : Prop :=
  ∃ a, s.reachAtomic x p size pcie = .ok a ∧
    requests (kind x.f) (if m.order = .rel ∨ m.order = .ar then .rel else .at)
      (decide (m.order = .acq ∨ m.order = .ar)) m.scope a size regs last x s t

/-- The bytes of `n` registers from one on. -/
def regBytes (r n : Nat) (f : Fibre) : List Byte := bytesOfWords ((List.range n).map fun j => f.reg (r + j))

/-- An update of a barrier object is requested. -/
def bars (p : MemOp) (need : Byte) (kind : Fibre → ReqKind) (cls : AccClass) (sc : Scope) (regs last : List Nat)
    (x : Ctx) (s t : State) : Prop :=
  ∃ a, s.reachMem x p 8 8 need (rightR ||| rightW) [1, 2] = .ok a ∧ requests (kind x.f) cls false sc a 8 regs last x s t

/-- The acquire of a barrier's flip: at `.gang` scope or wider the core's shared L1 copies are discarded (R192, R231), and what
engines have written is seen (R14, R15). -/
def flipSeen (s : State) (core : Nat) (sc : Scope) : State :=
  (if sc = .unit then s else s.dropL1Shared core).lookEngines core

/-- What an acquire fence of a scope waits for (R213, R217): the reads of atomics and of LNRECLAIM, and barrier arrivals of a
narrower scope, which count as atomics. -/
def heldBack (r : Req) (sc : Scope) : Prop :=
  r.isAtomic = true ∨ (∃ b, r.kind = .lnreclaim b) ∨
    ((r.kind = .bararr ∨ ∃ n, r.kind = .bartx n) ∧ scopeNum r.scope < scopeNum sc)

/-- The value of a monitored word meets the wait (R255). -/
def meets (ge : Bool) (want w : DWord) : Prop := if ge = true then want.toNat ≤ w.toNat else w ≠ want

/-- The fabric's instructions: forms and effects. -/
def fabrics : Instr → Option Reach
  | .amo c op t m d p v =>
    let o := opReq c p (v.reads 3 t.wide true) (v.lastRegs t.wide) (dstRegs d (wordsOf t.wide)) 2 [.store]
    some (o, atomics p (memBytes t) (op == .add || op == .swap) m (fun f => .amo op t.signed (f.srcBits t v)) o.regs o.last)
  | .cas c t m d p v =>
    let n := wordsOf t.wide
    let o := opReq c p (groupReads 3 v.n.toNat (2 * n) true) (v.lastRegs (2 * n)) (dstRegs d n) 2 [.store]
    some (o, atomics p (4 * n) true m (fun f => .cas (regBytes v.n.toNat n f) (regBytes (v.n.toNat + n) n f)) o.regs o.last)
  | .cas16 c m d p v =>
    let o := opReq c p (groupReads 3 v.n.toNat 8 true) (v.lastRegs 8) (dstRegs d 4) 2 [.store]
    some (o, atomics p 16 true m (fun f => .cas (regBytes v.n.toNat 4 f) (regBytes (v.n.toNat + 4) 4 f)) o.regs o.last)
  | .amof c op m d p v =>
    let o := opReq c p (v.reads 3 false true) (v.lastRegs false) (dstRegs d 1) 2 [.store]
    some (o, atomics p 4 false m (fun f => .amof op (f.src32 v) f.rmode) o.regs o.last)
  | .fence c order scope => some ({ op0 c with ends := 2, takes := .store :: engineFaults }, fun x s t =>
      (∀ r ∈ x.f.outst, if order = .acq then ¬ heldBack r scope else r.cls = .none) ∧
        (order ≠ .acq → s.unreadPosts x.u x.f = false) ∧
        let s1 := if order = .acq then s.sysRelease x.u scope else s.releaseTo x.u scope
        t = if (order = .acq ∨ order = .ar) ∧ scope ≠ .unit then s1.dropL1Shared x.u.core else s1)
  | .stroke c => some ({ op0 c with ends := 2, takes := [.store] }, fun _ s t => t = s)
  | .barinit c sc p v =>
    let o := opReq c p (v.reads 3 false true) (v.lastRegs false) [] 2 []
    some (o, bars p permW (fun f => .barinit (f.src32 v)) .rel sc [] o.last)
  | .bararr c sc d p =>
    let o := opReq c p [] [] (dstRegs d 1) 4 [.store]
    some (o, bars p permA (fun _ => .bararr) .ba sc o.regs o.last)
  | .bartx c sc d p v =>
    let o := opReq c p (v.reads 3 false true) (v.lastRegs false) (dstRegs d 1) 4 []
    some (o, fun x s t => (x.f.src32 v).toNat ≤ 4194288 ∧
      bars p permA (fun f => .bartx (((f.src32 v).toNat + 15) / 16)) .ba sc o.regs o.last x s t)
  | .barwait c sc p v =>
    some ({ opM c p (v.reads 3 false true) (v.lastRegs false) [] 5 with takes := engineFaults }, fun x s t =>
      ∃ a, s.reachMem x p 8 8 permR (rightR ||| rightW) [1, 2] = .ok a ∧
        ((x.f.served = true ∧ t = flipSeen s x.u.core sc) ∨
          (x.f.served = false ∧ s.rangeBusy x.u.core a.key 8 false = false ∧ x.f.ownOverlap a.key 8 = false ∧
            x.f.releaseOut = false ∧ s.badRange a 8 = none ∧
            (s.mem.dword a.key).getLsbD 63 = !(x.f.src32 v).getLsbD 0 ∧
            t = flipSeen (s.noteRange s.mem x.u.core a.key 8) x.u.core sc)))
  | .bartest c sc d p v =>
    some ({ opM c p (v.reads 3 false true) (v.lastRegs false) [] 0 with preds := [d] }, fun x s t =>
      ∃ a, s.reachMem x p 8 8 permR (rightR ||| rightW) [1, 2] = .ok a ∧
        s.rangeBusy x.u.core a.key 8 false = false ∧ x.f.ownBusy x.u.core a.key 8 = false ∧ s.badRange a 8 = none ∧
        let flipped := (s.mem.dword a.key).getLsbD 63 != (x.f.src32 v).getLsbD 0
        (flipped = true → x.f.releaseOut = false) ∧
        let s0 := s.noteRange s.mem x.u.core a.key 8
        let s1 := if flipped then flipSeen s0 x.u.core sc else s0
        t = if d == 15 then s1 else s1.modCur fun f => f.pend (.pred d) (some (.bit flipped)))
  | .mwait c ge t m d p v =>
    some ({ opM c p (v.reads 3 t.wide true) (v.lastRegs t.wide) (dstRegs d (wordsOf t.wide)) 5 with
        takes := acqTakes m ++ engineFaults }, fun x s t' =>
      ∃ a, s.reachMem x p (memBytes t) (memBytes t) permR rightR allSpaces = .ok a ∧
        let x' : Ctx := if s.detOf x.u && a.space != 4 then { x with f := { x.f with served := true } } else x
        let w : DWord := if t.wide then s.mem.dword a.key else (s.mem.good a.key).setWidth 64
        (s.detOf x.u = true → s.rangeBusy x.u.core a.key (memBytes t) false = false) ∧
        fixedBy s x' m a (memBytes t) false .mem ∧ s.badRange a (memBytes t) = none ∧ meets ge (x.f.srcBits t v) w ∧
        let s0 := (s.lookAll x.u.core a.key (memBytes t)).noteRange s.mem x.u.core a.key (memBytes t)
        let s1 := s0.dropL1 x.u.core (a.key / 64)
        t' = (if discards m then s1.dropL1Shared x.u.core else s1).modCur fun f =>
          f.pendRegs (x.f.base + d.toNat) (regsAt t.wide w))
  | .lnflush c p => some (opM c p [] [] [] 0, fun x s t =>
      ∃ a, s.reachMem x p 1 1 permR rightR allSpaces = .ok a ∧
        let r := s.newReq x .lnflush .none false .unit a 1 [] []
        t = if tokenKey a.key = false then s
          else if s.detOf x.u = true then { s with seqCtr := s.seqCtr + 1 }.perform x.u x.f.fid 0 r
          else s.leave x.u.core r)
  | .lninv c p => some (opReq c p [] [] [] 2 [], fun x s t =>
      s.sysOf x.u = true ∧ ∃ a, s.reachMem x p 1 1 permW rightW [0, 5] = .ok a ∧
        requests .lninv .st false .unit { a with adr := a.adr / 64 * 64, key := a.key / 64 * 64 } 64 [] [] x s t)
  | .lnreclaim c m d p v =>
    let o := opReq c p (groupReads 3 v.n.toNat 16 true) (v.lastRegs 16) (dstRegs d 1) 2 []
    some (o, fun x s t => s.sysOf x.u = true ∧ ∃ a, s.reachMem x p 64 64 permW rightW [0, 5] = .ok a ∧
      requests (.lnreclaim (regBytes v.n.toNat 16 x.f)) (if m.order = .rel ∨ m.order = .ar then .rel else .at) false
        m.scope a 64 o.regs o.last x s t)
  | .lnstat c d p => some (opM c p [] [] (dstRegs d 1) 0, fun x s t =>
      ∃ a, s.reachMem x p 1 1 permR rightR allSpaces = .ok a ∧
        t = s.modCur fun f => f.pendRegs (x.f.base + d.toNat)
          [fresh (if tokenKey a.key then s.lineState (a.key / 64) (dieOf x.u.core) else 0)])
  | _ => none

end Sys2Proof.Machine.Claims

open Sys2Proof Sys2Proof.Machine

/-- LD, LDV, LDC, ST, STV, STC and PREF are carried out: what a load brings, with the codes and the tag, and where a store
goes (R120 to R126); and a load of 16 bytes that is not one access has read one of its halves first (R123). -/
def Obligations.MemoryInstructionsComplete : Prop :=
  Claims.CarriesOutWhere Claims.memories ∧
  ∀ (c : Ctl) (m : MMod) (p : MemOp) (s : State) (u : Machine.Unit) (f : Fibre) (t : State),
    (∀ d : VReg, let o : Op := { opM c p [] [] (dstRegs d 4) 0 with takes := acqTakes m }
      let x : Ctx := { u := u, f := f.seen o }
      s.Clear u f o → (∃ a, (s.passed u f o).reachMem x p 16 16 permR rightR allSpaces = .ok a ∧
        Claims.readsHalf (.ldv c true m d p) m a x (s.passed u f o) t) → exec (.ldv c true m d p) s = .next t) ∧
    (∀ d : CReg, let o : Op := { opM c p [] [] [] 0 with caps := [d], takes := acqTakes m }
      let x : Ctx := { u := u, f := f.seen o }
      s.Clear u f o → (∃ a, (s.passed u f o).reachMem x p 16 16 (permR ||| permL) rightR allSpaces = .ok a ∧
        a.space ≠ 1 ∧ a.space ≠ 2 ∧ a.space ≠ 3 ∧ Claims.readsHalf (.ldc c m d p) m a x (s.passed u f o) t) →
        exec (.ldc c m d p) s = .next t)

/-- The capability instructions are carried out (R127 to R132). -/
def Obligations.CapabilityInstructionsComplete : Prop := Claims.CarriesOutWhere Claims.capabilities

/-- The fabric's instructions are carried out (R243 to R262). -/
def Obligations.FabricInstructionsComplete : Prop := Claims.CarriesOutWhere Claims.fabrics

/-- WSPILL and WFILL move the words that are left to move, and end with their progress cleared (R107, R108). -/
def Obligations.WindowMovesComplete : Prop :=
  ∀ (s : State) (u : Machine.Unit) (f : Fibre) (c : Ctl) (r : VReg) (p : MemOp) (n : Src) (t : State),
    (let o := opM c p (n.reads 3 false true ++ (moveRange s r n).map fun j => .reg 0 j false true) (n.lastRegs false) [] 0
      let x : Ctx := { u := u, f := f.seen o }
      s.Clear u f o → Claims.moves r p n permW (fun g => (g.cap p.cap.n).space ≠ 3)
        (fun adr i k x => Claims.spills x r (x.f.cap p.cap.n).space adr i k) x (s.passed u f o) t →
      exec (.wspill c r p n) s = .next (s.closed u f o t)) ∧
    (let o := opM c p (n.reads 3 false true) (n.lastRegs false) (moveRange s r n) 0
      let x : Ctx := { u := u, f := f.seen o }
      let inside (cnt j : Nat) : Prop := r.toNat ≤ j ∧ j < r.toNat + cnt
      let apart (g : Fibre) : Prop := (∀ q, p.idx = some q → ¬ inside (g.src32 n).toNat q.n.toNat) ∧
        ∀ j, srcRegNo n = some j → ¬ inside (g.src32 n).toNat j
      s.Clear u f o → Claims.moves r p n permR apart
        (fun adr i k x s t => ∃ t1, Claims.fills x r (x.f.cap p.cap.n).space adr i k x.f s t1 ∧
          t = t1.modCur fun g => o.last.foldl (fun (g : Fibre) j => g.release j) g) x (s.passed u f o) t →
      exec (.wfill c r p n) s = .next (s.closed u f o t))

namespace Sys2Proof.Machine.Claims

/-! ### Transfers (14 R297 to R304) -/

/-- No release or barrier update of a fibre is outstanding. -/
def released (f : Fibre) : Prop := ∀ r ∈ f.outst, r.cls ≠ .rel ∧ r.cls ≠ .ba

/-- A request that a transfer instruction names may be planned, from its template and coordinates (R297, R299). -/
def planned (t : Src) (b : Option RSrc) (x : Ctx) (s : State) (p : XPlan) : Prop :=
  s.xplan x.u (x.f.xask t b).tmpl (x.f.xask t b).x = .ok p

/-- A template that `XTPL` may bind a side of (R300). -/
def bindable (u : Unit) (n : Nat) (toSide : Bool) : Prop :=
  n < 64 ∧ ∃ tp l, (u.templates[n]?).bind tplOf = some tp ∧ (u.layouts[tp.lay]?).bind layOf = some l ∧
    refKind (if toSide then tp.dstRef else tp.srcRef) = 5

/-- The requests that an `XCANCEL` of a tag takes off (R303): those of the unit's that the tag names, or all. -/
def cancelled (s : State) (u : Unit) (tag : Word) : List XReq :=
  (((s.core? u.core).map fun c => c.loadQ ++ c.storeQ).getD []).filter fun r =>
    r.unit == u.key && !s.pushing u.core r &&
      (tag == 0xFFFFFFFF || (r.tmpl == (tag.extractLsb' 26 6).toNat && (u.tplState r.tmpl).named tag == some r.seq))

/-- The transfer instructions: forms and effects; `XSTAT` waits only where its answer is an observed completion (R295). -/
def transfers : Instr → Option Reach
  | .xfer c d t b => some (opXfer c d t b 3, fun x s t' => ∃ p, planned t b x s p ∧ released x.f ∧
      s.xroom x.u p false = true ∧ (x.f.served = true ∨ s.xbehind x.u.core (p.store x.u) none = false) ∧
      let e := s.acceptX x.u (x.f.xask t b) p
      t' = e.1.modCur fun f =>
        f.pendRegs (x.f.base + d.toNat) (regs64 (BitVec.ofNat 64 e.2.promise) ++ [fresh e.2.tag]))
  | .xprom c d t b => some (opXfer c d t b 2, fun x s t' => ∃ p, planned t b x s p ∧
      t' = (s.promise x.u p).2.modCur fun f =>
        f.pendRegs (x.f.base + d.toNat) (regs64 (BitVec.ofNat 64 (s.promise x.u p).1)))
  | .xtpl c a t toSide => some ({ op0 c with
        reads := .cap 1 a.n true :: t.reads 2 false true, last := t.lastRegs false, ends := 3, takes := [.transfer] },
      fun x s t' => (x.f.cap a.n).tag = true ∧ (x.f.cap a.n).perms &&& permX ≠ 0 ∧
        bindable x.u (x.f.src32 t).toNat toSide ∧
        t' = s.modTpl x.u.key (x.f.src32 t).toNat fun y =>
          if toSide then { y with to? := some (x.f.cap a.n) } else { y with from? := some (x.f.cap a.n) })
  | .xwait c a => some ({ op1 c a false true [] with ends := 5, takes := [.transfer] }, fun x s t =>
      x.u.tagDone (x.f.src32 a) = true ∧ t = s ∧
        (x.f.storesDone = true ∨ (x.u.tplState ((x.f.src32 a).extractLsb' 26 6).toNat).named (x.f.src32 a) = none))
  | .xcancel c d a => some ({ op1 c a false true (dstRegs d 1) with ends := 3, takes := [.transfer] }, fun x s t =>
      let rs := cancelled s x.u (x.f.src32 a)
      t = (rs.foldl (fun s r => s.cancelX x.u.core r) s).modCur fun f =>
        f.pendRegs (x.f.base + d.toNat) [fresh (BitVec.ofNat 32 rs.length)])
  | .xstat c d a => some ({ op1 c a false true (dstRegs d 2) with ends := 3 }, fun x s t =>
      ∃ k, s.core? x.u.core = some k ∧ (x.f.storesDone = true ∨ x.u.observes (x.f.src32 a) = false) ∧
        t = s.modCur fun f => f.pendRegs (x.f.base + d.toNat) [fresh (s.xstate k x.u (x.f.src32 a)),
          fresh (BitVec.ofNat 32 (x.u.tplState ((x.f.src32 a).extractLsb' 26 6).toNat).wmark)])
  | _ => none

/-! ### The wire (16 R353, R354) -/

/-- A post that passes its checks (R354): its length, the latch's offset, and a range of the unit's own scratchpad. -/
def posts (mode h : Nat) (d : VReg) (a : CSrc) (b : Option RSrc) (w : Src) (x : Ctx) (s t : State) : Prop :=
  let v := x.f.src32 w
  let len := (v.extractLsb' 0 14).toNat
  let port := (v.extractLsb' 16 1).toNat
  let off := match b with | some r => (x.f.reg r.n.toNat).val.toInt | none => 0
  let sp := (x.f.cap a.n).space
  let p := s.port port
  ∃ adr, v.extractLsb' 17 15 = 0 ∧ v.extractLsb' 14 2 = 0 ∧ 14 ≤ len ∧ len ≤ 9212 ∧ (mode = 2 → h + 44 ≤ len) ∧
    s.access x.u (x.f.cap a.n) a.n off len 4 permR = .ok adr ∧ 
      (sp = 1 ∨ sp = 2 ∧ adr / 2097152 = x.u.idx ∧ (adr + len - 1) / 2097152 = x.u.idx) ∧
    released x.f ∧ p.posts.length + p.sending.toList.length < Config.portPosts ∧
    ((s.core? x.u.core).map fun c => c.scoreboard.length).getD 0 < Config.scoreboardEntries ∧
    let own := if sp = 1 then adr else adr % 2097152
    let key := keyScratch x.u.core (x.u.allocBase + own)
    let tag : Word := BitVec.ofNat 32 (port * 2 ^ 30 + (p.postNo + 1) % 2 ^ 30)
    s.rangeBusy x.u.core key len false = false ∧
    let post : Post :=
      { num := p.postNo + 1, tag := tag, unit := x.u.key, fid := x.f.fid, key := key, off := own, len := len, mode := mode
        h := h, sb := s.seqCtr, pc := x.f.pc, made := s.clk }
    let record : PostRec := { num := p.postNo + 1, state := 1, fail := false, reason := 0, mode := mode, ts := none }
    let range : RangeEntry := { lo := key, hi := key + len, write := false, who := s.seqCtr }
    let s1 := s.modPort port fun q => { q with
      posts := q.posts ++ [post], postNo := p.postNo + 1
      hist := (q.hist ++ [record]).drop (q.hist.length + 1 - Config.portPosts) }
    let s2 := s1.modCore x.u.core fun c => { c with scoreboard := c.scoreboard ++ [range] }
    t = { s2 with seqCtr := s.seqCtr + 1 }.modCur fun f => f.pendRegs (x.f.base + d.toNat) [fresh tag]

/-- The form of a post. -/
def postForm (c : Ctl) (d : VReg) (a : CSrc) (b : Option RSrc) (w : Src) : Op :=
  opWire c (.cap 1 a.n true :: (match b with | some r => [.reg 2 r.n.toNat true false] | none => []) ++ w.reads 3 false true)
    ((match b with | some r => r.lastRegs 1 | none => []) ++ w.lastRegs false) (dstRegs d 1)

/-- A word pair comes to a register pair. -/
def twoWords (d : VReg) (x : Ctx) (a b : Word) (s : State) : State :=
  s.modCur fun f => f.pendRegs (x.f.base + d.toNat) [fresh a, fresh b]

/-- The wire instructions: forms and effects. -/
def wires : Instr → Option Reach
  | .rxtake c d r => some (opWire c (r.reads 1 false true) (r.lastRegs false) (dstRegs d 2), fun x s t =>
      let n := (x.f.src32 r).toNat
      ∃ g, released x.f ∧ s.ringOf x.u n = some g ∧ (ringTrap g.desc = true → g.drops = 0) ∧
        match g.oldest? .landed with
        | none => t = twoWords d x 0xFFFFFFFF 0 s
        | some k =>
          let off := ringBase g.desc + k * ringSlotBytes g.desc
          t = twoWords d x (BitVec.ofNat 32 off) (s.mem.good (keyScratch x.u.core (x.u.allocBase + off + 20)))
            (s.modRing n fun g => { g with slots := updAt g.slots k fun _ => .taken }))
  | .rxrel c r o =>
    some (opWire c (r.reads 1 false true ++ o.reads 2 false true) (r.lastRegs false ++ o.lastRegs false) [], fun x s t =>
      let n := (x.f.src32 r).toNat
      let off := (x.f.src32 o).toNat
      ∃ g k, x.f.storesDone = true ∧ s.unreadPosts x.u x.f = false ∧ s.ringOf x.u n = some g ∧ ringSlotBytes g.desc ≠ 0 ∧
        off = ringBase g.desc + k * ringSlotBytes g.desc ∧ g.slots[k]? = some .taken ∧
        t = s.modRing n fun g =>
          { g with slots := freeSlots (updAt g.slots k fun _ => .released) g.nextSlot (updAt g.slots k fun _ => SlotState.released).length })
  | .txpost c d a b w => some (postForm c d a b w, posts 0 0 d a b w)
  | .txpostTs2 c d a b w => some (postForm c d a b w, posts 1 0 d a b w)
  | .txpostTs1 c d a b w h => some (postForm c d a b w, posts 2 h.toNat d a b w)
  | .txstat c d a => some (opWire c (a.reads 1 false true) (a.lastRegs false) (dstRegs d 1), fun x s t =>
      t = s.modCur fun f => f.pendRegs (x.f.base + d.toNat) [fresh (match s.postRec? (x.f.src32 a) with
        | none => 3
        | some r => BitVec.ofNat 32 (r.state + (if r.ts.isSome then 4 else 0) + (if r.fail then 8 else 0) + 256 * r.reason))])
  | .ptprd c d => some (opWire c [] [] (dstRegs d 3), fun x s t =>
      t = s.modCur fun f => f.pendRegs (x.f.base + d.toNat) (regs96 s.wire.ptp))
  | .tsrec c d a => some ({ opWire c (a.reads 1 false true) (a.lastRegs false) (dstRegs d 3) with ends := 5 }, fun x s t =>
      let tag := x.f.src32 a
      let stamp (v : Option (BitVec 96)) : State :=
        s.modCur fun f => f.pendRegs (x.f.base + d.toNat) (regs96 (v.getD (BitVec.allOnes 96)))
      if tagPort tag = 3 then t = stamp s.wire.ppsEdge
      else match s.postRec? tag with
        | none => t = stamp none
        | some r => (r.state = 0 ∨ r.mode = 0) ∧ t = stamp r.ts)
  | _ => none

/-! ### The front end, banking and counters (18 R381 to R388, 20 R439, 22 R458) -/

/-- The graph that the issuer's launch lies in (R385). -/
def inGraph (s : State) (x : Ctx) (g : Graph) : Prop := ((s.myLaunch x).graph.bind fun g => s.graph? g.1) = some g

/-- An identifier, or 0, comes to a register. -/
def oneWord (d : VReg) (x : Ctx) (s : State) (w : Word) : State :=
  s.modCur fun f => f.pendRegs (x.f.base + d.toNat) [fresh w]

/-- The part that `LAUNCH` reads at its operand, and the signal part after it where the part says so (R382); with the release
that it is (R388), and the corrections of what it reads, they leave the state `t`. -/
def launchBlocks (p : MemOp) (x : Ctx) (s : State) (b : List Byte) (sg : Option (List Byte)) (t : State) : Prop :=
  ∃ a, s.reachMem x p 64 64 permR rightR [0, 3] = .ok a ∧ s.blockAt a 0 64 = .ok b ∧
    let s1 := (s.noteRange s.mem x.u.core a.key 64).releaseTo x.u .dev
    if field b 40 1 = 1 then ∃ a2 k sig, s1.reachMem x p 128 64 permR rightR [0, 3] = .ok a2 ∧
      s1.locate x.u a.space (a.adr + 64) rightR = some k ∧ s1.blockAt { a2 with key := k - 64 } 64 64 = .ok sig ∧
      sg = some sig ∧ t = s1.noteRange s1.mem x.u.core k 64
    else sg = none ∧ t = s1

/-- The entry that `HPOST` writes (R378, R383): the payload, the time of the post, and the stamp. -/
def entryBytes (f : Fibre) (v : RSrc) (t : BitVec 96) (n : Nat) : List Byte :=
  bytesOfWords (((List.range 8).map fun i => f.reg (v.n.toNat + i)).map egress) ++ bytesOfNat 12 t.toNat ++
    List.replicate 12 0 ++ bytesOfNat 8 n

/-- The instructions of the front end, the banking engine and the counters: forms and effects. -/
def fronts : Instr → Option Reach
  | .launch c d p => some (opFe c p.reads p.lastRegs (dstRegs d 1), fun x s t =>
      ∃ b sg s1, s.released x = true ∧ s.full true false = false ∧ launchBlocks p x s b sg s1 ∧
        t = oneWord d x (s1.launchFrom x b sg).1 (s1.launchFrom x b sg).2)
  | .cont c delta => some (opFe c [] [] [], fun x s t =>
      ∃ e, s.released x = true ∧ s.successor x delta = .ok e ∧ 
        t = ((s.releaseTo x.u .dev).recordNext x true e).endCur)
  | .garm c a => some (opFe c (a.reads 1 false true) (a.lastRegs false) [], fun x s t =>
      let s1 := s.releaseTo x.u .dev
      ∃ g, s.released x = true ∧ inGraph s1 x g ∧ (x.f.src32 a).toNat < g.nodes.length ∧
        t = s1.modGraph g.inst fun y => { y with events := y.events ++ [(x.f.src32 a).toNat] })
  | .gcond c k v =>
    some (opFe c (k.reads 1 false true ++ v.reads 3 true true) (k.lastRegs false ++ v.lastRegs true) [], fun x s t =>
      let s1 := s.releaseTo x.u .dev
      ∃ g, s.released x = true ∧ inGraph s1 x g ∧ (x.f.src32 k).toNat < 8 ∧
        t = s1.modGraph g.inst fun y => { y with regs := updAt y.regs (x.f.src32 k).toNat fun _ => x.f.src64 false v })
  | .signalWrite c p v =>
    let o := opSignal c p v []
    some (o, fun x s t => ∃ a, s.reachMem x p 8 8 permW rightW [0, 4, 5] = .ok a ∧
      requests (.store (bytesOfWords [(x.f.srcPair false v).1, (x.f.srcPair false v).2])
        [(x.f.srcPair false v).1.code, (x.f.srcPair false v).2.code]) .rel false .sys a 8 [] o.last x s t)
  | .signalAdd c p v =>
    let o := opSignal c p v [.store]
    some (o, fun x s t => ∃ a, s.reachMem x p 8 8 (permW ||| permA) (rightR ||| rightW) [0, 4, 5] = .ok a ∧
      (a.space = 4 → ((s.hostKey (s.funcOf x.u) a.adr).map (·.2)) = some true) ∧
      requests (.amo .add false (x.f.src64 false v)) .rel false .sys a 8 [] o.last x s t)
  | .cancel c l d a => some (opFe c (a.reads 1 false true) (a.lastRegs false) (dstRegs d 1), fun x s t =>
      t = oneWord d x (s.cancelBy (s.myLaunch x) l (x.f.src32 a)).1
        (BitVec.ofNat 32 (s.cancelBy (s.myLaunch x) l (x.f.src32 a)).2))
  | .lvlq c l d a => some (opFe c (a.reads 1 false true) (a.lastRegs false) (dstRegs d 2), fun x s t =>
      match s.levelBy (s.myLaunch x) l (x.f.src32 a) with
      | none => t = s.modCur fun f => f.pendRegs (x.f.base + d.toNat) (regs64 (BitVec.allOnes 64))
      | some w => t = (if l ≠ .unit ∧ w.extractLsb' 62 2 ≠ 0 then s.dropL1Shared x.u.core else s).modCur fun f =>
          f.pendRegs (x.f.base + d.toNat) (regs64 w))
  | .hpost c d h v =>
    some (opFe c (h.reads 1 false true ++ groupReads 3 v.n.toNat 8 false) (h.lastRegs false ++ v.lastRegs 8) (dstRegs d 1),
      fun x s t =>
        let n := (x.f.src32 h).toNat
        let r := s.hostRing (s.funcOf x.u) n
        let off := (r.base.toNat + 64 * (r.tail.toNat % 2 ^ r.size)) % 2 ^ 64
        ∃ k atomic, n < 64 ∧ r.en = true ∧ s.released x = true ∧ r.tail.toNat < r.head.toNat + 2 ^ r.size ∧
          s.hostKey (s.funcOf x.u) off = some (k, atomic) ∧
          let s1 := (s.releaseTo x.u .sys).noteEgress x.u.core ((List.range 8).map fun i => (k + 4 * i, x.f.reg (v.n.toNat + i)))
          t = oneWord d x
            (((s1.pokeKeys ((List.range 64).map fun i => k + i) (entryBytes x.f v s.wire.ptp (r.tail + 1).toNat)).modHostRing
              (s.funcOf x.u) n fun r' => { r' with tail := r.tail + 1 }).raiseEvent (s.funcOf x.u) r.vec)
            (pairLo (r.tail + 1)))
  | .bank c d p v =>
    some ({ op0 c with
        reads := p.reads ++ groupReads 3 v.n.toNat 2 true, last := p.lastRegs ++ v.lastRegs 2, regs := dstRegs d 2, ends := 3
        takes := [.plant] }, fun x s t =>
      let w := x.f.pairAt v.n.toNat
      let give (s : State) (w : DWord) : State := s.modCur fun f => f.pendRegs (x.f.base + d.toNat) (regs64 w)
      ∃ a l, s.sysOf x.u = true ∧ s.reachMem x p 192 64 permW rightW [0, 4] = .ok a ∧ s.released x = true ∧
        let s1 := s.releaseTo x.u .dev
        let me := s1.myLaunch x
        s1.launchById me.key (w.extractLsb' 0 32) = some l ∧ me.reaches l.ctx l.job = true ∧
        ∃ n gangs, s1.bankAsk l (w.extractLsb' 32 32).toNat
            (some ((x.f.cap p.cap.n).length - (x.f.offset p).toNat)) = .go n gangs ∧
          t = give (if l.failed = true ∨ l.cancelled = true then s1
            else s1.startJob l.key gangs (decide (w.extractLsb' 32 32 = 0xFFFFFFFF))
              (some { ctx := s1.ctxOf x.u, func := s1.funcOf x.u, space := a.space, adr := a.adr, pcie := false }))
              (BitVec.ofNat 64 n))
  | .plant c d p => some ({ opM c p [] [] (dstRegs d 1) 3 with takes := [.plant] }, fun x s t =>
      let me := s.myLaunch x
      let s1 := s.dropL1Shared x.u.core
      ∃ a b, s.sysOf x.u = true ∧ s.reachMem x p 192 64 permR rightR [0, 4, 5] = .ok a ∧
        s.readImage x.u a ((x.f.cap p.cap.n).length - (x.f.offset p).toNat) = .ok b ∧ s1.plantRefusal me.ctx b = none ∧
        let r := s1.plantImage { func := me.func, ctx := me.ctx, queue := me.queue, job := me.job } b
        t = oneWord d x r.1 r.2)
  | .evsel c a b => some (op2 c a false b false true [], fun x s t =>
      let n := (x.f.src32 a).toNat
      let v := x.f.src32 b
      let code := v.extractLsb' 0 16
      s.sysOf x.u = true ∧ n < 80 ∧ v.extractLsb' 17 15 = 0 ∧ eventOk (decide (n < 16)) code.toNat = true ∧
        t = s.modCounter x.u.core n fun k => { sel := code, val := if v.getLsbD 16 then 0 else k.val })
  | .evrd c d a => some (op1 c a false true (dstRegs d 2), fun x s t =>
      t = s.modCur fun f => f.pendRegs (x.f.base + d.toNat) (regs64 (s.counterVal x.u.core (x.f.src32 a).toNat)))
  | .fqstat c d q => some ({ op0 c with regs := dstRegs d 1, ends := 3, takes := [.matrix] }, fun x s t =>
      t = s.modCur fun g => g.pendRegs (x.f.base + d.toNat) [fresh (s.fifoStatus x.u.core q.toNat)])
  | _ => none

/-! ### The matrix engine (15 R307 to R330) -/

/-- What a matrix instruction of a team comes to: its form, whether every member reads it, and its effect, from the unit, the
member with the lowest `$tid`, the members as read, and the state in which they have passed it. -/
abbrev TeamReach := Op × Bool × (Unit → Fibre → List Fibre → State → State → Prop)

/-- The members that read a matrix instruction's registers. -/
def readersOf (all : Bool) (ms : List Fibre) : List Fibre := if all then ms else ms.take 1

/-- A member as a matrix instruction reads it. -/
def memberSeen (all : Bool) (o : Op) (ms : List Fibre) (m : Fibre) : Fibre :=
  if (readersOf all ms).any fun r => r.fid == m.fid then m.seen o else m

/-- The state in which every member has passed a matrix instruction (R75, R76, R307, R331). -/
def teamPassed (s : State) (u : Unit) (o : Op) (all : Bool) (ms : List Fibre) : State :=
  let det := s.detOf u
  ms.foldl (fun s f =>
    let g := memberSeen all o ms f
    let g1 := if ((readersOf all ms).any fun r => r.fid == f.fid) && g.readsReleased o.reads then g.raise 0x40 else g
    (s.modFibre u.key f.fid fun _ => g1.passTeam o.last (s.seqNext (s.ctxOf u) f.pc) s.clk o.ctl.stall det).count
      u.core 0x0003 1) s

/-- With the arrival of the current fibre its team has converged at a matrix instruction, and nothing holds it back: the
fibre has no late transfer to take as it comes to the instruction, no member a matrix fault, and the members that read await no
result and read no spilled slot; `ms` are the live members by `$tid`, `m` the first. -/
structure Musters (s : State) (u : Unit) (f : Fibre) (v : Unit) (ms : List Fibre) (m : Fibre) (o : Op) (all : Bool) : Prop where
  cur : s.current? = some (u, f)
  late : f.again = true ∨ f.arrivedAt f.pc = true ∨ takeFault f.faults [.late] = none
  unit : (arrives s f).unit? u.key = some v
  whole : v.converged (f.fid / u.desc.team) f.pc = true
  members : (arrives s f).members v (f.fid / u.desc.team) = ms
  first : ms.head? = some m
  clear : ∀ x ∈ v.teamLive (f.fid / u.desc.team), takeFault x.faults [.matrix] = none
  ready : ∀ x ∈ readersOf all ms, o.memberBlocked x = false ∧ x.readTrap ((arrives s f).chkOf v) o.reads = none
  rows : ((arrives s f).teamSpills v (f.fid / u.desc.team) o).filter (fun e => (readersOf all ms).any fun m => m.fid == e.1) = []
  stroke : s.detOf u = false ∨ ∀ x ∈ ms, x.stroke.pass = true

/-- The engine accepts an operation of one team on a tile (R307, R318, R322): it has room, the tile has a slot on the shelf,
and the team's earlier accesses allow it. -/
def accepts (i : Instr) (d : Tile) (space adr : Nat) (creg : CReg) (opA : DWord) (ranges : List RangeEntry)
    (settled : Unit → Nat → Bool) (u : Unit) (m : Fibre) (s t : State) : Prop :=
  d.toNat < u.desc.shelf ∧ (s.matrix u.core).room = true ∧ settled u (m.fid / u.desc.team) = true ∧
    t = s.acceptOp u m i space adr creg opA ranges

/-- The same for an operation with a memory operand of 16,384 bytes (R322, R327). -/
def acceptsMem (i : Instr) (d : Tile) (p : MemOp) (need : Byte) (write : Bool) (u : Unit) (m : Fibre) (_ : List Fibre)
    (s t : State) : Prop :=
  ∃ a, s.reachMem { u := u, f := m } p 16384 64 need rightR [1, 2] = .ok a ∧
    let ranges : List RangeEntry := (s.ownRange u a.space (some (a.adr, a.adr + 16384))).map fun e =>
      { lo := e.1, hi := e.2, write := write, who := 0 }
    ((s.core? u.core).map fun c => c.scoreboard.length).getD 0 + ranges.length ≤ Config.scoreboardEntries ∧
      accepts i d a.space a.adr p.cap.n 0 ranges Unit.settledAL u m s t

/-- A crew instruction is accepted into the catch latch (R313): the crew lists the team, its tiles exist and have slots, and
its B FIFOs exist. The team's crew count is raised, and the arrival waits to be caught. -/
def arrivesAt (i : Instr) (d : Tile) (fb : Option Nat) (scales : List Fibre → List Byte) (u : Unit) (m : Fibre)
    (ms : List Fibre) (s t : State) : Prop :=
  let team := m.fid / u.desc.team
  let e := u.team team
  let n := e.crew.length
  e.crew.contains team = true ∧ d.toNat + n - 1 ≤ 31 ∧ d.toNat + n - 1 < u.desc.shelf ∧ (∀ b, fb = some b → b + n - 1 ≤ 5) ∧
    (s.matrix u.core).room = true ∧ u.settledMM team = true ∧
    let arrival : MxReq :=
      { num := s.seqCtr, unit := u.key, team := team, instr := i, rmode := m.rmode, scales := scales ms, crew := e.crew
        ord := e.count + 1, since := s.clk }
    let s1 := (s.modMatrix u.core fun x => { x with latch := x.latch ++ [arrival] }).modUnit u.key fun v =>
      v.setTeam { e with count := e.count + 1 }
    t = { s1 with seqCtr := s.seqCtr + 1 }.next (.crewCatch u.core s.seqCtr)

/-- The form of a matrix instruction that reads nothing. -/
def bareForm (stall : BitVec 4) : Op := { op0 (unpredCtl stall) with ends := 3 }

/-- The matrix instructions of a team of width `w`: forms and effects. -/
def matrices (w : Nat) : Instr → Option TeamReach
  | .crew stall h a => some (opTeam1 stall a, false, fun u m _ s t =>
      let ts := maskTeams (m.src32 a) h
      2 ≤ ts.length ∧ ts.length ≤ 6 ∧ (∀ k ∈ ts, k < u.desc.fibres / u.desc.team) ∧
        (u.desc.team = 32 ∨ u.desc.team = 64) ∧
        t = s.modUnit u.key fun v => v.setTeam
          { idx := m.fid / u.desc.team, set := true, mask := m.src32 a, h := h, count := 0 })
  | .mma stall t k r d fa fb sc =>
    if scaleBad w sc then none
    else some ({ bareForm stall with
        reads := (scaleRegs w sc).map fun n => .reg 3 n true false
        last := match sc with | .reg r => (if r.last then scaleRegs w sc else []) | .zero => [] }, true,
      arrivesAt (.mma stall t k r d fa fb sc) d (some fb.toNat) (scalesOf w k sc))
  | .acmt stall d => some (bareForm stall, false, arrivesAt (.acmt stall d) d none fun _ => [])
  | .aroll stall d fa fb =>
    some (bareForm stall, false, arrivesAt (.aroll stall d fa fb) d (some fb.toNat) fun _ => [])
  | .aclr stall d =>
    some (bareForm stall, false, fun u m _ s t => accepts (.aclr stall d) d 0 0 0 0 [] Unit.settledMM u m s t)
  | .aload stall int d p => some (opTeamM stall p, false, acceptsMem (.aload stall int d p) d p permR false)
  | .astore stall int d p => some (opTeamM stall p, false, acceptsMem (.astore stall int d p) d p permW true)
  | .adrain stall int r d a => some ({ bareForm stall with
        reads := groupReads 1 a.n.toNat 2 true, last := a.lastRegs 2 }, false, fun u m _ s t =>
      accepts (.adrain stall int r d a) d 0 0 0 (m.pairAt a.n.toNat) [] Unit.settledAL u m s t)
  | .adrainS stall int d cap idx bar =>
    some (opTeamM stall { cap := cap, idx := idx, disp := 0 }, false,
      acceptsMem (.adrainS stall int d cap idx bar) d { cap := cap, idx := idx, disp := 0 } permW true)
  | .areduce stall int d n bar => some (opTeam1 stall n, false, fun u m _ s t =>
      1 ≤ (m.src32 n).toNat ∧ (m.src32 n).toNat ≤ 256 ∧
        accepts (.areduce stall int d n bar) d 0 0 0 ((m.src32 n).setWidth 64) [] Unit.settledMM u m s t)
  | .fqdrop stall q => some (bareForm stall, false, fun u m _ s t =>
      (s.matrix u.core).room = true ∧ t = s.acceptOp u m (.fqdrop stall q) 0 0 0 0 [])
  | _ => none

end Sys2Proof.Machine.Claims

open Sys2Proof Sys2Proof.Machine

/-- The transfer instructions are carried out (R298 to R304). -/
def Obligations.TransferInstructionsComplete : Prop := Claims.CarriesOutWhere Claims.transfers

/-- The wire instructions are carried out (R353, R354). -/
def Obligations.WireInstructionsComplete : Prop := Claims.CarriesOutWhere Claims.wires

/-- The front end's instructions, BANK, PLANT, the counters and FQSTAT are carried out (R329, R381 to R388, R439, R458). -/
def Obligations.FrontEndInstructionsComplete : Prop := Claims.CarriesOutWhere Claims.fronts

/-- A matrix instruction is executed once for its team when the last live member arrives (R307), with its effect. That no
member is to take a late fault as it comes to the instruction is log 65's reading, and what a crew operation leaves, an arrival
in the latch that is caught later, is log 68's: both are the model's choice. -/
def Obligations.MatrixInstructionsComplete : Prop :=
  ∀ (i : Instr) (o : Op) (all : Bool) (R : Machine.Unit → Fibre → List Fibre → State → State → Prop)
    (s : State) (u : Machine.Unit) (f : Fibre) (v : Machine.Unit) (ms : List Fibre) (m : Fibre) (t : State),
    Claims.matrices u.desc.team i = some (o, all, R) → Claims.Musters s u f v ms m o all →
    R v (Claims.memberSeen all o ms m) (ms.map (Claims.memberSeen all o ms))
      (Claims.teamPassed (Claims.arrives s f) v o all ms) t →
    exec i s = .next t


namespace Sys2Proof.Machine.Claims

/-! ### What happens outside a fibre's own turn: the events of spec 04 to 21 -/

/-- The claim that an event, wherever a table says it has its effect, leaves the state the table gives. -/
def Occurs (R : Instr → State → State → Prop) : Prop := ∀ i s t, R i s t → exec i s = .next t

/-- A live fibre of a unit waits for something. -/
def waiting (s : State) (unit fid : Nat) (w : Wait) (u : Unit) (f : Fibre) : Prop :=
  s.live? unit fid = some (u, f) ∧ f.wait = some w

/-- The fibre waits no longer. -/
def woken (s : State) (unit fid : Nat) : State := s.modFibre unit fid fun f => { f with wait := none }

/-- The load's fibre has its turn again, its line answered (R13, R217). -/
def servedAt (s : State) (unit fid : Nat) : State :=
  { s.modFibre unit fid (fun f => { f with wait := none, served := true }) with cur := (unit, fid) }

/-- The loads that an answer of the memory system completes. -/
def answered : Instr → Option Reach
  | .ld c t m d p => memories (.ld c t m d p)
  | .ldv c four m d p => memories (.ldv c four m d p)
  | .ldc c m d p => memories (.ldc c m d p)
  | .mwait c ge t m d p v => fabrics (.mwait c ge t m d p v)
  | _ => none

/-- The events by which a parked load of a fibre goes on: the line's tokens have come (R202), a half of it in a scratchpad may be
read (R123), or a good completion of the host (R188). The state in which it goes on has the attempt ended, or is the state itself. -/
def returning (i : Instr) (unit fid : Nat) (s : State) : Instr → State → Prop
  | .loadDataReturn a b, s1 => a = unit ∧ b = fid ∧ ∃ u f key x y, waiting s unit fid (.load i key x y) u f ∧
      let l := s.line (key / 64)
      let req := s.reqOf l (dieOf u.core)
      ((tokenKey key = false ∧ s1 = servedAt s unit fid) ∨
        (tokenKey key = true ∧ (l.lost = true ∨ l.poisoned = true ∨ l.canRead req = true) ∧
          s1 = servedAt (s.modLine (key / 64) fun l => l.endAttempt req) unit fid))
  | .pcieCompletion a b .success false, s1 => a = unit ∧ b = fid ∧ ∃ u f, s.unit? unit = some u ∧
      u.fibre? fid = some f ∧ f.live = true ∧ (∃ since, f.wait = some (.hostRead i since)) ∧ s1 = servedAt s unit fid
  | _, _ => False

/-- A spilled slot is given a row, which is filled, and counted (R78); one that is not spilled is left as it is. Where no row
can be freed it stays in its backing areas, which is log 49's reading. -/
def fillSlot (core part seat : Nat) (s : State) (n : Nat) : State :=
  if (s.spilledIn core part).contains (seat, n) then
    ((s.giveRow core part seat [n] n fun _ _ => false).fillRow core part seat n fun _ _ => false).count core 0x000A 1
  else s

/-- A completion of the host is overdue: its bound runs from the time of the read, or from when the AtomicOp left (R188). -/
def overdue (s : State) (u : Unit) (since : Nat) : Prop := since + s.cplTime (s.funcOf u) ≤ s.time

/-- The events of fibres, their teams and their traps. The model's own choices among them: the faults of ended fibres (log 22), a
full record board (log 25), the members and slots that wait (log 49) and a graph's fault (log 78). -/
def fibreEvents : Instr → State → State → Prop
  | .teamConvergenceTimeout unit team, s, t => ∃ u, s.unit? unit = some u ∧
      t = (s.stalledAt u team).foldl (fun s p =>
        ((u.arrived team p).filter fun f => !f.trappedNow).foldl (fun s f => (woken s unit f.fid).takeTrap unit f.fid
          (trapOf 0x07 (BitVec.ofNat 16 team ++
            BitVec.ofNat 16 ((u.teamLive team).length - (u.arrived team p).length)))) s) s
  | .registerFill unit fid, s, t => ∃ u f slots, waiting s unit fid (.fill slots) u f ∧
      t = (slots.foldl (fillSlot u.core (u.seatOf fid).1 (u.seatOf fid).2) s).modFibre unit fid fun f => { f with
        wait := none, staged := f.staged ++ slots }
  | .batchRegroup core part, s, t => core < Config.cores ∧ part < Config.partitions ∧ s.clk % 4 = 0 ∧
      t = s.regroup core part
  | .sleepExpiry unit fid, s, t => ∃ u f till planted, waiting s unit fid (.sleep till planted) u f ∧ till ≤ s.clk ∧
      s.detOf u = false ∧ t = if planted = true then s.afterSleep u f else woken s unit fid
  | .monitorWake unit fid, s, t => ∃ u f key since, waiting s unit fid (.monitor key true since) u f ∧
      s.detOf u = false ∧ t = woken s unit fid
  | .monitorRereadTimer unit fid, s, t => ∃ u f key since, waiting s unit fid (.monitor key false since) u f ∧
      since + rereadTime key ≤ s.time ∧ s.detOf u = false ∧ t = woken s unit fid
  | .variableLatencyResult unit fid, s, t => t = s.modFibre unit fid Fibre.landResult
  | .accessPerformed unit fid k, s, t => ∃ u f r, s.unit? unit = some u ∧ u.fibre? fid = some f ∧
      s.readyReq? u f k = some r ∧
      let req := s.reqOf (s.line (r.key / 64)) (dieOf u.core)
      if u.phantom r.key = true then t = s.perform u fid req r
      else if r.space = 4 ∧ r.isAtomic = true then
        t = s.modFibre unit fid fun f => { f with
          outst := updIf f.outst (fun q => q.seq == r.seq) fun q => { q with sent := true, time := s.time } }
      else s.tokensFor req r = true ∧
        t = if r.needsTokens = true then (s.perform u fid req r).modLine (r.key / 64) fun l => l.endAttempt req
          else s.perform u fid req r
  | .pcieCompletion unit fid status poisoned, s, t => ∃ u f, s.unit? unit = some u ∧ u.fibre? fid = some f ∧
      ((∃ i since, f.wait = some (.hostRead i since) ∧ f.live = true ∧
          (status ≠ .success ∧ t = (woken s unit fid).takeTrap unit fid (hostFault (f.hostAddr i)) ∨
            status = .success ∧ poisoned = true ∧
              t = (woken s unit fid).takeTrap unit fid (poisonAt 4 (f.hostAddr i)))) ∨
        (∃ r, (∀ i since, f.wait ≠ some (.hostRead i since)) ∧ f.sent? = some r ∧
          (status ≠ .success ∧ t = s.failReq unit fid r (hostFault r.addr) ∨
            status = .success ∧ poisoned = true ∧ t = s.failReq unit fid r (poisonAt 4 r.addr) ∨
            status = .success ∧ poisoned = false ∧ t = s.perform u fid 0 r)))
  | .pcieCompletionTimeout unit fid, s, t => ∃ u f, s.unit? unit = some u ∧ u.fibre? fid = some f ∧
      ((∃ i since, f.wait = some (.hostRead i since) ∧ f.live = true ∧ overdue s u since ∧
          t = (woken s unit fid).takeTrap unit fid (hostFault (f.hostAddr i))) ∨
        (∃ r, (∀ i since, f.wait ≠ some (.hostRead i since)) ∧ f.sent? = some r ∧ overdue s u r.time ∧
          t = s.failReq unit fid r (hostFault r.addr)))
  | .unassignedOpcode reason, s, t => ∃ u f, s.current? = some (u, f) ∧
      t = s.takeTrap u.key f.fid (illegal reason)
  | .trapCoalesce unit fid, s, t =>
      (∃ u f cause arg addr, waiting s unit fid (.trapped cause arg addr) u f ∧
        let l : LateTrap :=
          { unit := u.key, launch := u.launch, no := u.no, fid := f.fid, seat := u.seatNo f.fid, pc := f.pc, cause := cause
            arg := arg, addr := addr, clk := f.ready }
        if containment cause = true then
          t = ((s.coalesce u l true).getD s).killGang u.launch u.gang cause arg
        else ∃ s1, s.coalesce u l true = some s1 ∧ t = s1.modFibre unit fid fun f => { f with wait := some .record }) ∨
      (∃ u c l, s.unit? unit = some u ∧ (u.fibre? fid).bind u.trapOf? = none ∧ s.core? u.core = some c ∧
        c.lateTraps.find? (fun l => l.unit == unit && l.fid == fid) = some l ∧
        let out (s : State) : State := s.modCore u.core fun c => { c with lateTraps := c.lateTraps.erase l }
        if containment l.cause = true then
          t = (out ((s.coalesce u l false).getD s)).killGang u.launch u.gang l.cause l.arg
        else ∃ s1, s.coalesce u l false = some s1 ∧ t = out s1)
  | .trapRecordDisposal core answer debugger, s, t =>
      (s.core? core = none ∧ ∃ g a, s.fe.graphs.findSome? (fun g => g.fault.map fun a => (g, a)) = some (g, a) ∧
        t = s.answerGraph g a.1 a.2 answer) ∨
      ∃ c, s.core? core = some c ∧
      ((∃ r, c.records.find? (fun r => !r.held) = some r ∧ t = s.dispose core r answer debugger) ∨
        (c.records.find? (fun r => !r.held) = none ∧
          ∃ r a, c.heldX = some (r, a) ∧ t = s.answerTransfer core r a answer))
  | .debuggerAction core act, s, t => ∃ c r, s.core? core = some c ∧ c.records.find? (fun r => r.held) = some r ∧
      t = r.covers.foldl (fun s e => match act with
          | .resume => s.stepOver e.1 e.2
          | .finish => s.endFibre e.1 e.2)
        (s.modCore core fun c => { c with records := c.records.filter fun x => x.num != r.num })
  | .screenCompare unit, s, t => ∃ l a b, s.launch? (unit / 2 ^ 24) = some l ∧
      l.screens.filter (fun e => e.1 == unit % 2 ^ 24) = [a, b] ∧
      let s1 := s.modLaunch (unit / 2 ^ 24) fun l => { l with screens := l.screens.filter fun e => e.1 != unit % 2 ^ 24 }
      if a.2.2.2 = b.2.2.2 then t = s1
      else t = ((s1.modFe fun e => (e.difference a.2.2.1).difference b.2.2.1).logRec 4 0x6C
          (BitVec.ofNat 32 (unit % 2 ^ 24)) (a.2.2.1 * 256 + b.2.2.1)).failLaunch (unit / 2 ^ 24) 0x6C
            (BitVec.ofNat 32 (unit % 2 ^ 24))
  | _, _, _ => False

/-- The events of the token protocol (R200 to R208). -/
def tokenEvents : Instr → State → State → Prop
  | .coherenceRequest n number write from', s, t =>
      let req := reqBase number
      let holder := from'.map reqBase
      let sent := (s.line n).asks.contains (req, write, holder)
      let s0 := if sent = true ∨ holder ≠ none then s else s.noteAttempt n req write
      if s.askReaches (s.line n) holder = false then t = if sent = true then s0 else s0.ask n req write [holder]
      else
        let s1 := s0.modLine n fun l => { l with asks := l.asks.erase (req, write, holder) }
        match holder with
        | some h => t = s1.holderAnswer n h req write
        | none => if (s.line n).lost = true then t = s1.failLine n [req]
          else t = (s1.homeAnswer n req write).ask n req write (((s.line n).hints.filter fun h => h != req).map some)
  | .tokenArrival n ⟨_, data, true⟩, s, t => t = s.reclaimedAfar n data
  | .tokenArrival n ⟨msg, data, false⟩, s, t => ∃ m, (s.line n).msgs.find? (fun m => m.id == msg) = some m ∧
      let s0 := s.modLine n fun l => { l with msgs := l.msgs.filter fun x => x.id != msg }
      let s1 := s0.lineFrom n m data
      if m.epoch ≠ (s.line n).epoch then t = (s0.countDie (homeDie n) 0x0105 1).note 1
      else match m.dst with
        | none =>
          let wrote := m.owner && (s1.line n).homeData.isSome && s.homeMember (s.line n) == s.selfIn (s.line n).pool
          let s2 := (s1.modLine n fun l => l.homeTake m).countDie (homeDie n) 0x0109 (if wrote then 64 else 0)
          t = (match (s.line n).active with | some k => s2.homeGiveAll n k | none => s2)
        | some r =>
          let s2 := (s1.modLine n fun l => l.sliceTake m r (!s.isOwn (s.line n) r)).makeRoom n r
          t = match ((s.line n).holder r).forward with
            | some k => if k = r then s2.fillWaiting n r else s2.giveAll n r (some k)
            | none => s2.fillWaiting n r
  | .attemptTimeout n number, s, t =>
      let req := reqBase number
      ∃ a, (s.line n).attempt? req = some a ∧ a.persistent = false ∧
      (((s.line n).holds req a.write = true ∧ t = s.modLine n fun l => l.endAttempt req) ∨
      ((s.line n).holds req a.write = false ∧ (s.line n).lost = false ∧
      (a.sent + Config.attemptTime ≤ s.time ∨
        ((∀ m ∈ (s.line n).msgs, m.dst ≠ some req) ∧ ∀ e ∈ (s.line n).asks, e.1 ≠ req)) ∧
      if 4 ≤ a.count ∨ a.first + Config.persistAfter ≤ s.time then
        t = (s.modLine n fun l => { l with
          attempts := updIf l.attempts (fun x => x.req == req) fun x => { x with persistent := true }
          pleas := l.pleas ++ [req] }).countDie
            (req % 64 / 16) 0x0103 (if req / 64 = s.selfIn (s.line n).pool then 1 else 0)
      else
        t = (s.modLine n fun l => { l with
          attempts := updIf l.attempts (fun x => x.req == req) fun x => { x with count := x.count + 1, sent := s.time } }).ask n
            req a.write [none]))
  | .persistentRequest n number, s, t =>
      let req := reqBase number
      let s1 := s.modLine n fun l => { l with pleas := l.pleas.erase req }
      s.homeAnswers (s.line n) = true ∧
      if (s.line n).lost = true then t = s1.failLine n [req]
      else match (s.line n).active with
        | none => t = s1.activate n req
        | some m => t = if m = req ∨ req ∈ (s.line n).queue then s1 else s1.modLine n fun l => { l with queue := l.queue ++ [req] }
  | .persistentSatisfied n number, s, t =>
      let req := reqBase number
      (s.line n).active = some req ∧
      let s1 := (s.modLine n fun l => { l with
        active := none, timer := none, lastServed := req
        attempts := l.attempts.filter fun a => a.req != req }).broadcast n (actNumber (s.line n).actNum false) none
      t = match nextServed (s.line n).queue req with
        | none => s1
        | some r => (s1.modLine n fun l => { l with queue := l.queue.filter fun x => x != r }).activate n r
  | .activationMessage n ⟨number, num⟩, s, t =>
      let holder := reqBase number
      s.answers (s.line n) (holder / 64) = true ∧
      ∃ m, (s.line n).actMsgs.find? (fun m => m.dst == holder && m.num == num) = some m ∧
      let s1 := s.modLine n fun l => { l with actMsgs := l.actMsgs.erase m }
      if m.num ≤ ((s.line n).holder holder).seen then t = s1
      else
        let s2 := s1.modLine n fun l => l.setHolder { (s.line n).held holder with seen := m.num, forward := m.active }
        t = match m.active with
          | some k => if k = holder then s2 else s2.giveAll n holder (some k)
          | none => s2
  | .ownerTimeout n, s, t => ((s.line n).active = none ∧ t = s.failReclaims n) ∨
      ∃ r d, (s.line n).active = some r ∧ (s.line n).timer = some d ∧ d ≤ s.time ∧
      if Config.lostEntries ≤ s.fabric.lostDir.length ∧ n ∉ s.fabric.lostDir then
        t = s.modLine n fun l => { l with timer := some (s.time + s.ownerTimeOf (s.line n)) }
      else t = (s.ownerLost n).countDie (homeDie n) 0x0104 1
  | .l2Eviction n holder, s, t => s.answers (s.line n) (holder / 64) = true ∧ t = s.giveAll n (reqBase holder) none
  | .l1CopyExpiry core n, s, t => t = s.dropL1 core n
  | .directoryEntryFree n, s, t => (s.line n).lost = false ∧ (s.line n).settledEpoch = true ∧ n ∈ s.fabric.lostDir ∧
      (∀ p, s.pool? (s.line n).pool = some p → ∀ m ∈ p.members, m ∉ p.silent) ∧
      let s1 := s.modLine n fun l => { l with
        epoch := 0, msgs := l.msgs.map fun m => { m with epoch := 0 }
        holders := l.holders.map fun h => { h with epoch := 0 } }
      t = { s1 with fabric := { s1.fabric with lostDir := s1.fabric.lostDir.filter fun x => x != n } }
  | .staleEpochDiscard n msg, s, t =>
      (∃ m ∈ (s.line n).msgs, m.id = msg ∧ m.epoch ≠ (s.line n).epoch) ∧
        t = ((s.modLine n fun l => { l with msgs := l.msgs.filter fun x => x.id != msg }).countDie
          (homeDie n) 0x0105 1).note 1
  | .detRoundCommit launch, s, t => ∃ l, s.launch? launch = some l ∧ l.det = true ∧
      if l.committing = true then s.issuing = [] ∧
        t = if s.passing l ≠ [] then { s with issuing := s.passable l }
          else match l.passQ with
            | [] => s.commitLast l
            | e :: rest => s.commitNext l e rest
      else s.roundOver l = true ∧ t = if s.stuckLines l = [] then s.commitFirst l else s.seekLines (s.stuckLines l)
  | _, _, _ => False

end Sys2Proof.Machine.Claims

open Sys2Proof Sys2Proof.Machine

/-- A load parked at the memory system or at the host is carried out when its answer comes (R13, R188, R255). -/
def Obligations.ReturningLoadsComplete : Prop :=
  ∀ (i ev : Instr) (o : Op) (R : Ctx → State → State → Prop), Claims.answered i = some (o, R) →
    ∀ (s s1 : State) (unit fid : Nat) (u : Machine.Unit) (f : Fibre) (t : State),
      Claims.returning i unit fid s ev s1 → s1.Clear u f o →
      R { u := u, f := f.seen o } (s1.passed u f o) t → exec ev s = .next (s1.closed u f o t)

/-- The events of fibres, teams and traps have the effect the rules give (R54, R69, R78, R80, R101, R255, R256, R400, R402). The
model's choices in it: that the fault of an ended fibre goes beyond the core by itself (log 22), that a full record board ends in
a containment kill (log 25), which slots a fill writes and what it leaves where no row is free (log 49), and that a disposal that
names no core answers a graph's fault (log 78). -/
def Obligations.FibreEventsComplete : Prop := Claims.Occurs Claims.fibreEvents

/-- The events of the token protocol and of a DET launch's round have the effect the rules give (R200 to R208, R235). -/
def Obligations.TokenEventsComplete : Prop := Claims.Occurs Claims.tokenEvents

namespace Sys2Proof.Machine.Claims

/-! ### The events of the engines: transfers, the matrix unit, the wire -/

/-- A request of a core, its unit and its plan. -/
def request (s : State) (core req : Nat) (r : XReq) (u : Unit) (p : XPlan) : Prop :=
  s.xreq? core req = some r ∧ s.unit? r.unit = some u ∧ u.xplanOf r = some p ∧ (s.core? core).isSome = true

/-- The events of transfers (R278 to R294). -/
def transferEvents : Instr → State → State → Prop
  | .transferAccept core req, s, t =>
      (∃ c a u w s1, s.core? core = some c ∧ c.apWait.find? (fun a => a.seq == req) = some a ∧
        s.unit? a.unit = some u ∧ (s.xwaiters core).find? (fun w => w.1 == req) = some w ∧
        s.xbehind core w.2 (some req) = false ∧
        (s.modCore core fun c => { c with apWait := c.apWait.filter fun x => x.seq != req }).tryAperture u a false =
          some s1 ∧ t = s1)
  | .transferComplete core req, s, t => ∃ r u p c, request s core req r u p ∧ s.core? core = some c ∧
      u.mayMove c r = true ∧ match p.fifo with
        | some q => (∀ e ∈ (s.fifo core q).filling, e.1 ≠ req) ∧ s.pushBehind c r q (s.fifo core q) = false ∧
            tileSlots p.lay.tileBytes ≤ (s.fifo core q).free ∧
            t = s.modCore core fun c => { c with matrix := { c.matrix with fifos := updAt c.matrix.fifos q fun h =>
              { h with filling := h.filling ++ [(req, tileSlots p.lay.tileBytes)] } } }
        | none => ∀ x, s.movement u r.tmpl p r.rmode p.elems = x → match x with
            | .error e => t = s.snagX core r e
            | .ok (bs, ws) => t = ((s.noteMove p core bs).unitWrite u r.fid.toList r.id p.dst.space
                (if u.screened = true then writeRuns ws bs else []) ws (coversLine bs)).paidX u core r p
  | .sequenceStampWrite core req, s, t => ∃ r u p c, request s core req r u p ∧ s.core? core = some c ∧
      r.written = true ∧ r.fault = none ∧ c.stampBehind r = false ∧
      let adr := p.dst.base + p.tpl.syncOff
      if u.shadow = true then t = s.finishX r (r.doneAs false 0)
      else ∃ k, s.sideKey u r.tmpl p.dst adr rightW = .ok k ∧ s.lineSnag r.tmpl p.dst.space adr k true = none ∧
        t = (s.showEngines.engineWrite core [(k, fresh (BitVec.ofNat 32 r.seq)), (k + 4, fresh (BitVec.ofNat 32 (r.seq / 2 ^ 32)))]
          fun _ => false).finishX r (r.doneAs false 0)
  | .fifoPushComplete core req, s, t => ∃ r u p c q bs ws, request s core req r u p ∧ s.core? core = some c ∧
      p.fifo = some q ∧ u.mayMove c r = true ∧ (∃ n rest, (s.fifo core q).filling = (req, n) :: rest) ∧
      s.movement u r.tmpl p r.rmode p.elems = .ok (bs, ws) ∧
      let tile : FifoTile := { num := (s.fifo core q).nextNum, size := p.lay.tileBytes, words := ws.map (·.2) }
      t = ((s.modCore core fun c => { c with matrix := { c.matrix with fifos := updAt c.matrix.fifos q fun h =>
        { h with filling := h.filling.drop 1, readyT := h.readyT ++ [tile], nextNum := h.nextNum + 1 } } }).noteMove p core
          bs).paidX u core r p
  | .transferFault core req why, s, t => ∃ r, s.xreq? core req = some r ∧ r.canFail why = true ∧
      t = s.failX core r (failTrap why r.tmpl r.src.space)
  | .transferPageResume core req, s, t => ∃ r a u, s.xreq? core req = some r ∧ r.fault = some a ∧
      s.unit? r.unit = some u ∧ (s.locate u (a / 2 ^ 64) (a % 2 ^ 64) 0).isSome = true ∧
      t = s.modXReq core req fun x => { x with fault := none }
  | .promiseExpiry core req, s, t => ∃ r, s.xreq? core req = some r ∧ r.late = false ∧ r.promise ≤ s.clk ∧
      let s1 := (s.modXReq core req fun x => { x with late := true }).count core 0x000D 1
      let traps (n : Nat) : Prop := r.lateRaised = false ∧ ∃ u p f, s.unit? r.unit = some u ∧ u.xplanOf r = some p ∧
        p.tpl.count = false ∧ u.fibre? n = some f ∧ f.owns r.accepted = true
      (r.fid = none ∨ ∃ n, r.fid = some n ∧ ¬ traps n) ∧ t = s1 ∨
      ∃ n, r.fid = some n ∧ traps n ∧
        t = (s1.modXReq core req fun x => { x with lateRaised := true }).modFibre r.unit n fun f => { f with
          faults := f.faults ++ [{ cls := .late, cause := 0x40, arg := r.tag, addr := none, req := some r.id }] }
  | .apertureStore core offset size data, s, t =>
      if size ≠ 8 ∨ offset % 8 ≠ 0 ∨ 512 ≤ offset ∨ data.extractLsb' 6 10 ≠ 0 then t = s.logRec 4 0x41 0 offset
      else ∃ c e u, s.core? core = some c ∧ c.channels.find? (fun e => e.1 == offset / 8) = some e ∧
        s.unit? e.2 = some u ∧
        let a : ApStore := { seq := s.seqCtr, chan := offset / 8, unit := u.key, word := data }
        (s.tryAperture u a true = some t ∨ s.tryAperture u a true = none ∧
          t = { (s.modCore core fun c => { c with apWait := c.apWait ++ [a] }) with seqCtr := s.seqCtr + 1 })
  | _, _, _ => False

/-- The tile a matrix instruction names, for the argument of a disagreement (R313). -/
def namedTile : Instr → Nat
  | .mma _ _ _ _ d _ _ _ => d.toNat
  | .acmt _ d => d.toNat
  | .aroll _ d _ _ => d.toNat
  | _ => 0

/-- A crew's operation, from the entries of the catch latch (R313). -/
def crewOpOf (s : State) (g : List MxReq) (r : MxReq) : MxOp :=
  { num := s.seqCtr, ord := r.ord, unit := r.unit, instr := r.instr, crew := r.crew
    arrivals := r.crew.filterMap fun t => g.find? fun q => q.team == t
    rmode := (((r.crew.filterMap fun t => g.find? fun q => q.team == t).head?).map MxReq.rmode).getD 0
    scales := r.crew.mapIdx fun i t => match g.find? fun q => q.team == t with
      | some q => if i = 0 then q.scales else q.scales.take 64
      | none => []
    team := r.team, space := 0, adr := 0, creg := 0, opA := 0 }

/-- An MMA, which the core counts when it is performed for a crew. -/
def isMma : Instr → Bool
  | .mma _ _ _ _ _ _ _ _ => true
  | _ => false

/-- The events of the matrix unit (R313, R314, R319, R321, R325). -/
def matrixEvents : Instr → State → State → Prop
  | .crewCatch core entry, s, t => ∃ r u, (s.matrix core).latch.find? (fun r => r.num == entry) = some r ∧
      s.unit? r.unit = some u ∧
      let g := (s.matrix core).group r
      u.absent r g = [] ∧ (∀ x ∈ g, ∀ q ∈ (s.matrix core).latch, x.follows q = false) ∧
      let s1 := s.modMatrix core fun m => m.dropGroup g
      if ∃ q ∈ g, crewForm q.instr ≠ crewForm r.instr then
        t = g.foldl (fun s q => s.teamFault core q.unit q.team q.num (tileFmt 6 (namedTile r.instr))) s1
      else
        let after (p : MxOp) : Bool := g.any fun x => p.follows x
        let s2 := { s1.modMatrix core fun m => { m with
          ops := (m.ops.filter fun p => !after p) ++ crewOpOf s g r :: m.ops.filter after } with seqCtr := s.seqCtr + 1 }
        let s3 := if isMma r.instr = true then s2.count core 0x000E 1 else s2
        t = s3.mxRun core [] (s3.matrix core).ops
  | .catchTimeout core entry, s, t => ∃ r u, (s.matrix core).latch.find? (fun r => r.num == entry) = some r ∧
      s.unit? r.unit = some u ∧
      let g := (s.matrix core).group r
      let late := u.absent r g
      late ≠ [] ∧ g.foldl (fun a q => min a q.since) r.since + Config.stallBound ≤ s.clk ∧
      let arg := late.foldl (fun a i => a ||| (1#32 <<< i)) 0#32 ||| BitVec.ofNat 32 (256 * crewOp r.instr)
      let uncount (s : State) (q : MxReq) : State := s.modUnit q.unit fun u =>
        u.setTeam { u.team q.team with count := (u.team q.team).count - 1 }
      t = g.foldl (fun s q => s.teamFault core q.unit q.team q.num (trapOf 0x50 arg))
        (g.foldl uncount (s.modMatrix core fun m => m.dropGroup g))
  | .mmaPerform core, s, t => t = s.mxRun core [] (s.matrix core).ops
  | .drainArrival core drain, s, t => ∃ d u, s.drains.find? (fun d => d.num == drain) = some d ∧
      s.drainBehind d = false ∧ s.drainUnit d = some u ∧ u.core = core ∧
      let x := (s.matrix core).tile d.target.2.2.1
      let rank := d.target.2.2.2
      let hold := if d.buffered = true then s else { s with drains := updIf s.drains (fun q => q.num == drain) fun q =>
        { q with buffered := decide (s.bufferedAt core < 2), held := !decide (s.bufferedAt core < 2) } }
      (x.red = none ∧ t = hold ∨ ∃ n next bar, x.red = some (n, next, bar) ∧
        (fmtOf d.int ≠ x.fmt ∧ t = s.refuseDrain d 1 ∨
          fmtOf d.int = x.fmt ∧ (rank < next ∨ n ≤ rank) ∧ t = s.refuseDrain d 8 ∨
          fmtOf d.int = x.fmt ∧ rank = next ∧ next < n ∧ t = s.applyDrain u d n next bar ∨
          fmtOf d.int = x.fmt ∧ next < rank ∧ rank < n ∧ t = hold))
  | _, _, _ => False

/-- The address in memory of a byte of a unit's scratchpad. -/
def padKey (u : Unit) (o : Nat) : Nat := keyScratch u.core (u.allocBase + o)

/-- What becomes of a frame that a port receives while its link is up (R336 to R341): dropped, paused upon, given to a
flow's ring, or given to the clock's firmware. -/
def received (s : State) (port : Nat) (frame : List Byte) (fcsBad : Bool) (t : State) : Prop :=
  let len := frame.length + 4
  let whole : Prop := 64 ≤ len ∧ len ≤ 9216
  let flow (e : Flow) (x : Udp) : Prop := ipKind frame = .udp x ∧ s.flowFor port frame x = some e
  (¬ whole ∧ t = s.dropFrame port) ∨
  (whole ∧ fcsBad = true ∧ (∀ e x, flow e x → e.keepBad = false) ∧ t = s.dropFrame port) ∨
  (whole ∧ (fcsBad = false ∨ ∃ e x, flow e x ∧ e.keepBad = true) ∧
    ((isPause frame = true ∧ t = s.modPort port fun p => { p with pauses := p.pauses + 1 }) ∨
      (isPause frame = false ∧ ipKind frame = .fragment ∧ t = s.dropFrame port) ∨
      (isPause frame = false ∧ ∃ e x, flow e x ∧ t = s.steer port frame fcsBad e x) ∨
      (isPause frame = false ∧ ipKind frame ≠ .fragment ∧ (∀ e x, ¬ flow e x) ∧
        t = if isPtp frame = true then (s.modPort port fun p => { p with ptp := p.ptp + 1 }).logRec 6 0 0 port
          else s.dropFrame port)))

/-- The events of the wire (R336, R339, R341, R344, R345, R347, R350, R353): a frame is read, and then it has been sent. -/
def wireEvents : Instr → State → State → Prop
  | .frameLanding ring, s, t => ∃ r l rest k u, s.ring? ring = some r ∧ r.landings = l :: rest ∧ r.unit = some k ∧
      s.unit? k = some u ∧
      let at' := padKey u (ringBase r.desc + l.slot * ringSlotBytes r.desc)
      let s1 := ({ s with mem := s.mem.setWords at' (wordsOfBytes l.bytes) } : State).lagWrite s.mem u.core false
        ((List.range (l.bytes.length / 4)).map fun i => at' + 4 * i)
      let s2 := s1.modRing ring fun r => { r with landings := rest, slots := updAt r.slots l.slot fun _ => .landed }
      t = if ringMode r.desc = 1 then s2.countInto (padKey u (ringBar r.desc)) ((32 + l.dlen + 15) / 16)
        else if ringMode r.desc = 2 then s2.countInto (padKey u (ringBar r.desc)) 1 else s2
  | .frameTransmit port, s, t =>
      (∃ x, (s.port port).sending = some x ∧
        t = ((s.modPort port fun p => { p with
            sending := none, sent := x.bytes, sentCount := p.sentCount + 1, freeAt := s.clk }).modPostRec port x.post.num
          fun r => { r with
            state := 0, fail := x.bad, ts := if x.post.mode = 0 || x.bad then none else some x.ts }).wakeStamp x.post) ∨
      (∃ p rest, (s.port port).sending = none ∧ (s.port port).posts = p :: rest ∧
        if (s.port port).up = false then
          t = (((s.modPostRec port p.num fun r => { r with state := 0, fail := true, reason := 1 }).leaveQueue port
            p).wakeStamp p).postFault p (txFault 1 port)
        else (∀ u, s.unit? p.unit = some u → u.ownDone (some p.fid) p.sb = true) ∧
          let bad := s.mem.badWord p.key p.len
          let frame := if p.mode = 2 then oneStep (s.postBytes p) p.h s.stampNow.1 else s.postBytes p
          let out : Sending := { post := p, bytes := onWire frame bad.isSome, bad := bad.isSome, ts := s.stampNow.1 }
          let s1 := (((s.stampNow.2.noteRange s.mem (s.postCore p) p.key p.len).modPort port fun x => { x with
            sending := some out, freeAt := s.clk + serialTime out.bytes.length }).modPostRec port p.num fun r =>
              { r with state := 2 }).leaveQueue port p
          t = match bad with
            | some k => s1.postFault p (checkFail 1 (p.off + (k - p.key)))
            | none => s1)
  | .ppsOutputSecond, s, t =>
      t = (s.modWire fun w => { w with ppsOut := w.ppsOut + 1, ppsLeft := 100000 * Config.usec }).discipline
  | .ppsInputEdge, s, t => t = s.stampNow.2.modWire fun w => { w with ppsEdge := some s.stampNow.1 }
  | .frameReceive port frame fcsBad, s, t => (s.port port).up = true ∧ received s port frame fcsBad t
  | .portLinkChange port up, s, t => t = s.modPort port fun p => { p with up := up }
  | _, _, _ => False

end Sys2Proof.Machine.Claims

open Sys2Proof Sys2Proof.Machine

/-- The events of transfers have the effect the rules give (R280, R282, R291 to R294): an acceptance of a waiting descriptor word, a
move, a push, a stamp, a fault, a page that has come, a promise that has passed, and a word stored into an aperture. -/
def Obligations.TransferEventsComplete : Prop := Claims.Occurs Claims.transferEvents

/-- A parked transfer instruction is carried out at its acceptance (R279, R280, R298, R301), once its request has room and nothing that
waits before it names its store. -/
def Obligations.ParkedTransferIsAccepted : Prop :=
  ∀ (s s1 : State) (core n : Nat) (c : Ctl) (d : VReg) (ts : Src) (b : Option RSrc) (u v : Machine.Unit) (f g : Fibre)
    (p : XPlan) (o : Op) (R : Ctx → State → State → Prop) (t : State),
    (∀ k, s.core? core = some k → k.apWait.find? (fun a => a.seq == n) = none) →
    s.parkedXfer core n = some (u, f) → f.wait = some (.accept (.xfer c d ts b) n) →
    s.xplan u (f.xask ts b).tmpl (f.xask ts b).x = .ok p → s.xbehind core (p.store u) (some n) = false →
    s.xroom u p false = true → s1 = Claims.servedAt s u.key f.fid → Claims.transfers (.xfer c d ts b) = some (o, R) →
    s1.Clear v g o → R { u := v, f := g.seen o } (s1.passed v g o) t →
      exec (.transferAccept core n) s = .next (s1.closed v g o t)

/-- The events of the matrix unit have the effect the rules give (R313, R314, R319, R321, R325). The group that an arrival is
caught in, the order in which caught operations are performed, and that a disagreement or a late arrival discards the group's
arrivals and lowers their counts, are log 68's reading: the model's choice. -/
def Obligations.MatrixEventsComplete : Prop := Claims.Occurs Claims.matrixEvents

/-- The events of the wire have the effect the rules give (R336, R339, R341, R344, R347). -/
def Obligations.WireEventsComplete : Prop := Claims.Occurs Claims.wireEvents

namespace Sys2Proof.Machine.Claims

/-! ### The events of the front end and of scheduling (R356 to R405, R415 to R438) -/

/-- What a parse takes from the ring: the queue may be parsed, and all of the entry's parts have been kicked and are read
(R358, R360). -/
def parsed (s : State) (q : Nat) (b : List Byte) (n : Nat) : Prop :=
  let x := s.queue q
  s.parses x = true ∧ ∃ h, s.ringEntries x x.ridx.toNat 1 = some h ∧ n = 1 + partCount h ∧
    x.ridx.toNat + n ≤ x.kick.toNat ∧ s.ringEntries x x.ridx.toNat n = some b

/-- No fibre of a unit is live, none has a fault to deliver, and no continuation of it waits. -/
def over' (s : State) (u : Unit) : Prop :=
  (∀ f ∈ u.fibres, f.live = false ∧ ∀ d ∈ f.faults, d.cls = .late) ∧
    ∀ l, s.launch? u.launch = some l → ∀ n ∈ l.conts, n.1 ≠ u.no

/-- What a unit whose fibres are over comes to: it is complete, begins its next stage, or waits for a gang's place to
continue at (R37, R98, R369); one that is being ended is taken away (R372). -/
def retires (s : State) (u : Unit) (t : State) : Prop :=
  if u.ending = true then
    ∃ v, (s.endAtPoints u).unit? u.key = some v ∧ v.ending = true ∧ over' (s.endAtPoints u) v ∧
      ((s.endAtPoints u).cancelUnit v).quiet v = true ∧
      t = (((s.endAtPoints u).cancelUnit v).finishUnit v .ended).logRec 4 0x68 (BitVec.ofNat 32 v.no) v.launch
  else over' s u ∧ s.quiet u = true ∧ match u.next with
    | none => t = s.completeUnit u
    | some n =>
      if n.cont = true ∧ u.shadow = false then
        let q := s.queue (((s.launch? u.launch).map Launch.queue).getD 0)
        let best := (((s.launch? u.launch).map Launch.deadline).getD none).isNone
        t = (s.modUnit u.key fun v => { v with fibres := [] }).modLaunch u.launch fun l => { l with
          conts := l.conts ++ [(u.no, if q.timed && !best then some (n.issued + q.defaultDl) else none)] }
      else t = s.beginStage u.key n.desc

/-- The events of commands, launches and graphs. -/
def launchEvents : Instr → State → State → Prop
  | .commandParse q, s, t =>
      let x := s.queue q
      (s.parses x = true ∧ s.ringEntries x x.ridx.toNat 1 = none ∧ t = s.modQueue q fun x => { x with err := 2 }) ∨
      ∃ b n, parsed s q b n ∧ ((cmdOf b).serial = true → s.queueBusy q = false) ∧
        let s0 := (List.range n).foldl (fun s k =>
          s.noteExt x.ctx (locAddr x.base 4096 (64 * ((x.ridx.toNat + k) % 2 ^ x.size))) 64) s
        let s1 := s0.modQueue q fun y => { y with ridx := BitVec.ofNat 64 (x.ridx.toNat + n) }
        ((∃ r, s.refusal x (cmdOf b) = some r ∧ t = s1.refuseCommand x x.ridx.toNat (cmdOf b).tag r) ∨
          (s.refusal x (cmdOf b) = none ∧ s.full (cmdOf b).launch.isSome ((cmdOf b).type == 2) = false ∧
            t = s1.startCommand x x.ridx.toNat (cmdOf b)))
  | .preloadComplete ⟨launch, err⟩, s, t => ∃ l, s.launch? launch = some l ∧ l.stage = .preload ∧
      if l.cancelled = true then t = s.modLaunch launch fun l => { l with stage := .ready }
      else
        let r := s.runCopies l.ctx l.preloads err
        let s1 := r.1.modLaunch launch fun l => { l with stage := .ready }
        (r.2 = none ∧ t = s1) ∨ ∃ e, r.2 = some e ∧ t = s1.failLaunch launch e.cause e.arg
  | .gangDispatch launch gang cores, s, t => ∃ l, s.launch? launch = some l ∧
      ((∃ n, (s.freeConts l).find? (fun n => n.1 / max l.part.gang 1 == gang) = some n ∧ t = s.startCont l n.1 n.2) ∨
        ((s.freeConts l).find? (fun n => n.1 / max l.part.gang 1 == gang) = none ∧ s.nextGang l = some gang ∧
          (∀ k ∈ cores, clusterOf k = clusterOf (cores.headD 0) ∧ s.mayPlace l.queue k = true) ∧
          s.chosen (s.candOf l gang l.deadline) (clusterOf (cores.headD 0)) = true ∧
          s.shunned l gang (clusterOf (cores.headD 0)) = false ∧ s.strays l gang cores = false ∧
          (s.startGang l gang cores = some t ∨
            s.startGang l gang cores = none ∧ (s.clearShadows cores).startGang l gang cores = some t)))
  | .unitRetire unit, s, t => ∃ u, s.unit? unit = some u ∧ u.key = unit ∧ retires s u t
  | .launchSettle launch, s, t => ∃ l, s.launch? launch = some l ∧ l.stage = .ready ∧ l.part.grid ≤ l.gone ∧
      let s0 : State := { s with bank := { s.bank with carried := s.bank.carried.filter fun p => p.launch != launch } }
      let s1 := ((s0.settleLags 0 .sys).reveal launch).modLaunch launch fun l => { l with
        stage := .settled, endT := s.wire.ptp, startT := if l.started then l.startT else s.wire.ptp }
      t = if (∃ d, l.deadline = some d ∧ d < s.time) then s1.note 3 else s1
  | .postCopiesDone ⟨launch, err⟩, s, t => ∃ l, s.launch? launch = some l ∧
      let shadows := s.units.any fun u => u.launch == launch
      ((l.stage = .done ∧ shadows = false ∧ t = s.retireLaunch l) ∨
        (l.stage = .settled ∧
          let r := if l.status = 2 then s.runCopies l.ctx l.posts err else (s, none)
          let l1 := match r.2 with
            | some e => { l with failed := true, cause := e.cause, errArg := e.arg }
            | none => l
          let s1 := match l.hdr, l.graph with
            | some h, _ => r.1.queueRecord l.queue h l1.recordOf
            | none, some (g, n) => ((r.1.graph? g).map fun x => r.1.nodeRecord x n l1.recordOf).getD r.1
            | none, none => r.1
          let s2 := match l.signal with
            | some p => s1.sendSignal l.ctx l.queue p
            | none => s1
          let s3 := (s2.modLaunch launch fun _ => { l1 with stage := .done }).settleLevels l1
          t = if shadows = true then s3 else s3.retireLaunch { l1 with stage := .done }))
  | .graphEvent inst, s, t => ∃ g, s.graph? inst = some g ∧ g.fault = none ∧
      if g.failed = true ∨ g.cancelled = true then
        t = if s.graphLaunches inst = [] then s.endGraph g else s.modGraph inst fun x => { x with events := [] }
      else (∃ n, g.nodes.find? Node.canFire = some n ∧ t = s.fireNode g n) ∨
        (g.nodes.find? Node.canFire = none ∧
          ((∃ n rest, g.events = n :: rest ∧ t = (s.modGraph inst fun x => { x with events := rest }).giveNode g n) ∨
            (g.events = [] ∧ s.graphLaunches inst = [] ∧ t = s.endGraph g)))
  | _, _, _ => False

/-- The events of timing, preemption, banking and planting. -/
def scheduleEvents : Instr → State → State → Prop
  | .vectorTimeExpiry func vec, s, t => (s.vec func vec).timeDue s.time = true ∧ t = s.modVec func vec Vec.fire
  | .periodStart q, s, t => (s.queue q).timed = true ∧ (s.queue q).periodEnd ≤ s.time ∧
      t = s.modQueue q fun x => { x with
        period := x.per, periodEnd := x.periodEnd + x.per * Config.usec, budget := x.bud * Config.usec, overrun := false }
  | .budgetExhausted q, s, t => (s.queue q).timed = true ∧ (s.queue q).budget = 0 ∧ (s.queue q).overrun = false ∧
      s.coresOf q ≠ 0 ∧ t = (s.modQueue q fun x => { x with overrun := true, ovcnt := min 65535 (x.ovcnt + 1) }).logRec 2 0x69
        (BitVec.ofNat 32 q) 0
  | .preemptionDecision launch gang, s, t => ∃ c, s.cands.find? (fun c => c.launch == launch && c.gang == gang) = some c ∧
      s.timely c.queue = true ∧ s.room c = none ∧ (s.without (s.gangs.filter s.leaving)).room c = none ∧
      let going := s.gangs.filter s.leaving
      let pick := ((s.enough c going (s.victims c false)).orElse fun _ => s.enough c going (s.victims c true)).getD []
      t = (pick.filter fun g => !s.leaving g).foldl (fun s g => s.preempt g) s
  | .drainBoundExpiry launch gang, s, t => ∃ g d,
      s.gangs.find? (fun g => g.launch == launch && g.idx == gang && g.drainTill.isSome) = some g ∧
      g.drainTill = some d ∧ d ≤ s.time ∧ (∃ u ∈ s.unitsOf g, u.ending = false) ∧ t = s.saveGang g
  | .prectlCopy, s, t => t = s.modFe fun e => { e with prectlCopy := e.prectl }
  | .bankingStart job, s, t => ∃ j, s.job? job = some j ∧ j.step = 0 ∧
      let hit (g : Gang) : Bool := g.launch == j.launch && j.gangs.contains g.idx && !g.shadow
      t = { s with gangs := updIf s.gangs hit fun g => { g with banking := 1, drainTill := none } }
  | .bankPointsReached job, s, t => ∃ j, s.job? job = some j ∧
      ((s.launch? j.launch = none ∧ t = s.dropJob job) ∨
        ∃ l, s.launch? j.launch = some l ∧ j.step = 0 ∧ (∀ g ∈ s.jobGangs j, g.banking = 1) ∧
          (∀ u ∈ s.bankUnits l j.gangs, s.bankable u = true) ∧ t = s.copyOut j l)
  | .imageWritten job, s, t => ∃ j d, s.job? job = some j ∧ j.dest = some d ∧ j.step = 1 ∧
      let s1 := (((s.settleLags 0 .sys).reveal j.launch).writeDest d j.image).dropJob job
      t = { s1 with bank := { s1.bank with written := (j.image.drop 128).take 48 :: s1.bank.written } }
  | .planting job, s, t => ∃ j, s.job? job = some j ∧
      ((s.launch? j.launch = none ∧ t = s.dropJob job) ∨
        ∃ l, s.launch? j.launch = some l ∧ j.ready = true ∧ l.startable = true ∧
          let s1 : State := { s with freeCtr := s.freeCtr + 1 }
          let may (g cl : Nat) : Prop := g ∈ j.gangs ∧ g ∈ l.banked ∧ cl < 24 ∧ s1.shunned l g cl = false ∧
            s1.chosen (s1.candOf l g l.deadline) cl = true
          let all := s1.plantings j l
          (∃ g cl v, may g cl ∧ s1.plantGang j l g cl = some v) ∧
            t = all.getD (Config.freeNat s.freeCtr % all.length) s)
  | .pageCarriage ctx page data, s, t => ∃ p, s.page? ctx page = some p ∧
      (p.absent = false ∧ t = s.pageFetched ctx p.va ∨ p.absent = true ∧
      let n := pageBytes p.sizeCode
      let pages := updIf s.fabric.pages (fun (x : Page) => x.ctx == ctx && x.va == p.va) fun (x : Page) => { x with absent := false }
      let s1 : State := { s with
        mem := (s.mem.clearRange p.phys (p.phys + n)).setBytes p.phys (data.take n), fabric := { s.fabric with pages := pages } }
      let waits (r : TrapRec) : Bool := r.waitsOn ctx p.va (p.va + n) (r.addr.bind fun a => s.faultVa ctx (a.1 % 16) a.2)
      let s2 : State := { s1 with cores := s1.cores.map fun c => { c with records := c.records.filter fun r => !waits r } }
      let inPage (a : Nat) : Bool := ((s.faultVa ctx (a / 2 ^ 64) (a % 2 ^ 64)).map fun v =>
        decide (p.va ≤ v) && decide (v < p.va + n)).getD false
      let moves := s2.cores.flatMap fun c => ((c.loadQ ++ c.storeQ).filter fun r =>
        (r.fault.map inPage).getD false && ((s.unit? r.unit).map s.ctxOf).getD 0 == ctx).map fun r =>
          Instr.transferPageResume c.idx r.id
      t = { s2.resumeCovered (s1.cores.flatMap fun c => (c.records.filter waits).flatMap TrapRec.covers) with
        agenda := moves ++ s.agenda })
  | .moveReport launch done, s, t => (∀ r ∈ s.bank.moves, r.launch ≠ launch) ∧
      t = s.modLaunch launch fun l => { l with
        moved := l.moved.map fun k => max k (min done (l.part.grid - l.unstarted.length)) }
  | _, _, _ => False

/-! ### The registers (R356, R357, R377, R379, R389, R397, R405, R456) -/

/-- Writes of the host's registers, after READY. -/
def registerEvents : Instr → State → State → Prop
  | .qkick q size offset v, s, t => s.life.readyFlag = true ∧ q < 256 ∧
      if size ≠ 8 ∨ offset % 8 ≠ 0 then t = s.logRec 1 0 (BitVec.ofNat 32 q) offset
      else if (s.queue q).ridx.toNat + 2 ^ (s.queue q).size < v.toNat then t = s.modQueue q fun x => { x with err := 1 }
      else t = s.modQueue q fun x => { x with kick := if x.kick.ult v then v else x.kick }
  | .qstatErrClear q v, s, t => s.life.readyFlag = true ∧ q < 256 ∧
      t = if v.setWidth 8 = 0#8 then s.modQueue q fun x => { x with err := 0 } else s
  | .qctl func q v, s, t => s.life.readyFlag = true ∧ q < 256 ∧ (func = 0 ∨ (s.queue q).func = func) ∧
      t = s.modQueue q fun x => { x with ctl := qctlValue x.ctl v (func == 0) }
  | .qperQbudWrite q bud v, s, t => s.life.readyFlag = true ∧ q < 256 ∧
      if bud = true then t = s.modQueue q fun x => { x with bud := min v.toNat (x.per * Config.cores) }
      else t = s.modQueue q fun x =>
        if v = 0 then { x with per := 0, period := 0, periodEnd := 0, budget := 0, overrun := false }
        else if x.per = 0 then
          { x with per := v.toNat, period := v.toNat, periodEnd := s.time + v.toNat * Config.usec
                   budget := x.bud * Config.usec, overrun := false }
        else { x with per := v.toNat }
  | .qres q v, s, t => s.life.readyFlag = true ∧ q < 256 ∧
      let s1 := s.writeRcores q (v.extractLsb' 0 7).toNat
      t = if v.getLsbD 15 then s1.modQueue q fun x => { x with ovcnt := 0 } else s1
  | .ovcntClear q, s, t => s.life.readyFlag = true ∧ q < 256 ∧ t = s.modQueue q fun x => { x with ovcnt := 0 }
  | .hrhead func ring v, s, t => s.life.readyFlag = true ∧ ring < 64 ∧
      t = s.modHostRing func ring fun r => { r with head := if r.head.ult v then v else r.head }
  | .hrctl func ring v, s, t => s.life.readyFlag = true ∧ ring < 64 ∧
      t = s.modHostRing func ring fun r => { r with ctl := hrctlValue v }
  | .ivctl func vec v, s, t => s.life.readyFlag = true ∧ vec < 64 ∧ t = s.modVec func vec fun x =>
      ({ x with time := (v.extractLsb' 9 16).toNat, cnt := min 256 (max 1 (v.extractLsb' 0 9).toNat) }).check
  | .prectl v, s, t => s.life.readyFlag = true ∧ t = s.modFe fun e => { e with prectl := prectlValue v }
  | .scrctl v, s, t => s.life.readyFlag = true ∧ t = s.modFe fun e => { e with scrctl := scrctlValue v }
  | .pwrcap v, s, t => s.life.readyFlag = true ∧ t = s.modLife fun d => { d with pwrcap := min 3000 (max 600 (v.extractLsb' 0 12).toNat) }
  | .msixVectorUnmask func vec, s, t => t = s.modVec func vec fun v =>
      if v.pbit = true then { v with masked := false, pendingN := 0, pbit := false, sent := v.sent + 1 }
      else { v with masked := false }
  | .registerWrite func offset size v, s, t =>
      (func = 0 ∧ 0x500000 ≤ offset ∧ offset < 0x500100 ∧ t = s.writeMailbox 0 (offset - 0x500000) size v) ∨
      (s.life.readyFlag = false ∧ (func ≠ 0 ∨ offset < 0x500000 ∨ 0x500100 ≤ offset) ∧ t = s.logRec 0 0 0 offset) ∨
      (s.life.readyFlag = true ∧
        ((0x100000 ≤ offset ∧ offset < 0x104000 ∧
            t = s.writeQueueReg func ((offset - 0x100000) / 64) ((offset - 0x100000) % 64) size v) ∨
          (0x200000 ≤ offset ∧ offset < 0x200800 ∧
            t = s.writeRingReg func ((offset - 0x200000) / 32) ((offset - 0x200000) % 32) size v) ∨
          (0x300000 ≤ offset ∧ offset < 0x300100 ∧ size = 4 ∧ offset % 4 = 0 ∧
            t = s.writeIvctl func ((offset - 0x300000) / 4) (v.setWidth 32)) ∨
          (0x1000000 ≤ offset ∧ offset < 0x1000000 + 512 * Config.cores ∧
            s.seesAperture func ((offset - 0x1000000) / 512) = true ∧
            t = s.next (.apertureStore ((offset - 0x1000000) / 512) (offset % 512) size v)) ∨
          (func = 0 ∧ size = 4 ∧ offset = 0x400000 ∧ t = s.modFe fun e => { e with prectl := prectlValue (v.setWidth 32) }) ∨
          (func = 0 ∧ size = 4 ∧ offset = 0x400008 ∧ t = s.modFe fun e => { e with scrctl := scrctlValue (v.setWidth 32) }) ∨
          (func = 0 ∧ size = 4 ∧ offset = 0x400010 ∧ t = s.writePwrcap (v.setWidth 32)) ∨
          (func = 0 ∧ 0x500100 ≤ offset ∧ offset < 0x500800 ∧
            t = s.writeMailbox ((offset - 0x500000) / 256) (offset % 256) size v)))
  | _, _, _ => False

end Sys2Proof.Machine.Claims

open Sys2Proof Sys2Proof.Machine

/-- The events of commands, launches and graphs have the effect the rules give (R37, R358, R362, R363, R369, R375, R384). The
model's choices in it: the order of the reasons for which a command is refused (log 33), that START equals END where nothing was
dispatched (log 34), and what a closed level's memo keeps (log 36). -/
def Obligations.LaunchEventsComplete : Prop := Claims.Occurs Claims.launchEvents

/-- The events of timing, preemption, banking, planting and page carriage have the effect the rules give (R380, R390,
R393, R395, R397, R416, R434, R435, R437). The model's choices in it: that a queue without resident units raises no OVERRUN
(log 39), the pick of the victims (log 40), when an image is formed and written (log 41), what planting maps and ends with
(log 44), what a move leaves behind (log 45), and the free choice among the clusters that may take a planted gang (log 63). -/
def Obligations.ScheduleEventsComplete : Prop := Claims.Occurs Claims.scheduleEvents

/-- The writes of the host's registers have the effect the rules give (R356, R357, R377, R379, R389, R397, R405, R456). The
model's choices in it: that an IVCTL write checks its vector at once (log 35), and merges, odd sizes, a nonzero write of QSTAT and
EN with a bad SIZE (log 37). -/
def Obligations.RegisterWritesComplete : Prop := Claims.Occurs Claims.registerEvents

namespace Sys2Proof.Machine.Claims

/-! ### The firmware's commands (R347, R402, R437, R438, R452, R453, R457) -/

/-- The mailbox of a firmware core holds a command; the core answers it with what it leaves and replies (R453). -/
def commanded (s : State) (n cmd : Nat) (P : Mailbox → State → Reply → Prop) (t : State) : Prop :=
  (s.mailbox n).busy = true ∧ field (s.mailbox n).req 0 1 = cmd ∧
    ∃ s1 r, P (s.mailbox n) s1 r ∧ t = s1.answer n r

/-- A reply that refuses the request, the machine unchanged. -/
def refuses (s s1 : State) (r : Reply) : Prop := s1 = s ∧ r = .refused plainReason

/-- A request for a page of a context's memory that the firmware grants (R190): it overlaps none that is kept for the device
which plants an image (R435). -/
def pageAsked (s : State) (m : Mailbox) : Prop :=
  m.arg 0 < 16 ∧ m.arg 2 ≤ 2 ∧ m.arg 1 % pageBytes (m.arg 2) = 0 ∧ m.arg 1 < 2 ^ 57 ∧ m.arg 4 < 8 ∧
    s.pageKept (m.arg 0) (m.arg 1) (m.arg 2) = false

/-- The commands of the mailboxes, each with its reply. -/
def firmwareEvents : Instr → State → State → Prop
  | .attestationReport, s, t => commanded s 0 0x01 (fun m s1 r =>
      (s1, r) = s.draw.2.toWindow (m.arg 4)
        (s.draw.2.report (sub m.req 8 32) ++ (List.range 3373).map (Config.signatureByte s.draw.1)) (bytesOfNat 8 3885)) t
  | .certificateChain, s, t => commanded s 0 0x02 (fun m s1 r =>
      (s1, r) = s.toWindow (m.arg 0) ((List.range Config.certLength).map Config.certByte) (bytesOfNat 8 Config.certLength)) t
  | .mailboxCancel, s, t => commanded s 1 0x10 (fun m s1 r => (s1, r) = s.hostCancel (m.arg 0) (m.arg 1)) t
  | .mailboxMap, s, t => commanded s 3 0x30 (fun m s1 r =>
      let core := m.arg 3 % 2 ^ 63
      let p := memPage (m.arg 0) (m.arg 1) (m.arg 2)
      let const := m.arg 1 % 2 ^ 63
      let constOk : Prop := m.arg 0 < 16 ∧ 65536 ≤ const ∧ const % 64 = 0 ∧ const + m.arg 2 ≤ 2 ^ 57 ∧ m.arg 3 % 64 = 0 ∧
        m.arg 3 + m.arg 2 ≤ 768 * 2 ^ 30
      (2 ^ 63 ≤ m.arg 1 ∧ ¬ constOk ∧ refuses s s1 r) ∨
      (2 ^ 63 ≤ m.arg 1 ∧ constOk ∧ r = .done [] ∧ s1 = s.placeConst (m.arg 0) const (m.arg 2) (m.arg 3)) ∨
      (m.arg 1 < 2 ^ 63 ∧ ¬ pageAsked s m ∧ refuses s s1 r) ∨
      (pageAsked s m ∧ 2 ^ 63 ≤ m.arg 3 ∧ Config.cores ≤ core ∧ refuses s s1 r) ∨
      (pageAsked s m ∧ 2 ^ 63 ≤ m.arg 3 ∧ core < Config.cores ∧ r = .done [] ∧
        s1 = s.mapPage { p 0 (BitVec.ofNat 3 (m.arg 4)) with aperture := some core }) ∨
      (pageAsked s m ∧ m.arg 3 < 2 ^ 63 ∧ m.arg 3 % pageBytes (m.arg 2) ≠ 0 ∧ refuses s s1 r) ∨
      (pageAsked s m ∧ m.arg 3 < 2 ^ 63 ∧ m.arg 3 % pageBytes (m.arg 2) = 0 ∧ r = .done [] ∧
        s1 = s.mapPage (p (m.arg 3) (BitVec.ofNat 3 (m.arg 4))))) t
  | .mailboxUnmap, s, t => commanded s 3 0x31 (fun m s1 r =>
      (2 ^ 63 ≤ m.arg 1 ∧ r = .done [] ∧ s1 = { s with fabric := { s.fabric with
        consts := s.constsOff (m.arg 0) (m.arg 1 % 2 ^ 63) (m.arg 1 % 2 ^ 63 + m.arg 2) } }) ∨
      (m.arg 1 < 2 ^ 63 ∧ (16 ≤ m.arg 0 ∨ 2 < m.arg 2 ∨ s.pageKept (m.arg 0) (m.arg 1) (m.arg 2) = true) ∧ refuses s s1 r) ∨
      (m.arg 1 < 2 ^ 63 ∧ m.arg 0 < 16 ∧ m.arg 2 ≤ 2 ∧ s.pageKept (m.arg 0) (m.arg 1) (m.arg 2) = false ∧ s1 = s.unmapPage (m.arg 0) (m.arg 1) (m.arg 2) ∧ r = .done [])) t
  | .hostWindowEntry, s, t => commanded s 3 0x32 (fun m s1 r =>
      let good : Prop := m.arg 0 ≤ 16 ∧ m.arg 1 < 2 ^ 27 ∧ m.arg 2 % 2097152 = 0
      let w : HostWin := { func := m.arg 0, entry := m.arg 1, pcie := m.arg 2, atomics := m.arg 3 % 2 == 1 }
      (¬ good ∧ refuses s s1 r) ∨
      (good ∧ r = .done [] ∧ s1 = { s with fabric := { s.fabric with
        hostWin := (s.fabric.hostWin.filter fun x => !(x.func == w.func && x.entry == w.entry)) ++ [w] } })) t
  | .poolTable, s, t => commanded s 5 0x50 (fun m s1 r =>
      let good : Prop := m.arg 0 < 512 ∧ m.arg 1 < 2 ^ 22 ∧ m.arg 2 < 16 ∧ m.arg 3 % 2 ^ 30 = 0
      let g : PoolGranule := { pool := m.arg 0, granule := m.arg 1, home := m.arg 2, range := m.arg 3 }
      let s0 := s.modPool (m.arg 0) fun p => p
      (¬ good ∧ refuses s s1 r) ∨
      (good ∧ r = .done [] ∧ s1 = State.rejoin { s0 with fabric := { s0.fabric with
        granules := (s.fabric.granules.filter fun x => !(x.pool == g.pool && x.granule == g.granule)) ++ [g] } })) t
  | .memberAdd, s, t => commanded s 5 0x51 (fun m s1 r =>
      let known : Prop := ∃ p ∈ s.fabric.pools, p.pool = m.arg 0 ∧ m.arg 1 ∈ p.members
      let s0 := if known then s else s.forgetMember (m.arg 0) (m.arg 1)
      ((512 ≤ m.arg 0 ∨ 16 ≤ m.arg 1) ∧ refuses s s1 r) ∨
      (m.arg 0 < 512 ∧ m.arg 1 < 16 ∧ r = .done [] ∧ s1 = (s0.modPool (m.arg 0) fun p => { p with
        members := insNat p.members (m.arg 1), silent := p.silent.filter fun x => x != m.arg 1
        self := if m.arg 2 % 2 = 1 then m.arg 1 else p.self }).rejoin)) t
  | .memberRemove, s, t => commanded s 5 0x52 (fun m s1 r =>
      ((512 ≤ m.arg 0 ∨ 16 ≤ m.arg 1) ∧ refuses s s1 r) ∨
      (m.arg 0 < 512 ∧ m.arg 1 < 16 ∧ r = .done [] ∧
        s1 = (s.forgetMember (m.arg 0) (m.arg 1)).modPool (m.arg 0) fun p => { p with
          members := p.members.filter (fun x => x != m.arg 1), silent := p.silent.filter fun x => x != m.arg 1 })) t
  | .ownerTimeOutSet, s, t => commanded s 5 0x53 (fun m s1 r =>
      (m.arg 0 < 512 ∧ r = .done [] ∧ s1 = s.modPool (m.arg 0) fun p => { p with ownerTime := ownerTimeValue (m.arg 1) }) ∨
      (m.arg 0 = 2 ^ 64 - 1 ∧ r = .done [] ∧
        s1 = { s with fabric := { s.fabric with ownerTime := ownerTimeValue (m.arg 1) } }) ∨
      (512 ≤ m.arg 0 ∧ m.arg 0 ≠ 2 ^ 64 - 1 ∧ refuses s s1 r)) t
  | .flowEntry, s, t => commanded s 6 0x60 (fun m s1 r =>
      let entry := (List.range 64).mapM fun i => (s.hostKey 0 (m.arg 1 + i)).map fun k => s.mem.byte k.1
      (4096 ≤ m.arg 0 ∧ refuses s s1 r) ∨ (m.arg 0 < 4096 ∧ entry = none ∧ refuses s s1 r) ∨
      (m.arg 0 < 4096 ∧ ∃ b, entry = some b ∧ r = .done [] ∧
        s1 = s.modWire fun w => { w with flows :=
          (w.flows.filter fun x => x.idx != (flowFrom (m.arg 0) b).idx) ++ [flowFrom (m.arg 0) b] })) t
  | .clockSource, s, t => commanded s 6 0x61 (fun m s1 r =>
      (4 ≤ m.arg 0 ∧ refuses s s1 r) ∨
      (m.arg 0 < 4 ∧ r = .done [] ∧ s1 = (s.modWire fun w => { w with clockSource := m.arg 0 }).discipline)) t
  | .clockStep, s, t => commanded s 6 0x62 (fun m s1 r =>
      let c := BitVec.ofNat 96 (m.arg 0 + (m.arg 1 % 2 ^ 32) * 2 ^ 64)
      (1000000000 ≤ (c.extractLsb' 16 32).toNat ∧ refuses s s1 r) ∨
      ((c.extractLsb' 16 32).toNat < 1000000000 ∧ r = .done [] ∧
        s1 = s.modWire fun w => { w with ptp := c, steps := w.steps + 1 })) t
  | .portReset, s, t => commanded s 6 0x63 (fun m s1 r =>
      (2 ≤ m.arg 0 ∧ refuses s s1 r) ∨ (m.arg 0 < 2 ∧ r = .done [] ∧ s1 = s.flushPosts (m.arg 0))) t
  | .mailboxBank, s, t => commanded s 7 0x70 (fun m s1 r =>
      let gang := m.arg 1 % 2 ^ 32
      (s.launchOf (m.arg 0) = none ∧ refuses s s1 r) ∨
      ∃ l, s.launchOf (m.arg 0) = some l ∧
        ((m.arg 2 % 64 ≠ 0 ∧ refuses s s1 r) ∨
          (m.arg 2 % 64 = 0 ∧ (∀ n gs, s.bankAsk l gang none ≠ .go n gs) ∧ refuses s s1 r) ∨
          (m.arg 2 % 64 = 0 ∧ ∃ n gs, s.bankAsk l gang none = .go n gs ∧ r = .done (bytesOfNat 8 n) ∧
            s1 = if l.failed = true ∨ l.cancelled = true then s
              else s.startJob l.key gs (gang == 0xFFFFFFFF)
                (some { ctx := l.ctx, func := l.func, space := 0, adr := m.arg 2 % 2 ^ 63
                        pcie := decide (2 ^ 63 ≤ m.arg 2) })))) t
  | .mailboxPlant, s, t => commanded s 7 0x71 (fun m s1 r =>
      let q := s.queue (m.arg 1)
      let image := (s.extRead q.ctx (m.arg 0) 192).bind fun h => s.extRead q.ctx (m.arg 0) (max (field h 120 8) 192)
      ((256 ≤ m.arg 1 ∨ 16 ≤ m.arg 2) ∧ refuses s s1 r) ∨
      (m.arg 1 < 256 ∧ m.arg 2 < 16 ∧
        ((image = none ∧ refuses s s1 r) ∨ ∃ b, image = some b ∧
          let s0 := s.noteExt q.ctx (m.arg 0) b.length
          ((∃ e, s0.plantRefusal q.ctx b = some e ∧ s1 = s0 ∧ r = .refused e.1) ∨
            (s0.plantRefusal q.ctx b = none ∧
              let p := s0.plantImage { func := q.func, ctx := q.ctx, queue := m.arg 1, job := m.arg 2 } b
              s1 = p.1 ∧ r = .done (bytesOfNat 8 p.2.toNat)))))) t
  | .move, s, t => commanded s 7 0x72 (fun m s1 r =>
      (s.launchOf (m.arg 0) = none ∧ refuses s s1 r) ∨
      ∃ l, s.launchOf (m.arg 0) = some l ∧
        ((s.mayMove l = false ∧ refuses s s1 r) ∨
          (s.mayMove l = true ∧ r = .done (bytesOfNat 8 l.unstarted.length) ∧
            let s0 := s.noteFunction l.ctx l.desc
            let image := imageOf (flagByte [false, true]).toNat 0 (s0.chash l.ctx)
              [sectionOf 1 [s0.launchItem l], sectionOf 9 [l.unstartedItem]]
            let mv : MoveRec :=
              { launch := l.key, target := m.arg 1, sent := l.unstarted.length, image := image, reported := l.done }
            let s2 := s0.modLaunch l.key fun x => { x with
              nextUnit := x.part.grid, returned := [], moved := some l.unstarted.length, hdr := none
              posts := if x.hdr.isSome then [] else x.posts, signal := none }
            s1 = { s2 with bank := { s2.bank with moves := s2.bank.moves ++ [mv] } }))) t
  | .release, s, t => commanded s 7 0x73 (fun m s1 r =>
      (s.launchOf (m.arg 0) = none ∧ refuses s s1 r) ∨
      ∃ l, s.launchOf (m.arg 0) = some l ∧
        (((s.outUnits l = [] ∨ l.moved ≠ none) ∧ refuses s s1 r) ∨
          (s.outUnits l ≠ [] ∧ l.moved = none ∧ r = .done [] ∧
            let first := BitVec.ofNat 32 ((s.outUnits l).headD 0)
            s1 = (s.modLaunch l.key fun x => { x with
              cause := 0x70, errArg := first
              banked := x.banked.filter fun g => s.bank.jobs.any fun j => j.launch == x.key && j.gangs.contains g
              ends := x.ends ++ (s.outUnits l).map fun n => { no := n, how := .ended, fibres := 0, resident := 0, front := false } }).logRec 7 0x70 first l.key))) t
  | .checkpoint, s, t => commanded s 7 0x74 (fun m s1 r =>
      let (job, ctx) := (m.arg 0, m.arg 2)
      let list := s.shardList ctx (m.arg 1) (2 ^ 52)
      ((16 ≤ job ∨ list = none) ∧ refuses s s1 r) ∨
      (job < 16 ∧ ∃ asks place, list = some (asks, place) ∧
        let read := asks.mapM fun a => (s.shardBytes ctx a).map fun b => (a, b)
        ((read = none ∧ refuses s s1 r) ∨ ∃ shards, read = some shards ∧ r = .done [] ∧
          let body := manifestBody job s.wire.ptp ((tget s.bank.prevManifest job).getD (zs 48))
            (shards.map fun x => shardEntry x.1 x.2)
          let s0 := asks.foldl (fun s a => s.noteExt ctx a.src a.len) (s.noteExt ctx (m.arg 1) (32 * (asks.length + 1)))
          let s2 := ((shards.foldl (fun s x => s.extWrite ctx x.1.dst x.2) s0).extWrite ctx (place + 8)
            ((body ++ sha384 body).drop 8)).extWrite ctx place (body.take 8)
          s1 = { s2 with bank := { s2.bank with prevManifest := tset s2.bank.prevManifest job (sha384 body) } }))) t
  | .readLog, s, t => commanded s 4 0x40 (fun m s1 r =>
      let rs := s.fe.log.take (m.arg 1 / 16)
      (s1, r) = s.toWindow (m.arg 0) (rs.flatMap LogRec.bytes) (bytesOfNat 8 rs.length)) t
  | .readCounters, s, t => commanded s 4 0x41 (fun m s1 r =>
      let cs := (s.cores.flatMap Core.counters ++ s.life.dieCounters).take (m.arg 1 / 8)
      (s1, r) = s.toWindow (m.arg 0) (cs.flatMap fun c => bytesOfNat 8 c.val.toNat) (bytesOfNat 8 cs.length)) t
  | .mailboxUnknownCommand core, s, t => (s.mailbox core).busy = true ∧
      field (s.mailbox core).req 0 1 ∉ knownCommands core ∧ t = s.answer core .unknown
  | _, _, _ => False

/-! ### The device: the host's accesses, power, links, and the device's life (R199, R225, R241, R449 to R456) -/

/-- An access of the host reaches the device's memory (R225). -/
def inReach (s : State) (adr n : Nat) : Prop := s.life.readyFlag = true ∧ inDevice adr n = true

/-- What the patrol does at one word of a line (R199): a bad word is reported, one with a bit in error is corrected. -/
def scrubs (n : Nat) (s : State) (k : Nat) : State :=
  match checkWord (s.mem.word k) with
  | none => s.logRec 4 0x26 0 k
  | some (w, true) =>
    let m := s.mem.setWord k (fresh w)
    ({ s with mem := if s.mem.tag k then m.setTag k else m }.countDie (homeDie n) 0x0106 1).logRec 4 0 0 k
  | some (_, false) => s

/-- The device has stopped at 110 °C on a die (R456): its launches fail, its units are gone. -/
def halted (s : State) (die : Nat) : State :=
  let s1 := (s.fe.launches.filter fun l => !l.over').foldl (fun s l => s.failLaunch l.key 0 0) s
  let s2 := s1.units.foldl (fun s u => ((s.unit? u.key).map fun v => s.finishUnit v .ended).getD s) s1
  ({ s2 with issuing := [] } : State).failDevice 6 die

/-- A firmware image verifies (R451): its digest is its body's, both keys are the fused ones, and both signatures are good. -/
def signed (g : FirmSign) (body : List Byte) : Prop :=
  g.digest = sha384 body ∧ sha384 g.edKey = Config.edKeyDigest ∧ sha384 g.mlKey = Config.mlKeyDigest ∧
    Config.ed25519Verifies g.edKey g.digest g.edSig = true ∧ Config.mlDsa65Verifies g.mlKey g.digest g.mlSig = true

/-- The events of the device. -/
def deviceEvents : Instr → State → State → Prop
  | .hostWrite adr data poisoned _, s, t =>
      (¬ inReach s adr data.length ∧ t = s.logRec 0 0 0 adr) ∨
      (inReach s adr data.length ∧ poisoned = true ∧ t = (rangeLines adr data.length).foldl (fun s n =>
        (s.gatherHome n).modLine n fun l => { l with poisoned := true }) s) ∨
      (inReach s adr data.length ∧ poisoned = false ∧
        let kept := (data.zipIdx.map fun e => (adr + e.2, e.1)).filter fun e => !s.gone (e.1 / 64)
        t = (((rangeLines adr data.length).filter s.gone).foldl (fun s n => s.logRec 4 0x27 0 (64 * n)) s).pokeKeys
          (kept.map (·.1)) (kept.map (·.2)))
  | .hostRead ⟨some func, adr⟩ n, s, t =>
      t = (s.completeHost adr (if func ≤ 16 then s.barBytes func adr n else List.replicate n 0xFF) false).clearReplay func adr n
  | .hostRead ⟨none, adr⟩ n, s, t =>
      (¬ inReach s adr n ∧ t = s.completeHost adr (List.replicate n 0xFF) false) ∨
      (inReach s adr n ∧
        let s0 := s.look hostAgent adr n
        let m := s0.hostMem
        let bad := s.rangeDead adr n || (decide (0 < n) && (m.badWord adr n).isSome)
        let s1 := if n = 0 then s0 else s0.noteHome m adr n
        t = (s1.countDie (homeDie (adr / 64)) 0x0108 n).completeHost adr (m.goodBytes adr n) bad)
  | .hostAtomicop op eight adr operand compare, s, t =>
      let n := if eight then 8 else 4
      let cut (v : DWord) : DWord := if eight then v else v &&& 0xFFFFFFFF
      (¬ (inReach s adr n ∧ adr % n = 0) ∧ t = s.logRec 0 0 0 adr) ∨
      (inReach s adr n ∧ adr % n = 0 ∧ (s.rangeDead adr n = true ∨ (s.mem.badWord adr n).isSome = true) ∧
        t = s.completeHost adr (s.mem.bytes adr n) true) ∨
      (inReach s adr n ∧ adr % n = 0 ∧ s.rangeDead adr n = false ∧ s.mem.badWord adr n = none ∧
        let old := s.mem.goodBytes adr n
        let new := cut (hostAtomicNew op (BitVec.ofNat 64 (natOfBytes old)) (cut operand) (cut compare))
        let s0 := ((s.noteHome s.mem adr n).countDie (homeDie (adr / 64)) 0x0108 n).countDie (homeDie (adr / 64)) 0x0109 n
        let s1 := (s0.gatherHome (adr / 64)).showAll adr n
        t = { s1 with mem := s1.mem.setWords adr (wordsOfBytes (bytesOfNat n new.toNat)) }.completeHost adr old false)
  | .patrolScrub n, s, t => (s.line n).homeTokens = Config.tokens ∧ inDevice (64 * n) 64 = true ∧
      t = ((List.range 16).map fun i => 64 * n + 4 * i).foldl (scrubs n) s
  | .powerSample watts tj, s, t =>
      let s1 := s.modLife fun d =>
      let avg := meanOf ((watts :: d.samples).take 10)
      let mhz := if d.pwrcap < avg ∨ 100 ≤ tj then max 850 (d.mhz - 50)
        else if 100 * avg ≤ 95 * d.pwrcap ∧ d.mhz < 1700 then min 1700 (d.mhz + 50) else d.mhz
      { d with samples := (watts :: d.samples).take 10, power := min 4095 avg, tj := min 255 tj, mhz := mhz }
      t = if tj < 110 then s1 else halted s1.draw.2 (Config.freeNat s1.draw.1 % 4)
  | .thermalStop die, s, t => t = halted s die
  | .moduleReset, s, t => t = { State.reset with mem := s.mem.outside, agenda := s.agenda, freeCtr := s.freeCtr }
  | .firmwareMeasured core images sign version, s, t => s.life.stage ≤ 1 ∧ core < 8 ∧
      let ok := signed sign (images.headD [])
      ((¬ ok ∧ t = s.failDevice 1 core) ∨ (ok ∧ version < Config.minVersion ∧ t = s.failDevice 2 core) ∨
        (ok ∧ Config.minVersion ≤ version ∧ t = s.modLife fun d =>
          let m := images.foldl (fun m b => sha384 (m ++ sha384 b)) (d.measure.getD core (zs 48))
          let all := updAt d.measure core fun _ => m
          { d with
            measure := all, stage := if (∀ x ∈ all, x ≠ zs 48) then 2 else 1
            lowVersion := some (match d.lowVersion with | none => version | some v => min v version) }))
  | .calibrationDone code detail, s, t => s.life.stage = 2 ∧
      ((code = 0 ∧ t = s.modLife fun d =>
          { d with
            stage := 3, detail := 0, zeroed := 0
            links := d.links.mapIdx fun k l => { l with up := true, half := detail.testBit k } }) ∨
        ((code = 3 ∨ code = 4) ∧ t = s.failDevice code detail))
  | .ready failed, s, t => s.life.stage = 3 ∧
      ((failed = true ∧ t = s.draw.2.failDevice 5 (Config.freeNat s.draw.1 % 12)) ∨
        (failed = false ∧ 768 * 2 ^ 30 ≤ s.life.zeroed ∧ t = { s with
          clk := 0
          mem := s.mem.outside
          units := [], gangs := [], cores := State.reset.cores, drains := [], issuing := [], ir := none
          fabric := { s.fabric with lines := [], lostDir := [], lags := [], hidden := [] }
          wire := { s.wire with rings := [], ptp := 0, steps := 0 }
          fe := { s.fe with queues := [], launches := [], graphs := [] }
          life := { s.life with readyFlag := true, stage := 4, detail := 0 } }))
  | .functionLevelReset vf, s, t => 1 ≤ vf ∧ vf ≤ 16 ∧
      let mine (q : Nat) : Bool := (s.queue q).func == vf
      let s1 := (s.fe.graphs.filter fun g => mine g.queue && !g.settled).foldl (fun s g => s.cancelGraph g.inst) s
      let s2 := (s1.fe.launches.filter fun l => mine l.queue && !l.over').foldl (fun s l => s.cancelLaunch l.key) s1
      t = s2.modFe fun e => { e with queues := e.queues.map fun q =>
        if q.func = vf then { q with ctl := q.ctl &&& 0x7FFFFFFF } else q }
  | .flitReplay link, s, t => t = s.modLink link fun l => { l with replay := min 65535 (l.replay + 1) }
  | .linkRetrain link half ⟨up, quiet, reset⟩, s, t =>
      let s1 := s.modLink link fun l => { l with up := up, half := up && half, retrain := min 16383 (l.retrain + 1) }
      let heard (p : Pool) : List Nat := (if up then [] else p.silent) ++
        (quiet.filter fun e => e.1 == p.pool && e.2 != p.self).map (·.2)
      let s2 : State := { s1 with fabric := { s1.fabric with pools := s1.fabric.pools.map fun p =>
        { p with silent := (heard p).eraseDups.filter fun m => !reset.contains (p.pool, m) } } }
      t = reset.foldl (fun s e => s.forgetMember e.1 e.2) s2
  | .linkStatusRead link, s, t =>
      let word (l : Link) : Nat := (if l.up then 2 ^ 31 else 0) + (if l.half then 2 ^ 30 else 0) + l.retrain * 2 ^ 16 + l.replay
      let adr := 0x600000 + 16 * link
      (s.life.readyFlag = false ∧ link < 12 ∧ t = s.completeHost adr (zs 4) false) ∨
      ∃ l, s.life.readyFlag = true ∧ link < 12 ∧ s.life.links[link]? = some l ∧
        t = (s.completeHost adr (bytesOfNat 4 (word l % 2 ^ 32)) false).modLife fun d => { d with
          links := d.links.mapIdx fun k l => if k = link then { l with replay := 0 } else l }
  | .lineStateStoreFault n, s, t => t = (s.modLine n fun l => { l with poisoned := true }).logRec 4 0x28 0 (64 * n)
  | .storedWordError site flip codeFlip, s, t => match site with
    | .mem key => t = { s with mem := s.mem.flipWord (wordKey key) flip codeFlip }
    | .reg unit fid slot => t = s.modFibre unit fid fun f => { f with
        stack := ((tget f.stack slot).map fun r =>
          tset f.stack slot { val := r.val ^^^ flip, code := r.code ^^^ codeFlip }).getD f.stack }
    | .cap unit fid c => t = s.modFibre unit fid fun f =>
        f.setCap (BitVec.ofNat 4 c) ((f.cap (BitVec.ofNat 4 c)).hit flip codeFlip)
    | .result unit fid => t = s.modFibre unit fid fun f => { f with strike := flip }
    | .line adr =>
      let runs (core : Nat) : Bool :=
        (s.unitsOn core).any fun u => u.fibres.any fun f => f.live && lineAddr f.pc == adr / 64 * 64
      t = ((List.range Config.cores).filter runs).foldl (fun s c => s.count c 0x000C 1) s
  | .hostConfigRequest ⟨func, reg, v⟩, s, t =>
      let early : Prop := s.life.stage < 2 ∨ s.life.stage = 7 ∧ zs 48 ∈ s.life.measure
      (early ∧ t = s.modLife fun d => { d with configRetries := d.configRetries + 1 }) ∨
      (¬ early ∧ 16 < func ∧ t = s.completeHost 0 (List.replicate 4 0xFF) false) ∨
      (¬ early ∧ func ≤ 16 ∧ v = none ∧ t = s.completeHost 0 (bytesOfNat 4 (match reg with
        | .ids => ((if func = 0 then 0x0312#16 else 0x0313#16) ++ 0x1F5E#16).toNat
        | .classRev => ((0x120000#24) ++ (0x20#8)).toNat
        | .devCtl2 => (tget s.life.cplTimes func).getD 0 % 2 ^ 32)) false) ∨
      (¬ early ∧ func ≤ 16 ∧ ∃ w, v = some w ∧
        t = if reg = .devCtl2 ∧ w.toNat % 16 ∈ [0, 1, 2, 5, 6, 9, 10, 13, 14] then
          s.modLife fun d => { d with cplTimes := tset d.cplTimes func (w.toNat % 16) } else s)
  | _, _, _ => False

end Sys2Proof.Machine.Claims

open Sys2Proof Sys2Proof.Machine

/-- The firmware's commands have the effect the rules give, and answer with their replies (R402, R437, R438, R452, R453). The
model's choices in it: what MOVE and RELEASE leave (log 45), the places of the commands' arguments (log 46), the layout of a flow
(log 47), the reason of a plain refusal and the forms of logs and reports (log 48), and the placing of const sections (log 77). -/
def Obligations.FirmwareCommandsComplete : Prop := Claims.Occurs Claims.firmwareEvents

/-- The events of the device have the effect the rules give: the host's accesses, the patrol, power, links, resets, bring-up
and stored-word errors. The model's choices in it: the mean of few samples and the die at which the device stops (log 50), what a
poisoned write leaves (log 51), the stack on which initialisation fails (log 62), lines that cannot be gathered (log 70), the
codes of configuration space (log 79), and what the host does not see yet (log 72 and 90). -/
def Obligations.DeviceEventsComplete : Prop := Claims.Occurs Claims.deviceEvents

namespace Sys2Proof.Machine.Claims

/-! ### Rules of the whole machine -/

/-- What an instruction of one of the tables of single-fibre effects comes to. -/
def own (i : Instr) : Option Own :=
  (integers i).orElse fun _ => (floats i).orElse fun _ => (packeds i).orElse fun _ => predicates i

/-- The form of an instruction of one of the tables. -/
def opOf (i : Instr) : Option Op :=
  ((own i).map (·.1)).orElse fun _ => ((memories i).map (·.1)).orElse fun _ => ((capabilities i).map (·.1)).orElse fun _ =>
    (transfers i).map (·.1)

/-- The forms of the control instructions and the window moves, as far as a guard that is false reads them (R50). -/
def controls (s : State) : Instr → Option Op
  | .bra c _ => some (op0 c)
  | .brx c a => some (opPairA c a)
  | .loopd c d _ => some { op0 c with reads := groupReads 1 d.toNat 1 true, regs := dstRegs d 1 }
  | .call c _ => some (op0 c)
  | .callx c a => some (opPairA c a)
  | .ret c => some (op0 c)
  | .fork c d a b _ => some (word2 c d a b)
  | .fend c => some (endForm c false)
  | .exit c => some (endForm c true)
  | .exitSuccessor c _ => some (endForm c true)
  | .yield c => some (op0 c)
  | .sleepu c a => some { op1 c a true true [] with ends := 2, takes := engineFaults }
  | .trap c a => some (op1 c a false false [])
  | .brk c a => some (op1 c a false false [])
  | .trapret c => some (op0 c)
  | .trapretResume c => some (op0 c)
  | .wspill c r p n =>
    some (opM c p (n.reads 3 false true ++ (moveRange s r n).map fun j => .reg 0 j false true) (n.lastRegs false) [] 0)
  | .wfill c r p n => some (opM c p (n.reads 3 false true) (n.lastRegs false) (moveRange s r n) 0)
  | .srd c d r => some { op0 c with regs := dstRegs d (sregWords r) }
  | _ => none

/-- The form of an instruction that each fibre executes for itself, with a guard. -/
def formOf (s : State) (i : Instr) : Option Op :=
  (opOf i).orElse fun _ => ((fabrics i).map (·.1)).orElse fun _ => ((wires i).map (·.1)).orElse fun _ =>
    ((fronts i).map (·.1)).orElse fun _ => controls s i

/-- The fibre's unit delivers what the rules give, where the shadow unit checks the instruction's result (R143). -/
def delivers (i : Instr) (f : Fibre) : Prop := shadowed i = true → f.strike = 0

/-- The turn of a fibre has come and no recorded fault is due (R50, R209). -/
structure Turns (s : State) (u : Unit) (f : Fibre) : Prop where
  cur : s.turn u f
  late : f.again = true ∨ takeFault f.faults [.late] = none

/-- The guard of an instruction is known and may be read (R50, R54, R57). -/
structure Guarded (s : State) (u : Unit) (f : Fibre) (o : Op) : Prop extends Turns s u f where
  guardKnown : o.ctl.ps = 15 ∨ f.isPending (.pred o.ctl.ps) = false
  guardRead : f.readTrap (s.chkOf u) [.pred o.ctl.ps] = none

/-- Nothing but its reads may stop an instruction: its guard is true, no fault it takes is recorded, its registers are not
pending, and the rows it reads are in the core. -/
structure Reads (s : State) (u : Unit) (f : Fibre) (o : Op) : Prop extends Guarded s u f o where
  guard : f.pred o.ctl.ps ≠ o.ctl.pn
  fault : takeFault f.faults o.takes = none
  ready : o.blocked f = false
  rows : o.spilledReads f (s.spilledOf u f.fid) = []

/-- A read comes before a fixed-latency result has landed (R54). -/
def early (f : Fibre) (r : Rd) : Prop := ∃ d, r.dest f = some d ∧ f.inFlight d = true

/-- A read finds a released slot, where that counts (R76, R108). -/
def stale (f : Fibre) : Rd → Prop
  | .reg _ n _ quiet => quiet = false ∧ tget f.stack (f.base + n) = none
  | _ => False

/-- The argument that names a read (R57): a window register and a capability register with the field that names it, and a
predicate. -/
def namesRead : Rd → Word
  | .reg field n _ _ => BitVec.ofNat 32 (field + 4 * n)
  | .cap field c _ => BitVec.ofNat 32 (field + 4 * (c.toNat + 64))
  | .pred p => BitVec.ofNat 32 (p.toNat + 512)

/-- An outcome in which the current fibre is found, and how. -/
def leaves (r : Host.Outcome State Fault Refusal) (P : State → Fibre → Prop) : Prop :=
  ∃ t v g, r = .next t ∧ t.current? = some (v, g) ∧ P t g

/-- The column of a data bit in the check code (R194). -/
def column (j : Nat) : Byte := codeOf (1#32 <<< j)

/-- The exclusive OR of the columns of the set bits of a word (R194). -/
def columnsOf (w : Word) : Byte := (List.range 32).foldl (fun c j => if w.getLsbD j then c ^^^ column j else c) 0

/-- How many bits of a number below `n` are set. -/
def weight (n : Nat) (w : BitVec n) : Nat := (List.range n).countP fun i => w.getLsbD i

/-! ### The token protocol -/

/-- The tokens of a line that are held or in flight in its epoch (R200). -/
def tokensOf (l : Line) : Nat :=
  l.homeTokens + ((l.holders.filter fun h => h.epoch == l.epoch).map Holder.tokens).sum + ((l.msgs.filter fun m => m.epoch == l.epoch).map TokenMsg.tokens).sum

/-- A line's holders and messages are each named once, and who holds the owner token holds a token. -/
def named (l : Line) : Prop :=
  (l.holders.map Holder.req).Nodup ∧ (l.msgs.map TokenMsg.id).Nodup ∧ (l.homeOwner = true → 1 ≤ l.homeTokens) ∧
    ∀ h ∈ l.holders, h.owner = true → 1 ≤ h.tokens

/-- The events that move tokens (R201 to R203, R206); a message that tells of a reclaim at another device makes a new epoch's
tokens, and is not one of them. -/
def movesTokens : Instr → Bool
  | .coherenceRequest _ _ _ _ => true
  | .tokenArrival _ got => !got.reclaimed
  | .attemptTimeout _ _ => true
  | .persistentRequest _ _ => true
  | .persistentSatisfied _ _ => true
  | .activationMessage _ _ => true
  | .l2Eviction _ _ => true
  | .l1CopyExpiry _ _ => true
  | .directoryEntryFree _ => true
  | .staleEpochDiscard _ _ => true
  | _ => false

/-! ### Accesses -/

/-- What an instruction's access comes to: its form, its capability, from the fibre as read its offset and size, its
alignment, the permissions needed, and what the instruction checks first. -/
structure Touch where
  form : Op
  cap : CReg
  off : Fibre → Int
  size : Fibre → Nat
  align : Nat
  need : Byte
  first : State → Unit → Fibre → Prop

/-- An access of a size through a memory operand, that comes before every other check. -/
def through (o : Op) (p : MemOp) (size align : Nat) (need : Byte) : Touch :=
  { form := o, cap := p.cap.n, off := fun f => f.offset p, size := fun _ => size, align := align, need := need
    first := fun _ _ _ => True }

/-- The same of an instruction of a table. -/
def touches (e : Option Reach) (p : MemOp) (size align : Nat) (need : Byte) : Option Touch :=
  e.map fun e => through e.1 p size align need

/-- The same of a privileged one (R60). -/
def touchesSys (e : Option Reach) (p : MemOp) (size align : Nat) (need : Byte) : Option Touch :=
  (touches e p size align need).map fun t => { t with first := fun s u _ => s.sysOf u = true }

/-- The access of a window move (R107, R108): words that are left to move, of a range within the window. -/
def touchesWords (o : Op) (r : VReg) (p : MemOp) (n : Src) (need : Byte) (ok : Fibre → Prop) : Touch :=
  { form := o, cap := p.cap.n, off := fun f => f.offset p, size := fun f => 4 * (f.src32 n).toNat, align := 4, need := need
    first := fun _ _ f => (f.src32 n).toNat ≠ 0 ∧ f.moved < (f.src32 n).toNat ∧ r.toNat + (f.src32 n).toNat ≤ 64 ∧ ok f }

/-- The access of a post (R354): the frame, of a length that the instruction's word admits. -/
def touchesFrame (mode h : Nat) (c : Ctl) (d : VReg) (a : CSrc) (b : Option RSrc) (w : Src) : Touch :=
  let len (f : Fibre) : Nat := ((f.src32 w).extractLsb' 0 14).toNat
  { form := postForm c d a b w, cap := a.n
    off := fun f => match b with | some r => (f.reg r.n.toNat).val.toInt | none => 0
    size := len, align := 4, need := 1
    first := fun _ _ f => (f.src32 w).extractLsb' 17 15 = 0 ∧ (f.src32 w).extractLsb' 14 2 = 0 ∧ 14 ≤ len f ∧ len f ≤ 9212 ∧
      (mode = 2 → h + 44 ≤ len f) }

/-- The accesses that each fibre makes for itself (R107, R108, R118, R120 to R126, R239 to R262, R354, R382, R386, R439). -/
def accesses (s : State) (i : Instr) : Option Touch :=
  match i with
  | .ld _ t _ _ p => touches (memories i) p (memBytes t) (memBytes t) 1
  | .ldv _ four _ _ p => touches (memories i) p (if four then 16 else 8) (if four then 16 else 8) 1
  | .ldc _ _ _ p => touches (memories i) p 16 16 (1 ||| 8)
  | .st _ t _ p _ => touches (memories i) p (memBytes t) (memBytes t) 2
  | .stv _ four _ p _ => touches (memories i) p (if four then 16 else 8) (if four then 16 else 8) 2
  | .stc _ _ p _ => touches (memories i) p 16 16 (2 ||| 16)
  | .wspill c r p n => some (touchesWords
      (opM c p (n.reads 3 false true ++ (moveRange s r n).map fun j => .reg 0 j false true) (n.lastRegs false) [] 0)
      r p n 2 fun _ => True)
  | .wfill c r p n => some (touchesWords (opM c p (n.reads 3 false true) (n.lastRegs false) (moveRange s r n) 0) r p n 1
      fun f => let inside (j : Nat) : Prop := r.toNat ≤ j ∧ j < r.toNat + (f.src32 n).toNat
        (∀ q, p.idx = some q → ¬ inside q.n.toNat) ∧ ∀ j, srcRegNo n = some j → ¬ inside j)
  | .amo _ _ t _ _ p _ => touches (fabrics i) p (memBytes t) (memBytes t) 4
  | .cas _ t _ _ p _ => touches (fabrics i) p (4 * wordsOf t.wide) (4 * wordsOf t.wide) 4
  | .cas16 _ _ _ p _ => touches (fabrics i) p 16 16 4
  | .amof _ _ _ _ p _ => touches (fabrics i) p 4 4 4
  | .barinit _ _ p _ => touches (fabrics i) p 8 8 2
  | .bararr _ _ _ p => touches (fabrics i) p 8 8 4
  | .bartx _ _ _ p _ => touches (fabrics i) p 8 8 4
  | .barwait _ _ p _ => touches (fabrics i) p 8 8 1
  | .bartest _ _ _ p _ => touches (fabrics i) p 8 8 1
  | .mwait _ _ t _ _ p _ => touches (fabrics i) p (memBytes t) (memBytes t) 1
  | .lnflush _ p => touches (fabrics i) p 1 1 1
  | .lninv _ p => touchesSys (fabrics i) p 1 1 2
  | .lnreclaim _ _ _ p _ => touchesSys (fabrics i) p 64 64 2
  | .lnstat _ _ p => touches (fabrics i) p 1 1 1
  | .launch _ _ p => touches (fronts i) p 64 64 1
  | .signalWrite _ p _ => touches (fronts i) p 8 8 2
  | .signalAdd _ p _ => touches (fronts i) p 8 8 (2 ||| 4)
  | .bank _ _ p _ => touchesSys (fronts i) p 192 64 2
  | .plant _ _ p => touchesSys (fronts i) p 192 64 1
  | .txpost c d a b w => some (touchesFrame 0 0 c d a b w)
  | .txpostTs2 c d a b w => some (touchesFrame 1 0 c d a b w)
  | .txpostTs1 c d a b w h => some (touchesFrame 2 h.toNat c d a b w)
  | _ => none

/-- The accesses that a team makes through the fibre with the lowest `$tid` (R322, R327): form, operand, tile and permission. -/
def teamAccesses : Instr → Option (Op × MemOp × Tile × Byte)
  | .aload stall _ d p => some (opTeamM stall p, p, d, 1)
  | .astore stall _ d p => some (opTeamM stall p, p, d, 2)
  | .adrainS stall _ d cap idx _ =>
    some (opTeamM stall { cap := cap, idx := idx, disp := 0 }, { cap := cap, idx := idx, disp := 0 }, d, 2)
  | _ => none

/-- The first check of an access that fails, in the order of R118, with its cause and its argument. -/
def fails (s : State) (u : Unit) (c : CapReg) (n : CReg) (off : Int) (size align : Nat) (need : Byte) : Option TrapInfo :=
  let live := if c.space = 1 then u.gen else s.gangGen u
  let checks : List (Bool × Byte × Word) :=
    [(!c.tag, 0x20, n.setWidth 32), (decide (6 ≤ c.space), 0x22, n.setWidth 32),
      (decide (c.space = 1 ∨ c.space = 2) && c.gen != live, 0x23, n.setWidth 32),
      (need &&& c.perms != need, 0x22, n.setWidth 32),
      (decide (off < 0 ∨ (c.length : Int) < off + size), 0x21, BitVec.ofInt 32 off),
      ((c.base + off.toNat) % align != 0, 0x25, BitVec.ofNat 32 (c.base + off.toNat))]
  (checks.find? fun e => e.1).map fun e => { cause := e.2.1, arg := e.2.2, addr := none }

/-! ### What stores nothing -/

/-- Instructions whose every form stores nothing: those of single-fibre effect, loads and prefetches, capability
instructions, and those that only move the PC or read a register. -/
def storesNothing (i : Instr) : Bool :=
  (own i).isSome || (capabilities i).isSome ||
    match i with
    | .nop _ _ => true
    | .bra _ _ => true
    | .brx _ _ => true
    | .loopd _ _ _ => true
    | .call _ _ => true
    | .callx _ _ => true
    | .ret _ => true
    | .trap _ _ => true
    | .brk _ _ => true
    | .trapret _ => true
    | .trapretResume _ => true
    | .yield _ => true
    | .sleepu _ _ => true
    | .srd _ _ _ => true
    | .ld _ _ _ _ _ => true
    | .ldv _ _ _ _ _ => true
    | .ldc _ _ _ _ => true
    | .pref _ _ _ _ => true
    | .unassignedOpcode _ => true
    | _ => false

/-- The words that an access of a size at a key lies in do not hold a byte. -/
def outside (key size a : Nat) : Prop := wordKey a + 4 ≤ wordKey key ∨ key + size ≤ wordKey a

/-- An opcode that is unassigned in this stepping (R61). -/
def unassigned (op : Nat) : Prop :=
  (0x15 ≤ op ∧ op ≤ 0x1F) ∨ (0x5D ≤ op ∧ op ≤ 0x5F) ∨ (0x6B ≤ op ∧ op ≤ 0x6F) ∨ (0x7A ≤ op ∧ op ≤ 0x7F) ∨
  (0x8D ≤ op ∧ op ≤ 0x9F) ∨ (0xB0 ≤ op ∧ op ≤ 0xBF) ∨ (0xC6 ≤ op ∧ op ≤ 0xCF) ∨ (0xDB ≤ op ∧ op ≤ 0xDF) ∨
  op = 0xE6 ∨ op = 0xE7 ∨ (0xF4 ≤ op ∧ op ≤ 0xFF)

/-- The privileged instructions (R60). -/
def needsSys : Instr → Bool
  | .lninv _ _ => true
  | .lnreclaim _ _ _ _ _ => true
  | .bank _ _ _ _ => true
  | .plant _ _ _ => true
  | .evsel _ _ _ => true
  | _ => false

end Sys2Proof.Machine.Claims

open Sys2Proof Sys2Proof.Machine

/-! ### Encoding -/

/-- Words of the spec, written out bit by bit, decode to the instructions they stand for. -/
def Obligations.SpecWordsDecode : Prop :=
  decodeTableWord 96 0x0000780C0C0C000000000000 = some (.nop 0 none) ∧
  decodeTableWord 96 0x200490B06CEC040000000000 =
    some (.iadd { stall := 4, pn := true, ps := 2 } .i32 false 5 (.reg 3 true) (.const 7)) ∧
  decodeTableWord 96 0x80017928604C0B0800000008 =
    some (.ld { stall := 1, pn := false, ps := 15 } .n16 { order := .acq, scope := .dev, hint := .dflt } 9
      { cap := { n := 3, last := false }, idx := some { n := 2, last := false }, disp := 8 }) ∧
  decodeTableWord 96 0xA00178A8604C2D1000000008 =
    some (.amo { stall := 1, pn := false, ps := 15 } .add .n32 { order := .rel, scope := .dev, hint := .dflt } 5
      { cap := { n := 3, last := false }, idx := some { n := 2, last := false }, disp := 8 } (.const 1)) ∧
  decodeTableWord 96 0x4301794283D1504000000000 =
    some (.ffma { stall := 1, pn := false, ps := 15 } .f32 (some .rtz) 10 (.reg 20 false) (.reg 30 false) (.reg 10 true)) ∧
  decodeTableWord 96 0x66017A928DEC040100000000 =
    some (.shrr { stall := 1, pn := false, ps := 15 } .i32 .to16 20 (.reg 20 true) (.const 15)) ∧
  decodeTableWord 96 0x710178A08C2C020000000000 =
    some (.tslide { stall := 1, pn := false, ps := 15 } false .i16 .fz 5 (.reg 4 false) (.const 1)) ∧
  decodeTableWord 96 0xA80020082C0C0E0000000208 =
    some (.barwait { stall := 0, pn := false, ps := 4 } .unit
      { cap := { n := 1, last := false }, idx := none, disp := 0x208 } (.const 0)) ∧
  decodeTableWord 96 0xC0017A8C618C000000000000 =
    some (.xfer { stall := 1, pn := false, ps := 15 } 20 (.const 3) (some { n := 12, last := false })) ∧
  decodeTableWord 96 0xD101780C0C05160200000000 =
    some (.mma 1 .l6 2 none 0 0 0 (.reg { n := 40, last := false })) ∧
  decodeTableWord 96 0xE21179082080C00000000000 =
    some (.txpostTs2 { stall := 1, pn := false, ps := 15 } 8 { n := 1, last := false }
      (some { n := 4, last := false }) (.reg 6 false)) ∧
  decodeTableWord 96 0xEF01788C4C01000000000000 =
    some (.hpost { stall := 1, pn := false, ps := 15 } 4 (.const 2) { n := 8, last := false }) ∧
  decodeTableWord 96 0xF0007888AC00C00000000000 =
    some (.bank { stall := 0, pn := false, ps := 15 } 4
      { cap := { n := 5, last := false }, idx := none, disp := 0 } { n := 6, last := false }) ∧
  decodeTableWord 96 0xF30178CE2C0C000000000000 =
    some (.evrd { stall := 1, pn := false, ps := 15 } 6 (.const 17))

/-- Decoding the word of a well-formed instruction, with its PAIR bit, gives the instruction back (R46 to R62). -/
def Obligations.DecodeInvertsEncode : Prop :=
  ∀ (i : Instr) (w : IWord), wf i = true → encode i = some w → decode w (pairOf w) = .ok i

/-- An unassigned opcode is illegal with reason 1, whatever else the word holds, and takes its trap (R61, R62). -/
def Obligations.UnassignedOpcodesAreIllegal : Prop :=
  (∀ (w : IWord) (p : Bool), Claims.unassigned (w.extractLsb' 88 8).toNat → decode w p = .illegal 1) ∧
  ∀ (s : State) (u : Machine.Unit) (f : Fibre), s.current? = some (u, f) →
    exec (.unassignedOpcode 1) s = .next (s.takeTrap u.key f.fid { cause := 0x01, arg := 1, addr := none })

/-! ### The step -/

/-- A step runs the instruction at the PC of the fibre that issues (R45, R50): a decoded word, the dictionary's word of a
packed code, the trap of a word that is no instruction, and the trap of a fetch that fails. Around it the step settles the
register rows (R78). A word of `MMA.l6` whose scales field the team's width does not admit is illegal with reason 7 (R316). -/
def Obligations.StepRunsTheDecodedInstruction : Prop :=
  ∀ (s s1 s2 : State) (e : Nat × Nat) (rest : List (Nat × Nat)) (u : Machine.Unit) (f : Fibre),
    s.agenda = [] → s.issuing = e :: rest → s1 = { s with issuing := rest } → s2 = { s1 with cur := e } →
    s1.live? e.1 e.2 = some (u, f) → s1.mayIssue u f = true →
    (s1.atBankPoint u f = false ∨ (u.ending = false ∧ s1.bankingOf u = false)) →
    (∀ w p i, s2.fetch u f = .ok (.word w p) → decode w p = .ok i → step s = settled s1 [e.1] (exec i s2)) ∧
    (∀ w p r, s2.fetch u f = .ok (.word w p) → decode w p = .illegal r →
      step s = settled s1 [e.1] (exec (.unassignedOpcode (if s2.scalesWord w && decide (7 < r) then 7 else r)) s2)) ∧
    (∀ code s3 w p i, s2.fetch u f = .ok (.packed code) → exec (.packedCode code) s2 = .next s3 → s3.ir = some (w, p) →
      decode w p = .ok i → step s = settled s1 [e.1] (exec i { s3 with ir := none })) ∧
    (∀ t, s2.fetch u f = .error t → step s = settled s1 [e.1] (.next (s2.takeTrap u.key f.fid t)))

/-- A step takes the first event of the agenda before anything else; around it the register rows are settled (R78). -/
def Obligations.StepTakesTheNextEvent : Prop :=
  ∀ (s : State) (i : Instr) (rest : List Instr), s.agenda = i :: rest → step s = settledAll s (exec i { s with agenda := rest })

/-! ### Invariants -/

/-- Memory is in its canonical form after reset. -/
def Obligations.ResetMemoryIsCanonical : Prop := State.reset.mem.wf = true

/-- Every step keeps memory in its canonical form. -/
def Obligations.StepKeepsMemoryCanonical : Prop :=
  ∀ s t : State, s.mem.wf = true → step s = .next t → t.mem.wf = true

/-- After reset no work is held and READY is clear (R449, R450), every counter has selection 0 and value 0 (R457), and the
owner time-outs, PRECTL, SCRCTL and PWRCAP hold their reset values (R208, R397, R405, R456). -/
def Obligations.ResetValues : Prop :=
  State.reset.life.readyFlag = false ∧ State.reset.life.stage = 0 ∧ State.reset.units = [] ∧ State.reset.fe.launches = [] ∧
  State.reset.issuing = [] ∧ State.reset.agenda = [] ∧
  (∀ c ∈ State.reset.cores, ∀ x ∈ c.counters, x.sel = 0 ∧ x.val = 0) ∧
  (∀ x ∈ State.reset.life.dieCounters, x.sel = 0 ∧ x.val = 0) ∧ State.reset.fabric.ownerTime = 200 ∧
  State.reset.life.pwrcap = 3000 ∧ State.reset.fe.scrctl = 10 ∧
  State.reset.fe.prectl = 75#32 * 2 ^ 17 + 25#32 * 2 ^ 10 + 40#32

/-- The events that move tokens neither create nor lose one of any line: the tokens held and in flight in the line's epoch
number the same before and after (R200). -/
def Obligations.TokensAreConserved : Prop :=
  ∀ (i : Instr) (s t : State) (n : Nat), Claims.movesTokens i = true → (∀ m, Claims.named (s.line m)) →
    exec i s = .next t → Claims.tokensOf (t.line n) = Claims.tokensOf (s.line n)

/-! ### Check codes -/

/-- Every 32-bit word w in the device is kept with an 8-bit check code (R194): bit i is the even parity of w AND Mi; the
code is the exclusive OR of the columns of the set bits; and the columns and the masks are those of the rule. -/
def Obligations.CheckCodeRule : Prop :=
  (∀ (w : Word) (i : Nat), i < 8 → (codeOf w).getLsbD i = (Claims.weight 32 (w &&& codeMask i) % 2 == 1)) ∧
  (∀ w : Word, codeOf w = Claims.columnsOf w) ∧
  (∀ i j, i < 8 → j < 32 → (Claims.column j).getLsbD i = (codeMask i).getLsbD j) ∧
  (List.range 8).map codeMask =
    [0x4991A1C1, 0x92234383, 0x25468607, 0x4A8C0D0E, 0x94191A1C, 0x29323438, 0x52646870, 0xA4C8D0E0] ∧
  (∀ j < 32, Claims.weight 8 (Claims.column j) = 3) ∧
  (∀ j < 32, ∀ k < 32, Claims.column j = Claims.column k → j = k) ∧
  (∀ i < 8, Claims.weight 32 (codeMask i) = 12) ∧
  (∀ k < 8, Claims.column k = (0x07#8).rotateLeft k ∧ Claims.column (8 + k) = (0x0B#8).rotateLeft k ∧
    Claims.column (16 + k) = (0x13#8).rotateLeft k ∧ Claims.column (24 + k) = (0x25#8).rotateLeft k) ∧
  (∀ (w : Word) (i : Nat), i < 8 → (codeOf w ^^^ (1#8 <<< i)) ^^^ codeOf w = 1#8 <<< i) ∧
  codeOf 0 = 0

/-- A consumer uses a word without an error as it is and restores a word with one bit in error, of its data or of its code;
and two bits in error are never taken for none or one (R194, R195). -/
def Obligations.OneBitIsCorrectedTwoAreFound : Prop :=
  ∀ w : Word, checkWord { val := w, code := codeOf w } = some (w, false) ∧
    (∀ j < 32, checkWord { val := w ^^^ (1#32 <<< j), code := codeOf w } = some (w, true)) ∧
    (∀ i < 8, checkWord { val := w, code := codeOf w ^^^ (1#8 <<< i) } = some (w, true)) ∧
    (∀ j < 32, ∀ k < 32, j ≠ k → checkWord { val := w ^^^ (1#32 <<< j) ^^^ (1#32 <<< k), code := codeOf w } = none) ∧
    (∀ j < 32, ∀ i < 8, checkWord { val := w ^^^ (1#32 <<< j), code := codeOf w ^^^ (1#8 <<< i) } = none) ∧
    (∀ i < 8, ∀ k < 8, i ≠ k → checkWord { val := w, code := codeOf w ^^^ (1#8 <<< i) ^^^ (1#8 <<< k) } = none)

/-- Words stored in a row are read back with their codes, and the words elsewhere are as before (R196). -/
def Obligations.WordsStoredAreReadBack : Prop :=
  ∀ (m : Memory) (k : Nat) (rs : List Reg), m.wf = true →
    (∀ j (h : j < rs.length), (m.setWords k rs).word (k + 4 * j) = rs[j]) ∧
    ∀ a, a + 4 ≤ k ∨ k + 4 * rs.length ≤ a → (m.setWords k rs).word a = m.word a

/-! ### Issue -/

/-- A guard that is false: the instruction has no effect, and the fibre passes it, its marked sources released and its stall
count begun (R50, R75). It holds of every instruction that each fibre executes for itself, the privileged ones in a launch with
SYS (R60); a member of a team is TeamMembersReceive's. In a DET launch the fibre's stroke counts the instruction and may be
full with it (R234), but the instruction does not end it. -/
def Obligations.AFalseGuardOnlyPasses : Prop :=
  ∀ (i : Instr) (o : Op) (s : State) (u : Machine.Unit) (f : Fibre), Claims.formOf s i = some o →
    (Claims.needsSys i = true → s.sysOf u = true) → Claims.Guarded s u f o → f.pred o.ctl.ps = o.ctl.pn →
    let t := s.modCur fun _ => f.pass o.last (s.seqNext (s.ctxOf u) f.pc) s.clk o.ctl.stall
    exec i s = .next (if s.detOf u then t.endStroke false else t)

/-- STALL = n delays the issuing fibre's next instruction until at least max(n, 1) cycles after this one (R55): executed,
predicated off, or branching; and a step leaves a fibre alone whose time has not come. -/
def Obligations.StallCountsHold : Prop :=
  (∀ (i : Instr) (o : Op) (k : Claims.Own) (s : State) (u : Machine.Unit) (f : Fibre), Claims.own i = some k → k.1 = o →
    s.Clear u f o → Claims.delivers i f →
    Claims.leaves (exec i s) fun _ g => g.ready = s.clk + max o.ctl.stall.toNat 1) ∧
  (∀ (i : Instr) (o : Op) (s : State) (u : Machine.Unit) (f : Fibre), Claims.opOf i = some o → Claims.Guarded s u f o →
    f.pred o.ctl.ps = o.ctl.pn →
    Claims.leaves (exec i s) fun _ g => g.ready = s.clk + max o.ctl.stall.toNat 1) ∧
  (∀ (c : Ctl) (t : BrField) (s : State) (u : Machine.Unit) (f : Fibre), s.Clear u f (op0 c) →
    Claims.reaches s u (branchTarget f.pc t) [] →
    Claims.leaves (exec (.bra c t) s) fun _ g => g.pc = branchTarget f.pc t ∧ g.ready = s.clk + max c.stall.toNat 1) ∧
  (∀ (s : State) (e : Nat × Nat) (rest : List (Nat × Nat)) (u : Machine.Unit) (f : Fibre), s.agenda = [] →
    s.issuing = e :: rest → ({ s with issuing := rest } : State).live? e.1 e.2 = some (u, f) → s.clk < f.ready →
    step s = .next { s with issuing := rest })

/-- A result of fixed latency is there from its cycle on and not before; an instruction that reads or writes a pending
register waits; and a result of variable latency is written where it belongs (R54, R56). -/
def Obligations.ResultsLandInTime : Prop :=
  (∀ (f : Fibre) (n : Nat) (r : Reg) (land clk : Nat),
    tget ((f.fly land (.slot n) (.reg r)).settle clk).stack n =
      if land ≤ clk then some r else tget (f.settle clk).stack n) ∧
  (∀ (f : Fibre) (p : PReg) (b : Bool) (land clk : Nat), p ≠ 15 →
    ((f.fly land (.pred p) (.bit b)).settle clk).pred p = if land ≤ clk then b else (f.settle clk).pred p) ∧
  (∀ (f : Fibre) (c : CReg) (v : CapReg) (land clk : Nat),
    ((f.fly land (.cap c) (.cap v)).settle clk).cap c = if land ≤ clk then v else (f.settle clk).cap c) ∧
  (∀ (i : Instr) (o : Op) (s : State) (u : Machine.Unit) (f : Fibre), Claims.opOf i = some o → Claims.Guarded s u f o →
    f.pred o.ctl.ps ≠ o.ctl.pn → takeFault f.faults o.takes = none → o.blocked f = true →
    exec i s = .next (s.modCur fun _ => { f with wait := some .result, served := false })) ∧
  (∀ (f : Fibre) (n : Nat) (r : Reg) (rest : List Pending),
    f.pending = { dest := .slot n, val := some (.reg r) } :: rest →
    f.landResult.pending = rest ∧ tget f.landResult.stack n = some r)

/-- A read of a released slot gives the zero word with its valid code 0x00; without CHK it sets RRD, under CHK it traps RRD
with no effect; and a slot never written is released (R76). The checking scoreboard of R57: under CHK a read before its result
has landed traps STALLSHORT with no effect, the guard's first and then the reads in their order, and the first read that fails
names its register in the argument. -/
def Obligations.ReleasedReads : Prop :=
  (∀ (f : Fibre) (n : Nat), tget f.stack (f.base + n) = none → f.reg n = { val := 0, code := 0x00 }) ∧ codeOf 0 = 0x00 ∧
  (∀ (i : Instr) (k : Claims.Own) (s : State) (u : Machine.Unit) (f : Fibre) (fl n : Nat) (b : Bool),
    Claims.own i = some k → (∀ c a, i ≠ .swr c .fstat a) → s.Clear u f k.1 → Claims.delivers i f → s.chkOf u = false →
    Rd.reg fl n b false ∈ k.1.reads → tget f.stack (f.base + n) = none →
    Claims.leaves (exec i s) fun _ g => g.fstat.getLsbD 6 = true) ∧
  (∀ (i : Instr) (o : Op) (s : State) (u : Machine.Unit) (f : Fibre), Claims.opOf i = some o → s.chkOf u = true →
    let traps (cause : Byte) (r : Rd) : Prop := exec i s = .next ((s.modCur fun _ => f).takeTrap u.key f.fid
      { cause := cause, arg := Claims.namesRead r, addr := none })
    (Claims.Turns s u f → o.ctl.ps ≠ 15 → f.isPending (.pred o.ctl.ps) = false → f.inFlight (.pred o.ctl.ps) = true →
      traps 0x03 (.pred o.ctl.ps)) ∧
    (Claims.Reads s u f o → ∀ pre r post, o.reads = pre ++ r :: post →
      (∀ q ∈ pre, ¬ Claims.early f q ∧ ¬ Claims.stale f q) →
      (Claims.early f r → traps 0x03 r) ∧ (¬ Claims.early f r → Claims.stale f r → traps 0x04 r))) ∧
  (∀ (s : State) (u : Machine.Unit) (n m : Nat) (pc : BitVec 57), tget (s.newFibre u n pc).stack m = none)

/-- An instruction on registers touches its own fibre, its core's counters and the agenda, and nothing else: no memory, no
other fibre, no engine (the frame of the integer, floating, packed, predicate and special-register families). -/
def Obligations.RegisterInstructionsAreLocal : Prop :=
  ∀ (i : Instr) (k : Claims.Own) (s t : State), Claims.own i = some k → exec i s = .next t → s.Local t

/-- The frame within the fibre: what an instruction on registers leaves of it when nothing holds it back. Only its marked
sources are released (R75); only its destinations gain a result in flight or pending; and the window, the calls, the
handler and the requests are as before. Only SWR writes `$rmode` and `$prog` or clears a flag (R68, R105). -/
def Obligations.RegistersOutsideTheDestinationsStay : Prop :=
  ∀ (i : Instr) (k : Claims.Own) (s : State) (u : Machine.Unit) (f : Fibre), Claims.own i = some k → s.Clear u f k.1 →
    Claims.delivers i f → Claims.leaves (exec i s) fun _ g =>
      g.base = f.base ∧ g.calls = f.calls ∧ g.caps = f.caps ∧ g.preds = f.preds ∧ g.handler = f.handler ∧
      g.floor = f.floor ∧ g.marks = f.marks ∧ g.outst = f.outst ∧ g.faults = f.faults ∧ g.stamp = f.stamp ∧
      (∀ n, tget g.stack n = if n ∈ k.1.last.map (f.base + ·) then none else tget (f.seen k.1).stack n) ∧
      (∀ x ∈ g.flights, x ∈ f.flights ∨ x.dest ∈ k.1.dests f) ∧
      (∀ x ∈ f.flights, x.dest ∉ k.1.dests f → x ∈ g.flights) ∧
      (∀ x ∈ g.pending, x ∈ f.pending ∨ x.dest ∈ k.1.dests f) ∧ (∀ x ∈ f.pending, x ∈ g.pending) ∧
      ((∀ c r a, i ≠ .swr c r a) → g.rmode = f.rmode ∧ g.prog = f.prog ∧ f.fstat &&& g.fstat = f.fstat)

/-- The instructions that store nothing leave every byte of memory as it is, whatever becomes of them. -/
def Obligations.InstructionsThatStoreNothing : Prop :=
  ∀ (i : Instr) (s t : State), Claims.storesNothing i = true → exec i s = .next t → ∀ a, t.mem.byte a = s.mem.byte a

/-- A store changes no byte outside the words it stores to; the address is the one its operand reaches (R117, R121, R122). -/
def Obligations.StoresTouchOnlyTheirWords : Prop :=
  (∀ (c : Ctl) (ty : ITy) (m : MMod) (p : MemOp) (v : Src) (s t : State) (a : Nat),
    let o := opM c p (v.reads 3 ty.wide (decide (memBytes ty < 4))) (v.lastRegs ty.wide) [] 0
    s.mem.wf = true → exec (.st c ty m p v) s = .next t →
    (∀ u f acc, s.turn u f → (s.passed u f o).reachStore { u := u, f := f.seen o } p (memBytes ty) (memBytes ty) permW
      storeSpaces = .ok acc → Claims.outside acc.key (memBytes ty) a) →
    t.mem.byte a = s.mem.byte a) ∧
  (∀ (c : Ctl) (four : Bool) (m : MMod) (p : MemOp) (v : RSrc) (s t : State) (a : Nat),
    let n := if four then 4 else 2
    let o := opM c p (groupReads 3 v.n.toNat n false) (v.lastRegs n) [] 0
    s.mem.wf = true → exec (.stv c four m p v) s = .next t →
    (∀ u f acc, s.turn u f → (s.passed u f o).reachStore { u := u, f := f.seen o } p (4 * n) (4 * n) permW storeSpaces =
      .ok acc → Claims.outside acc.key (4 * n) a) →
    t.mem.byte a = s.mem.byte a) ∧
  (∀ (c : Ctl) (m : MMod) (p : MemOp) (v : CSrc) (s t : State) (a : Nat),
    let o := opM c p [.cap 3 v.n true] [] [] 0
    s.mem.wf = true → exec (.stc c m p v) s = .next t →
    (∀ u f acc, s.turn u f → (s.passed u f o).reachStore { u := u, f := f.seen o } p 16 16 (permW ||| permS) storeSpaces =
      .ok acc → Claims.outside acc.key 16 a) →
    t.mem.byte a = s.mem.byte a)

/-! ### Traps and protection -/

/-- Each access makes the checks of R118, for each fibre that executes it, in this order; the first that fails traps with no
effect, with its cause and argument; and an access that passes them in a space other than 2 is at base + off. It holds of the
loads and stores, the window moves, the atomics and barriers, the line instructions, and the operands of the front end, the
banking engine and the wire; and of those of the matrix engine, whose team traps as one. -/
def Obligations.AccessesAreChecked : Prop :=
  (∀ (i : Instr) (a : Claims.Touch) (s : State) (u : Machine.Unit) (f : Fibre) (e : TrapInfo),
    Claims.accesses s i = some a → s.Clear u f a.form → let g := f.seen a.form
    a.first s u g → Claims.fails s u (g.cap a.cap) a.cap (a.off g) (a.size g) a.align a.need = some e →
    exec i s = .next ((s.modCur fun _ => f).takeTrap u.key f.fid e)) ∧
  (∀ (i : Instr) (o : Op) (p : MemOp) (d : Tile) (need : Byte) (s : State) (u : Machine.Unit) (f : Fibre)
    (v : Machine.Unit) (ms : List Fibre) (m : Fibre) (e : TrapInfo), Claims.teamAccesses i = some (o, p, d, need) →
    Claims.Musters s u f v ms m o false → d.toNat < v.desc.shelf → let g := Claims.memberSeen false o ms m
    Claims.fails s v (g.cap p.cap.n) p.cap.n (g.offset p) 16384 64 need = some e →
    exec i s = .next (ms.foldl (fun t x =>
      (t.modFibre v.key x.fid fun _ => { x with wait := none }).takeTrap v.key x.fid e) (Claims.arrives s f))) ∧
  (∀ (s : State) (u : Machine.Unit) (c : CapReg) (n : CReg) (off : Int) (size align : Nat) (need : Byte), c.space ≠ 2 →
    Claims.fails s u c n off size align need = none → s.access u c n off size align need = .ok (c.base + off.toNat))

/-- LNINV, LNRECLAIM, BANK, PLANT and EVSEL trap PRIV in a launch without SYS, whatever their operands, with no effect (R60). -/
def Obligations.PrivilegedInstructionsNeedSys : Prop :=
  ∀ (i : Instr) (s : State) (u : Machine.Unit) (f : Fibre), Claims.needsSys i = true → s.current? = some (u, f) →
    s.sysOf u = false → exec i s = .next (s.takeTrap u.key f.fid { cause := 0x0C, arg := 0, addr := none })

/-- Where a trap goes (R82). One that is recoverable is delivered in a fibre whose kernel has a handler, that is in none,
and that has room for its window: the registers, the marks and the PC are those of R83, and the fibre's own window is
untouched; a fibre that awaits a result holds the trap until the result has come (R56). Any other parks the fibre and goes to
its core's trap coalescer. -/
def Obligations.TrapsAreDelivered : Prop :=
  ∀ (s : State) (k n : Nat) (u : Machine.Unit) (f : Fibre) (e : TrapInfo), s.unit? k = some u → u.fibre? n = some f →
    (∀ l, containment e.cause = false → recoverable e = true → u.desc.hasHandler = true → f.handler = false →
      f.base + 128 ≤ u.desc.stack → s.checkTarget (s.ctxOf u) u.desc.handlerPc [] = .ok l →
      (f.awaits = true → s.takeTrap k n e = s.modFibre k n fun g =>
        { g.endPass with
          wait := some (.entering e.cause e.arg e.addr), served := false, staged := [], half := none }) ∧
      (f.awaits = false → ∃ v g, (s.takeTrap k n e).unit? k = some v ∧ v.fibre? n = some g ∧
        g.base = f.base + 64 ∧ g.handler = true ∧ g.pc = u.desc.handlerPc ∧ g.flights = [] ∧
        g.reg 0 = fresh (f.pc.setWidth 32) ∧ g.reg 1 = fresh ((f.pc >>> 32).setWidth 32) ∧
        g.reg 2 = fresh (e.cause.setWidth 32) ∧ g.reg 3 = fresh e.arg ∧
        g.reg 4 = fresh (f.settleAll.preds.setWidth 32) ∧
        g.marks = some (f.pc, s.seqNext (s.ctxOf u) f.pc) ∧ g.floor = f.calls.length ∧
        (∀ j, j < f.base + 64 → tget g.stack j = tget f.settleAll.stack j) ∧ g.caps = f.settleAll.caps ∧
        g.fstat = f.fstat ∧ g.rmode = f.rmode ∧ g.prog = f.prog)) ∧
    (containment e.cause = true ∨ recoverable e = false ∨ u.desc.hasHandler = false ∨ f.handler = true ∨
        u.desc.stack < f.base + 128 →
      s.takeTrap k n e =
        (s.modFibre k n fun g => { g.endPass with
          wait := some (.trapped e.cause e.arg e.addr), served := false, ready := s.clk, staged := []
          half := none }).next (.trapCoalesce k n))

/-- A derived capability lies within its parent, with the length asked for or more, and keeps its space, its generation and
its permissions (R127); CPERM keeps the range and only takes permissions away (R128). -/
def Obligations.DerivedCapabilitiesStayWithin : Prop :=
  ∀ (c : Ctl) (d : CReg) (a : CSrc) (b e : Src) (s : State) (u : Machine.Unit) (f : Fibre),
    (∀ o R t, Claims.capabilities (.cderive c d a b e) = some (o, R) → s.Clear u f o →
      let x : Ctx := { u := u, f := f.seen o }
      let v := x.f.cap a.n
      v.base + v.length ≤ 2 ^ 64 → 0 < (x.f.src32 e).toNat → R x (s.passed u f o) t →
      exec (.cderive c d a b e) s = .next (s.closed u f o t) ∧ ∃ w : CapReg, t = Claims.landsCap d w (s.passed u f o) ∧
        w.tag = true ∧ w.space = v.space ∧ w.gen = v.gen ∧ w.perms = v.perms ∧ w.base = v.base + (x.f.src32 b).toNat ∧
        (x.f.src32 e).toNat ≤ w.length ∧ v.base ≤ w.base ∧ w.base + w.length ≤ v.base + v.length) ∧
    (∀ o R t, Claims.capabilities (.cperm c d a b) = some (o, R) → s.Clear u f o →
      let x : Ctx := { u := u, f := f.seen o }
      let v := x.f.cap a.n
      R x (s.passed u f o) t →
      exec (.cperm c d a b) s = .next (s.closed u f o t) ∧ ∃ w : CapReg, t = Claims.landsCap d w (s.passed u f o) ∧
        w.tag = true ∧ w.space = v.space ∧ w.gen = v.gen ∧ w.base = v.base ∧ w.length = v.length ∧
        w.perms = v.perms &&& (x.f.src32 b).setWidth 8)

/-! ### Arithmetic -/

/-- IDIV gives the quotient truncated towards zero, IREM the remainder, which takes the sign of a; a divisor of 0 gives all
ones and a; neither traps; and both results have variable latency (R111). -/
def Obligations.DivisionRule : Prop :=
  ∀ (c : Ctl) (ty : ITy) (d : VReg) (a b : Src) (s : State) (u : Machine.Unit) (f : Fibre), ty.is3264 = true →
    let o := Claims.wide2 c ty d a b
    let g := f.seen o
    let num (v : DWord) : Int :=
      if ty.wide then (if ty.signed then v.toInt else v.toNat)
      else if ty.signed then (v.setWidth 32).toInt else (v.setWidth 32).toNat
    let x := num (g.srcBits ty a)
    let y := num (g.srcBits ty b)
    let words (z : Int) : List Reg := if ty.wide then regs64 (BitVec.ofInt 64 z) else [fresh (BitVec.ofInt 32 z)]
    s.Clear u f o →
      exec (.idiv c ty d a b) s =
        .next (s.carried u f o fun h => h.pendRegs (g.base + d.toNat) (words (if y = 0 then -1 else x.tdiv y))) ∧
      exec (.irem c ty d a b) s =
        .next (s.carried u f o fun h => h.pendRegs (g.base + d.toNat) (words (if y = 0 then x else x.tmod y)))


/-- A result that follows the rules never fails the shadow check; one that fails it traps SHADOW, and the instruction has no
effect for its fibre: the argument gives the opcode, and 0 for a scalar result, 1 for the low half and 2 for the high half
(R143, R144). Which delivered bits fail is log 64's reading of R143. -/
def Obligations.FailedShadowChecksTrap : Prop :=
  (∀ r : FRes, r.fails r.out.1 = false) ∧
  ∀ (c : Ctl) (ty : FTy) (r : Option RM) (d : VReg) (a b e : Src) (s : State) (u : Machine.Unit) (f : Fibre),
    let rd := f.rounding r
    let traps (i : Instr) (o : Op) (arg : Word) : Prop := exec i s = .next ((s.modCur fun _ =>
      { f.seen o with strike := 0 }).takeTrap u.key f.fid { cause := 0x0A, arg := arg, addr := none })
    let v (o : Op) (x : Src) : FVal := fread ty rd.daz ((f.seen o).fsrc x)
    let half (o : Op) (k : Nat) (x : Src) : FVal := fread ty rd.daz ((f.seen o).fsrc x / 2 ^ (16 * k) % 65536)
    let o2 := Claims.word2 c d a b
    let o3 := Claims.word3 c d a b e
    let wrong (x : Exact) : Prop := ({ t := ty, r := rd, x := x } : FRes).fails
      ((({ t := ty, r := rd, x := x } : FRes).out.1) ^^^ (f.strike.toNat % 2 ^ ty.bits)) = true
    let wrongHalf (k : Nat) (x : Exact) : Prop := ({ t := ty, r := rd, x := x } : FRes).fails
      ((({ t := ty, r := rd, x := x } : FRes).out.1) ^^^ (f.strike.toNat / 2 ^ (16 * k) % 65536)) = true
    let sum (k : Nat) : Exact := addExact rd.rm (half o2 k a) (half o2 k b)
    (s.Clear u f o2 → wrong (addExact rd.rm (v o2 a) (v o2 b)) → traps (.fadd c ty r d a b) o2 0x40) ∧
    (s.Clear u f o2 → wrong (mulExact (v o2 a) (v o2 b)) → traps (.fmul c ty r d a b) o2 0x42) ∧
    (s.Clear u f o3 → wrong (fmaExact rd.rm (v o3 a) (v o3 b) (v o3 e)) → traps (.ffma c ty r d a b e) o3 0x43) ∧
    (s.Clear u f o2 → ty.bits = 16 → wrongHalf 0 (sum 0) → traps (.hadd2 c ty r d a b) o2 0x157) ∧
    (s.Clear u f o2 → ty.bits = 16 → ¬ wrongHalf 0 (sum 0) → wrongHalf 1 (sum 1) → traps (.hadd2 c ty r d a b) o2 0x257)
end

