-- ==== Sys2Proof/Laws/Decode.lean ====
section
/-! SUPPORT. The word carries its fields: unpacking what was packed gives every field back. -/
namespace Sys2Proof
theorem selOf_selBits (s : Sel) : selOf (selBits s) = s := by
  cases s with
  | v n => revert n; decide
  | c n => revert n; decide
  | bad n => revert n; decide
  | k n => revert n; decide

theorem fldOf_fldBits (f : Fld) : fldOf (fldBits f) = f := by
  have h : (fldBits f).extractLsb' 0 7 = selBits f.sel := by
    rw [fldBits, BitVec.extractLsb'_append_eq_of_add_le (by omega), BitVec.extractLsb'_eq_self]
  have h2 : (fldBits f).getLsbD 7 = f.last := by rw [fldBits, BitVec.getLsbD_append]; simp
  rw [fldOf, h, h2, selOf_selBits]

theorem unpack_pack (r : Raw) : unpack (pack r) = r := by
  have pn : (pack r).getLsbD 79 = r.pn := by simp only [pack, BitVec.getLsbD_append]; simp
  rw [unpack, pn]
  simp (disch := omega) only [pack, BitVec.extractLsb'_append_eq_of_le,
    BitVec.extractLsb'_append_eq_of_add_le, Nat.reduceSub, BitVec.extractLsb'_eq_self, fldOf_fldBits]
end Sys2Proof
end

