-- ==== Sys2Proof/Laws/Issue.lean ====
section
/-! SUPPORT. What the issue of an instruction does (spec 04 R50): with nothing holding it back, its effect decides; with its
guard false, the fibre only passes it. -/

namespace Sys2Proof.Machine

/-- With nothing holding it back, the outcome of an instruction is that of its effect. -/
theorem issueOn_clear {s : State} {u : Unit} {f : Fibre} {o : Op} (h : s.Clear u f o) (eff : Ctx → State → Fx) :
    s.issueOn u f o eff =
      match eff { u := u, f := f.seen o } (s.passed u f o) with
      | .done s2 => s.closed u f o s2
      | .trap t => (s.modCur fun _ => f).takeTrap u.key f.fid t
      | .trapKeep s2 g t => (s2.modCur fun _ => g).takeTrap u.key f.fid t
      | .wait s2 w => s2.modCur fun _ => { f with wait := some w, served := false, again := true }
      | .waitKeep s2 g w => s2.modCur fun _ => { g with wait := some w, served := false, again := true } := by
  obtain ⟨-, h1, h2, h3, h4, h5, h6, h7, h8, h9⟩ := h
  have e1 : (if f.again then none else takeFault f.faults [.late]) = none := by
    rcases h1 with h | h <;> simp [h]
  have e2 : (o.ctl.ps != 15 && f.isPending (.pred o.ctl.ps)) = false := by
    rcases h2 with h | h <;> simp [h]
  have e3 : (f.pred o.ctl.ps == o.ctl.pn) = false := by simpa using h4
  have e4 : (s.detOf u && o.ends != 0 && !f.stroke.pass) = false := by
    rcases h9 with h | h | h <;> simp [h]
  simp only [State.issueOn, e1, e2, h3, e3, h5, h6, h7, h8, e4, List.isEmpty_nil, Bool.not_true, Bool.false_eq_true,
    if_false]
  simp only [State.passed, State.closed, Fibre.seen]
  rfl

/-- The issue of an instruction whose effect is done. -/
theorem issue_done {s : State} {u : Unit} {f : Fibre} {o : Op} (h : s.Clear u f o) {eff : Ctx → State → Fx} {t : State}
    (he : eff { u := u, f := f.seen o } (s.passed u f o) = .done t) : s.issue o eff = .next (s.closed u f o t) := by
  have hi := issueOn_clear h eff
  obtain ⟨g, hg, rfl⟩ := h.cur
  simp only [State.issue, hg, hi, he]

/-- The issue of an instruction whose effect traps. -/
theorem issue_trap {s : State} {u : Unit} {f : Fibre} {o : Op} (h : s.Clear u f o) {eff : Ctx → State → Fx}
    {t : TrapInfo} (he : eff { u := u, f := f.seen o } (s.passed u f o) = .trap t) :
    s.issue o eff = .next ((s.modCur fun _ => f).takeTrap u.key f.fid t) := by
  have hi := issueOn_clear h eff
  obtain ⟨g, hg, rfl⟩ := h.cur
  simp only [State.issue, hg, hi, he]

/-- The issue of an instruction whose effect waits. -/
theorem issue_wait {s : State} {u : Unit} {f : Fibre} {o : Op} (h : s.Clear u f o) {eff : Ctx → State → Fx}
    {t : State} {w : Wait} (he : eff { u := u, f := f.seen o } (s.passed u f o) = .wait t w) :
    s.issue o eff = .next (t.modCur fun _ => { f with wait := some w, served := false, again := true }) := by
  have hi := issueOn_clear h eff
  obtain ⟨g, hg, rfl⟩ := h.cur
  simp only [State.issue, hg, hi, he]

/-- The issue of an instruction whose effect changes its own fibre alone. -/
theorem issue_fx {s : State} {u : Unit} {f : Fibre} {o : Op} (h : s.Clear u f o) (k : Ctx → Nat → Fibre → Fibre) :
    s.issue o (fx k) = .next (s.carried u f o (k { u := u, f := f.seen o } s.clk)) :=
  issue_done h rfl

/-- Correcting registers changes the stack alone (R85). -/
theorem scrub_eq (f : Fibre) (rs : List Rd) : (f.scrub rs).1 = { f with stack := (f.scrub rs).1.stack } := by
  suffices h : ∀ a : Fibre × Nat, (rs.foldl (fun (a : Fibre × Nat) r => match r with
      | .reg _ n true _ => match checkWord (a.1.reg n) with
        | some (w, true) => (a.1.setReg n (fresh w), a.2 + 1)
        | _ => a
      | _ => a) a).1 = { a.1 with stack := (rs.foldl (fun (a : Fibre × Nat) r => match r with
      | .reg _ n true _ => match checkWord (a.1.reg n) with
        | some (w, true) => (a.1.setReg n (fresh w), a.2 + 1)
        | _ => a
      | _ => a) a).1.stack } from h (f, 0)
  induction rs with
  | nil => intro a; rfl
  | cons r rs ih =>
    intro a
    simp only [List.foldl_cons]
    rw [ih]
    split
    · split <;> rfl
    · rfl

/-- Correcting registers leaves the PC alone. -/
@[simp] theorem seen_pc (f : Fibre) (o : Op) : (f.seen o).pc = f.pc := by rw [Fibre.seen, scrub_eq]
/-- Correcting registers leaves the window base alone. -/
@[simp] theorem seen_base (f : Fibre) (o : Op) : (f.seen o).base = f.base := by rw [Fibre.seen, scrub_eq]
/-- Correcting registers leaves the fibre's index alone. -/
@[simp] theorem seen_fid (f : Fibre) (o : Op) : (f.seen o).fid = f.fid := by rw [Fibre.seen, scrub_eq]
/-- Correcting registers leaves the capability registers alone. -/
@[simp] theorem seen_caps (f : Fibre) (o : Op) : (f.seen o).caps = f.caps := by rw [Fibre.seen, scrub_eq]
/-- Correcting registers leaves the call records alone. -/
@[simp] theorem seen_calls (f : Fibre) (o : Op) : (f.seen o).calls = f.calls := by rw [Fibre.seen, scrub_eq]

/-- Correcting registers leaves the outstanding accesses alone. -/
@[simp] theorem seen_outst (f : Fibre) (o : Op) : (f.seen o).outst = f.outst := by rw [Fibre.seen, scrub_eq]

/-- An instruction that reads nothing finds the fibre as it is. -/
theorem seen_of_reads_nil {o : Op} (f : Fibre) (h : o.reads = []) : f.seen o = f := by
  simp [Fibre.seen, Fibre.scrub, h]

/-- Passing an instruction leaves the cycle counter alone. -/
@[simp] theorem passed_clk (s : State) (u : Unit) (f : Fibre) (o : Op) : (s.passed u f o).clk = s.clk := rfl

end Sys2Proof.Machine
end

