-- ==== Sys2Proof/Laws/Memory.lean ====
section
/-! SUPPORT. The laws of memory: its canonical form is kept by every operation over it, and a read after a write (spec 09
R182, R194). -/

namespace Sys2Proof.Machine

/-! ### Canonical tables -/

/-- The canonical form, said of the list as a whole. -/
theorem cellsWf_iff (l : List Host.Cell) :
    cellsWf l = true ↔ l.Pairwise (fun a b => a.1 < b.1) ∧ ∀ c ∈ l, c.2 ≠ 0 := by
  induction l with
  | nil => simp [cellsWf]
  | cons a l ih =>
    obtain ⟨j, v⟩ := a
    cases l with
    | nil => simp [cellsWf]
    | cons b l =>
      obtain ⟨k, w⟩ := b
      simp only [cellsWf, Bool.and_eq_true, bne_iff_ne, decide_eq_true_eq, ih]
      simp only [List.pairwise_cons, List.mem_cons, forall_eq_or_imp]
      constructor
      · rintro ⟨⟨h1, h2⟩, ⟨h3, h4⟩, h5, h6⟩
        exact ⟨⟨⟨h2, fun c hc => lt_trans h2 (h3 c hc)⟩, h3, h4⟩, h1, h5, h6⟩
      · rintro ⟨⟨⟨h2, -⟩, h3, h4⟩, h1, h5, h6⟩
        exact ⟨⟨h1, h2⟩, ⟨h3, h4⟩, h5, h6⟩

/-- A rising list, said of the list as a whole. -/
theorem risingWf_iff (l : List Nat) : risingWf l = true ↔ l.Pairwise (· < ·) := by
  induction l with
  | nil => simp [risingWf]
  | cons a l ih =>
    cases l with
    | nil => simp [risingWf]
    | cons b l =>
      simp only [risingWf, Bool.and_eq_true, decide_eq_true_eq, ih, List.pairwise_cons, List.mem_cons, forall_eq_or_imp]
      constructor
      · rintro ⟨h1, h2, h3⟩
        exact ⟨⟨h1, fun c hc => lt_trans h1 (h2 c hc)⟩, h2, h3⟩
      · rintro ⟨⟨h1, -⟩, h2⟩
        exact ⟨h1, h2⟩

/-- What a write of a byte leaves listed. -/
theorem mem_cset {l : List Host.Cell} {k : Nat} {b : Byte} {c : Host.Cell} (h : c ∈ cset l k b) :
    c ∈ l ∨ c = (k, b) ∧ b ≠ 0 := by
  induction l with
  | nil => simp only [cset] at h; split at h <;> simp_all
  | cons a l ih =>
    simp only [cset] at h
    split at h
    · split at h <;> simp_all; tauto
    · split at h
      · split at h <;> simp_all; tauto
      · simp only [List.mem_cons] at h ⊢
        rcases h with h | h
        · exact .inl (.inl h)
        · rcases ih h with h | h
          · exact .inl (.inr h)
          · exact .inr h

/-- A write of a byte keeps the canonical form. -/
theorem cset_wf {l : List Host.Cell} {k : Nat} {b : Byte} (h : cellsWf l = true) : cellsWf (cset l k b) = true := by
  rw [cellsWf_iff] at h ⊢
  refine ⟨?_, fun c hc => ?_⟩
  · induction l with
    | nil => simp only [cset]; split <;> simp
    | cons a l ih =>
      obtain ⟨h1, h2⟩ := h
      simp only [List.pairwise_cons, List.mem_cons, forall_eq_or_imp] at h1 h2
      simp only [cset]
      split
      · next g =>
        split
        · simp only [List.pairwise_cons]; exact h1
        · simp only [List.pairwise_cons, List.mem_cons, forall_eq_or_imp]
          exact ⟨⟨g, fun c hc => lt_trans g (h1.1 c hc)⟩, h1⟩
      · next g =>
        split
        · next e =>
          split
          · exact h1.2
          · simp only [List.pairwise_cons]; exact ⟨fun c hc => e ▸ h1.1 c hc, h1.2⟩
        · next e =>
          simp only [List.pairwise_cons]
          refine ⟨fun c hc => ?_, ih ⟨h1.2, h2.2⟩⟩
          rcases mem_cset hc with hc | ⟨rfl, -⟩
          · exact h1.1 c hc
          · simp only; omega
  · rcases mem_cset hc with hc | ⟨rfl, hb⟩
    · exact h.2 c hc
    · exact hb

/-- Removing entries keeps the canonical form. -/
theorem cells_filter_wf {l : List Host.Cell} (p : Host.Cell → Bool) (h : cellsWf l = true) :
    cellsWf (l.filter p) = true := by
  rw [cellsWf_iff] at h ⊢
  exact ⟨h.1.filter p, fun c hc => h.2 c (List.mem_of_mem_filter hc)⟩

/-- Removing entries keeps a list rising. -/
theorem rising_filter_wf {l : List Nat} (p : Nat → Bool) (h : risingWf l = true) : risingWf (l.filter p) = true := by
  rw [risingWf_iff] at h ⊢
  exact h.filter p

/-- What an insertion leaves listed. -/
theorem mem_insNat {l : List Nat} {n c : Nat} : c ∈ insNat l n ↔ c = n ∨ c ∈ l := by
  induction l with
  | nil => simp [insNat]
  | cons a l ih =>
    simp only [insNat]
    split
    · simp
    · split
      · next e => subst e; simp
      · simp only [List.mem_cons, ih]; tauto

/-- An insertion keeps a list rising. -/
theorem insNat_wf {l : List Nat} {n : Nat} (h : risingWf l = true) : risingWf (insNat l n) = true := by
  rw [risingWf_iff] at h ⊢
  induction l with
  | nil => simp [insNat]
  | cons a l ih =>
    simp only [List.pairwise_cons] at h
    simp only [insNat]
    split
    · next g => simp only [List.pairwise_cons, List.mem_cons, forall_eq_or_imp]
                exact ⟨⟨g, fun c hc => lt_trans g (h.1 c hc)⟩, h⟩
    · split
      · simp only [List.pairwise_cons]; exact h
      · simp only [List.pairwise_cons]
        refine ⟨fun c hc => ?_, ih h.2⟩
        rcases mem_insNat.1 hc with rfl | hc
        · omega
        · exact h.1 c hc

/-- A byte that is written is read back. -/
@[simp] theorem cget_cset (l : List Host.Cell) (k : Nat) (b : Byte) (h : cellsWf l = true) :
    cget (cset l k b) k = b := by
  rw [cellsWf_iff] at h
  induction l with
  | nil => simp only [cset]; split <;> simp_all [cget]
  | cons a l ih =>
    obtain ⟨h1, h2⟩ := h
    simp only [List.pairwise_cons, List.mem_cons, forall_eq_or_imp] at h1 h2
    simp only [cset]
    split
    · next g =>
      split
      · next e => simp only [cget, if_neg (by omega : ¬ a.1 = k), if_pos g, e]
      · simp [cget]
    · next g =>
      split
      · next e =>
        split
        · next f =>
          rw [f]
          cases l with
          | nil => rfl
          | cons x l => 
            have := h1.1 x (by simp)
            simp only [cget, if_neg (by omega : ¬ x.1 = k), if_pos (by omega : k < x.1)]
        · simp [cget]
      · next e =>
        simp only [cget, if_neg (by omega : ¬ a.1 = k), if_neg g]
        exact ih ⟨h1.2, h2.2⟩

/-- A byte elsewhere is as before. -/
theorem cget_cset_ne (l : List Host.Cell) {k j : Nat} (b : Byte) (h : cellsWf l = true) (hj : j ≠ k) :
    cget (cset l k b) j = cget l j := by
  rw [cellsWf_iff] at h
  induction l with
  | nil => simp only [cset]; split <;> simp_all [cget]; omega
  | cons a l ih =>
    obtain ⟨h1, h2⟩ := h
    simp only [List.pairwise_cons, List.mem_cons, forall_eq_or_imp] at h1 h2
    simp only [cset]
    split
    · next g =>
      split
      · rfl
      · simp only [cget, if_neg (Ne.symm hj)]
        split
        · next e => rw [if_neg (by omega), if_pos (by omega)]
        · rfl
    · next g =>
      split
      · next e =>
        have hc : cget ((k, b) :: l) j = cget (a :: l) j := by
          simp only [cget, ← e, if_neg (Ne.symm hj)]
        split
        · rw [← hc]
          simp only [cget, if_neg (Ne.symm hj)]
          split
          · cases l with
            | nil => rfl
            | cons x l =>
              have := h1.1 x (by simp)
              simp only [cget, if_neg (by omega : ¬ x.1 = j), if_pos (by omega : j < x.1)]
          · rfl
        · exact hc
      · next e =>
        simp only [cget]
        rw [ih ⟨h1.2, h2.2⟩]

/-! ### Memory keeps its canonical form -/

/-- The canonical form, part by part. -/
theorem Memory.wf_iff (m : Memory) :
    m.wf = true ↔ cellsWf m.cells = true ∧ cellsWf m.synd = true ∧ risingWf m.tags = true := by
  simp [Memory.wf, and_assoc]

/-- A byte written. -/
theorem poke_wf {m : Memory} {k : Nat} {b : Byte} (h : m.wf = true) : (m.poke k b).wf = true := by
  rw [Memory.wf_iff] at *
  exact ⟨cset_wf h.1, h.2⟩

/-- A tag cleared. -/
theorem clearTag_wf {m : Memory} {k : Nat} (h : m.wf = true) : (m.clearTag k).wf = true := by
  rw [Memory.wf_iff] at *
  exact ⟨h.1, h.2.1, rising_filter_wf _ h.2.2⟩

/-- A tag set. -/
theorem setTag_wf {m : Memory} {k : Nat} (h : m.wf = true) : (m.setTag k).wf = true := by
  rw [Memory.wf_iff] at *
  exact ⟨h.1, h.2.1, insNat_wf h.2.2⟩

/-- A syndrome set. -/
theorem synd_wf {m : Memory} {k : Nat} {b : Byte} (h : m.wf = true) :
    ({ m with synd := cset m.synd k b } : Memory).wf = true := by
  rw [Memory.wf_iff] at *
  exact ⟨h.1, cset_wf h.2.1, h.2.2⟩

/-- The four bytes of a word written. -/
theorem pokeWord_wf {m : Memory} {k : Nat} {w : Word} (h : m.wf = true) : (m.pokeWord k w).wf = true :=
  poke_wf (poke_wf (poke_wf (poke_wf h)))

/-- A word written with its code. -/
theorem setWord_wf {m : Memory} {k : Nat} {r : Reg} (h : m.wf = true) : (m.setWord k r).wf = true :=
  clearTag_wf (synd_wf (m := m.pokeWord k r.val) (pokeWord_wf h))

/-- A word corrected in place. -/
theorem fixWord_wf {m : Memory} {k : Nat} (h : m.wf = true) : (m.fixWord k).wf = true := by
  unfold Memory.fixWord
  split
  · exact h
  · split
    · next w _ _ => exact synd_wf (m := m.pokeWord k w) (pokeWord_wf h)
    · exact h

/-- A byte written into its word. -/
theorem setByte_wf {m : Memory} {k : Nat} {b : Byte} (h : m.wf = true) : (m.setByte k b).wf = true :=
  clearTag_wf (synd_wf (m := (m.fixWord (wordKey k)).poke k b) (poke_wf (fixWord_wf h)))

/-- Words written one after another. -/
theorem setWords_wf {m : Memory} {k : Nat} {rs : List Reg} (h : m.wf = true) : (m.setWords k rs).wf = true := by
  induction rs generalizing m k with
  | nil => exact h
  | cons r rs ih => exact ih (setWord_wf h)

/-- Bytes written one after another. -/
theorem setBytes_wf {m : Memory} {k : Nat} {bs : List Byte} (h : m.wf = true) : (m.setBytes k bs).wf = true := by
  induction bs generalizing m k with
  | nil => exact h
  | cons b bs ih => exact ih (setByte_wf h)

/-- A range cleared. -/
theorem clearRange_wf {m : Memory} {lo hi : Nat} (h : m.wf = true) : (m.clearRange lo hi).wf = true := by
  rw [Memory.wf_iff] at *
  exact ⟨cells_filter_wf _ h.1, cells_filter_wf _ h.2.1, rising_filter_wf _ h.2.2⟩

/-! ### A read after a write -/

/-- A byte that is written is read back. -/
@[simp] theorem byte_poke (m : Memory) (k : Nat) (b : Byte) (h : m.wf = true) : (m.poke k b).byte k = b :=
  cget_cset _ _ _ ((Memory.wf_iff m).1 h).1

/-- A byte elsewhere is as before. -/
theorem byte_poke_ne (m : Memory) {k j : Nat} (b : Byte) (h : m.wf = true) (hj : j ≠ k) :
    (m.poke k b).byte j = m.byte j :=
  cget_cset_ne _ _ ((Memory.wf_iff m).1 h).1 hj

/-- The bytes outside a word that is written are as before. -/
theorem byte_pokeWord_ne (m : Memory) {k j : Nat} (w : Word) (h : m.wf = true) (hj : j < k ∨ k + 4 ≤ j) :
    (m.pokeWord k w).byte j = m.byte j := by
  unfold Memory.pokeWord
  rw [byte_poke_ne _ _ (poke_wf (poke_wf (poke_wf h))) (by omega), byte_poke_ne _ _ (poke_wf (poke_wf h)) (by omega),
    byte_poke_ne _ _ (poke_wf h) (by omega), byte_poke_ne _ _ h (by omega)]

/-- The bytes of a word. -/
theorem wordOf4_bytes (w : Word) : wordOf4 (wordByte w 0) (wordByte w 1) (wordByte w 2) (wordByte w 3) = w := by
  apply BitVec.eq_of_getLsbD_eq
  intro i hi
  simp only [wordOf4, wordByte, BitVec.getLsbD_append, BitVec.getLsbD_extractLsb']
  by_cases h0 : i < 8
  · simp [h0]
  · by_cases h1 : i < 16
    · simp [h0, show i - 8 < 8 by omega, show 8 + (i - 8) = i by omega]
    · by_cases h2 : i < 24
      · simp [h0, show ¬ i - 8 < 8 by omega, show i - 8 - 8 < 8 by omega, show 16 + (i - 8 - 8) = i by omega]
      · simp [h0, show ¬ i - 8 < 8 by omega, show ¬ i - 8 - 8 < 8 by omega, show i - 8 - 8 - 8 < 8 by omega,
          show 24 + (i - 8 - 8 - 8) = i by omega]

/-- The value of a word that is written. -/
theorem val_pokeWord (m : Memory) (k : Nat) (w : Word) (h : m.wf = true) : (m.pokeWord k w).val k = w := by
  have h1 := poke_wf (k := k) (b := wordByte w 0) h
  have h2 := poke_wf (k := k + 1) (b := wordByte w 1) h1
  have h3 := poke_wf (k := k + 2) (b := wordByte w 2) h2
  have e0 : (m.pokeWord k w).byte k = wordByte w 0 := by
    unfold Memory.pokeWord
    rw [byte_poke_ne _ _ h3 (by omega), byte_poke_ne _ _ h2 (by omega), byte_poke_ne _ _ h1 (by omega), byte_poke _ _ _ h]
  have e1 : (m.pokeWord k w).byte (k + 1) = wordByte w 1 := by
    unfold Memory.pokeWord
    rw [byte_poke_ne _ _ h3 (by omega), byte_poke_ne _ _ h2 (by omega), byte_poke _ _ _ h1]
  have e2 : (m.pokeWord k w).byte (k + 2) = wordByte w 2 := by
    unfold Memory.pokeWord
    rw [byte_poke_ne _ _ h3 (by omega), byte_poke _ _ _ h2]
  have e3 : (m.pokeWord k w).byte (k + 3) = wordByte w 3 := byte_poke _ _ _ h3
  rw [Memory.val, e0, e1, e2, e3]
  exact wordOf4_bytes w

/-- A word that is written is read back, with its code. -/
theorem word_setWord (m : Memory) (k : Nat) (r : Reg) (h : m.wf = true) : (m.setWord k r).word k = r := by
  have hv : (m.setWord k r).val k = r.val := val_pokeWord m k r.val h
  have hs : cget (m.setWord k r).synd k = r.code ^^^ codeOf r.val := cget_cset _ _ _ ((Memory.wf_iff m).1 h).2.1
  have hx : codeOf r.val ^^^ (r.code ^^^ codeOf r.val) = r.code := by
    rw [BitVec.xor_comm r.code, ← BitVec.xor_assoc, BitVec.xor_self, BitVec.zero_xor]
  cases r
  simp only [Memory.word, hv, hs, hx]

/-- The words elsewhere are as before, with their codes. -/
theorem word_setWord_ne (m : Memory) {k j : Nat} (r : Reg) (h : m.wf = true) (hj : j + 4 ≤ k ∨ k + 4 ≤ j) :
    (m.setWord k r).word j = m.word j := by
  have hb (i : Nat) (hi : i < 4) : (m.setWord k r).byte (j + i) = m.byte (j + i) :=
    byte_pokeWord_ne m r.val h (by omega)
  have hv : (m.setWord k r).val j = m.val j := by
    simp only [Memory.val, hb 1 (by omega), hb 2 (by omega), hb 3 (by omega)]
    rw [show (m.setWord k r).byte j = m.byte j from hb 0 (by omega)]
  have hs : cget (m.setWord k r).synd j = cget m.synd j := cget_cset_ne _ _ ((Memory.wf_iff m).1 h).2.1 (by omega)
  simp only [Memory.word, hv, hs]

/-- The bytes outside a word that is written are as before. -/
theorem byte_setWord_ne (m : Memory) {k j : Nat} (r : Reg) (h : m.wf = true) (hj : j < k ∨ k + 4 ≤ j) :
    (m.setWord k r).byte j = m.byte j :=
  byte_pokeWord_ne m r.val h hj

/-- The bytes outside the words that are written are as before. -/
theorem byte_setWords_ne (m : Memory) {k j : Nat} (rs : List Reg) (h : m.wf = true) (hj : j < k ∨ k + 4 * rs.length ≤ j) :
    (m.setWords k rs).byte j = m.byte j := by
  induction rs generalizing m k with
  | nil => rfl
  | cons r rs ih =>
    simp only [List.length_cons] at hj
    simp only [Memory.setWords]
    rw [ih _ (setWord_wf h) (by omega), byte_setWord_ne m r h (by omega)]

end Sys2Proof.Machine
end

