-- ==== Sys2Proof/Laws/PerInstr.lean ====
section
/-! SUPPORT. Per-instruction laws. `Carried`: the word that the encoder gives an instruction holds exactly the fields
that its row of the encoding tables names (R46, R47). -/

namespace Sys2Proof

/-- The word of an instruction carries the instruction's fields. -/
def Laws.Carried.Statement (i : Instr) : Prop := ∀ w, encode i = some w → toRaw i = some (unpack w)

/-- What every instruction's case rests on. -/
theorem Laws.carried (i : Instr) : Laws.Carried.Statement i := by
  intro w h
  obtain ⟨r, hr, rfl⟩ := Option.map_eq_some_iff.mp h
  rw [hr, unpack_pack]

theorem Laws.Carried.packedCode (code : BitVec 16) : Laws.Carried.Statement (.packedCode code) := Laws.carried _
theorem Laws.Carried.nop (stall : BitVec 4) (entry : Option (BitVec 6)) : Laws.Carried.Statement (.nop stall entry) := Laws.carried _
theorem Laws.Carried.bra (c : Ctl) (t : BrField) : Laws.Carried.Statement (.bra c t) := Laws.carried _
theorem Laws.Carried.brx (c : Ctl) (a : RSrc) : Laws.Carried.Statement (.brx c a) := Laws.carried _
theorem Laws.Carried.call (c : Ctl) (t : BrField) : Laws.Carried.Statement (.call c t) := Laws.carried _
theorem Laws.Carried.callx (c : Ctl) (a : RSrc) : Laws.Carried.Statement (.callx c a) := Laws.carried _
theorem Laws.Carried.ret (c : Ctl) : Laws.Carried.Statement (.ret c) := Laws.carried _
theorem Laws.Carried.fork (c : Ctl) (d : VReg) (a b : Src) (t : BrField) : Laws.Carried.Statement (.fork c d a b t) := Laws.carried _
theorem Laws.Carried.fend (c : Ctl) : Laws.Carried.Statement (.fend c) := Laws.carried _
theorem Laws.Carried.exit (c : Ctl) : Laws.Carried.Statement (.exit c) := Laws.carried _
theorem Laws.Carried.exitSuccessor (c : Ctl) (delta : BitVec 27) : Laws.Carried.Statement (.exitSuccessor c delta) := Laws.carried _
theorem Laws.Carried.yield (c : Ctl) : Laws.Carried.Statement (.yield c) := Laws.carried _
theorem Laws.Carried.sleepu (c : Ctl) (a : Src) : Laws.Carried.Statement (.sleepu c a) := Laws.carried _
theorem Laws.Carried.trap (c : Ctl) (a : Src) : Laws.Carried.Statement (.trap c a) := Laws.carried _
theorem Laws.Carried.brk (c : Ctl) (a : Src) : Laws.Carried.Statement (.brk c a) := Laws.carried _
theorem Laws.Carried.trapret (c : Ctl) : Laws.Carried.Statement (.trapret c) := Laws.carried _
theorem Laws.Carried.trapretResume (c : Ctl) : Laws.Carried.Statement (.trapretResume c) := Laws.carried _
theorem Laws.Carried.wspill (c : Ctl) (f : VReg) (m : MemOp) (n : Src) : Laws.Carried.Statement (.wspill c f m n) := Laws.carried _
theorem Laws.Carried.wfill (c : Ctl) (f : VReg) (m : MemOp) (n : Src) : Laws.Carried.Statement (.wfill c f m n) := Laws.carried _
theorem Laws.Carried.pset (c : Ctl) (k : BitVec 4) (d : PReg) (a b : PReg) : Laws.Carried.Statement (.pset c k d a b) := Laws.carried _
theorem Laws.Carried.pmovRd (c : Ctl) (d : VReg) : Laws.Carried.Statement (.pmovRd c d) := Laws.carried _
theorem Laws.Carried.pmovWr (c : Ctl) (a : Src) : Laws.Carried.Statement (.pmovWr c a) := Laws.carried _
theorem Laws.Carried.srd (c : Ctl) (d : VReg) (r : SReg) : Laws.Carried.Statement (.srd c d r) := Laws.carried _
theorem Laws.Carried.swr (c : Ctl) (r : WSReg) (a : Src) : Laws.Carried.Statement (.swr c r a) := Laws.carried _
theorem Laws.Carried.loopd (c : Ctl) (d : VReg) (t : BrField) : Laws.Carried.Statement (.loopd c d t) := Laws.carried _
theorem Laws.Carried.iadd (c : Ctl) (t : ITy) (sat : Bool) (d : VReg) (a b : Src) : Laws.Carried.Statement (.iadd c t sat d a b) := Laws.carried _
theorem Laws.Carried.isub (c : Ctl) (t : ITy) (sat : Bool) (d : VReg) (a b : Src) : Laws.Carried.Statement (.isub c t sat d a b) := Laws.carried _
theorem Laws.Carried.imul (c : Ctl) (t : ITy) (sat : Bool) (d : VReg) (a b : Src) : Laws.Carried.Statement (.imul c t sat d a b) := Laws.carried _
theorem Laws.Carried.imulh (c : Ctl) (t : ITy) (d : VReg) (a b : Src) : Laws.Carried.Statement (.imulh c t d a b) := Laws.carried _
theorem Laws.Carried.imad (c : Ctl) (t : ITy) (d : VReg) (a b e : Src) : Laws.Carried.Statement (.imad c t d a b e) := Laws.carried _
theorem Laws.Carried.imadw (c : Ctl) (t : ITy) (d : VReg) (a b e : Src) : Laws.Carried.Statement (.imadw c t d a b e) := Laws.carried _
theorem Laws.Carried.idiv (c : Ctl) (t : ITy) (d : VReg) (a b : Src) : Laws.Carried.Statement (.idiv c t d a b) := Laws.carried _
theorem Laws.Carried.irem (c : Ctl) (t : ITy) (d : VReg) (a b : Src) : Laws.Carried.Statement (.irem c t d a b) := Laws.carried _
theorem Laws.Carried.imin (c : Ctl) (t : ITy) (d : VReg) (a b : Src) : Laws.Carried.Statement (.imin c t d a b) := Laws.carried _
theorem Laws.Carried.imax (c : Ctl) (t : ITy) (d : VReg) (a b : Src) : Laws.Carried.Statement (.imax c t d a b) := Laws.carried _
theorem Laws.Carried.iabs (c : Ctl) (t : ITy) (sat : Bool) (d : VReg) (a : Src) : Laws.Carried.Statement (.iabs c t sat d a) := Laws.carried _
theorem Laws.Carried.ineg (c : Ctl) (t : ITy) (sat : Bool) (d : VReg) (a : Src) : Laws.Carried.Statement (.ineg c t sat d a) := Laws.carried _
theorem Laws.Carried.iaddc (c : Ctl) (d : VReg) (a b : Src) (k : PReg) : Laws.Carried.Statement (.iaddc c d a b k) := Laws.carried _
theorem Laws.Carried.isubb (c : Ctl) (d : VReg) (a b : Src) (k : PReg) : Laws.Carried.Statement (.isubb c d a b k) := Laws.carried _
theorem Laws.Carried.and (c : Ctl) (t : ITy) (d : VReg) (a b : Src) : Laws.Carried.Statement (.and c t d a b) := Laws.carried _
theorem Laws.Carried.or (c : Ctl) (t : ITy) (d : VReg) (a b : Src) : Laws.Carried.Statement (.or c t d a b) := Laws.carried _
theorem Laws.Carried.xor (c : Ctl) (t : ITy) (d : VReg) (a b : Src) : Laws.Carried.Statement (.xor c t d a b) := Laws.carried _
theorem Laws.Carried.andn (c : Ctl) (t : ITy) (d : VReg) (a b : Src) : Laws.Carried.Statement (.andn c t d a b) := Laws.carried _
theorem Laws.Carried.logt (c : Ctl) (t : ITy) (d : VReg) (a b e : Src) (table : Byte) : Laws.Carried.Statement (.logt c t d a b e table) := Laws.carried _
theorem Laws.Carried.shl (c : Ctl) (t : ITy) (d : VReg) (a b : Src) : Laws.Carried.Statement (.shl c t d a b) := Laws.carried _
theorem Laws.Carried.shr (c : Ctl) (t : ITy) (d : VReg) (a b : Src) : Laws.Carried.Statement (.shr c t d a b) := Laws.carried _
theorem Laws.Carried.sar (c : Ctl) (t : ITy) (d : VReg) (a b : Src) : Laws.Carried.Statement (.sar c t d a b) := Laws.carried _
theorem Laws.Carried.rot (c : Ctl) (t : ITy) (d : VReg) (a b : Src) : Laws.Carried.Statement (.rot c t d a b) := Laws.carried _
theorem Laws.Carried.bfx (c : Ctl) (t : ITy) (d : VReg) (a b : Src) : Laws.Carried.Statement (.bfx c t d a b) := Laws.carried _
theorem Laws.Carried.bfi (c : Ctl) (d : VReg) (a b e : Src) : Laws.Carried.Statement (.bfi c d a b e) := Laws.carried _
theorem Laws.Carried.popc (c : Ctl) (t : ITy) (d : VReg) (a : Src) : Laws.Carried.Statement (.popc c t d a) := Laws.carried _
theorem Laws.Carried.clz (c : Ctl) (t : ITy) (d : VReg) (a : Src) : Laws.Carried.Statement (.clz c t d a) := Laws.carried _
theorem Laws.Carried.ctz (c : Ctl) (t : ITy) (d : VReg) (a : Src) : Laws.Carried.Statement (.ctz c t d a) := Laws.carried _
theorem Laws.Carried.brev (c : Ctl) (t : ITy) (d : VReg) (a : Src) : Laws.Carried.Statement (.brev c t d a) := Laws.carried _
theorem Laws.Carried.icmp (c : Ctl) (cond : Cond) (t : ITy) (d : PReg) (a b : Src) : Laws.Carried.Statement (.icmp c cond t d a b) := Laws.carried _
theorem Laws.Carried.sel (c : Ctl) (t : ITy) (d : VReg) (k : PReg) (inv : Bool) (a b : Src) : Laws.Carried.Statement (.sel c t d k inv a b) := Laws.carried _
theorem Laws.Carried.mov (c : Ctl) (t : ITy) (d : VReg) (a : Src) : Laws.Carried.Statement (.mov c t d a) := Laws.carried _
theorem Laws.Carried.fadd (c : Ctl) (t : FTy) (r : Option RM) (d : VReg) (a b : Src) : Laws.Carried.Statement (.fadd c t r d a b) := Laws.carried _
theorem Laws.Carried.fsub (c : Ctl) (t : FTy) (r : Option RM) (d : VReg) (a b : Src) : Laws.Carried.Statement (.fsub c t r d a b) := Laws.carried _
theorem Laws.Carried.fmul (c : Ctl) (t : FTy) (r : Option RM) (d : VReg) (a b : Src) : Laws.Carried.Statement (.fmul c t r d a b) := Laws.carried _
theorem Laws.Carried.ffma (c : Ctl) (t : FTy) (r : Option RM) (d : VReg) (a b e : Src) : Laws.Carried.Statement (.ffma c t r d a b e) := Laws.carried _
theorem Laws.Carried.fdiv (c : Ctl) (t : FTy) (r : Option RM) (d : VReg) (a b : Src) : Laws.Carried.Statement (.fdiv c t r d a b) := Laws.carried _
theorem Laws.Carried.fsqrt (c : Ctl) (t : FTy) (r : Option RM) (d : VReg) (a : Src) : Laws.Carried.Statement (.fsqrt c t r d a) := Laws.carried _
theorem Laws.Carried.fscale (c : Ctl) (t : FTy) (r : Option RM) (d : VReg) (a b : Src) : Laws.Carried.Statement (.fscale c t r d a b) := Laws.carried _
theorem Laws.Carried.fmin (c : Ctl) (t : FTy) (d : VReg) (a b : Src) : Laws.Carried.Statement (.fmin c t d a b) := Laws.carried _
theorem Laws.Carried.fmax (c : Ctl) (t : FTy) (d : VReg) (a b : Src) : Laws.Carried.Statement (.fmax c t d a b) := Laws.carried _
theorem Laws.Carried.fcmp (c : Ctl) (cond : Cond) (t : FTy) (d : PReg) (a b : Src) : Laws.Carried.Statement (.fcmp c cond t d a b) := Laws.carried _
theorem Laws.Carried.fclass (c : Ctl) (t : FTy) (d : VReg) (a : Src) : Laws.Carried.Statement (.fclass c t d a) := Laws.carried _
theorem Laws.Carried.frcp (c : Ctl) (t : FTy) (r : Option RM) (d : VReg) (a : Src) : Laws.Carried.Statement (.frcp c t r d a) := Laws.carried _
theorem Laws.Carried.frsq (c : Ctl) (t : FTy) (r : Option RM) (d : VReg) (a : Src) : Laws.Carried.Statement (.frsq c t r d a) := Laws.carried _
theorem Laws.Carried.fexp2 (c : Ctl) (t : FTy) (r : Option RM) (d : VReg) (a : Src) : Laws.Carried.Statement (.fexp2 c t r d a) := Laws.carried _
theorem Laws.Carried.flog2 (c : Ctl) (t : FTy) (r : Option RM) (d : VReg) (a : Src) : Laws.Carried.Statement (.flog2 c t r d a) := Laws.carried _
theorem Laws.Carried.fsin (c : Ctl) (t : FTy) (r : Option RM) (d : VReg) (a : Src) : Laws.Carried.Statement (.fsin c t r d a) := Laws.carried _
theorem Laws.Carried.fcos (c : Ctl) (t : FTy) (r : Option RM) (d : VReg) (a : Src) : Laws.Carried.Statement (.fcos c t r d a) := Laws.carried _
theorem Laws.Carried.ftanh (c : Ctl) (t : FTy) (r : Option RM) (d : VReg) (a : Src) : Laws.Carried.Statement (.ftanh c t r d a) := Laws.carried _
theorem Laws.Carried.frnd (c : Ctl) (t : FTy) (r : Option RM) (d : VReg) (a : Src) : Laws.Carried.Statement (.frnd c t r d a) := Laws.carried _
theorem Laws.Carried.fcopys (c : Ctl) (t : FTy) (d : VReg) (a b : Src) : Laws.Carried.Statement (.fcopys c t d a b) := Laws.carried _
theorem Laws.Carried.cvtfi (c : Ctl) (t : ITy) (src : FTy) (r : Option RM) (d : VReg) (a : Src) : Laws.Carried.Statement (.cvtfi c t src r d a) := Laws.carried _
theorem Laws.Carried.cvtif (c : Ctl) (t : FTy) (src : ITy) (r : Option RM) (d : VReg) (a : Src) : Laws.Carried.Statement (.cvtif c t src r d a) := Laws.carried _
theorem Laws.Carried.cvtff (c : Ctl) (t : FTy) (src : FTy) (r : Option RM) (d : VReg) (a : Src) : Laws.Carried.Statement (.cvtff c t src r d a) := Laws.carried _
theorem Laws.Carried.cvtl6 (c : Ctl) (i : BitVec 2) (r : Option RM) (d : VReg) (a b e : Src) : Laws.Carried.Statement (.cvtl6 c i r d a b e) := Laws.carried _
theorem Laws.Carried.cvt6f (c : Ctl) (i : BitVec 2) (d : VReg) (a b : Src) : Laws.Carried.Statement (.cvt6f c i d a b) := Laws.carried _
theorem Laws.Carried.hadd2 (c : Ctl) (t : FTy) (r : Option RM) (d : VReg) (a b : Src) : Laws.Carried.Statement (.hadd2 c t r d a b) := Laws.carried _
theorem Laws.Carried.hmul2 (c : Ctl) (t : FTy) (r : Option RM) (d : VReg) (a b : Src) : Laws.Carried.Statement (.hmul2 c t r d a b) := Laws.carried _
theorem Laws.Carried.hfma2 (c : Ctl) (t : FTy) (r : Option RM) (d : VReg) (a b e : Src) : Laws.Carried.Statement (.hfma2 c t r d a b e) := Laws.carried _
theorem Laws.Carried.hmnx2 (c : Ctl) (max : Bool) (t : FTy) (d : VReg) (a b : Src) : Laws.Carried.Statement (.hmnx2 c max t d a b) := Laws.carried _
theorem Laws.Carried.padd2 (c : Ctl) (t : ITy) (sat : Bool) (d : VReg) (a b : Src) : Laws.Carried.Statement (.padd2 c t sat d a b) := Laws.carried _
theorem Laws.Carried.psub2 (c : Ctl) (t : ITy) (sat : Bool) (d : VReg) (a b : Src) : Laws.Carried.Statement (.psub2 c t sat d a b) := Laws.carried _
theorem Laws.Carried.pmul2 (c : Ctl) (t : ITy) (sat : Bool) (d : VReg) (a b : Src) : Laws.Carried.Statement (.pmul2 c t sat d a b) := Laws.carried _
theorem Laws.Carried.pmac2 (c : Ctl) (d : VReg) (a b e : Src) : Laws.Carried.Statement (.pmac2 c d a b e) := Laws.carried _
theorem Laws.Carried.pmnx2 (c : Ctl) (max : Bool) (t : ITy) (d : VReg) (a b : Src) : Laws.Carried.Statement (.pmnx2 c max t d a b) := Laws.carried _
theorem Laws.Carried.pshr2 (c : Ctl) (arith : Bool) (d : VReg) (a b : Src) : Laws.Carried.Statement (.pshr2 c arith d a b) := Laws.carried _
theorem Laws.Carried.shrr (c : Ctl) (t : ITy) (nar : Narrow) (d : VReg) (a b : Src) : Laws.Carried.Statement (.shrr c t nar d a b) := Laws.carried _
theorem Laws.Carried.pack2 (c : Ctl) (hi : Bool) (t : ITy) (sat : Bool) (d : VReg) (a b : Src) : Laws.Carried.Statement (.pack2 c hi t sat d a b) := Laws.carried _
theorem Laws.Carried.unpk2 (c : Ctl) (hi : Bool) (t : ITy) (d : VReg) (a : Src) : Laws.Carried.Statement (.unpk2 c hi t d a) := Laws.carried _
theorem Laws.Carried.ldot4 (c : Ctl) (r : Option RM) (d : VReg) (a b e : Src) : Laws.Carried.Statement (.ldot4 c r d a b e) := Laws.carried _
theorem Laws.Carried.idot4 (c : Ctl) (t : ITy) (sat : Bool) (d : VReg) (a b e : Src) : Laws.Carried.Statement (.idot4 c t sat d a b e) := Laws.carried _
theorem Laws.Carried.tsync (stall : BitVec 4) : Laws.Carried.Statement (.tsync stall) := Laws.carried _
theorem Laws.Carried.tslide (c : Ctl) (down : Bool) (t : ITy) (fill : Fill) (d : VReg) (a b : Src) : Laws.Carried.Statement (.tslide c down t fill d a b) := Laws.carried _
theorem Laws.Carried.tshfl (c : Ctl) (byXor : Bool) (t : ITy) (d : VReg) (a b e : Src) : Laws.Carried.Statement (.tshfl c byXor t d a b e) := Laws.carried _
theorem Laws.Carried.tbcast (c : Ctl) (t : ITy) (d : VReg) (a : Src) (k : Src) : Laws.Carried.Statement (.tbcast c t d a k) := Laws.carried _
theorem Laws.Carried.tscan (c : Ctl) (op : TOp) (ex : Bool) (t : TTy) (sat : Bool) (r : Option RM) (d : VReg) (a : Src) : Laws.Carried.Statement (.tscan c op ex t sat r d a) := Laws.carried _
theorem Laws.Carried.tred (c : Ctl) (op : TOp) (t : TTy) (sat : Bool) (r : Option RM) (d : VReg) (a : Src) : Laws.Carried.Statement (.tred c op t sat r d a) := Laws.carried _
theorem Laws.Carried.tvote (c : Ctl) (op : VoteOp) (d : PReg) (a : PReg) : Laws.Carried.Statement (.tvote c op d a) := Laws.carried _
theorem Laws.Carried.tballot (c : Ctl) (k : BitVec 2) (d : VReg) (a : PReg) : Laws.Carried.Statement (.tballot c k d a) := Laws.carried _
theorem Laws.Carried.tmatch (c : Ctl) (k : BitVec 2) (t : ITy) (d : VReg) (a : Src) : Laws.Carried.Statement (.tmatch c k t d a) := Laws.carried _
theorem Laws.Carried.telect (c : Ctl) (d : PReg) : Laws.Carried.Statement (.telect c d) := Laws.carried _
theorem Laws.Carried.ld (c : Ctl) (t : ITy) (m : MMod) (d : VReg) (p : MemOp) : Laws.Carried.Statement (.ld c t m d p) := Laws.carried _
theorem Laws.Carried.st (c : Ctl) (t : ITy) (m : MMod) (p : MemOp) (v : Src) : Laws.Carried.Statement (.st c t m p v) := Laws.carried _
theorem Laws.Carried.ldv (c : Ctl) (four : Bool) (m : MMod) (d : VReg) (p : MemOp) : Laws.Carried.Statement (.ldv c four m d p) := Laws.carried _
theorem Laws.Carried.stv (c : Ctl) (four : Bool) (m : MMod) (p : MemOp) (v : RSrc) : Laws.Carried.Statement (.stv c four m p v) := Laws.carried _
theorem Laws.Carried.pref (c : Ctl) (l2 : Bool) (hint : Hint) (p : MemOp) : Laws.Carried.Statement (.pref c l2 hint p) := Laws.carried _
theorem Laws.Carried.ldc (c : Ctl) (m : MMod) (d : CReg) (p : MemOp) : Laws.Carried.Statement (.ldc c m d p) := Laws.carried _
theorem Laws.Carried.stc (c : Ctl) (m : MMod) (p : MemOp) (v : CSrc) : Laws.Carried.Statement (.stc c m p v) := Laws.carried _
theorem Laws.Carried.cderive (c : Ctl) (d : CReg) (a : CSrc) (b e : Src) : Laws.Carried.Statement (.cderive c d a b e) := Laws.carried _
theorem Laws.Carried.cperm (c : Ctl) (d : CReg) (a : CSrc) (b : Src) : Laws.Carried.Statement (.cperm c d a b) := Laws.carried _
theorem Laws.Carried.cget (c : Ctl) (f : CapField) (d : VReg) (a : CSrc) : Laws.Carried.Statement (.cget c f d a) := Laws.carried _
theorem Laws.Carried.caddr (c : Ctl) (d : VReg) (a : CSrc) (b : Src) : Laws.Carried.Statement (.caddr c d a b) := Laws.carried _
theorem Laws.Carried.cmov (c : Ctl) (d : CReg) (a : CSrc) : Laws.Carried.Statement (.cmov c d a) := Laws.carried _
theorem Laws.Carried.ctest (c : Ctl) (d : PReg) (a : CSrc) (b e : Src) (mask : Byte) : Laws.Carried.Statement (.ctest c d a b e mask) := Laws.carried _
theorem Laws.Carried.amo (c : Ctl) (op : AmoOp) (t : ITy) (m : MMod) (d : VReg) (p : MemOp) (v : Src) : Laws.Carried.Statement (.amo c op t m d p v) := Laws.carried _
theorem Laws.Carried.cas (c : Ctl) (t : ITy) (m : MMod) (d : VReg) (p : MemOp) (v : RSrc) : Laws.Carried.Statement (.cas c t m d p v) := Laws.carried _
theorem Laws.Carried.cas16 (c : Ctl) (m : MMod) (d : VReg) (p : MemOp) (v : RSrc) : Laws.Carried.Statement (.cas16 c m d p v) := Laws.carried _
theorem Laws.Carried.amof (c : Ctl) (op : AmofOp) (m : MMod) (d : VReg) (p : MemOp) (v : Src) : Laws.Carried.Statement (.amof c op m d p v) := Laws.carried _
theorem Laws.Carried.fence (c : Ctl) (order : Order) (scope : Scope) : Laws.Carried.Statement (.fence c order scope) := Laws.carried _
theorem Laws.Carried.barinit (c : Ctl) (scope : Scope) (p : MemOp) (v : Src) : Laws.Carried.Statement (.barinit c scope p v) := Laws.carried _
theorem Laws.Carried.bararr (c : Ctl) (scope : Scope) (d : VReg) (p : MemOp) : Laws.Carried.Statement (.bararr c scope d p) := Laws.carried _
theorem Laws.Carried.bartx (c : Ctl) (scope : Scope) (d : VReg) (p : MemOp) (v : Src) : Laws.Carried.Statement (.bartx c scope d p v) := Laws.carried _
theorem Laws.Carried.barwait (c : Ctl) (scope : Scope) (p : MemOp) (v : Src) : Laws.Carried.Statement (.barwait c scope p v) := Laws.carried _
theorem Laws.Carried.bartest (c : Ctl) (scope : Scope) (d : PReg) (p : MemOp) (v : Src) : Laws.Carried.Statement (.bartest c scope d p v) := Laws.carried _
theorem Laws.Carried.mwait (c : Ctl) (ge : Bool) (t : ITy) (m : MMod) (d : VReg) (p : MemOp) (v : Src) : Laws.Carried.Statement (.mwait c ge t m d p v) := Laws.carried _
theorem Laws.Carried.stroke (c : Ctl) : Laws.Carried.Statement (.stroke c) := Laws.carried _
theorem Laws.Carried.lnflush (c : Ctl) (p : MemOp) : Laws.Carried.Statement (.lnflush c p) := Laws.carried _
theorem Laws.Carried.lninv (c : Ctl) (p : MemOp) : Laws.Carried.Statement (.lninv c p) := Laws.carried _
theorem Laws.Carried.lnreclaim (c : Ctl) (m : MMod) (d : VReg) (p : MemOp) (v : RSrc) : Laws.Carried.Statement (.lnreclaim c m d p v) := Laws.carried _
theorem Laws.Carried.lnstat (c : Ctl) (d : VReg) (p : MemOp) : Laws.Carried.Statement (.lnstat c d p) := Laws.carried _
theorem Laws.Carried.xfer (c : Ctl) (d : VReg) (t : Src) (b : Option RSrc) : Laws.Carried.Statement (.xfer c d t b) := Laws.carried _
theorem Laws.Carried.xtpl (c : Ctl) (a : CSrc) (t : Src) (toSide : Bool) : Laws.Carried.Statement (.xtpl c a t toSide) := Laws.carried _
theorem Laws.Carried.xprom (c : Ctl) (d : VReg) (t : Src) (b : Option RSrc) : Laws.Carried.Statement (.xprom c d t b) := Laws.carried _
theorem Laws.Carried.xwait (c : Ctl) (a : Src) : Laws.Carried.Statement (.xwait c a) := Laws.carried _
theorem Laws.Carried.xcancel (c : Ctl) (d : VReg) (a : Src) : Laws.Carried.Statement (.xcancel c d a) := Laws.carried _
theorem Laws.Carried.xstat (c : Ctl) (d : VReg) (a : Src) : Laws.Carried.Statement (.xstat c d a) := Laws.carried _
theorem Laws.Carried.crew (stall : BitVec 4) (h : Bool) (a : Src) : Laws.Carried.Statement (.crew stall h a) := Laws.carried _
theorem Laws.Carried.mma (stall : BitVec 4) (t : MTy) (k : BitVec 2) (r : Option RM) (d : Tile) (fa : BitVec 1) (fb : BitVec 3) (s : Scales) : Laws.Carried.Statement (.mma stall t k r d fa fb s) := Laws.carried _
theorem Laws.Carried.aclr (stall : BitVec 4) (d : Tile) : Laws.Carried.Statement (.aclr stall d) := Laws.carried _
theorem Laws.Carried.aload (stall : BitVec 4) (int : Bool) (d : Tile) (p : MemOp) : Laws.Carried.Statement (.aload stall int d p) := Laws.carried _
theorem Laws.Carried.astore (stall : BitVec 4) (int : Bool) (d : Tile) (p : MemOp) : Laws.Carried.Statement (.astore stall int d p) := Laws.carried _
theorem Laws.Carried.adrain (stall : BitVec 4) (int : Bool) (r : Option RM) (d : Tile) (a : RSrc) : Laws.Carried.Statement (.adrain stall int r d a) := Laws.carried _
theorem Laws.Carried.adrainS (stall : BitVec 4) (int : Bool) (d : Tile) (cap : CSrc) (idx : Option RSrc) (bar : Word) : Laws.Carried.Statement (.adrainS stall int d cap idx bar) := Laws.carried _
theorem Laws.Carried.areduce (stall : BitVec 4) (int : Bool) (d : Tile) (n : Src) (bar : Word) : Laws.Carried.Statement (.areduce stall int d n bar) := Laws.carried _
theorem Laws.Carried.acmt (stall : BitVec 4) (d : Tile) : Laws.Carried.Statement (.acmt stall d) := Laws.carried _
theorem Laws.Carried.fqstat (c : Ctl) (d : VReg) (f : Fifo) : Laws.Carried.Statement (.fqstat c d f) := Laws.carried _
theorem Laws.Carried.fqdrop (stall : BitVec 4) (f : Fifo) : Laws.Carried.Statement (.fqdrop stall f) := Laws.carried _
theorem Laws.Carried.aroll (stall : BitVec 4) (d : Tile) (fa : BitVec 1) (fb : BitVec 3) : Laws.Carried.Statement (.aroll stall d fa fb) := Laws.carried _
theorem Laws.Carried.rxtake (c : Ctl) (d : VReg) (r : Src) : Laws.Carried.Statement (.rxtake c d r) := Laws.carried _
theorem Laws.Carried.rxrel (c : Ctl) (r o : Src) : Laws.Carried.Statement (.rxrel c r o) := Laws.carried _
theorem Laws.Carried.txpost (c : Ctl) (d : VReg) (a : CSrc) (b : Option RSrc) (w : Src) : Laws.Carried.Statement (.txpost c d a b w) := Laws.carried _
theorem Laws.Carried.txpostTs2 (c : Ctl) (d : VReg) (a : CSrc) (b : Option RSrc) (w : Src) : Laws.Carried.Statement (.txpostTs2 c d a b w) := Laws.carried _
theorem Laws.Carried.txpostTs1 (c : Ctl) (d : VReg) (a : CSrc) (b : Option RSrc) (w : Src) (h : BitVec 14) : Laws.Carried.Statement (.txpostTs1 c d a b w h) := Laws.carried _
theorem Laws.Carried.txstat (c : Ctl) (d : VReg) (a : Src) : Laws.Carried.Statement (.txstat c d a) := Laws.carried _
theorem Laws.Carried.ptprd (c : Ctl) (d : VReg) : Laws.Carried.Statement (.ptprd c d) := Laws.carried _
theorem Laws.Carried.tsrec (c : Ctl) (d : VReg) (a : Src) : Laws.Carried.Statement (.tsrec c d a) := Laws.carried _
theorem Laws.Carried.launch (c : Ctl) (d : VReg) (p : MemOp) : Laws.Carried.Statement (.launch c d p) := Laws.carried _
theorem Laws.Carried.cont (c : Ctl) (delta : BitVec 27) : Laws.Carried.Statement (.cont c delta) := Laws.carried _
theorem Laws.Carried.garm (c : Ctl) (a : Src) : Laws.Carried.Statement (.garm c a) := Laws.carried _
theorem Laws.Carried.gcond (c : Ctl) (k v : Src) : Laws.Carried.Statement (.gcond c k v) := Laws.carried _
theorem Laws.Carried.signalWrite (c : Ctl) (p : MemOp) (v : Src) : Laws.Carried.Statement (.signalWrite c p v) := Laws.carried _
theorem Laws.Carried.signalAdd (c : Ctl) (p : MemOp) (v : Src) : Laws.Carried.Statement (.signalAdd c p v) := Laws.carried _
theorem Laws.Carried.cancel (c : Ctl) (l : Level) (d : VReg) (a : Src) : Laws.Carried.Statement (.cancel c l d a) := Laws.carried _
theorem Laws.Carried.lvlq (c : Ctl) (l : Level) (d : VReg) (a : Src) : Laws.Carried.Statement (.lvlq c l d a) := Laws.carried _
theorem Laws.Carried.hpost (c : Ctl) (d : VReg) (h : Src) (v : RSrc) : Laws.Carried.Statement (.hpost c d h v) := Laws.carried _
theorem Laws.Carried.bank (c : Ctl) (d : VReg) (p : MemOp) (v : RSrc) : Laws.Carried.Statement (.bank c d p v) := Laws.carried _
theorem Laws.Carried.plant (c : Ctl) (d : VReg) (p : MemOp) : Laws.Carried.Statement (.plant c d p) := Laws.carried _
theorem Laws.Carried.evsel (c : Ctl) (a b : Src) : Laws.Carried.Statement (.evsel c a b) := Laws.carried _
theorem Laws.Carried.evrd (c : Ctl) (d : VReg) (a : Src) : Laws.Carried.Statement (.evrd c d a) := Laws.carried _
theorem Laws.Carried.teamConvergenceTimeout (unit team : Nat) : Laws.Carried.Statement (.teamConvergenceTimeout unit team) := Laws.carried _
theorem Laws.Carried.loadDataReturn (unit fid : Nat) : Laws.Carried.Statement (.loadDataReturn unit fid) := Laws.carried _
theorem Laws.Carried.registerFill (unit fid : Nat) : Laws.Carried.Statement (.registerFill unit fid) := Laws.carried _
theorem Laws.Carried.batchRegroup (core part : Nat) : Laws.Carried.Statement (.batchRegroup core part) := Laws.carried _
theorem Laws.Carried.sleepExpiry (unit fid : Nat) : Laws.Carried.Statement (.sleepExpiry unit fid) := Laws.carried _
theorem Laws.Carried.monitorWake (unit fid : Nat) : Laws.Carried.Statement (.monitorWake unit fid) := Laws.carried _
theorem Laws.Carried.monitorRereadTimer (unit fid : Nat) : Laws.Carried.Statement (.monitorRereadTimer unit fid) := Laws.carried _
theorem Laws.Carried.coherenceRequest (line req : Nat) (write : Bool) (holder : Option Nat) : Laws.Carried.Statement (.coherenceRequest line req write holder) := Laws.carried _
theorem Laws.Carried.tokenArrival (line : Nat) (got : TokenLoad) : Laws.Carried.Statement (.tokenArrival line got) := Laws.carried _
theorem Laws.Carried.attemptTimeout (line req : Nat) : Laws.Carried.Statement (.attemptTimeout line req) := Laws.carried _
theorem Laws.Carried.persistentRequest (line req : Nat) : Laws.Carried.Statement (.persistentRequest line req) := Laws.carried _
theorem Laws.Carried.persistentSatisfied (line req : Nat) : Laws.Carried.Statement (.persistentSatisfied line req) := Laws.carried _
theorem Laws.Carried.activationMessage (line : Nat) (dst : Activation) : Laws.Carried.Statement (.activationMessage line dst) := Laws.carried _
theorem Laws.Carried.ownerTimeout (line : Nat) : Laws.Carried.Statement (.ownerTimeout line) := Laws.carried _
theorem Laws.Carried.l2Eviction (line holder : Nat) : Laws.Carried.Statement (.l2Eviction line holder) := Laws.carried _
theorem Laws.Carried.l1CopyExpiry (core line : Nat) : Laws.Carried.Statement (.l1CopyExpiry core line) := Laws.carried _
theorem Laws.Carried.directoryEntryFree (line : Nat) : Laws.Carried.Statement (.directoryEntryFree line) := Laws.carried _
theorem Laws.Carried.detRoundCommit (launch : Nat) : Laws.Carried.Statement (.detRoundCommit launch) := Laws.carried _
theorem Laws.Carried.transferAccept (core req : Nat) : Laws.Carried.Statement (.transferAccept core req) := Laws.carried _
theorem Laws.Carried.transferComplete (core req : Nat) : Laws.Carried.Statement (.transferComplete core req) := Laws.carried _
theorem Laws.Carried.sequenceStampWrite (core req : Nat) : Laws.Carried.Statement (.sequenceStampWrite core req) := Laws.carried _
theorem Laws.Carried.fifoPushComplete (core req : Nat) : Laws.Carried.Statement (.fifoPushComplete core req) := Laws.carried _
theorem Laws.Carried.transferFault (core req : Nat) (why : XferFail) : Laws.Carried.Statement (.transferFault core req why) := Laws.carried _
theorem Laws.Carried.transferPageResume (core req : Nat) : Laws.Carried.Statement (.transferPageResume core req) := Laws.carried _
theorem Laws.Carried.promiseExpiry (core req : Nat) : Laws.Carried.Statement (.promiseExpiry core req) := Laws.carried _
theorem Laws.Carried.crewCatch (core entry : Nat) : Laws.Carried.Statement (.crewCatch core entry) := Laws.carried _
theorem Laws.Carried.catchTimeout (core entry : Nat) : Laws.Carried.Statement (.catchTimeout core entry) := Laws.carried _
theorem Laws.Carried.mmaPerform (core : Nat) : Laws.Carried.Statement (.mmaPerform core) := Laws.carried _
theorem Laws.Carried.drainArrival (core drain : Nat) : Laws.Carried.Statement (.drainArrival core drain) := Laws.carried _
theorem Laws.Carried.frameLanding (ring : Nat) : Laws.Carried.Statement (.frameLanding ring) := Laws.carried _
theorem Laws.Carried.frameTransmit (port : Nat) : Laws.Carried.Statement (.frameTransmit port) := Laws.carried _
theorem Laws.Carried.ppsOutputSecond : Laws.Carried.Statement .ppsOutputSecond := Laws.carried _
theorem Laws.Carried.commandParse (q : Nat) : Laws.Carried.Statement (.commandParse q) := Laws.carried _
theorem Laws.Carried.preloadComplete (done : CopyEnd) : Laws.Carried.Statement (.preloadComplete done) := Laws.carried _
theorem Laws.Carried.gangDispatch (launch gang : Nat) (cores : List Nat) : Laws.Carried.Statement (.gangDispatch launch gang cores) := Laws.carried _
theorem Laws.Carried.unitRetire (unit : Nat) : Laws.Carried.Statement (.unitRetire unit) := Laws.carried _
theorem Laws.Carried.launchSettle (launch : Nat) : Laws.Carried.Statement (.launchSettle launch) := Laws.carried _
theorem Laws.Carried.postCopiesDone (done : CopyEnd) : Laws.Carried.Statement (.postCopiesDone done) := Laws.carried _
theorem Laws.Carried.graphEvent (inst : Nat) : Laws.Carried.Statement (.graphEvent inst) := Laws.carried _
theorem Laws.Carried.vectorTimeExpiry (func vec : Nat) : Laws.Carried.Statement (.vectorTimeExpiry func vec) := Laws.carried _
theorem Laws.Carried.periodStart (q : Nat) : Laws.Carried.Statement (.periodStart q) := Laws.carried _
theorem Laws.Carried.budgetExhausted (q : Nat) : Laws.Carried.Statement (.budgetExhausted q) := Laws.carried _
theorem Laws.Carried.preemptionDecision (launch gang : Nat) : Laws.Carried.Statement (.preemptionDecision launch gang) := Laws.carried _
theorem Laws.Carried.drainBoundExpiry (launch gang : Nat) : Laws.Carried.Statement (.drainBoundExpiry launch gang) := Laws.carried _
theorem Laws.Carried.prectlCopy : Laws.Carried.Statement .prectlCopy := Laws.carried _
theorem Laws.Carried.trapCoalesce (unit fid : Nat) : Laws.Carried.Statement (.trapCoalesce unit fid) := Laws.carried _
theorem Laws.Carried.screenCompare (unit : Nat) : Laws.Carried.Statement (.screenCompare unit) := Laws.carried _
theorem Laws.Carried.bankingStart (job : Nat) : Laws.Carried.Statement (.bankingStart job) := Laws.carried _
theorem Laws.Carried.bankPointsReached (job : Nat) : Laws.Carried.Statement (.bankPointsReached job) := Laws.carried _
theorem Laws.Carried.imageWritten (job : Nat) : Laws.Carried.Statement (.imageWritten job) := Laws.carried _
theorem Laws.Carried.planting (job : Nat) : Laws.Carried.Statement (.planting job) := Laws.carried _
theorem Laws.Carried.unassignedOpcode (reason : Nat) : Laws.Carried.Statement (.unassignedOpcode reason) := Laws.carried _
theorem Laws.Carried.variableLatencyResult (unit fid : Nat) : Laws.Carried.Statement (.variableLatencyResult unit fid) := Laws.carried _
theorem Laws.Carried.accessPerformed (unit fid k : Nat) : Laws.Carried.Statement (.accessPerformed unit fid k) := Laws.carried _
theorem Laws.Carried.staleEpochDiscard (line msg : Nat) : Laws.Carried.Statement (.staleEpochDiscard line msg) := Laws.carried _
theorem Laws.Carried.pcieCompletion (unit fid : Nat) (status : CplStatus) (poisoned : Bool) : Laws.Carried.Statement (.pcieCompletion unit fid status poisoned) := Laws.carried _
theorem Laws.Carried.pcieCompletionTimeout (unit fid : Nat) : Laws.Carried.Statement (.pcieCompletionTimeout unit fid) := Laws.carried _
theorem Laws.Carried.hostWrite (addr : Nat) (data : List Byte) (poisoned relaxed : Bool) : Laws.Carried.Statement (.hostWrite addr data poisoned relaxed) := Laws.carried _
theorem Laws.Carried.hostRead (src : HostAt) (len : Nat) : Laws.Carried.Statement (.hostRead src len) := Laws.carried _
theorem Laws.Carried.hostAtomicop (op : HostAtomic) (eight : Bool) (addr : Nat) (operand compare : DWord) : Laws.Carried.Statement (.hostAtomicop op eight addr operand compare) := Laws.carried _
theorem Laws.Carried.patrolScrub (line : Nat) : Laws.Carried.Statement (.patrolScrub line) := Laws.carried _
theorem Laws.Carried.apertureStore (core offset size : Nat) (data : DWord) : Laws.Carried.Statement (.apertureStore core offset size data) := Laws.carried _
theorem Laws.Carried.frameReceive (port : Nat) (frame : List Byte) (fcsBad : Bool) : Laws.Carried.Statement (.frameReceive port frame fcsBad) := Laws.carried _
theorem Laws.Carried.ppsInputEdge : Laws.Carried.Statement .ppsInputEdge := Laws.carried _
theorem Laws.Carried.qkick (q size offset : Nat) (v : DWord) : Laws.Carried.Statement (.qkick q size offset v) := Laws.carried _
theorem Laws.Carried.qstatErrClear (q : Nat) (v : Word) : Laws.Carried.Statement (.qstatErrClear q v) := Laws.carried _
theorem Laws.Carried.qctl (func q : Nat) (v : Word) : Laws.Carried.Statement (.qctl func q v) := Laws.carried _
theorem Laws.Carried.qperQbudWrite (q : Nat) (bud : Bool) (v : Word) : Laws.Carried.Statement (.qperQbudWrite q bud v) := Laws.carried _
theorem Laws.Carried.qres (q : Nat) (v : Word) : Laws.Carried.Statement (.qres q v) := Laws.carried _
theorem Laws.Carried.ovcntClear (q : Nat) : Laws.Carried.Statement (.ovcntClear q) := Laws.carried _
theorem Laws.Carried.hrhead (func ring : Nat) (v : DWord) : Laws.Carried.Statement (.hrhead func ring v) := Laws.carried _
theorem Laws.Carried.ivctl (func vec : Nat) (v : Word) : Laws.Carried.Statement (.ivctl func vec v) := Laws.carried _
theorem Laws.Carried.prectl (v : Word) : Laws.Carried.Statement (.prectl v) := Laws.carried _
theorem Laws.Carried.trapRecordDisposal (core : Nat) (answer : PageAnswer) (debugger : Bool) : Laws.Carried.Statement (.trapRecordDisposal core answer debugger) := Laws.carried _
theorem Laws.Carried.scrctl (v : Word) : Laws.Carried.Statement (.scrctl v) := Laws.carried _
theorem Laws.Carried.pageCarriage (ctx page : Nat) (data : List Byte) : Laws.Carried.Statement (.pageCarriage ctx page data) := Laws.carried _
theorem Laws.Carried.moveReport (launch done : Nat) : Laws.Carried.Statement (.moveReport launch done) := Laws.carried _
theorem Laws.Carried.attestationReport : Laws.Carried.Statement .attestationReport := Laws.carried _
theorem Laws.Carried.certificateChain : Laws.Carried.Statement .certificateChain := Laws.carried _
theorem Laws.Carried.mailboxCancel : Laws.Carried.Statement .mailboxCancel := Laws.carried _
theorem Laws.Carried.mailboxMap : Laws.Carried.Statement .mailboxMap := Laws.carried _
theorem Laws.Carried.mailboxUnmap : Laws.Carried.Statement .mailboxUnmap := Laws.carried _
theorem Laws.Carried.hostWindowEntry : Laws.Carried.Statement .hostWindowEntry := Laws.carried _
theorem Laws.Carried.poolTable : Laws.Carried.Statement .poolTable := Laws.carried _
theorem Laws.Carried.memberAdd : Laws.Carried.Statement .memberAdd := Laws.carried _
theorem Laws.Carried.memberRemove : Laws.Carried.Statement .memberRemove := Laws.carried _
theorem Laws.Carried.ownerTimeOutSet : Laws.Carried.Statement .ownerTimeOutSet := Laws.carried _
theorem Laws.Carried.flowEntry : Laws.Carried.Statement .flowEntry := Laws.carried _
theorem Laws.Carried.clockSource : Laws.Carried.Statement .clockSource := Laws.carried _
theorem Laws.Carried.clockStep : Laws.Carried.Statement .clockStep := Laws.carried _
theorem Laws.Carried.portReset : Laws.Carried.Statement .portReset := Laws.carried _
theorem Laws.Carried.mailboxBank : Laws.Carried.Statement .mailboxBank := Laws.carried _
theorem Laws.Carried.mailboxPlant : Laws.Carried.Statement .mailboxPlant := Laws.carried _
theorem Laws.Carried.move : Laws.Carried.Statement .move := Laws.carried _
theorem Laws.Carried.release : Laws.Carried.Statement .release := Laws.carried _
theorem Laws.Carried.checkpoint : Laws.Carried.Statement .checkpoint := Laws.carried _
theorem Laws.Carried.readLog : Laws.Carried.Statement .readLog := Laws.carried _
theorem Laws.Carried.readCounters : Laws.Carried.Statement .readCounters := Laws.carried _
theorem Laws.Carried.pwrcap (v : Word) : Laws.Carried.Statement (.pwrcap v) := Laws.carried _
theorem Laws.Carried.registerWrite (func offset size : Nat) (v : DWord) : Laws.Carried.Statement (.registerWrite func offset size v) := Laws.carried _
theorem Laws.Carried.powerSample (watts tj : Nat) : Laws.Carried.Statement (.powerSample watts tj) := Laws.carried _
theorem Laws.Carried.thermalStop (die : Nat) : Laws.Carried.Statement (.thermalStop die) := Laws.carried _
theorem Laws.Carried.moduleReset : Laws.Carried.Statement .moduleReset := Laws.carried _
theorem Laws.Carried.firmwareMeasured (core : Nat) (images : List (List Byte)) (signed : FirmSign) (version : Nat) : Laws.Carried.Statement (.firmwareMeasured core images signed version) := Laws.carried _
theorem Laws.Carried.calibrationDone (failcode detail : Nat) : Laws.Carried.Statement (.calibrationDone failcode detail) := Laws.carried _
theorem Laws.Carried.ready (failed : Bool) : Laws.Carried.Statement (.ready failed) := Laws.carried _
theorem Laws.Carried.functionLevelReset (vf : Nat) : Laws.Carried.Statement (.functionLevelReset vf) := Laws.carried _
theorem Laws.Carried.flitReplay (link : Nat) : Laws.Carried.Statement (.flitReplay link) := Laws.carried _
theorem Laws.Carried.linkRetrain (link : Nat) (half : Bool) (news : LinkNews) : Laws.Carried.Statement (.linkRetrain link half news) := Laws.carried _
theorem Laws.Carried.portLinkChange (port : Nat) (up : Bool) : Laws.Carried.Statement (.portLinkChange port up) := Laws.carried _
theorem Laws.Carried.lineStateStoreFault (line : Nat) : Laws.Carried.Statement (.lineStateStoreFault line) := Laws.carried _
theorem Laws.Carried.storedWordError (site : StoreSite) (flip : Word) (codeFlip : Byte) : Laws.Carried.Statement (.storedWordError site flip codeFlip) := Laws.carried _
theorem Laws.Carried.debuggerAction (core : Nat) (act : DebugAct) : Laws.Carried.Statement (.debuggerAction core act) := Laws.carried _
theorem Laws.Carried.mailboxUnknownCommand (core : Nat) : Laws.Carried.Statement (.mailboxUnknownCommand core) := Laws.carried _
theorem Laws.Carried.hrctl (func ring : Nat) (v : Word) : Laws.Carried.Statement (.hrctl func ring v) := Laws.carried _
theorem Laws.Carried.linkStatusRead (link : Nat) : Laws.Carried.Statement (.linkStatusRead link) := Laws.carried _
theorem Laws.Carried.msixVectorUnmask (func vec : Nat) : Laws.Carried.Statement (.msixVectorUnmask func vec) := Laws.carried _
theorem Laws.Carried.hostConfigRequest (ask : ConfigAsk) : Laws.Carried.Statement (.hostConfigRequest ask) := Laws.carried _

end Sys2Proof
end

