-- ==== Sys2Proof/Laws/State.lean ====
section
/-! SUPPORT. What an update of the state leaves alone: one lemma for each field of each update, and what the look-ups find
after an update of what they look up. -/

namespace Sys2Proof.Machine

/-! ### A unit's update -/

@[simp] theorem State.modUnit_clk (s : State) (k : Nat) (f : Unit → Unit) : (s.modUnit k f).clk = s.clk := rfl
@[simp] theorem State.modUnit_time (s : State) (k : Nat) (f : Unit → Unit) : (s.modUnit k f).time = s.time := rfl
@[simp] theorem State.modUnit_timeRem (s : State) (k : Nat) (f : Unit → Unit) : (s.modUnit k f).timeRem = s.timeRem := rfl
@[simp] theorem State.modUnit_mem (s : State) (k : Nat) (f : Unit → Unit) : (s.modUnit k f).mem = s.mem := rfl
@[simp] theorem State.modUnit_fabric (s : State) (k : Nat) (f : Unit → Unit) : (s.modUnit k f).fabric = s.fabric := rfl
@[simp] theorem State.modUnit_gangs (s : State) (k : Nat) (f : Unit → Unit) : (s.modUnit k f).gangs = s.gangs := rfl
@[simp] theorem State.modUnit_cores (s : State) (k : Nat) (f : Unit → Unit) : (s.modUnit k f).cores = s.cores := rfl
@[simp] theorem State.modUnit_drains (s : State) (k : Nat) (f : Unit → Unit) : (s.modUnit k f).drains = s.drains := rfl
@[simp] theorem State.modUnit_wire (s : State) (k : Nat) (f : Unit → Unit) : (s.modUnit k f).wire = s.wire := rfl
@[simp] theorem State.modUnit_fe (s : State) (k : Nat) (f : Unit → Unit) : (s.modUnit k f).fe = s.fe := rfl
@[simp] theorem State.modUnit_bank (s : State) (k : Nat) (f : Unit → Unit) : (s.modUnit k f).bank = s.bank := rfl
@[simp] theorem State.modUnit_life (s : State) (k : Nat) (f : Unit → Unit) : (s.modUnit k f).life = s.life := rfl
@[simp] theorem State.modUnit_agenda (s : State) (k : Nat) (f : Unit → Unit) : (s.modUnit k f).agenda = s.agenda := rfl
@[simp] theorem State.modUnit_issuing (s : State) (k : Nat) (f : Unit → Unit) : (s.modUnit k f).issuing = s.issuing := rfl
@[simp] theorem State.modUnit_cur (s : State) (k : Nat) (f : Unit → Unit) : (s.modUnit k f).cur = s.cur := rfl
@[simp] theorem State.modUnit_ir (s : State) (k : Nat) (f : Unit → Unit) : (s.modUnit k f).ir = s.ir := rfl
@[simp] theorem State.modUnit_freeCtr (s : State) (k : Nat) (f : Unit → Unit) : (s.modUnit k f).freeCtr = s.freeCtr := rfl
@[simp] theorem State.modUnit_seqCtr (s : State) (k : Nat) (f : Unit → Unit) : (s.modUnit k f).seqCtr = s.seqCtr := rfl

/-! ### A fibre's update -/

@[simp] theorem State.modFibre_clk (s : State) (k n : Nat) (f : Fibre → Fibre) : (s.modFibre k n f).clk = s.clk := rfl
@[simp] theorem State.modFibre_time (s : State) (k n : Nat) (f : Fibre → Fibre) : (s.modFibre k n f).time = s.time := rfl
@[simp] theorem State.modFibre_timeRem (s : State) (k n : Nat) (f : Fibre → Fibre) : (s.modFibre k n f).timeRem = s.timeRem := rfl
@[simp] theorem State.modFibre_mem (s : State) (k n : Nat) (f : Fibre → Fibre) : (s.modFibre k n f).mem = s.mem := rfl
@[simp] theorem State.modFibre_fabric (s : State) (k n : Nat) (f : Fibre → Fibre) : (s.modFibre k n f).fabric = s.fabric := rfl
@[simp] theorem State.modFibre_gangs (s : State) (k n : Nat) (f : Fibre → Fibre) : (s.modFibre k n f).gangs = s.gangs := rfl
@[simp] theorem State.modFibre_cores (s : State) (k n : Nat) (f : Fibre → Fibre) : (s.modFibre k n f).cores = s.cores := rfl
@[simp] theorem State.modFibre_drains (s : State) (k n : Nat) (f : Fibre → Fibre) : (s.modFibre k n f).drains = s.drains := rfl
@[simp] theorem State.modFibre_wire (s : State) (k n : Nat) (f : Fibre → Fibre) : (s.modFibre k n f).wire = s.wire := rfl
@[simp] theorem State.modFibre_fe (s : State) (k n : Nat) (f : Fibre → Fibre) : (s.modFibre k n f).fe = s.fe := rfl
@[simp] theorem State.modFibre_bank (s : State) (k n : Nat) (f : Fibre → Fibre) : (s.modFibre k n f).bank = s.bank := rfl
@[simp] theorem State.modFibre_life (s : State) (k n : Nat) (f : Fibre → Fibre) : (s.modFibre k n f).life = s.life := rfl
@[simp] theorem State.modFibre_agenda (s : State) (k n : Nat) (f : Fibre → Fibre) : (s.modFibre k n f).agenda = s.agenda := rfl
@[simp] theorem State.modFibre_issuing (s : State) (k n : Nat) (f : Fibre → Fibre) : (s.modFibre k n f).issuing = s.issuing := rfl
@[simp] theorem State.modFibre_cur (s : State) (k n : Nat) (f : Fibre → Fibre) : (s.modFibre k n f).cur = s.cur := rfl
@[simp] theorem State.modFibre_ir (s : State) (k n : Nat) (f : Fibre → Fibre) : (s.modFibre k n f).ir = s.ir := rfl
@[simp] theorem State.modFibre_freeCtr (s : State) (k n : Nat) (f : Fibre → Fibre) : (s.modFibre k n f).freeCtr = s.freeCtr := rfl
@[simp] theorem State.modFibre_seqCtr (s : State) (k n : Nat) (f : Fibre → Fibre) : (s.modFibre k n f).seqCtr = s.seqCtr := rfl

/-! ### The current fibre's update -/

@[simp] theorem State.modCur_clk (s : State) (f : Fibre → Fibre) : (s.modCur f).clk = s.clk := rfl
@[simp] theorem State.modCur_time (s : State) (f : Fibre → Fibre) : (s.modCur f).time = s.time := rfl
@[simp] theorem State.modCur_timeRem (s : State) (f : Fibre → Fibre) : (s.modCur f).timeRem = s.timeRem := rfl
@[simp] theorem State.modCur_mem (s : State) (f : Fibre → Fibre) : (s.modCur f).mem = s.mem := rfl
@[simp] theorem State.modCur_fabric (s : State) (f : Fibre → Fibre) : (s.modCur f).fabric = s.fabric := rfl
@[simp] theorem State.modCur_gangs (s : State) (f : Fibre → Fibre) : (s.modCur f).gangs = s.gangs := rfl
@[simp] theorem State.modCur_cores (s : State) (f : Fibre → Fibre) : (s.modCur f).cores = s.cores := rfl
@[simp] theorem State.modCur_drains (s : State) (f : Fibre → Fibre) : (s.modCur f).drains = s.drains := rfl
@[simp] theorem State.modCur_wire (s : State) (f : Fibre → Fibre) : (s.modCur f).wire = s.wire := rfl
@[simp] theorem State.modCur_fe (s : State) (f : Fibre → Fibre) : (s.modCur f).fe = s.fe := rfl
@[simp] theorem State.modCur_bank (s : State) (f : Fibre → Fibre) : (s.modCur f).bank = s.bank := rfl
@[simp] theorem State.modCur_life (s : State) (f : Fibre → Fibre) : (s.modCur f).life = s.life := rfl
@[simp] theorem State.modCur_agenda (s : State) (f : Fibre → Fibre) : (s.modCur f).agenda = s.agenda := rfl
@[simp] theorem State.modCur_issuing (s : State) (f : Fibre → Fibre) : (s.modCur f).issuing = s.issuing := rfl
@[simp] theorem State.modCur_cur (s : State) (f : Fibre → Fibre) : (s.modCur f).cur = s.cur := rfl
@[simp] theorem State.modCur_ir (s : State) (f : Fibre → Fibre) : (s.modCur f).ir = s.ir := rfl
@[simp] theorem State.modCur_freeCtr (s : State) (f : Fibre → Fibre) : (s.modCur f).freeCtr = s.freeCtr := rfl
@[simp] theorem State.modCur_seqCtr (s : State) (f : Fibre → Fibre) : (s.modCur f).seqCtr = s.seqCtr := rfl

/-! ### A template binding's update -/

@[simp] theorem State.modTpl_clk (s : State) (k n : Nat) (f : TplState → TplState) : (s.modTpl k n f).clk = s.clk := rfl
@[simp] theorem State.modTpl_time (s : State) (k n : Nat) (f : TplState → TplState) : (s.modTpl k n f).time = s.time := rfl
@[simp] theorem State.modTpl_timeRem (s : State) (k n : Nat) (f : TplState → TplState) : (s.modTpl k n f).timeRem = s.timeRem := rfl
@[simp] theorem State.modTpl_mem (s : State) (k n : Nat) (f : TplState → TplState) : (s.modTpl k n f).mem = s.mem := rfl
@[simp] theorem State.modTpl_fabric (s : State) (k n : Nat) (f : TplState → TplState) : (s.modTpl k n f).fabric = s.fabric := rfl
@[simp] theorem State.modTpl_gangs (s : State) (k n : Nat) (f : TplState → TplState) : (s.modTpl k n f).gangs = s.gangs := rfl
@[simp] theorem State.modTpl_cores (s : State) (k n : Nat) (f : TplState → TplState) : (s.modTpl k n f).cores = s.cores := rfl
@[simp] theorem State.modTpl_drains (s : State) (k n : Nat) (f : TplState → TplState) : (s.modTpl k n f).drains = s.drains := rfl
@[simp] theorem State.modTpl_wire (s : State) (k n : Nat) (f : TplState → TplState) : (s.modTpl k n f).wire = s.wire := rfl
@[simp] theorem State.modTpl_fe (s : State) (k n : Nat) (f : TplState → TplState) : (s.modTpl k n f).fe = s.fe := rfl
@[simp] theorem State.modTpl_bank (s : State) (k n : Nat) (f : TplState → TplState) : (s.modTpl k n f).bank = s.bank := rfl
@[simp] theorem State.modTpl_life (s : State) (k n : Nat) (f : TplState → TplState) : (s.modTpl k n f).life = s.life := rfl
@[simp] theorem State.modTpl_agenda (s : State) (k n : Nat) (f : TplState → TplState) : (s.modTpl k n f).agenda = s.agenda := rfl
@[simp] theorem State.modTpl_issuing (s : State) (k n : Nat) (f : TplState → TplState) : (s.modTpl k n f).issuing = s.issuing := rfl
@[simp] theorem State.modTpl_cur (s : State) (k n : Nat) (f : TplState → TplState) : (s.modTpl k n f).cur = s.cur := rfl
@[simp] theorem State.modTpl_ir (s : State) (k n : Nat) (f : TplState → TplState) : (s.modTpl k n f).ir = s.ir := rfl
@[simp] theorem State.modTpl_freeCtr (s : State) (k n : Nat) (f : TplState → TplState) : (s.modTpl k n f).freeCtr = s.freeCtr := rfl
@[simp] theorem State.modTpl_seqCtr (s : State) (k n : Nat) (f : TplState → TplState) : (s.modTpl k n f).seqCtr = s.seqCtr := rfl

/-! ### A waking -/

@[simp] theorem State.wakeWhere_clk (s : State) (p : Unit → Wait → Bool) : (s.wakeWhere p).clk = s.clk := rfl
@[simp] theorem State.wakeWhere_time (s : State) (p : Unit → Wait → Bool) : (s.wakeWhere p).time = s.time := rfl
@[simp] theorem State.wakeWhere_timeRem (s : State) (p : Unit → Wait → Bool) : (s.wakeWhere p).timeRem = s.timeRem := rfl
@[simp] theorem State.wakeWhere_mem (s : State) (p : Unit → Wait → Bool) : (s.wakeWhere p).mem = s.mem := rfl
@[simp] theorem State.wakeWhere_fabric (s : State) (p : Unit → Wait → Bool) : (s.wakeWhere p).fabric = s.fabric := rfl
@[simp] theorem State.wakeWhere_gangs (s : State) (p : Unit → Wait → Bool) : (s.wakeWhere p).gangs = s.gangs := rfl
@[simp] theorem State.wakeWhere_cores (s : State) (p : Unit → Wait → Bool) : (s.wakeWhere p).cores = s.cores := rfl
@[simp] theorem State.wakeWhere_drains (s : State) (p : Unit → Wait → Bool) : (s.wakeWhere p).drains = s.drains := rfl
@[simp] theorem State.wakeWhere_wire (s : State) (p : Unit → Wait → Bool) : (s.wakeWhere p).wire = s.wire := rfl
@[simp] theorem State.wakeWhere_fe (s : State) (p : Unit → Wait → Bool) : (s.wakeWhere p).fe = s.fe := rfl
@[simp] theorem State.wakeWhere_bank (s : State) (p : Unit → Wait → Bool) : (s.wakeWhere p).bank = s.bank := rfl
@[simp] theorem State.wakeWhere_life (s : State) (p : Unit → Wait → Bool) : (s.wakeWhere p).life = s.life := rfl
@[simp] theorem State.wakeWhere_agenda (s : State) (p : Unit → Wait → Bool) : (s.wakeWhere p).agenda = s.agenda := rfl
@[simp] theorem State.wakeWhere_issuing (s : State) (p : Unit → Wait → Bool) : (s.wakeWhere p).issuing = s.issuing := rfl
@[simp] theorem State.wakeWhere_cur (s : State) (p : Unit → Wait → Bool) : (s.wakeWhere p).cur = s.cur := rfl
@[simp] theorem State.wakeWhere_ir (s : State) (p : Unit → Wait → Bool) : (s.wakeWhere p).ir = s.ir := rfl
@[simp] theorem State.wakeWhere_freeCtr (s : State) (p : Unit → Wait → Bool) : (s.wakeWhere p).freeCtr = s.freeCtr := rfl
@[simp] theorem State.wakeWhere_seqCtr (s : State) (p : Unit → Wait → Bool) : (s.wakeWhere p).seqCtr = s.seqCtr := rfl

/-! ### A parking -/

@[simp] theorem State.park_clk (s : State) (g : Fibre) (w : Wait) : (s.park g w).clk = s.clk := rfl
@[simp] theorem State.park_time (s : State) (g : Fibre) (w : Wait) : (s.park g w).time = s.time := rfl
@[simp] theorem State.park_timeRem (s : State) (g : Fibre) (w : Wait) : (s.park g w).timeRem = s.timeRem := rfl
@[simp] theorem State.park_mem (s : State) (g : Fibre) (w : Wait) : (s.park g w).mem = s.mem := rfl
@[simp] theorem State.park_fabric (s : State) (g : Fibre) (w : Wait) : (s.park g w).fabric = s.fabric := rfl
@[simp] theorem State.park_gangs (s : State) (g : Fibre) (w : Wait) : (s.park g w).gangs = s.gangs := rfl
@[simp] theorem State.park_cores (s : State) (g : Fibre) (w : Wait) : (s.park g w).cores = s.cores := rfl
@[simp] theorem State.park_drains (s : State) (g : Fibre) (w : Wait) : (s.park g w).drains = s.drains := rfl
@[simp] theorem State.park_wire (s : State) (g : Fibre) (w : Wait) : (s.park g w).wire = s.wire := rfl
@[simp] theorem State.park_fe (s : State) (g : Fibre) (w : Wait) : (s.park g w).fe = s.fe := rfl
@[simp] theorem State.park_bank (s : State) (g : Fibre) (w : Wait) : (s.park g w).bank = s.bank := rfl
@[simp] theorem State.park_life (s : State) (g : Fibre) (w : Wait) : (s.park g w).life = s.life := rfl
@[simp] theorem State.park_agenda (s : State) (g : Fibre) (w : Wait) : (s.park g w).agenda = s.agenda := rfl
@[simp] theorem State.park_issuing (s : State) (g : Fibre) (w : Wait) : (s.park g w).issuing = s.issuing := rfl
@[simp] theorem State.park_cur (s : State) (g : Fibre) (w : Wait) : (s.park g w).cur = s.cur := rfl
@[simp] theorem State.park_ir (s : State) (g : Fibre) (w : Wait) : (s.park g w).ir = s.ir := rfl
@[simp] theorem State.park_freeCtr (s : State) (g : Fibre) (w : Wait) : (s.park g w).freeCtr = s.freeCtr := rfl
@[simp] theorem State.park_seqCtr (s : State) (g : Fibre) (w : Wait) : (s.park g w).seqCtr = s.seqCtr := rfl

/-! ### A gang's update -/

@[simp] theorem State.modGang_clk (s : State) (l i : Nat) (f : Gang → Gang) : (s.modGang l i f).clk = s.clk := rfl
@[simp] theorem State.modGang_time (s : State) (l i : Nat) (f : Gang → Gang) : (s.modGang l i f).time = s.time := rfl
@[simp] theorem State.modGang_timeRem (s : State) (l i : Nat) (f : Gang → Gang) : (s.modGang l i f).timeRem = s.timeRem := rfl
@[simp] theorem State.modGang_mem (s : State) (l i : Nat) (f : Gang → Gang) : (s.modGang l i f).mem = s.mem := rfl
@[simp] theorem State.modGang_fabric (s : State) (l i : Nat) (f : Gang → Gang) : (s.modGang l i f).fabric = s.fabric := rfl
@[simp] theorem State.modGang_units (s : State) (l i : Nat) (f : Gang → Gang) : (s.modGang l i f).units = s.units := rfl
@[simp] theorem State.modGang_cores (s : State) (l i : Nat) (f : Gang → Gang) : (s.modGang l i f).cores = s.cores := rfl
@[simp] theorem State.modGang_drains (s : State) (l i : Nat) (f : Gang → Gang) : (s.modGang l i f).drains = s.drains := rfl
@[simp] theorem State.modGang_wire (s : State) (l i : Nat) (f : Gang → Gang) : (s.modGang l i f).wire = s.wire := rfl
@[simp] theorem State.modGang_fe (s : State) (l i : Nat) (f : Gang → Gang) : (s.modGang l i f).fe = s.fe := rfl
@[simp] theorem State.modGang_bank (s : State) (l i : Nat) (f : Gang → Gang) : (s.modGang l i f).bank = s.bank := rfl
@[simp] theorem State.modGang_life (s : State) (l i : Nat) (f : Gang → Gang) : (s.modGang l i f).life = s.life := rfl
@[simp] theorem State.modGang_agenda (s : State) (l i : Nat) (f : Gang → Gang) : (s.modGang l i f).agenda = s.agenda := rfl
@[simp] theorem State.modGang_issuing (s : State) (l i : Nat) (f : Gang → Gang) : (s.modGang l i f).issuing = s.issuing := rfl
@[simp] theorem State.modGang_cur (s : State) (l i : Nat) (f : Gang → Gang) : (s.modGang l i f).cur = s.cur := rfl
@[simp] theorem State.modGang_ir (s : State) (l i : Nat) (f : Gang → Gang) : (s.modGang l i f).ir = s.ir := rfl
@[simp] theorem State.modGang_freeCtr (s : State) (l i : Nat) (f : Gang → Gang) : (s.modGang l i f).freeCtr = s.freeCtr := rfl
@[simp] theorem State.modGang_seqCtr (s : State) (l i : Nat) (f : Gang → Gang) : (s.modGang l i f).seqCtr = s.seqCtr := rfl

/-! ### A core's update -/

@[simp] theorem State.modCore_clk (s : State) (n : Nat) (f : Core → Core) : (s.modCore n f).clk = s.clk := rfl
@[simp] theorem State.modCore_time (s : State) (n : Nat) (f : Core → Core) : (s.modCore n f).time = s.time := rfl
@[simp] theorem State.modCore_timeRem (s : State) (n : Nat) (f : Core → Core) : (s.modCore n f).timeRem = s.timeRem := rfl
@[simp] theorem State.modCore_mem (s : State) (n : Nat) (f : Core → Core) : (s.modCore n f).mem = s.mem := rfl
@[simp] theorem State.modCore_fabric (s : State) (n : Nat) (f : Core → Core) : (s.modCore n f).fabric = s.fabric := rfl
@[simp] theorem State.modCore_units (s : State) (n : Nat) (f : Core → Core) : (s.modCore n f).units = s.units := rfl
@[simp] theorem State.modCore_gangs (s : State) (n : Nat) (f : Core → Core) : (s.modCore n f).gangs = s.gangs := rfl
@[simp] theorem State.modCore_drains (s : State) (n : Nat) (f : Core → Core) : (s.modCore n f).drains = s.drains := rfl
@[simp] theorem State.modCore_wire (s : State) (n : Nat) (f : Core → Core) : (s.modCore n f).wire = s.wire := rfl
@[simp] theorem State.modCore_fe (s : State) (n : Nat) (f : Core → Core) : (s.modCore n f).fe = s.fe := rfl
@[simp] theorem State.modCore_bank (s : State) (n : Nat) (f : Core → Core) : (s.modCore n f).bank = s.bank := rfl
@[simp] theorem State.modCore_life (s : State) (n : Nat) (f : Core → Core) : (s.modCore n f).life = s.life := rfl
@[simp] theorem State.modCore_agenda (s : State) (n : Nat) (f : Core → Core) : (s.modCore n f).agenda = s.agenda := rfl
@[simp] theorem State.modCore_issuing (s : State) (n : Nat) (f : Core → Core) : (s.modCore n f).issuing = s.issuing := rfl
@[simp] theorem State.modCore_cur (s : State) (n : Nat) (f : Core → Core) : (s.modCore n f).cur = s.cur := rfl
@[simp] theorem State.modCore_ir (s : State) (n : Nat) (f : Core → Core) : (s.modCore n f).ir = s.ir := rfl
@[simp] theorem State.modCore_freeCtr (s : State) (n : Nat) (f : Core → Core) : (s.modCore n f).freeCtr = s.freeCtr := rfl
@[simp] theorem State.modCore_seqCtr (s : State) (n : Nat) (f : Core → Core) : (s.modCore n f).seqCtr = s.seqCtr := rfl

/-! ### A matrix unit's update -/

@[simp] theorem State.modMatrix_clk (s : State) (n : Nat) (f : Matrix → Matrix) : (s.modMatrix n f).clk = s.clk := rfl
@[simp] theorem State.modMatrix_time (s : State) (n : Nat) (f : Matrix → Matrix) : (s.modMatrix n f).time = s.time := rfl
@[simp] theorem State.modMatrix_timeRem (s : State) (n : Nat) (f : Matrix → Matrix) : (s.modMatrix n f).timeRem = s.timeRem := rfl
@[simp] theorem State.modMatrix_mem (s : State) (n : Nat) (f : Matrix → Matrix) : (s.modMatrix n f).mem = s.mem := rfl
@[simp] theorem State.modMatrix_fabric (s : State) (n : Nat) (f : Matrix → Matrix) : (s.modMatrix n f).fabric = s.fabric := rfl
@[simp] theorem State.modMatrix_units (s : State) (n : Nat) (f : Matrix → Matrix) : (s.modMatrix n f).units = s.units := rfl
@[simp] theorem State.modMatrix_gangs (s : State) (n : Nat) (f : Matrix → Matrix) : (s.modMatrix n f).gangs = s.gangs := rfl
@[simp] theorem State.modMatrix_drains (s : State) (n : Nat) (f : Matrix → Matrix) : (s.modMatrix n f).drains = s.drains := rfl
@[simp] theorem State.modMatrix_wire (s : State) (n : Nat) (f : Matrix → Matrix) : (s.modMatrix n f).wire = s.wire := rfl
@[simp] theorem State.modMatrix_fe (s : State) (n : Nat) (f : Matrix → Matrix) : (s.modMatrix n f).fe = s.fe := rfl
@[simp] theorem State.modMatrix_bank (s : State) (n : Nat) (f : Matrix → Matrix) : (s.modMatrix n f).bank = s.bank := rfl
@[simp] theorem State.modMatrix_life (s : State) (n : Nat) (f : Matrix → Matrix) : (s.modMatrix n f).life = s.life := rfl
@[simp] theorem State.modMatrix_agenda (s : State) (n : Nat) (f : Matrix → Matrix) : (s.modMatrix n f).agenda = s.agenda := rfl
@[simp] theorem State.modMatrix_issuing (s : State) (n : Nat) (f : Matrix → Matrix) : (s.modMatrix n f).issuing = s.issuing := rfl
@[simp] theorem State.modMatrix_cur (s : State) (n : Nat) (f : Matrix → Matrix) : (s.modMatrix n f).cur = s.cur := rfl
@[simp] theorem State.modMatrix_ir (s : State) (n : Nat) (f : Matrix → Matrix) : (s.modMatrix n f).ir = s.ir := rfl
@[simp] theorem State.modMatrix_freeCtr (s : State) (n : Nat) (f : Matrix → Matrix) : (s.modMatrix n f).freeCtr = s.freeCtr := rfl
@[simp] theorem State.modMatrix_seqCtr (s : State) (n : Nat) (f : Matrix → Matrix) : (s.modMatrix n f).seqCtr = s.seqCtr := rfl

/-! ### A transfer request's update -/

@[simp] theorem State.modXReq_clk (s : State) (n i : Nat) (f : XReq → XReq) : (s.modXReq n i f).clk = s.clk := rfl
@[simp] theorem State.modXReq_time (s : State) (n i : Nat) (f : XReq → XReq) : (s.modXReq n i f).time = s.time := rfl
@[simp] theorem State.modXReq_timeRem (s : State) (n i : Nat) (f : XReq → XReq) : (s.modXReq n i f).timeRem = s.timeRem := rfl
@[simp] theorem State.modXReq_mem (s : State) (n i : Nat) (f : XReq → XReq) : (s.modXReq n i f).mem = s.mem := rfl
@[simp] theorem State.modXReq_fabric (s : State) (n i : Nat) (f : XReq → XReq) : (s.modXReq n i f).fabric = s.fabric := rfl
@[simp] theorem State.modXReq_units (s : State) (n i : Nat) (f : XReq → XReq) : (s.modXReq n i f).units = s.units := rfl
@[simp] theorem State.modXReq_gangs (s : State) (n i : Nat) (f : XReq → XReq) : (s.modXReq n i f).gangs = s.gangs := rfl
@[simp] theorem State.modXReq_drains (s : State) (n i : Nat) (f : XReq → XReq) : (s.modXReq n i f).drains = s.drains := rfl
@[simp] theorem State.modXReq_wire (s : State) (n i : Nat) (f : XReq → XReq) : (s.modXReq n i f).wire = s.wire := rfl
@[simp] theorem State.modXReq_fe (s : State) (n i : Nat) (f : XReq → XReq) : (s.modXReq n i f).fe = s.fe := rfl
@[simp] theorem State.modXReq_bank (s : State) (n i : Nat) (f : XReq → XReq) : (s.modXReq n i f).bank = s.bank := rfl
@[simp] theorem State.modXReq_life (s : State) (n i : Nat) (f : XReq → XReq) : (s.modXReq n i f).life = s.life := rfl
@[simp] theorem State.modXReq_agenda (s : State) (n i : Nat) (f : XReq → XReq) : (s.modXReq n i f).agenda = s.agenda := rfl
@[simp] theorem State.modXReq_issuing (s : State) (n i : Nat) (f : XReq → XReq) : (s.modXReq n i f).issuing = s.issuing := rfl
@[simp] theorem State.modXReq_cur (s : State) (n i : Nat) (f : XReq → XReq) : (s.modXReq n i f).cur = s.cur := rfl
@[simp] theorem State.modXReq_ir (s : State) (n i : Nat) (f : XReq → XReq) : (s.modXReq n i f).ir = s.ir := rfl
@[simp] theorem State.modXReq_freeCtr (s : State) (n i : Nat) (f : XReq → XReq) : (s.modXReq n i f).freeCtr = s.freeCtr := rfl
@[simp] theorem State.modXReq_seqCtr (s : State) (n i : Nat) (f : XReq → XReq) : (s.modXReq n i f).seqCtr = s.seqCtr := rfl

/-! ### A launch's update -/

@[simp] theorem State.modLaunch_clk (s : State) (k : Nat) (f : Launch → Launch) : (s.modLaunch k f).clk = s.clk := rfl
@[simp] theorem State.modLaunch_time (s : State) (k : Nat) (f : Launch → Launch) : (s.modLaunch k f).time = s.time := rfl
@[simp] theorem State.modLaunch_timeRem (s : State) (k : Nat) (f : Launch → Launch) : (s.modLaunch k f).timeRem = s.timeRem := rfl
@[simp] theorem State.modLaunch_mem (s : State) (k : Nat) (f : Launch → Launch) : (s.modLaunch k f).mem = s.mem := rfl
@[simp] theorem State.modLaunch_fabric (s : State) (k : Nat) (f : Launch → Launch) : (s.modLaunch k f).fabric = s.fabric := rfl
@[simp] theorem State.modLaunch_units (s : State) (k : Nat) (f : Launch → Launch) : (s.modLaunch k f).units = s.units := rfl
@[simp] theorem State.modLaunch_gangs (s : State) (k : Nat) (f : Launch → Launch) : (s.modLaunch k f).gangs = s.gangs := rfl
@[simp] theorem State.modLaunch_cores (s : State) (k : Nat) (f : Launch → Launch) : (s.modLaunch k f).cores = s.cores := rfl
@[simp] theorem State.modLaunch_drains (s : State) (k : Nat) (f : Launch → Launch) : (s.modLaunch k f).drains = s.drains := rfl
@[simp] theorem State.modLaunch_wire (s : State) (k : Nat) (f : Launch → Launch) : (s.modLaunch k f).wire = s.wire := rfl
@[simp] theorem State.modLaunch_bank (s : State) (k : Nat) (f : Launch → Launch) : (s.modLaunch k f).bank = s.bank := rfl
@[simp] theorem State.modLaunch_life (s : State) (k : Nat) (f : Launch → Launch) : (s.modLaunch k f).life = s.life := rfl
@[simp] theorem State.modLaunch_agenda (s : State) (k : Nat) (f : Launch → Launch) : (s.modLaunch k f).agenda = s.agenda := rfl
@[simp] theorem State.modLaunch_issuing (s : State) (k : Nat) (f : Launch → Launch) : (s.modLaunch k f).issuing = s.issuing := rfl
@[simp] theorem State.modLaunch_cur (s : State) (k : Nat) (f : Launch → Launch) : (s.modLaunch k f).cur = s.cur := rfl
@[simp] theorem State.modLaunch_ir (s : State) (k : Nat) (f : Launch → Launch) : (s.modLaunch k f).ir = s.ir := rfl
@[simp] theorem State.modLaunch_freeCtr (s : State) (k : Nat) (f : Launch → Launch) : (s.modLaunch k f).freeCtr = s.freeCtr := rfl
@[simp] theorem State.modLaunch_seqCtr (s : State) (k : Nat) (f : Launch → Launch) : (s.modLaunch k f).seqCtr = s.seqCtr := rfl

/-! ### The front end's update -/

@[simp] theorem State.modFe_clk (s : State) (f : FrontEnd → FrontEnd) : (s.modFe f).clk = s.clk := rfl
@[simp] theorem State.modFe_time (s : State) (f : FrontEnd → FrontEnd) : (s.modFe f).time = s.time := rfl
@[simp] theorem State.modFe_timeRem (s : State) (f : FrontEnd → FrontEnd) : (s.modFe f).timeRem = s.timeRem := rfl
@[simp] theorem State.modFe_mem (s : State) (f : FrontEnd → FrontEnd) : (s.modFe f).mem = s.mem := rfl
@[simp] theorem State.modFe_fabric (s : State) (f : FrontEnd → FrontEnd) : (s.modFe f).fabric = s.fabric := rfl
@[simp] theorem State.modFe_units (s : State) (f : FrontEnd → FrontEnd) : (s.modFe f).units = s.units := rfl
@[simp] theorem State.modFe_gangs (s : State) (f : FrontEnd → FrontEnd) : (s.modFe f).gangs = s.gangs := rfl
@[simp] theorem State.modFe_cores (s : State) (f : FrontEnd → FrontEnd) : (s.modFe f).cores = s.cores := rfl
@[simp] theorem State.modFe_drains (s : State) (f : FrontEnd → FrontEnd) : (s.modFe f).drains = s.drains := rfl
@[simp] theorem State.modFe_wire (s : State) (f : FrontEnd → FrontEnd) : (s.modFe f).wire = s.wire := rfl
@[simp] theorem State.modFe_bank (s : State) (f : FrontEnd → FrontEnd) : (s.modFe f).bank = s.bank := rfl
@[simp] theorem State.modFe_life (s : State) (f : FrontEnd → FrontEnd) : (s.modFe f).life = s.life := rfl
@[simp] theorem State.modFe_agenda (s : State) (f : FrontEnd → FrontEnd) : (s.modFe f).agenda = s.agenda := rfl
@[simp] theorem State.modFe_issuing (s : State) (f : FrontEnd → FrontEnd) : (s.modFe f).issuing = s.issuing := rfl
@[simp] theorem State.modFe_cur (s : State) (f : FrontEnd → FrontEnd) : (s.modFe f).cur = s.cur := rfl
@[simp] theorem State.modFe_ir (s : State) (f : FrontEnd → FrontEnd) : (s.modFe f).ir = s.ir := rfl
@[simp] theorem State.modFe_freeCtr (s : State) (f : FrontEnd → FrontEnd) : (s.modFe f).freeCtr = s.freeCtr := rfl
@[simp] theorem State.modFe_seqCtr (s : State) (f : FrontEnd → FrontEnd) : (s.modFe f).seqCtr = s.seqCtr := rfl

/-! ### A queue's update -/

@[simp] theorem State.modQueue_clk (s : State) (q : Nat) (f : Queue → Queue) : (s.modQueue q f).clk = s.clk := rfl
@[simp] theorem State.modQueue_time (s : State) (q : Nat) (f : Queue → Queue) : (s.modQueue q f).time = s.time := rfl
@[simp] theorem State.modQueue_timeRem (s : State) (q : Nat) (f : Queue → Queue) : (s.modQueue q f).timeRem = s.timeRem := rfl
@[simp] theorem State.modQueue_mem (s : State) (q : Nat) (f : Queue → Queue) : (s.modQueue q f).mem = s.mem := rfl
@[simp] theorem State.modQueue_fabric (s : State) (q : Nat) (f : Queue → Queue) : (s.modQueue q f).fabric = s.fabric := rfl
@[simp] theorem State.modQueue_units (s : State) (q : Nat) (f : Queue → Queue) : (s.modQueue q f).units = s.units := rfl
@[simp] theorem State.modQueue_gangs (s : State) (q : Nat) (f : Queue → Queue) : (s.modQueue q f).gangs = s.gangs := rfl
@[simp] theorem State.modQueue_cores (s : State) (q : Nat) (f : Queue → Queue) : (s.modQueue q f).cores = s.cores := rfl
@[simp] theorem State.modQueue_drains (s : State) (q : Nat) (f : Queue → Queue) : (s.modQueue q f).drains = s.drains := rfl
@[simp] theorem State.modQueue_wire (s : State) (q : Nat) (f : Queue → Queue) : (s.modQueue q f).wire = s.wire := rfl
@[simp] theorem State.modQueue_bank (s : State) (q : Nat) (f : Queue → Queue) : (s.modQueue q f).bank = s.bank := rfl
@[simp] theorem State.modQueue_life (s : State) (q : Nat) (f : Queue → Queue) : (s.modQueue q f).life = s.life := rfl
@[simp] theorem State.modQueue_agenda (s : State) (q : Nat) (f : Queue → Queue) : (s.modQueue q f).agenda = s.agenda := rfl
@[simp] theorem State.modQueue_issuing (s : State) (q : Nat) (f : Queue → Queue) : (s.modQueue q f).issuing = s.issuing := rfl
@[simp] theorem State.modQueue_cur (s : State) (q : Nat) (f : Queue → Queue) : (s.modQueue q f).cur = s.cur := rfl
@[simp] theorem State.modQueue_ir (s : State) (q : Nat) (f : Queue → Queue) : (s.modQueue q f).ir = s.ir := rfl
@[simp] theorem State.modQueue_freeCtr (s : State) (q : Nat) (f : Queue → Queue) : (s.modQueue q f).freeCtr = s.freeCtr := rfl
@[simp] theorem State.modQueue_seqCtr (s : State) (q : Nat) (f : Queue → Queue) : (s.modQueue q f).seqCtr = s.seqCtr := rfl

/-! ### A graph's update -/

@[simp] theorem State.modGraph_clk (s : State) (g : Nat) (f : Graph → Graph) : (s.modGraph g f).clk = s.clk := rfl
@[simp] theorem State.modGraph_time (s : State) (g : Nat) (f : Graph → Graph) : (s.modGraph g f).time = s.time := rfl
@[simp] theorem State.modGraph_timeRem (s : State) (g : Nat) (f : Graph → Graph) : (s.modGraph g f).timeRem = s.timeRem := rfl
@[simp] theorem State.modGraph_mem (s : State) (g : Nat) (f : Graph → Graph) : (s.modGraph g f).mem = s.mem := rfl
@[simp] theorem State.modGraph_fabric (s : State) (g : Nat) (f : Graph → Graph) : (s.modGraph g f).fabric = s.fabric := rfl
@[simp] theorem State.modGraph_units (s : State) (g : Nat) (f : Graph → Graph) : (s.modGraph g f).units = s.units := rfl
@[simp] theorem State.modGraph_gangs (s : State) (g : Nat) (f : Graph → Graph) : (s.modGraph g f).gangs = s.gangs := rfl
@[simp] theorem State.modGraph_cores (s : State) (g : Nat) (f : Graph → Graph) : (s.modGraph g f).cores = s.cores := rfl
@[simp] theorem State.modGraph_drains (s : State) (g : Nat) (f : Graph → Graph) : (s.modGraph g f).drains = s.drains := rfl
@[simp] theorem State.modGraph_wire (s : State) (g : Nat) (f : Graph → Graph) : (s.modGraph g f).wire = s.wire := rfl
@[simp] theorem State.modGraph_bank (s : State) (g : Nat) (f : Graph → Graph) : (s.modGraph g f).bank = s.bank := rfl
@[simp] theorem State.modGraph_life (s : State) (g : Nat) (f : Graph → Graph) : (s.modGraph g f).life = s.life := rfl
@[simp] theorem State.modGraph_agenda (s : State) (g : Nat) (f : Graph → Graph) : (s.modGraph g f).agenda = s.agenda := rfl
@[simp] theorem State.modGraph_issuing (s : State) (g : Nat) (f : Graph → Graph) : (s.modGraph g f).issuing = s.issuing := rfl
@[simp] theorem State.modGraph_cur (s : State) (g : Nat) (f : Graph → Graph) : (s.modGraph g f).cur = s.cur := rfl
@[simp] theorem State.modGraph_ir (s : State) (g : Nat) (f : Graph → Graph) : (s.modGraph g f).ir = s.ir := rfl
@[simp] theorem State.modGraph_freeCtr (s : State) (g : Nat) (f : Graph → Graph) : (s.modGraph g f).freeCtr = s.freeCtr := rfl
@[simp] theorem State.modGraph_seqCtr (s : State) (g : Nat) (f : Graph → Graph) : (s.modGraph g f).seqCtr = s.seqCtr := rfl

/-! ### An interrupt vector's update -/

@[simp] theorem State.modVec_clk (s : State) (n k : Nat) (f : Vec → Vec) : (s.modVec n k f).clk = s.clk := rfl
@[simp] theorem State.modVec_time (s : State) (n k : Nat) (f : Vec → Vec) : (s.modVec n k f).time = s.time := rfl
@[simp] theorem State.modVec_timeRem (s : State) (n k : Nat) (f : Vec → Vec) : (s.modVec n k f).timeRem = s.timeRem := rfl
@[simp] theorem State.modVec_mem (s : State) (n k : Nat) (f : Vec → Vec) : (s.modVec n k f).mem = s.mem := rfl
@[simp] theorem State.modVec_fabric (s : State) (n k : Nat) (f : Vec → Vec) : (s.modVec n k f).fabric = s.fabric := rfl
@[simp] theorem State.modVec_units (s : State) (n k : Nat) (f : Vec → Vec) : (s.modVec n k f).units = s.units := rfl
@[simp] theorem State.modVec_gangs (s : State) (n k : Nat) (f : Vec → Vec) : (s.modVec n k f).gangs = s.gangs := rfl
@[simp] theorem State.modVec_cores (s : State) (n k : Nat) (f : Vec → Vec) : (s.modVec n k f).cores = s.cores := rfl
@[simp] theorem State.modVec_drains (s : State) (n k : Nat) (f : Vec → Vec) : (s.modVec n k f).drains = s.drains := rfl
@[simp] theorem State.modVec_wire (s : State) (n k : Nat) (f : Vec → Vec) : (s.modVec n k f).wire = s.wire := rfl
@[simp] theorem State.modVec_bank (s : State) (n k : Nat) (f : Vec → Vec) : (s.modVec n k f).bank = s.bank := rfl
@[simp] theorem State.modVec_life (s : State) (n k : Nat) (f : Vec → Vec) : (s.modVec n k f).life = s.life := rfl
@[simp] theorem State.modVec_agenda (s : State) (n k : Nat) (f : Vec → Vec) : (s.modVec n k f).agenda = s.agenda := rfl
@[simp] theorem State.modVec_issuing (s : State) (n k : Nat) (f : Vec → Vec) : (s.modVec n k f).issuing = s.issuing := rfl
@[simp] theorem State.modVec_cur (s : State) (n k : Nat) (f : Vec → Vec) : (s.modVec n k f).cur = s.cur := rfl
@[simp] theorem State.modVec_ir (s : State) (n k : Nat) (f : Vec → Vec) : (s.modVec n k f).ir = s.ir := rfl
@[simp] theorem State.modVec_freeCtr (s : State) (n k : Nat) (f : Vec → Vec) : (s.modVec n k f).freeCtr = s.freeCtr := rfl
@[simp] theorem State.modVec_seqCtr (s : State) (n k : Nat) (f : Vec → Vec) : (s.modVec n k f).seqCtr = s.seqCtr := rfl

/-! ### A host ring's update -/

@[simp] theorem State.modHostRing_clk (s : State) (n h : Nat) (f : HostRing → HostRing) : (s.modHostRing n h f).clk = s.clk := rfl
@[simp] theorem State.modHostRing_time (s : State) (n h : Nat) (f : HostRing → HostRing) : (s.modHostRing n h f).time = s.time := rfl
@[simp] theorem State.modHostRing_timeRem (s : State) (n h : Nat) (f : HostRing → HostRing) : (s.modHostRing n h f).timeRem = s.timeRem := rfl
@[simp] theorem State.modHostRing_mem (s : State) (n h : Nat) (f : HostRing → HostRing) : (s.modHostRing n h f).mem = s.mem := rfl
@[simp] theorem State.modHostRing_fabric (s : State) (n h : Nat) (f : HostRing → HostRing) : (s.modHostRing n h f).fabric = s.fabric := rfl
@[simp] theorem State.modHostRing_units (s : State) (n h : Nat) (f : HostRing → HostRing) : (s.modHostRing n h f).units = s.units := rfl
@[simp] theorem State.modHostRing_gangs (s : State) (n h : Nat) (f : HostRing → HostRing) : (s.modHostRing n h f).gangs = s.gangs := rfl
@[simp] theorem State.modHostRing_cores (s : State) (n h : Nat) (f : HostRing → HostRing) : (s.modHostRing n h f).cores = s.cores := rfl
@[simp] theorem State.modHostRing_drains (s : State) (n h : Nat) (f : HostRing → HostRing) : (s.modHostRing n h f).drains = s.drains := rfl
@[simp] theorem State.modHostRing_wire (s : State) (n h : Nat) (f : HostRing → HostRing) : (s.modHostRing n h f).wire = s.wire := rfl
@[simp] theorem State.modHostRing_bank (s : State) (n h : Nat) (f : HostRing → HostRing) : (s.modHostRing n h f).bank = s.bank := rfl
@[simp] theorem State.modHostRing_life (s : State) (n h : Nat) (f : HostRing → HostRing) : (s.modHostRing n h f).life = s.life := rfl
@[simp] theorem State.modHostRing_agenda (s : State) (n h : Nat) (f : HostRing → HostRing) : (s.modHostRing n h f).agenda = s.agenda := rfl
@[simp] theorem State.modHostRing_issuing (s : State) (n h : Nat) (f : HostRing → HostRing) : (s.modHostRing n h f).issuing = s.issuing := rfl
@[simp] theorem State.modHostRing_cur (s : State) (n h : Nat) (f : HostRing → HostRing) : (s.modHostRing n h f).cur = s.cur := rfl
@[simp] theorem State.modHostRing_ir (s : State) (n h : Nat) (f : HostRing → HostRing) : (s.modHostRing n h f).ir = s.ir := rfl
@[simp] theorem State.modHostRing_freeCtr (s : State) (n h : Nat) (f : HostRing → HostRing) : (s.modHostRing n h f).freeCtr = s.freeCtr := rfl
@[simp] theorem State.modHostRing_seqCtr (s : State) (n h : Nat) (f : HostRing → HostRing) : (s.modHostRing n h f).seqCtr = s.seqCtr := rfl

/-! ### A log record -/

@[simp] theorem State.logRec_clk (s : State) (core : Nat) (c : Byte) (a : Word) (i : Nat) : (s.logRec core c a i).clk = s.clk := rfl
@[simp] theorem State.logRec_time (s : State) (core : Nat) (c : Byte) (a : Word) (i : Nat) : (s.logRec core c a i).time = s.time := rfl
@[simp] theorem State.logRec_timeRem (s : State) (core : Nat) (c : Byte) (a : Word) (i : Nat) : (s.logRec core c a i).timeRem = s.timeRem := rfl
@[simp] theorem State.logRec_mem (s : State) (core : Nat) (c : Byte) (a : Word) (i : Nat) : (s.logRec core c a i).mem = s.mem := rfl
@[simp] theorem State.logRec_fabric (s : State) (core : Nat) (c : Byte) (a : Word) (i : Nat) : (s.logRec core c a i).fabric = s.fabric := rfl
@[simp] theorem State.logRec_units (s : State) (core : Nat) (c : Byte) (a : Word) (i : Nat) : (s.logRec core c a i).units = s.units := rfl
@[simp] theorem State.logRec_gangs (s : State) (core : Nat) (c : Byte) (a : Word) (i : Nat) : (s.logRec core c a i).gangs = s.gangs := rfl
@[simp] theorem State.logRec_cores (s : State) (core : Nat) (c : Byte) (a : Word) (i : Nat) : (s.logRec core c a i).cores = s.cores := rfl
@[simp] theorem State.logRec_drains (s : State) (core : Nat) (c : Byte) (a : Word) (i : Nat) : (s.logRec core c a i).drains = s.drains := rfl
@[simp] theorem State.logRec_wire (s : State) (core : Nat) (c : Byte) (a : Word) (i : Nat) : (s.logRec core c a i).wire = s.wire := rfl
@[simp] theorem State.logRec_bank (s : State) (core : Nat) (c : Byte) (a : Word) (i : Nat) : (s.logRec core c a i).bank = s.bank := rfl
@[simp] theorem State.logRec_life (s : State) (core : Nat) (c : Byte) (a : Word) (i : Nat) : (s.logRec core c a i).life = s.life := rfl
@[simp] theorem State.logRec_agenda (s : State) (core : Nat) (c : Byte) (a : Word) (i : Nat) : (s.logRec core c a i).agenda = s.agenda := rfl
@[simp] theorem State.logRec_issuing (s : State) (core : Nat) (c : Byte) (a : Word) (i : Nat) : (s.logRec core c a i).issuing = s.issuing := rfl
@[simp] theorem State.logRec_cur (s : State) (core : Nat) (c : Byte) (a : Word) (i : Nat) : (s.logRec core c a i).cur = s.cur := rfl
@[simp] theorem State.logRec_ir (s : State) (core : Nat) (c : Byte) (a : Word) (i : Nat) : (s.logRec core c a i).ir = s.ir := rfl
@[simp] theorem State.logRec_freeCtr (s : State) (core : Nat) (c : Byte) (a : Word) (i : Nat) : (s.logRec core c a i).freeCtr = s.freeCtr := rfl
@[simp] theorem State.logRec_seqCtr (s : State) (core : Nat) (c : Byte) (a : Word) (i : Nat) : (s.logRec core c a i).seqCtr = s.seqCtr := rfl

/-! ### A count of the front end -/

@[simp] theorem State.note_clk (s : State) (n : Nat) : (s.note n).clk = s.clk := rfl
@[simp] theorem State.note_time (s : State) (n : Nat) : (s.note n).time = s.time := rfl
@[simp] theorem State.note_timeRem (s : State) (n : Nat) : (s.note n).timeRem = s.timeRem := rfl
@[simp] theorem State.note_mem (s : State) (n : Nat) : (s.note n).mem = s.mem := rfl
@[simp] theorem State.note_fabric (s : State) (n : Nat) : (s.note n).fabric = s.fabric := rfl
@[simp] theorem State.note_units (s : State) (n : Nat) : (s.note n).units = s.units := rfl
@[simp] theorem State.note_gangs (s : State) (n : Nat) : (s.note n).gangs = s.gangs := rfl
@[simp] theorem State.note_cores (s : State) (n : Nat) : (s.note n).cores = s.cores := rfl
@[simp] theorem State.note_drains (s : State) (n : Nat) : (s.note n).drains = s.drains := rfl
@[simp] theorem State.note_wire (s : State) (n : Nat) : (s.note n).wire = s.wire := rfl
@[simp] theorem State.note_bank (s : State) (n : Nat) : (s.note n).bank = s.bank := rfl
@[simp] theorem State.note_life (s : State) (n : Nat) : (s.note n).life = s.life := rfl
@[simp] theorem State.note_agenda (s : State) (n : Nat) : (s.note n).agenda = s.agenda := rfl
@[simp] theorem State.note_issuing (s : State) (n : Nat) : (s.note n).issuing = s.issuing := rfl
@[simp] theorem State.note_cur (s : State) (n : Nat) : (s.note n).cur = s.cur := rfl
@[simp] theorem State.note_ir (s : State) (n : Nat) : (s.note n).ir = s.ir := rfl
@[simp] theorem State.note_freeCtr (s : State) (n : Nat) : (s.note n).freeCtr = s.freeCtr := rfl
@[simp] theorem State.note_seqCtr (s : State) (n : Nat) : (s.note n).seqCtr = s.seqCtr := rfl

/-! ### The device's update -/

@[simp] theorem State.modLife_clk (s : State) (f : DeviceLife → DeviceLife) : (s.modLife f).clk = s.clk := rfl
@[simp] theorem State.modLife_time (s : State) (f : DeviceLife → DeviceLife) : (s.modLife f).time = s.time := rfl
@[simp] theorem State.modLife_timeRem (s : State) (f : DeviceLife → DeviceLife) : (s.modLife f).timeRem = s.timeRem := rfl
@[simp] theorem State.modLife_mem (s : State) (f : DeviceLife → DeviceLife) : (s.modLife f).mem = s.mem := rfl
@[simp] theorem State.modLife_fabric (s : State) (f : DeviceLife → DeviceLife) : (s.modLife f).fabric = s.fabric := rfl
@[simp] theorem State.modLife_units (s : State) (f : DeviceLife → DeviceLife) : (s.modLife f).units = s.units := rfl
@[simp] theorem State.modLife_gangs (s : State) (f : DeviceLife → DeviceLife) : (s.modLife f).gangs = s.gangs := rfl
@[simp] theorem State.modLife_cores (s : State) (f : DeviceLife → DeviceLife) : (s.modLife f).cores = s.cores := rfl
@[simp] theorem State.modLife_drains (s : State) (f : DeviceLife → DeviceLife) : (s.modLife f).drains = s.drains := rfl
@[simp] theorem State.modLife_wire (s : State) (f : DeviceLife → DeviceLife) : (s.modLife f).wire = s.wire := rfl
@[simp] theorem State.modLife_fe (s : State) (f : DeviceLife → DeviceLife) : (s.modLife f).fe = s.fe := rfl
@[simp] theorem State.modLife_bank (s : State) (f : DeviceLife → DeviceLife) : (s.modLife f).bank = s.bank := rfl
@[simp] theorem State.modLife_agenda (s : State) (f : DeviceLife → DeviceLife) : (s.modLife f).agenda = s.agenda := rfl
@[simp] theorem State.modLife_issuing (s : State) (f : DeviceLife → DeviceLife) : (s.modLife f).issuing = s.issuing := rfl
@[simp] theorem State.modLife_cur (s : State) (f : DeviceLife → DeviceLife) : (s.modLife f).cur = s.cur := rfl
@[simp] theorem State.modLife_ir (s : State) (f : DeviceLife → DeviceLife) : (s.modLife f).ir = s.ir := rfl
@[simp] theorem State.modLife_freeCtr (s : State) (f : DeviceLife → DeviceLife) : (s.modLife f).freeCtr = s.freeCtr := rfl
@[simp] theorem State.modLife_seqCtr (s : State) (f : DeviceLife → DeviceLife) : (s.modLife f).seqCtr = s.seqCtr := rfl

/-! ### A link's update -/

@[simp] theorem State.modLink_clk (s : State) (k : Nat) (f : Link → Link) : (s.modLink k f).clk = s.clk := rfl
@[simp] theorem State.modLink_time (s : State) (k : Nat) (f : Link → Link) : (s.modLink k f).time = s.time := rfl
@[simp] theorem State.modLink_timeRem (s : State) (k : Nat) (f : Link → Link) : (s.modLink k f).timeRem = s.timeRem := rfl
@[simp] theorem State.modLink_mem (s : State) (k : Nat) (f : Link → Link) : (s.modLink k f).mem = s.mem := rfl
@[simp] theorem State.modLink_fabric (s : State) (k : Nat) (f : Link → Link) : (s.modLink k f).fabric = s.fabric := rfl
@[simp] theorem State.modLink_units (s : State) (k : Nat) (f : Link → Link) : (s.modLink k f).units = s.units := rfl
@[simp] theorem State.modLink_gangs (s : State) (k : Nat) (f : Link → Link) : (s.modLink k f).gangs = s.gangs := rfl
@[simp] theorem State.modLink_cores (s : State) (k : Nat) (f : Link → Link) : (s.modLink k f).cores = s.cores := rfl
@[simp] theorem State.modLink_drains (s : State) (k : Nat) (f : Link → Link) : (s.modLink k f).drains = s.drains := rfl
@[simp] theorem State.modLink_wire (s : State) (k : Nat) (f : Link → Link) : (s.modLink k f).wire = s.wire := rfl
@[simp] theorem State.modLink_fe (s : State) (k : Nat) (f : Link → Link) : (s.modLink k f).fe = s.fe := rfl
@[simp] theorem State.modLink_bank (s : State) (k : Nat) (f : Link → Link) : (s.modLink k f).bank = s.bank := rfl
@[simp] theorem State.modLink_agenda (s : State) (k : Nat) (f : Link → Link) : (s.modLink k f).agenda = s.agenda := rfl
@[simp] theorem State.modLink_issuing (s : State) (k : Nat) (f : Link → Link) : (s.modLink k f).issuing = s.issuing := rfl
@[simp] theorem State.modLink_cur (s : State) (k : Nat) (f : Link → Link) : (s.modLink k f).cur = s.cur := rfl
@[simp] theorem State.modLink_ir (s : State) (k : Nat) (f : Link → Link) : (s.modLink k f).ir = s.ir := rfl
@[simp] theorem State.modLink_freeCtr (s : State) (k : Nat) (f : Link → Link) : (s.modLink k f).freeCtr = s.freeCtr := rfl
@[simp] theorem State.modLink_seqCtr (s : State) (k : Nat) (f : Link → Link) : (s.modLink k f).seqCtr = s.seqCtr := rfl

/-! ### A mailbox's update -/

@[simp] theorem State.modMailbox_clk (s : State) (n : Nat) (f : Mailbox → Mailbox) : (s.modMailbox n f).clk = s.clk := rfl
@[simp] theorem State.modMailbox_time (s : State) (n : Nat) (f : Mailbox → Mailbox) : (s.modMailbox n f).time = s.time := rfl
@[simp] theorem State.modMailbox_timeRem (s : State) (n : Nat) (f : Mailbox → Mailbox) : (s.modMailbox n f).timeRem = s.timeRem := rfl
@[simp] theorem State.modMailbox_mem (s : State) (n : Nat) (f : Mailbox → Mailbox) : (s.modMailbox n f).mem = s.mem := rfl
@[simp] theorem State.modMailbox_fabric (s : State) (n : Nat) (f : Mailbox → Mailbox) : (s.modMailbox n f).fabric = s.fabric := rfl
@[simp] theorem State.modMailbox_units (s : State) (n : Nat) (f : Mailbox → Mailbox) : (s.modMailbox n f).units = s.units := rfl
@[simp] theorem State.modMailbox_gangs (s : State) (n : Nat) (f : Mailbox → Mailbox) : (s.modMailbox n f).gangs = s.gangs := rfl
@[simp] theorem State.modMailbox_cores (s : State) (n : Nat) (f : Mailbox → Mailbox) : (s.modMailbox n f).cores = s.cores := rfl
@[simp] theorem State.modMailbox_drains (s : State) (n : Nat) (f : Mailbox → Mailbox) : (s.modMailbox n f).drains = s.drains := rfl
@[simp] theorem State.modMailbox_wire (s : State) (n : Nat) (f : Mailbox → Mailbox) : (s.modMailbox n f).wire = s.wire := rfl
@[simp] theorem State.modMailbox_fe (s : State) (n : Nat) (f : Mailbox → Mailbox) : (s.modMailbox n f).fe = s.fe := rfl
@[simp] theorem State.modMailbox_bank (s : State) (n : Nat) (f : Mailbox → Mailbox) : (s.modMailbox n f).bank = s.bank := rfl
@[simp] theorem State.modMailbox_agenda (s : State) (n : Nat) (f : Mailbox → Mailbox) : (s.modMailbox n f).agenda = s.agenda := rfl
@[simp] theorem State.modMailbox_issuing (s : State) (n : Nat) (f : Mailbox → Mailbox) : (s.modMailbox n f).issuing = s.issuing := rfl
@[simp] theorem State.modMailbox_cur (s : State) (n : Nat) (f : Mailbox → Mailbox) : (s.modMailbox n f).cur = s.cur := rfl
@[simp] theorem State.modMailbox_ir (s : State) (n : Nat) (f : Mailbox → Mailbox) : (s.modMailbox n f).ir = s.ir := rfl
@[simp] theorem State.modMailbox_freeCtr (s : State) (n : Nat) (f : Mailbox → Mailbox) : (s.modMailbox n f).freeCtr = s.freeCtr := rfl
@[simp] theorem State.modMailbox_seqCtr (s : State) (n : Nat) (f : Mailbox → Mailbox) : (s.modMailbox n f).seqCtr = s.seqCtr := rfl

/-! ### A line's setting -/

@[simp] theorem State.setLine_clk (s : State) (l : Line) : (s.setLine l).clk = s.clk := rfl
@[simp] theorem State.setLine_time (s : State) (l : Line) : (s.setLine l).time = s.time := rfl
@[simp] theorem State.setLine_timeRem (s : State) (l : Line) : (s.setLine l).timeRem = s.timeRem := rfl
@[simp] theorem State.setLine_mem (s : State) (l : Line) : (s.setLine l).mem = s.mem := rfl
@[simp] theorem State.setLine_units (s : State) (l : Line) : (s.setLine l).units = s.units := rfl
@[simp] theorem State.setLine_gangs (s : State) (l : Line) : (s.setLine l).gangs = s.gangs := rfl
@[simp] theorem State.setLine_cores (s : State) (l : Line) : (s.setLine l).cores = s.cores := rfl
@[simp] theorem State.setLine_drains (s : State) (l : Line) : (s.setLine l).drains = s.drains := rfl
@[simp] theorem State.setLine_wire (s : State) (l : Line) : (s.setLine l).wire = s.wire := rfl
@[simp] theorem State.setLine_fe (s : State) (l : Line) : (s.setLine l).fe = s.fe := rfl
@[simp] theorem State.setLine_bank (s : State) (l : Line) : (s.setLine l).bank = s.bank := rfl
@[simp] theorem State.setLine_life (s : State) (l : Line) : (s.setLine l).life = s.life := rfl
@[simp] theorem State.setLine_agenda (s : State) (l : Line) : (s.setLine l).agenda = s.agenda := rfl
@[simp] theorem State.setLine_issuing (s : State) (l : Line) : (s.setLine l).issuing = s.issuing := rfl
@[simp] theorem State.setLine_cur (s : State) (l : Line) : (s.setLine l).cur = s.cur := rfl
@[simp] theorem State.setLine_ir (s : State) (l : Line) : (s.setLine l).ir = s.ir := rfl
@[simp] theorem State.setLine_freeCtr (s : State) (l : Line) : (s.setLine l).freeCtr = s.freeCtr := rfl
@[simp] theorem State.setLine_seqCtr (s : State) (l : Line) : (s.setLine l).seqCtr = s.seqCtr := rfl

/-! ### A line's update -/

@[simp] theorem State.modLine_clk (s : State) (n : Nat) (f : Line → Line) : (s.modLine n f).clk = s.clk := rfl
@[simp] theorem State.modLine_time (s : State) (n : Nat) (f : Line → Line) : (s.modLine n f).time = s.time := rfl
@[simp] theorem State.modLine_timeRem (s : State) (n : Nat) (f : Line → Line) : (s.modLine n f).timeRem = s.timeRem := rfl
@[simp] theorem State.modLine_mem (s : State) (n : Nat) (f : Line → Line) : (s.modLine n f).mem = s.mem := rfl
@[simp] theorem State.modLine_units (s : State) (n : Nat) (f : Line → Line) : (s.modLine n f).units = s.units := rfl
@[simp] theorem State.modLine_gangs (s : State) (n : Nat) (f : Line → Line) : (s.modLine n f).gangs = s.gangs := rfl
@[simp] theorem State.modLine_cores (s : State) (n : Nat) (f : Line → Line) : (s.modLine n f).cores = s.cores := rfl
@[simp] theorem State.modLine_drains (s : State) (n : Nat) (f : Line → Line) : (s.modLine n f).drains = s.drains := rfl
@[simp] theorem State.modLine_wire (s : State) (n : Nat) (f : Line → Line) : (s.modLine n f).wire = s.wire := rfl
@[simp] theorem State.modLine_fe (s : State) (n : Nat) (f : Line → Line) : (s.modLine n f).fe = s.fe := rfl
@[simp] theorem State.modLine_bank (s : State) (n : Nat) (f : Line → Line) : (s.modLine n f).bank = s.bank := rfl
@[simp] theorem State.modLine_life (s : State) (n : Nat) (f : Line → Line) : (s.modLine n f).life = s.life := rfl
@[simp] theorem State.modLine_agenda (s : State) (n : Nat) (f : Line → Line) : (s.modLine n f).agenda = s.agenda := rfl
@[simp] theorem State.modLine_issuing (s : State) (n : Nat) (f : Line → Line) : (s.modLine n f).issuing = s.issuing := rfl
@[simp] theorem State.modLine_cur (s : State) (n : Nat) (f : Line → Line) : (s.modLine n f).cur = s.cur := rfl
@[simp] theorem State.modLine_ir (s : State) (n : Nat) (f : Line → Line) : (s.modLine n f).ir = s.ir := rfl
@[simp] theorem State.modLine_freeCtr (s : State) (n : Nat) (f : Line → Line) : (s.modLine n f).freeCtr = s.freeCtr := rfl
@[simp] theorem State.modLine_seqCtr (s : State) (n : Nat) (f : Line → Line) : (s.modLine n f).seqCtr = s.seqCtr := rfl

/-! ### A pool's update -/

@[simp] theorem State.modPool_clk (s : State) (n : Nat) (f : Pool → Pool) : (s.modPool n f).clk = s.clk := rfl
@[simp] theorem State.modPool_time (s : State) (n : Nat) (f : Pool → Pool) : (s.modPool n f).time = s.time := rfl
@[simp] theorem State.modPool_timeRem (s : State) (n : Nat) (f : Pool → Pool) : (s.modPool n f).timeRem = s.timeRem := rfl
@[simp] theorem State.modPool_mem (s : State) (n : Nat) (f : Pool → Pool) : (s.modPool n f).mem = s.mem := rfl
@[simp] theorem State.modPool_units (s : State) (n : Nat) (f : Pool → Pool) : (s.modPool n f).units = s.units := rfl
@[simp] theorem State.modPool_gangs (s : State) (n : Nat) (f : Pool → Pool) : (s.modPool n f).gangs = s.gangs := rfl
@[simp] theorem State.modPool_cores (s : State) (n : Nat) (f : Pool → Pool) : (s.modPool n f).cores = s.cores := rfl
@[simp] theorem State.modPool_drains (s : State) (n : Nat) (f : Pool → Pool) : (s.modPool n f).drains = s.drains := rfl
@[simp] theorem State.modPool_wire (s : State) (n : Nat) (f : Pool → Pool) : (s.modPool n f).wire = s.wire := rfl
@[simp] theorem State.modPool_fe (s : State) (n : Nat) (f : Pool → Pool) : (s.modPool n f).fe = s.fe := rfl
@[simp] theorem State.modPool_bank (s : State) (n : Nat) (f : Pool → Pool) : (s.modPool n f).bank = s.bank := rfl
@[simp] theorem State.modPool_life (s : State) (n : Nat) (f : Pool → Pool) : (s.modPool n f).life = s.life := rfl
@[simp] theorem State.modPool_agenda (s : State) (n : Nat) (f : Pool → Pool) : (s.modPool n f).agenda = s.agenda := rfl
@[simp] theorem State.modPool_issuing (s : State) (n : Nat) (f : Pool → Pool) : (s.modPool n f).issuing = s.issuing := rfl
@[simp] theorem State.modPool_cur (s : State) (n : Nat) (f : Pool → Pool) : (s.modPool n f).cur = s.cur := rfl
@[simp] theorem State.modPool_ir (s : State) (n : Nat) (f : Pool → Pool) : (s.modPool n f).ir = s.ir := rfl
@[simp] theorem State.modPool_freeCtr (s : State) (n : Nat) (f : Pool → Pool) : (s.modPool n f).freeCtr = s.freeCtr := rfl
@[simp] theorem State.modPool_seqCtr (s : State) (n : Nat) (f : Pool → Pool) : (s.modPool n f).seqCtr = s.seqCtr := rfl

/-! ### The stores that every cluster now sees -/

@[simp] theorem State.settleLags_clk (s : State) (c : Nat) (sc : Scope) : (s.settleLags c sc).clk = s.clk := by
  cases sc <;> rfl
@[simp] theorem State.settleLags_time (s : State) (c : Nat) (sc : Scope) : (s.settleLags c sc).time = s.time := by
  cases sc <;> rfl
@[simp] theorem State.settleLags_timeRem (s : State) (c : Nat) (sc : Scope) : (s.settleLags c sc).timeRem = s.timeRem := by
  cases sc <;> rfl
@[simp] theorem State.settleLags_mem (s : State) (c : Nat) (sc : Scope) : (s.settleLags c sc).mem = s.mem := by
  cases sc <;> rfl
@[simp] theorem State.settleLags_units (s : State) (c : Nat) (sc : Scope) : (s.settleLags c sc).units = s.units := by
  cases sc <;> rfl
@[simp] theorem State.settleLags_gangs (s : State) (c : Nat) (sc : Scope) : (s.settleLags c sc).gangs = s.gangs := by
  cases sc <;> rfl
@[simp] theorem State.settleLags_cores (s : State) (c : Nat) (sc : Scope) : (s.settleLags c sc).cores = s.cores := by
  cases sc <;> rfl
@[simp] theorem State.settleLags_drains (s : State) (c : Nat) (sc : Scope) : (s.settleLags c sc).drains = s.drains := by
  cases sc <;> rfl
@[simp] theorem State.settleLags_wire (s : State) (c : Nat) (sc : Scope) : (s.settleLags c sc).wire = s.wire := by
  cases sc <;> rfl
@[simp] theorem State.settleLags_fe (s : State) (c : Nat) (sc : Scope) : (s.settleLags c sc).fe = s.fe := by
  cases sc <;> rfl
@[simp] theorem State.settleLags_bank (s : State) (c : Nat) (sc : Scope) : (s.settleLags c sc).bank = s.bank := by
  cases sc <;> rfl
@[simp] theorem State.settleLags_life (s : State) (c : Nat) (sc : Scope) : (s.settleLags c sc).life = s.life := by
  cases sc <;> rfl
@[simp] theorem State.settleLags_agenda (s : State) (c : Nat) (sc : Scope) : (s.settleLags c sc).agenda = s.agenda := by
  cases sc <;> rfl
@[simp] theorem State.settleLags_issuing (s : State) (c : Nat) (sc : Scope) : (s.settleLags c sc).issuing = s.issuing := by
  cases sc <;> rfl
@[simp] theorem State.settleLags_cur (s : State) (c : Nat) (sc : Scope) : (s.settleLags c sc).cur = s.cur := by
  cases sc <;> rfl
@[simp] theorem State.settleLags_ir (s : State) (c : Nat) (sc : Scope) : (s.settleLags c sc).ir = s.ir := by
  cases sc <;> rfl
@[simp] theorem State.settleLags_freeCtr (s : State) (c : Nat) (sc : Scope) : (s.settleLags c sc).freeCtr = s.freeCtr := by
  cases sc <;> rfl
@[simp] theorem State.settleLags_seqCtr (s : State) (c : Nat) (sc : Scope) : (s.settleLags c sc).seqCtr = s.seqCtr := by
  cases sc <;> rfl

/-! ### The stores that every cluster sees in time -/

@[simp] theorem State.dropLags_clk (s : State) : (s.dropLags).clk = s.clk := rfl
@[simp] theorem State.dropLags_time (s : State) : (s.dropLags).time = s.time := rfl
@[simp] theorem State.dropLags_timeRem (s : State) : (s.dropLags).timeRem = s.timeRem := rfl
@[simp] theorem State.dropLags_mem (s : State) : (s.dropLags).mem = s.mem := rfl
@[simp] theorem State.dropLags_units (s : State) : (s.dropLags).units = s.units := rfl
@[simp] theorem State.dropLags_gangs (s : State) : (s.dropLags).gangs = s.gangs := rfl
@[simp] theorem State.dropLags_cores (s : State) : (s.dropLags).cores = s.cores := rfl
@[simp] theorem State.dropLags_drains (s : State) : (s.dropLags).drains = s.drains := rfl
@[simp] theorem State.dropLags_wire (s : State) : (s.dropLags).wire = s.wire := rfl
@[simp] theorem State.dropLags_fe (s : State) : (s.dropLags).fe = s.fe := rfl
@[simp] theorem State.dropLags_bank (s : State) : (s.dropLags).bank = s.bank := rfl
@[simp] theorem State.dropLags_life (s : State) : (s.dropLags).life = s.life := rfl
@[simp] theorem State.dropLags_agenda (s : State) : (s.dropLags).agenda = s.agenda := rfl
@[simp] theorem State.dropLags_issuing (s : State) : (s.dropLags).issuing = s.issuing := rfl
@[simp] theorem State.dropLags_cur (s : State) : (s.dropLags).cur = s.cur := rfl
@[simp] theorem State.dropLags_ir (s : State) : (s.dropLags).ir = s.ir := rfl
@[simp] theorem State.dropLags_freeCtr (s : State) : (s.dropLags).freeCtr = s.freeCtr := rfl
@[simp] theorem State.dropLags_seqCtr (s : State) : (s.dropLags).seqCtr = s.seqCtr := rfl

/-! ### A launch's commits that reach the system -/

@[simp] theorem State.reveal_clk (s : State) (k : Nat) : (s.reveal k).clk = s.clk := rfl
@[simp] theorem State.reveal_time (s : State) (k : Nat) : (s.reveal k).time = s.time := rfl
@[simp] theorem State.reveal_timeRem (s : State) (k : Nat) : (s.reveal k).timeRem = s.timeRem := rfl
@[simp] theorem State.reveal_mem (s : State) (k : Nat) : (s.reveal k).mem = s.mem := rfl
@[simp] theorem State.reveal_units (s : State) (k : Nat) : (s.reveal k).units = s.units := rfl
@[simp] theorem State.reveal_gangs (s : State) (k : Nat) : (s.reveal k).gangs = s.gangs := rfl
@[simp] theorem State.reveal_cores (s : State) (k : Nat) : (s.reveal k).cores = s.cores := rfl
@[simp] theorem State.reveal_drains (s : State) (k : Nat) : (s.reveal k).drains = s.drains := rfl
@[simp] theorem State.reveal_wire (s : State) (k : Nat) : (s.reveal k).wire = s.wire := rfl
@[simp] theorem State.reveal_fe (s : State) (k : Nat) : (s.reveal k).fe = s.fe := rfl
@[simp] theorem State.reveal_bank (s : State) (k : Nat) : (s.reveal k).bank = s.bank := rfl
@[simp] theorem State.reveal_life (s : State) (k : Nat) : (s.reveal k).life = s.life := rfl
@[simp] theorem State.reveal_agenda (s : State) (k : Nat) : (s.reveal k).agenda = s.agenda := rfl
@[simp] theorem State.reveal_issuing (s : State) (k : Nat) : (s.reveal k).issuing = s.issuing := rfl
@[simp] theorem State.reveal_cur (s : State) (k : Nat) : (s.reveal k).cur = s.cur := rfl
@[simp] theorem State.reveal_ir (s : State) (k : Nat) : (s.reveal k).ir = s.ir := rfl
@[simp] theorem State.reveal_freeCtr (s : State) (k : Nat) : (s.reveal k).freeCtr = s.freeCtr := rfl
@[simp] theorem State.reveal_seqCtr (s : State) (k : Nat) : (s.reveal k).seqCtr = s.seqCtr := rfl

/-! ### The update of the writes that an agent may not have seen -/

@[simp] theorem State.modLags_clk (s : State) (f : List Lag → List Lag) : (s.modLags f).clk = s.clk := rfl
@[simp] theorem State.modLags_time (s : State) (f : List Lag → List Lag) : (s.modLags f).time = s.time := rfl
@[simp] theorem State.modLags_timeRem (s : State) (f : List Lag → List Lag) : (s.modLags f).timeRem = s.timeRem := rfl
@[simp] theorem State.modLags_mem (s : State) (f : List Lag → List Lag) : (s.modLags f).mem = s.mem := rfl
@[simp] theorem State.modLags_units (s : State) (f : List Lag → List Lag) : (s.modLags f).units = s.units := rfl
@[simp] theorem State.modLags_gangs (s : State) (f : List Lag → List Lag) : (s.modLags f).gangs = s.gangs := rfl
@[simp] theorem State.modLags_cores (s : State) (f : List Lag → List Lag) : (s.modLags f).cores = s.cores := rfl
@[simp] theorem State.modLags_drains (s : State) (f : List Lag → List Lag) : (s.modLags f).drains = s.drains := rfl
@[simp] theorem State.modLags_wire (s : State) (f : List Lag → List Lag) : (s.modLags f).wire = s.wire := rfl
@[simp] theorem State.modLags_fe (s : State) (f : List Lag → List Lag) : (s.modLags f).fe = s.fe := rfl
@[simp] theorem State.modLags_bank (s : State) (f : List Lag → List Lag) : (s.modLags f).bank = s.bank := rfl
@[simp] theorem State.modLags_life (s : State) (f : List Lag → List Lag) : (s.modLags f).life = s.life := rfl
@[simp] theorem State.modLags_agenda (s : State) (f : List Lag → List Lag) : (s.modLags f).agenda = s.agenda := rfl
@[simp] theorem State.modLags_issuing (s : State) (f : List Lag → List Lag) : (s.modLags f).issuing = s.issuing := rfl
@[simp] theorem State.modLags_cur (s : State) (f : List Lag → List Lag) : (s.modLags f).cur = s.cur := rfl
@[simp] theorem State.modLags_ir (s : State) (f : List Lag → List Lag) : (s.modLags f).ir = s.ir := rfl
@[simp] theorem State.modLags_freeCtr (s : State) (f : List Lag → List Lag) : (s.modLags f).freeCtr = s.freeCtr := rfl
@[simp] theorem State.modLags_seqCtr (s : State) (f : List Lag → List Lag) : (s.modLags f).seqCtr = s.seqCtr := rfl

/-! ### A release performed to its scope -/

@[simp] theorem State.releaseTo_clk (s : State) (u : Unit) (sc : Scope) : (s.releaseTo u sc).clk = s.clk := by
  unfold State.releaseTo State.sysRelease
  split <;> simp
@[simp] theorem State.releaseTo_time (s : State) (u : Unit) (sc : Scope) : (s.releaseTo u sc).time = s.time := by
  unfold State.releaseTo State.sysRelease
  split <;> simp
@[simp] theorem State.releaseTo_timeRem (s : State) (u : Unit) (sc : Scope) : (s.releaseTo u sc).timeRem = s.timeRem := by
  unfold State.releaseTo State.sysRelease
  split <;> simp
@[simp] theorem State.releaseTo_mem (s : State) (u : Unit) (sc : Scope) : (s.releaseTo u sc).mem = s.mem := by
  unfold State.releaseTo State.sysRelease
  split <;> simp
@[simp] theorem State.releaseTo_units (s : State) (u : Unit) (sc : Scope) : (s.releaseTo u sc).units = s.units := by
  unfold State.releaseTo State.sysRelease
  split <;> simp
@[simp] theorem State.releaseTo_gangs (s : State) (u : Unit) (sc : Scope) : (s.releaseTo u sc).gangs = s.gangs := by
  unfold State.releaseTo State.sysRelease
  split <;> simp
@[simp] theorem State.releaseTo_cores (s : State) (u : Unit) (sc : Scope) : (s.releaseTo u sc).cores = s.cores := by
  unfold State.releaseTo State.sysRelease
  split <;> simp
@[simp] theorem State.releaseTo_drains (s : State) (u : Unit) (sc : Scope) : (s.releaseTo u sc).drains = s.drains := by
  unfold State.releaseTo State.sysRelease
  split <;> simp
@[simp] theorem State.releaseTo_wire (s : State) (u : Unit) (sc : Scope) : (s.releaseTo u sc).wire = s.wire := by
  unfold State.releaseTo State.sysRelease
  split <;> simp
@[simp] theorem State.releaseTo_bank (s : State) (u : Unit) (sc : Scope) : (s.releaseTo u sc).bank = s.bank := by
  unfold State.releaseTo State.sysRelease
  split <;> simp
@[simp] theorem State.releaseTo_life (s : State) (u : Unit) (sc : Scope) : (s.releaseTo u sc).life = s.life := by
  unfold State.releaseTo State.sysRelease
  split <;> simp
@[simp] theorem State.releaseTo_agenda (s : State) (u : Unit) (sc : Scope) : (s.releaseTo u sc).agenda = s.agenda := by
  unfold State.releaseTo State.sysRelease
  split <;> simp
@[simp] theorem State.releaseTo_issuing (s : State) (u : Unit) (sc : Scope) : (s.releaseTo u sc).issuing = s.issuing := by
  unfold State.releaseTo State.sysRelease
  split <;> simp
@[simp] theorem State.releaseTo_cur (s : State) (u : Unit) (sc : Scope) : (s.releaseTo u sc).cur = s.cur := by
  unfold State.releaseTo State.sysRelease
  split <;> simp
@[simp] theorem State.releaseTo_ir (s : State) (u : Unit) (sc : Scope) : (s.releaseTo u sc).ir = s.ir := by
  unfold State.releaseTo State.sysRelease
  split <;> simp
@[simp] theorem State.releaseTo_freeCtr (s : State) (u : Unit) (sc : Scope) : (s.releaseTo u sc).freeCtr = s.freeCtr := by
  unfold State.releaseTo State.sysRelease
  split <;> simp
@[simp] theorem State.releaseTo_seqCtr (s : State) (u : Unit) (sc : Scope) : (s.releaseTo u sc).seqCtr = s.seqCtr := by
  unfold State.releaseTo State.sysRelease
  split <;> simp

/-! ### The wire engine's update -/

@[simp] theorem State.modWire_clk (s : State) (f : Wire → Wire) : (s.modWire f).clk = s.clk := rfl
@[simp] theorem State.modWire_time (s : State) (f : Wire → Wire) : (s.modWire f).time = s.time := rfl
@[simp] theorem State.modWire_timeRem (s : State) (f : Wire → Wire) : (s.modWire f).timeRem = s.timeRem := rfl
@[simp] theorem State.modWire_mem (s : State) (f : Wire → Wire) : (s.modWire f).mem = s.mem := rfl
@[simp] theorem State.modWire_fabric (s : State) (f : Wire → Wire) : (s.modWire f).fabric = s.fabric := rfl
@[simp] theorem State.modWire_units (s : State) (f : Wire → Wire) : (s.modWire f).units = s.units := rfl
@[simp] theorem State.modWire_gangs (s : State) (f : Wire → Wire) : (s.modWire f).gangs = s.gangs := rfl
@[simp] theorem State.modWire_cores (s : State) (f : Wire → Wire) : (s.modWire f).cores = s.cores := rfl
@[simp] theorem State.modWire_drains (s : State) (f : Wire → Wire) : (s.modWire f).drains = s.drains := rfl
@[simp] theorem State.modWire_fe (s : State) (f : Wire → Wire) : (s.modWire f).fe = s.fe := rfl
@[simp] theorem State.modWire_bank (s : State) (f : Wire → Wire) : (s.modWire f).bank = s.bank := rfl
@[simp] theorem State.modWire_life (s : State) (f : Wire → Wire) : (s.modWire f).life = s.life := rfl
@[simp] theorem State.modWire_agenda (s : State) (f : Wire → Wire) : (s.modWire f).agenda = s.agenda := rfl
@[simp] theorem State.modWire_issuing (s : State) (f : Wire → Wire) : (s.modWire f).issuing = s.issuing := rfl
@[simp] theorem State.modWire_cur (s : State) (f : Wire → Wire) : (s.modWire f).cur = s.cur := rfl
@[simp] theorem State.modWire_ir (s : State) (f : Wire → Wire) : (s.modWire f).ir = s.ir := rfl
@[simp] theorem State.modWire_freeCtr (s : State) (f : Wire → Wire) : (s.modWire f).freeCtr = s.freeCtr := rfl
@[simp] theorem State.modWire_seqCtr (s : State) (f : Wire → Wire) : (s.modWire f).seqCtr = s.seqCtr := rfl

/-! ### A port's update -/

@[simp] theorem State.modPort_clk (s : State) (n : Nat) (f : Port → Port) : (s.modPort n f).clk = s.clk := rfl
@[simp] theorem State.modPort_time (s : State) (n : Nat) (f : Port → Port) : (s.modPort n f).time = s.time := rfl
@[simp] theorem State.modPort_timeRem (s : State) (n : Nat) (f : Port → Port) : (s.modPort n f).timeRem = s.timeRem := rfl
@[simp] theorem State.modPort_mem (s : State) (n : Nat) (f : Port → Port) : (s.modPort n f).mem = s.mem := rfl
@[simp] theorem State.modPort_fabric (s : State) (n : Nat) (f : Port → Port) : (s.modPort n f).fabric = s.fabric := rfl
@[simp] theorem State.modPort_units (s : State) (n : Nat) (f : Port → Port) : (s.modPort n f).units = s.units := rfl
@[simp] theorem State.modPort_gangs (s : State) (n : Nat) (f : Port → Port) : (s.modPort n f).gangs = s.gangs := rfl
@[simp] theorem State.modPort_cores (s : State) (n : Nat) (f : Port → Port) : (s.modPort n f).cores = s.cores := rfl
@[simp] theorem State.modPort_drains (s : State) (n : Nat) (f : Port → Port) : (s.modPort n f).drains = s.drains := rfl
@[simp] theorem State.modPort_fe (s : State) (n : Nat) (f : Port → Port) : (s.modPort n f).fe = s.fe := rfl
@[simp] theorem State.modPort_bank (s : State) (n : Nat) (f : Port → Port) : (s.modPort n f).bank = s.bank := rfl
@[simp] theorem State.modPort_life (s : State) (n : Nat) (f : Port → Port) : (s.modPort n f).life = s.life := rfl
@[simp] theorem State.modPort_agenda (s : State) (n : Nat) (f : Port → Port) : (s.modPort n f).agenda = s.agenda := rfl
@[simp] theorem State.modPort_issuing (s : State) (n : Nat) (f : Port → Port) : (s.modPort n f).issuing = s.issuing := rfl
@[simp] theorem State.modPort_cur (s : State) (n : Nat) (f : Port → Port) : (s.modPort n f).cur = s.cur := rfl
@[simp] theorem State.modPort_ir (s : State) (n : Nat) (f : Port → Port) : (s.modPort n f).ir = s.ir := rfl
@[simp] theorem State.modPort_freeCtr (s : State) (n : Nat) (f : Port → Port) : (s.modPort n f).freeCtr = s.freeCtr := rfl
@[simp] theorem State.modPort_seqCtr (s : State) (n : Nat) (f : Port → Port) : (s.modPort n f).seqCtr = s.seqCtr := rfl

/-! ### A receive ring's update -/

@[simp] theorem State.modRing_clk (s : State) (n : Nat) (f : Ring → Ring) : (s.modRing n f).clk = s.clk := rfl
@[simp] theorem State.modRing_time (s : State) (n : Nat) (f : Ring → Ring) : (s.modRing n f).time = s.time := rfl
@[simp] theorem State.modRing_timeRem (s : State) (n : Nat) (f : Ring → Ring) : (s.modRing n f).timeRem = s.timeRem := rfl
@[simp] theorem State.modRing_mem (s : State) (n : Nat) (f : Ring → Ring) : (s.modRing n f).mem = s.mem := rfl
@[simp] theorem State.modRing_fabric (s : State) (n : Nat) (f : Ring → Ring) : (s.modRing n f).fabric = s.fabric := rfl
@[simp] theorem State.modRing_units (s : State) (n : Nat) (f : Ring → Ring) : (s.modRing n f).units = s.units := rfl
@[simp] theorem State.modRing_gangs (s : State) (n : Nat) (f : Ring → Ring) : (s.modRing n f).gangs = s.gangs := rfl
@[simp] theorem State.modRing_cores (s : State) (n : Nat) (f : Ring → Ring) : (s.modRing n f).cores = s.cores := rfl
@[simp] theorem State.modRing_drains (s : State) (n : Nat) (f : Ring → Ring) : (s.modRing n f).drains = s.drains := rfl
@[simp] theorem State.modRing_fe (s : State) (n : Nat) (f : Ring → Ring) : (s.modRing n f).fe = s.fe := rfl
@[simp] theorem State.modRing_bank (s : State) (n : Nat) (f : Ring → Ring) : (s.modRing n f).bank = s.bank := rfl
@[simp] theorem State.modRing_life (s : State) (n : Nat) (f : Ring → Ring) : (s.modRing n f).life = s.life := rfl
@[simp] theorem State.modRing_agenda (s : State) (n : Nat) (f : Ring → Ring) : (s.modRing n f).agenda = s.agenda := rfl
@[simp] theorem State.modRing_issuing (s : State) (n : Nat) (f : Ring → Ring) : (s.modRing n f).issuing = s.issuing := rfl
@[simp] theorem State.modRing_cur (s : State) (n : Nat) (f : Ring → Ring) : (s.modRing n f).cur = s.cur := rfl
@[simp] theorem State.modRing_ir (s : State) (n : Nat) (f : Ring → Ring) : (s.modRing n f).ir = s.ir := rfl
@[simp] theorem State.modRing_freeCtr (s : State) (n : Nat) (f : Ring → Ring) : (s.modRing n f).freeCtr = s.freeCtr := rfl
@[simp] theorem State.modRing_seqCtr (s : State) (n : Nat) (f : Ring → Ring) : (s.modRing n f).seqCtr = s.seqCtr := rfl

/-! ### A post's record -/

@[simp] theorem State.modPostRec_clk (s : State) (n m : Nat) (f : PostRec → PostRec) : (s.modPostRec n m f).clk = s.clk := rfl
@[simp] theorem State.modPostRec_time (s : State) (n m : Nat) (f : PostRec → PostRec) : (s.modPostRec n m f).time = s.time := rfl
@[simp] theorem State.modPostRec_timeRem (s : State) (n m : Nat) (f : PostRec → PostRec) : (s.modPostRec n m f).timeRem = s.timeRem := rfl
@[simp] theorem State.modPostRec_mem (s : State) (n m : Nat) (f : PostRec → PostRec) : (s.modPostRec n m f).mem = s.mem := rfl
@[simp] theorem State.modPostRec_fabric (s : State) (n m : Nat) (f : PostRec → PostRec) : (s.modPostRec n m f).fabric = s.fabric := rfl
@[simp] theorem State.modPostRec_units (s : State) (n m : Nat) (f : PostRec → PostRec) : (s.modPostRec n m f).units = s.units := rfl
@[simp] theorem State.modPostRec_gangs (s : State) (n m : Nat) (f : PostRec → PostRec) : (s.modPostRec n m f).gangs = s.gangs := rfl
@[simp] theorem State.modPostRec_cores (s : State) (n m : Nat) (f : PostRec → PostRec) : (s.modPostRec n m f).cores = s.cores := rfl
@[simp] theorem State.modPostRec_drains (s : State) (n m : Nat) (f : PostRec → PostRec) : (s.modPostRec n m f).drains = s.drains := rfl
@[simp] theorem State.modPostRec_fe (s : State) (n m : Nat) (f : PostRec → PostRec) : (s.modPostRec n m f).fe = s.fe := rfl
@[simp] theorem State.modPostRec_bank (s : State) (n m : Nat) (f : PostRec → PostRec) : (s.modPostRec n m f).bank = s.bank := rfl
@[simp] theorem State.modPostRec_life (s : State) (n m : Nat) (f : PostRec → PostRec) : (s.modPostRec n m f).life = s.life := rfl
@[simp] theorem State.modPostRec_agenda (s : State) (n m : Nat) (f : PostRec → PostRec) : (s.modPostRec n m f).agenda = s.agenda := rfl
@[simp] theorem State.modPostRec_issuing (s : State) (n m : Nat) (f : PostRec → PostRec) : (s.modPostRec n m f).issuing = s.issuing := rfl
@[simp] theorem State.modPostRec_cur (s : State) (n m : Nat) (f : PostRec → PostRec) : (s.modPostRec n m f).cur = s.cur := rfl
@[simp] theorem State.modPostRec_ir (s : State) (n m : Nat) (f : PostRec → PostRec) : (s.modPostRec n m f).ir = s.ir := rfl
@[simp] theorem State.modPostRec_freeCtr (s : State) (n m : Nat) (f : PostRec → PostRec) : (s.modPostRec n m f).freeCtr = s.freeCtr := rfl
@[simp] theorem State.modPostRec_seqCtr (s : State) (n m : Nat) (f : PostRec → PostRec) : (s.modPostRec n m f).seqCtr = s.seqCtr := rfl

/-! ### An event put at the head of the agenda -/

@[simp] theorem State.next_clk (s : State) (i : Instr) : (s.next i).clk = s.clk := rfl
@[simp] theorem State.next_time (s : State) (i : Instr) : (s.next i).time = s.time := rfl
@[simp] theorem State.next_timeRem (s : State) (i : Instr) : (s.next i).timeRem = s.timeRem := rfl
@[simp] theorem State.next_mem (s : State) (i : Instr) : (s.next i).mem = s.mem := rfl
@[simp] theorem State.next_fabric (s : State) (i : Instr) : (s.next i).fabric = s.fabric := rfl
@[simp] theorem State.next_units (s : State) (i : Instr) : (s.next i).units = s.units := rfl
@[simp] theorem State.next_gangs (s : State) (i : Instr) : (s.next i).gangs = s.gangs := rfl
@[simp] theorem State.next_cores (s : State) (i : Instr) : (s.next i).cores = s.cores := rfl
@[simp] theorem State.next_drains (s : State) (i : Instr) : (s.next i).drains = s.drains := rfl
@[simp] theorem State.next_wire (s : State) (i : Instr) : (s.next i).wire = s.wire := rfl
@[simp] theorem State.next_fe (s : State) (i : Instr) : (s.next i).fe = s.fe := rfl
@[simp] theorem State.next_bank (s : State) (i : Instr) : (s.next i).bank = s.bank := rfl
@[simp] theorem State.next_life (s : State) (i : Instr) : (s.next i).life = s.life := rfl
@[simp] theorem State.next_issuing (s : State) (i : Instr) : (s.next i).issuing = s.issuing := rfl
@[simp] theorem State.next_cur (s : State) (i : Instr) : (s.next i).cur = s.cur := rfl
@[simp] theorem State.next_ir (s : State) (i : Instr) : (s.next i).ir = s.ir := rfl
@[simp] theorem State.next_freeCtr (s : State) (i : Instr) : (s.next i).freeCtr = s.freeCtr := rfl
@[simp] theorem State.next_seqCtr (s : State) (i : Instr) : (s.next i).seqCtr = s.seqCtr := rfl

/-! ### What a free value leaves alone -/

/-- A draw changes the counter of free values alone. -/
theorem State.draw_snd (s : State) : s.draw.2 = { s with freeCtr := s.freeCtr + 1 } := rfl

/-! ### Look-ups in a table after an update -/

/-- An update that keeps the key is found under it. -/
theorem find?_updIf_same {α : Type} (l : List α) (key : α → Nat) (k : Nat) (f : α → α) {x : α} (hk : ∀ y, key (f y) = key y)
    (h : (l.find? fun y => key y == k) = some x) :
    ((updIf l (fun y => key y == k) f).find? fun y => key y == k) = some (f x) := by
  induction l with
  | nil => simp at h
  | cons a l ih =>
    simp only [updIf, List.map_cons, List.find?_cons] at h ⊢
    by_cases e : (key a == k) = true
    · simp only [e] at h ⊢
      simp_all
    · rw [Bool.not_eq_true] at e
      simp only [e, Bool.false_eq_true, if_false] at h ⊢
      exact ih h

/-- An update that keeps the key is not found under another. -/
theorem find?_updIf_ne {α : Type} (l : List α) (key : α → Nat) {k j : Nat} (f : α → α) (hk : ∀ y, key (f y) = key y)
    (h : j ≠ k) : ((updIf l (fun y => key y == k) f).find? fun y => key y == j) = l.find? fun y => key y == j := by
  induction l with
  | nil => rfl
  | cons a l ih =>
    simp only [updIf, List.map_cons, List.find?_cons] at ih ⊢
    by_cases e : (key a == k) = true
    · have e1 : (key a == j) = false := by simp only [beq_iff_eq] at e; simp [e, Ne.symm h]
      simp only [e, if_true, hk, e1]
      exact ih
    · rw [Bool.not_eq_true] at e
      simp only [e, Bool.false_eq_true, if_false]
      split
      · rfl
      · exact ih

/-- A unit that is updated is found. -/
theorem unit?_modUnit {s : State} {k : Nat} {u : Unit} {f : Unit → Unit} (hk : ∀ v, (f v).key = v.key)
    (h : s.unit? k = some u) : (s.modUnit k f).unit? k = some (f u) :=
  find?_updIf_same s.units Unit.key k f hk h

/-- Another unit is found as it was. -/
theorem unit?_modUnit_ne {s : State} {k j : Nat} {f : Unit → Unit} (hk : ∀ v, (f v).key = v.key) (h : j ≠ k) :
    (s.modUnit k f).unit? j = s.unit? j :=
  find?_updIf_ne s.units Unit.key f hk h

/-- A fibre that is updated is found. -/
theorem fibre?_modFibre {u : Unit} {n : Nat} {g : Fibre} {f : Fibre → Fibre} (hf : ∀ x, (f x).fid = x.fid)
    (h : u.fibre? n = some g) : (u.modFibre n f).fibre? n = some (f g) :=
  find?_updIf_same u.fibres Fibre.fid n f hf h

/-- Another fibre is found as it was. -/
theorem fibre?_modFibre_ne {u : Unit} {n m : Nat} {f : Fibre → Fibre} (hf : ∀ x, (f x).fid = x.fid) (h : m ≠ n) :
    (u.modFibre n f).fibre? m = u.fibre? m :=
  find?_updIf_ne u.fibres Fibre.fid f hf h

/-- A unit keeps its key when a fibre of it is updated. -/
@[simp] theorem modFibre_key (u : Unit) (n : Nat) (f : Fibre → Fibre) : (u.modFibre n f).key = u.key := rfl

/-- The unit of a fibre that is updated. -/
theorem unit?_modFibre {s : State} {k n : Nat} {u : Unit} {f : Fibre → Fibre} (h : s.unit? k = some u) :
    (s.modFibre k n f).unit? k = some (u.modFibre n f) :=
  unit?_modUnit (fun _ => rfl) h

/-- What the current fibre is, part by part. -/
theorem current?_eq_some {s : State} {u : Unit} {f : Fibre} :
    s.current? = some (u, f) ↔ s.unit? s.cur.1 = some u ∧ u.fibre? s.cur.2 = some f ∧ f.live = true := by
  unfold State.current?
  constructor
  · intro h
    split at h
    · simp at h
    · next v hv =>
      split at h
      · simp at h
      · next g hg =>
        split at h
        · next hl => simp only [Option.some.injEq, Prod.mk.injEq] at h; obtain ⟨rfl, rfl⟩ := h; exact ⟨hv, hg, hl⟩
        · simp at h
  · rintro ⟨h1, h2, h3⟩
    simp [h1, h2, h3]

/-- The current fibre after its update, if it stays live under its number. -/
theorem current?_modCur {s : State} {u : Unit} {g : Fibre} {f : Fibre → Fibre} (h : s.current? = some (u, g))
    (hf : (f g).fid = g.fid) (hl : (f g).live = true) :
    (s.modCur fun _ => f g).current? = some (u.modFibre s.cur.2 fun _ => f g, f g) := by
  obtain ⟨h1, h2, -⟩ := current?_eq_some.1 h
  have hn : g.fid = s.cur.2 := by simpa using List.find?_some h2
  refine current?_eq_some.2 ⟨unit?_modFibre h1, ?_, hl⟩
  have : ∀ l : List Fibre, (l.find? fun y => y.fid == s.cur.2) = some g →
      ((updIf l (fun y => y.fid == s.cur.2) fun _ => f g).find? fun y => y.fid == s.cur.2) = some (f g) := by
    intro l
    induction l with
    | nil => simp
    | cons a l ih =>
      intro hl
      simp only [updIf, List.map_cons, List.find?_cons] at hl ih ⊢
      by_cases e : (a.fid == s.cur.2) = true
      · simp [e, hf, hn]
      · rw [Bool.not_eq_true] at e
        simp only [e, Bool.false_eq_true, if_false] at hl ⊢
        exact ih hl
  exact this u.fibres h2

end Sys2Proof.Machine
end

