-- ==== Sys2Proof/Tests/Slice0.lean ====
section
/-! SUPPORT. Tests: terms that `WellFormed` refuses, words of the encoding tables, small steps with results worked by hand
from the spec, and states and operands that meet the hypotheses of the statements. -/

namespace Sys2Proof

set_option Elab.async false

/-! ### Terms that are refused -/

/-- Always executed, no stall. -/
def tc : Ctl := { stall := 0, pn := false, ps := 15 }
/-- The inverted `always` predicate (R50). -/
def tbad : Ctl := { stall := 0, pn := true, ps := 15 }
/-- A register source. -/
def tv (n : VReg) : Src := .reg n false
/-- A register where nothing else is accepted. -/
def tr (n : VReg) : RSrc := { n := n, last := false }
/-- A capability source. -/
def tcap (n : CReg) : CSrc := { n := n, last := false }
/-- A memory operand without an index. -/
def tm (d : Word) : MemOp := { cap := tcap 1, idx := none, disp := d }
/-- No order, no scope, no hint. -/
def tmm : MMod := { order := .plain, scope := .unit, hint := .dflt }

/-- The predicate checks (R22, R50) and the register alignments of control (R49, R87). -/
theorem test_wf_control : [
    Instr.bra tbad { delta := 0, slot := 0 }, .nop 0 (some 0), .brx tc (tr 3), .callx tc (tr 63),
    .fork tc 0 (.imm 1) (tv 1) { delta := 0, slot := 0 }, .fork tc 0 (tv 1) (.imm 1) { delta := 0, slot := 0 },
    .fork tc 0 (.imm 1) (.imm 2) { delta := 0, slot := 1 }, .sleepu tc (tv 5), .trap tc (.const 31), .brk tbad (tv 0),
    .wspill tc 0 (tm 0) (.imm 4), .wfill tc 0 (tm 0) (.const 31), .pmovWr tc (.const 31), .srd tc 1 .clk,
    .srd tc 62 .ptp, .swr tc .rmode (.imm 8), .swr tc .fstat (.imm 9), .swr tc .prog (.imm 10)].all
      (fun i => !wf i) = true := by decide

/-- The types, alignments, IMM32 and constants of the integer instructions (R25, R49, R109 to R115). -/
theorem test_wf_integer : [
    Instr.iadd tc .i16 false 0 (tv 0) (tv 0), .iadd tc .i64 false 1 (tv 0) (tv 0), .iadd tc .n64 false 0 (tv 1) (tv 0),
    .isub tc .i64 false 0 (tv 0) (tv 3), .iadd tc .i32 false 0 (.imm 1) (.imm 2), .imulh tc .i64 0 (tv 0) (tv 0),
    .imad tc .n64 0 (tv 0) (tv 0) (tv 0), .imadw tc .i32 1 (tv 0) (tv 0) (tv 0), .imadw tc .i32 0 (tv 0) (tv 0) (tv 1),
    .iabs tc .n32 false 0 (tv 0), .ineg tc .n64 false 0 (tv 0), .logt tc .i32 0 (tv 0) (tv 0) (tv 0) 0,
    .logt tc .n32 0 (.imm 0) (tv 0) (tv 0) 0, .rot tc .i32 0 (tv 0) (tv 0), .bfx tc .n64 0 (tv 0) (tv 0),
    .popc tc .i32 0 (tv 0), .brev tc .n64 1 (tv 0), .icmp tc .ord .i32 0 (tv 0) (tv 0), .icmp tc .uno .i32 0 (tv 0) (tv 0),
    .sel tc .i32 0 15 false (tv 0) (tv 0), .mov tc .i8 0 (tv 0)].all (fun i => !wf i) = true := by decide

/-- The types and formats of the floating and packed instructions (R145 to R165). -/
theorem test_wf_numeric : [
    Instr.cvtfi tc .i64 .f32 none 1 (tv 0), .cvtif tc .f32 .i64 none 0 (tv 1), .cvtff tc .f16 .f16 none 0 (tv 0),
    .hadd2 tc .f32 none 0 (tv 0) (tv 0), .hfma2 tc .f32 none 0 (tv 0) (tv 0) (tv 0),
    .ffma tc .f32 none 0 (.imm 0) (.imm 1) (tv 0), .ffma tc .f32 none 0 (.imm 0) (tv 0) (.imm 1),
    .padd2 tc .i32 false 0 (tv 0) (tv 0), .pmnx2 tc true .n8 0 (tv 0) (tv 0), .shrr tc .i32 .to32 0 (tv 0) (tv 0),
    .shrr tc .i64 .none 1 (tv 0) (tv 0), .pack2 tc true .i32 true 0 (tv 0) (tv 0),
    .pack2 tc false .i16 true 0 (tv 0) (tv 0), .unpk2 tc false .i32 0 (tv 0), .idot4 tc .i16 false 0 (tv 0) (tv 0) (tv 0)].all
      (fun i => !wf i) = true := by decide

/-- The types of the team instructions (R166 to R174). -/
theorem test_wf_team : [
    Instr.tslide tc false .i8 .fz 0 (tv 0) (tv 0), .tslide tc false .i64 (.fc (tv 1)) 0 (tv 0) (tv 0),
    .tshfl tc false .i16 0 (tv 0) (tv 0) (tv 0), .tbcast tc .i32 0 (tv 0) (tv 1), .tscan tc .and false (.int .i32) false none 0 (tv 0),
    .tscan tc .add false .f32 true none 0 (tv 0), .tred tc .min .f32 false (some .rtz) 0 (tv 0),
    .tred tc .xor .f32 false none 0 (tv 0), .tmatch tc 0 .i32 0 (tv 0)].all (fun i => !wf i) = true := by decide

/-- The orders, hints and groups of the memory and fabric instructions (R120 to R132, R239 to R262). -/
theorem test_wf_memory : [
    Instr.ld tc .i32 { tmm with order := .rel } 0 (tm 0), .ld tc .i32 { tmm with scope := .dev } 0 (tm 0),
    .ld tc .n64 tmm 1 (tm 0), .st tc .i32 { tmm with order := .acq } (tm 0) (tv 0), .st tc .i32 tmm (tm 4) (.imm 8),
    .ldv tc true tmm 2 (tm 0), .ldv tc false tmm 1 (tm 0), .stv tc true tmm (tm 0) (tr 62), .ldc tc { tmm with order := .ar } 0 (tm 0),
    .stc tc { tmm with order := .acq } (tm 0) (tcap 0), .cderive tc 0 (tcap 0) (.imm 1) (.imm 2), .cget tc .base 1 (tcap 0),
    .cget tc .len 63 (tcap 0), .caddr tc 1 (tcap 0) (tv 0), .ctest tc 0 (tcap 0) (.imm 0) (tv 0) 0,
    .amo tc .add .i16 tmm 0 (tm 0) (tv 0), .amo tc .add .i32 { tmm with hint := .stream } 0 (tm 0) (tv 0),
    .cas tc .i32 tmm 0 (tm 0) (tr 1), .cas tc .i64 tmm 0 (tm 0) (tr 2), .cas16 tc tmm 2 (tm 0) (tr 0),
    .cas16 tc tmm 0 (tm 0) (tr 4), .cas16 tc { tmm with hint := .keep } 0 (tm 0) (tr 0),
    .fence tc .plain .unit, .mwait tc false .i32 tmm 0 (tm 0) (tv 0), .mwait tc false .n32 { tmm with order := .rel } 0 (tm 0) (tv 0),
    .lnreclaim tc tmm 0 (tm 0) (tr 8)].all (fun i => !wf i) = true := by decide

/-- The groups and fields of the engines' instructions (R297, R308, R352, R381, R439, R458). -/
theorem test_wf_engines : [
    Instr.xfer tc 1 (tv 0) none, .xfer tc 62 (tv 0) none, .xfer tc 0 (tv 0) (some (tr 1)), .xprom tc 1 (tv 0) none,
    .xstat tc 1 (tv 0), .crew 0 false (.const 31), .mma 0 .f16 1 none 0 0 0 .zero, .mma 0 .l6 0 none 0 0 6 .zero,
    .mma 0 .l6 0 none 0 0 0 (.reg (tr 1)), .mma 0 .i8 0 (some .rne) 0 0 0 .zero, .mma 0 .f16 0 none 0 0 0 (.reg (tr 0)),
    .adrain 0 false none 0 (tr 1), .adrainS 0 false 0 (tcap 0) none 2, .areduce 0 false 0 (.imm 2) 0, .aroll 0 0 0 7,
    .rxtake tc 1 (tv 0), .rxrel tc (.imm 0) (.imm 1), .txpost tc 0 (tcap 0) none (.imm 1), .txpostTs2 tc 0 (tcap 0) none (.imm 1),
    .txpostTs1 tc 0 (tcap 0) none (.imm 1) 2, .ptprd tc 62, .tsrec tc 1 (tv 0), .gcond tc (.imm 0) (.imm 1),
    .signalWrite tc (tm 1) (.imm 2), .signalAdd tc (tm 0) (tv 1), .lvlq tc .unit 1 (tv 0), .hpost tc 0 (tv 0) (tr 4),
    .bank tc 1 (tm 0) (tr 0), .bank tc 0 (tm 0) (tr 1), .plant tbad 0 (tm 0), .evsel tc (.imm 0) (.imm 1), .evrd tc 1 (tv 0)].all
      (fun i => !wf i) = true := by decide

/-! ### Words of the encoding tables (R46, R47, R52, R58) -/

/-- Control: an `EXIT` of no successor, OP 0x08, predicate 15, unused fields 0x60. -/
theorem test_word_exit : decodeTableWord 96 0x0800780C0C0C000000000000 = some (.exit tc) := by decide
/-- Integer: `(!p2) iadd.i32 v5, v3!, 7 ~4`. -/
theorem test_word_iadd : decodeTableWord 96 0x200490B06CEC040000000000 =
    some (.iadd { stall := 4, pn := true, ps := 2 } .i32 false 5 (.reg 3 true) (.const 7)) := by decide
/-- Floating: `pmac2.i16` beside a float, OP 0x63 with three registers. -/
theorem test_word_pmac2 : decodeTableWord 96 0x630179404061420000000000 =
    some (.pmac2 { stall := 1, pn := false, ps := 15 } 10 (.reg 2 false) (.reg 3 false) (.reg 10 false)) := by decide
/-- Team: `tslide.up.i16.fz v5, v4, 1 ~1`. -/
theorem test_word_tslide : decodeTableWord 96 0x710178A08C2C020000000000 =
    some (.tslide { stall := 1, pn := false, ps := 15 } false .i16 .fz 5 (.reg 4 false) (.const 1)) := by decide
/-- Memory: an acquire load of a halfword with an index. -/
theorem test_word_ld : decodeTableWord 96 0x80017928604C0B0800000008 =
    some (.ld { stall := 1, pn := false, ps := 15 } .n16 { order := .acq, scope := .dev, hint := .dflt } 9
      { cap := { n := 3, last := false }, idx := some { n := 2, last := false }, disp := 8 }) := by decide
/-- Fabric: a release at `.sys` of a lost line. -/
theorem test_word_lnreclaim : decodeTableWord 96 0xAE0078A86C120F9000000000 =
    some (.lnreclaim tc { order := .rel, scope := .sys, hint := .dflt } 5 { cap := tcap 3, idx := none, disp := 0 }
      { n := 16, last := true }) := by decide
/-- Transfer: `xfer` with a constant template and a coordinate pair. -/
theorem test_word_xfer : decodeTableWord 96 0xC0017A8C618C000000000000 =
    some (.xfer { stall := 1, pn := false, ps := 15 } 20 (.const 3) (some { n := 12, last := false })) := by decide
/-- Matrix: `mma.l6` with scales. -/
theorem test_word_mma : decodeTableWord 96 0xD101780C0C05160200000000 =
    some (.mma 1 .l6 2 none 0 0 0 (.reg { n := 40, last := false })) := by decide
/-- Wire: `txpost` of mode 1. -/
theorem test_word_txpost : decodeTableWord 96 0xE21179082080C00000000000 =
    some (.txpostTs2 { stall := 1, pn := false, ps := 15 } 8 { n := 1, last := false }
      (some { n := 4, last := false }) (.reg 6 false)) := by decide
/-- Front end: `hpost`. -/
theorem test_word_hpost : decodeTableWord 96 0xEF01788C4C01000000000000 =
    some (.hpost { stall := 1, pn := false, ps := 15 } 4 (.const 2) { n := 8, last := false }) := by decide
/-- System: `bank`. -/
theorem test_word_bank : (decodeTableWord 96 0xF0007888AC00C00000000000).isSome = true := by decide

/-- Reserved encodings are refused: an unassigned opcode, MOD4 of `IADD`, the inverted always predicate, a selector of
0x50, a set X13 bit of `RET`. -/
theorem test_words_refused : [0x1500780C0C0C000000000000, 0x201490B06CEC040000000000, 0x2004F8B06CEC040000000000,
    0x0200780A0C0C000000000000, 0x0500780C0C0C000100000000].all (fun w => decodeTableWord 96 w == none) = true := by decide

/-! ### A small machine -/

namespace Machine

/-- A capability of a space from address 0 on, with every permission and two megabytes. -/
def tCapReg (space : Nat) (gen : Word) : CapReg :=
  { bits := capBits gen space 0xFF 8192 8 0, tag := true, bad := false }

/-- A fibre that waits for nothing, at slot 0 of the line at 0x1000. -/
def tFibre (n : Nat) : Fibre :=
  { fid := n, live := true, pc := 0x1000, preds := 0, base := 64, fstat := 0, rmode := 0, prog := 0
    caps := Vector.ofFn fun i => tCapReg i.val (if i.val = 1 then 7 else 0)
    stack := [(64, fresh 100), (65, fresh 7), (66, fresh 0xFFFFFFF9), (67, fresh 0xFFFFFFFF), (68, fresh 0x40490FDB), (74, fresh 0x1001),
      (75, fresh 0)]
    calls := [], handler := false, floor := 0, marks := none
    stroke := { insns := 0, granules := [], stores := [], pass := false }, stamp := 0, came := 0, flights := [], pending := []
    ready := 0, wait := none, served := false, again := false, waiting := 0, outst := [], faults := [], staged := [], half := none, strike := 0 }

/-- A kernel of eight fibres in one team. -/
def tDesc : KDesc :=
  { (default : KDesc) with
    addr := 0x1000, teamLog2 := 3, fibres := 8, frame := 64, frameMax := 32, stack := 1024, args := 64, scratch := 65536
    shelf := 2, matrix := true, hasHandler := true, handlerBr := 0 }

/-- A unit on core 0 with one fibre. -/
def tUnit : Unit :=
  { key := 1, launch := 1, no := 0, gang := 0, idx := 0, core := 0, seats := [(0, 0)], desc := tDesc, shadow := false
    gen := 7, allocBase := 0, backing := 8388608, fibres := [tFibre 0], teams := [], templates := [], layouts := [], tpl := [], xdone := []
    ring := none, channel := none, next := none, ended := 0, usedFront := false, ending := false, dispatched := 0
    deadline := none, screened := false, writes := [] }

/-- Its launch, of a system queue. -/
def tLaunch : Launch := { (default : Launch) with key := 1, id := 1, desc := tDesc, sys := true, part := { (default : LaunchPart) with grid := 1, gang := 1 } }

/-- The cells of words that lie one after another. -/
def tCells (k : Nat) (ws : List Word) : List Host.Cell :=
  ((ws.flatMap fun w => bytesOfNat 4 w.toNat).mapIdx fun i b => (k + i, b)).filter fun c => c.2 != 0

/-- The machine in which that fibre's turn has come. The line at 0x1000 is marked at every slot; its slot 1 is an entry word
of shift 8. The line at 0x1040 is a kernel descriptor. -/
def tState : State :=
  { State.reset with
    clk := 1000
    mem := { State.reset.mem with cells := tCells 0x1000 [0, 0, 0, 0x80000008, 0x0C0C0000, 0x780C, 0, 0, 0, 0, 0, 0, 0, 0, 0, 0x7C000006,
      0x454B585A, 0x53444E52, 0x21030001, 0x20400008, 0x00400400, 0x00010000, 2] }
    fabric := { State.reset.fabric with
      pages := [{ ctx := 0, va := 0, sizeCode := 0, phys := 0, rights := 7, aperture := none, absent := false, dirty := false }] }
    units := [tUnit], cur := (1, 0)
    gangs := [{ (default : Gang) with launch := 1, idx := 0, gen := 7 }]
    fe := { State.reset.fe with launches := [tLaunch] } }

/-- Nothing is under way in a fibre whose turn it is, in a launch without CHK and DET. -/
def calm (s : State) (u : Unit) (f : Fibre) : Bool :=
  decide (s.current? = some (u, f)) && f.flights.isEmpty && f.faults.isEmpty && f.pending.isEmpty &&
    (s.spilledOf u f.fid).isEmpty && !s.chkOf u && !s.detOf u && f.stack.all (fun e => (checkWord e.2).isSome) &&
    f.caps.toList.all fun c => !c.bad

/-- A word looked up satisfies what all words satisfy. -/
theorem all_of_tget {l : List (Nat × Reg)} {p : Reg → Bool} (h : l.all (fun e => p e.2) = true) {k : Nat} {r : Reg}
    (hr : tget l k = some r) : p r = true := by
  induction l with
  | nil => simp [tget] at hr
  | cons x xs ih =>
    obtain ⟨j, v⟩ := x
    simp only [List.all_cons, Bool.and_eq_true] at h
    simp only [tget] at hr
    split at hr
    · cases hr; exact h.1
    · exact ih h.2 hr

/-- No read of a fibre traps whose registers all have their codes. -/
theorem codeTrap_none {f : Fibre} (st : f.stack.all (fun e => (checkWord e.2).isSome) = true)
    (ca : f.caps.toList.all (fun c => !c.bad) = true) (rs : List Rd) : rs.findSome? (Rd.codeTrap f) = none := by
  rw [List.findSome?_eq_none_iff]
  intro r _
  cases r with
  | pred p => rfl
  | reg l n c o =>
    have e : (checkWord (f.reg n)).isNone = false := by
      unfold Fibre.reg
      cases e : tget f.stack (f.base + n) with
      | none => decide +kernel
      | some r => simpa using all_of_tget (p := fun r => (checkWord r).isSome) st e
    simp [Rd.codeTrap, e]
  | cap l c k =>
    have e : (f.cap c).bad = false := by
      have := List.all_eq_true.mp ca (f.cap c) (by simp [Fibre.cap])
      simpa using this
    simp [Rd.codeTrap, e]

/-- Where nothing is spilled, no slot that is read is. -/
theorem spilledReads_nil (o : Op) (f : Fibre) : o.spilledReads f [] = [] := by
  rw [Op.spilledReads, List.filterMap_eq_nil_iff]
  intro r _
  cases r <;> simp

/-- Nothing holds back an instruction of a calm fibre that is always executed: the witness of every statement over
`State.Clear`. -/
theorem clear_of_calm {s : State} {u : Unit} {f : Fibre} (h : calm s u f = true) (o : Op) (hp : o.ctl.ps = 15)
    (hn : o.ctl.pn = false) : s.Clear u f o := by
  simp only [calm, Bool.and_eq_true, decide_eq_true_eq, Bool.not_eq_true', List.isEmpty_iff] at h
  obtain ⟨⟨⟨⟨⟨⟨⟨⟨cur, fl⟩, fa⟩, pe⟩, sp⟩, chk⟩, det⟩, st⟩, ca⟩ := h
  have code (rs : List Rd) : rs.findSome? (Rd.codeTrap f) = none := codeTrap_none st ca rs
  have pend (d : Dest) : f.isPending d = false := by simp [Fibre.isPending, pe]
  have same : f = f.settle s.clk := by
    simp only [Fibre.settle, fl, List.foldl_nil, List.filter_nil]
    cases f; cases fl; rfl
  exact {
    cur := ⟨f, cur, same⟩
    late := .inr (by simp [fa, takeFault])
    guardKnown := .inl hp
    guardRead := by simp [Fibre.readTrap, chk, Rd.codeTrap]
    guard := by simp [hp, hn, Fibre.pred]
    fault := by simp [fa, takeFault]
    ready := by
      simp only [Op.blocked, pend, Bool.or_eq_false_iff, List.any_eq_false]
      exact ⟨fun r _ => by split <;> simp, fun _ _ => by simp⟩
    rows := by rw [sp, spilledReads_nil]
    reads := by simp [Fibre.readTrap, chk, code]
    stroke := .inl det }

/-- The small machine is calm. -/
theorem tState_calm : calm tState tUnit (tFibre 0) = true := by decide +kernel

end Machine

/-! ### Results worked in the spec -/

namespace Machine

/-- The small machine with its first window registers set. -/
def tRegs (rs : List Word) : State :=
  { tState with units := [{ tUnit with
      fibres := [{ tFibre 0 with stack := (List.range rs.length).map fun i => (64 + i, fresh (rs.getD i 0)) }] }] }

/-- The fibre of the small machine after an instruction. -/
def fibreOf (r : Host.Outcome State Fault Refusal) : Option Fibre :=
  match r with
  | .next t => (t.unit? 1).bind fun u => u.fibre? 0
  | _ => none

/-- What a fibre is to find in a window register, once its results have landed. -/
def result (g : Fibre) (d : Nat) : Option Word :=
  match g.flights.find? fun x => x.dest == .slot (g.base + d) with
  | some x => match x.val with | .reg r => some r.val | _ => none
  | none => match g.pending.find? fun x => x.dest == .slot (g.base + d) with
    | some x => match x.val with | some (.reg r) => some r.val | _ => none
    | none => none

/-- A predicate on its way. -/
def resultPred (g : Fibre) (p : PReg) : Option Bool :=
  match g.flights.find? fun x => x.dest == .pred p with
  | some x => match x.val with | .bit b => some b | _ => none
  | none => none

/-- The result and the flags of an instruction on given registers. -/
def run1 (rs : List Word) (i : Instr) (d : Nat) : Option (Word × Word) :=
  (fibreOf (exec i (tRegs rs))).bind fun g => (result g d).map fun w => (w, g.fstat)

/-- R110: `iadd.sat.i32` of 0x7FFF_FFF0 and 0x20, with and without `.sat`. -/
theorem test_iadd : run1 [0x7FFFFFF0, 0x20] (.iadd tc .i32 true 2 (tv 0) (tv 1)) 2 = some (0x7FFFFFFF, 0x20) ∧
    run1 [0x7FFFFFF0, 0x20] (.iadd tc .i32 false 2 (tv 0) (tv 1)) 2 = some (0x80000010, 0) := by decide +kernel
/-- R111's table: −7 by 2, and a divisor of 0. -/
theorem test_idiv : run1 [0xFFFFFFF9, 2] (.idiv tc .i32 2 (tv 0) (tv 1)) 2 = some (0xFFFFFFFD, 0) ∧
    run1 [5, 0] (.idiv tc .n32 2 (tv 0) (tv 1)) 2 = some (0xFFFFFFFF, 0) := by decide +kernel
/-- R111's table: the remainder takes the sign of a; −2^31 by −1. -/
theorem test_irem : run1 [0xFFFFFFF9, 2] (.irem tc .i32 2 (tv 0) (tv 1)) 2 = some (0xFFFFFFFF, 0) ∧
    run1 [0x80000000, 0xFFFFFFFF] (.idiv tc .i32 2 (tv 0) (tv 1)) 2 = some (0x80000000, 0) := by decide +kernel
/-- R110: the high half of a signed product, −1 × 2. -/
theorem test_imulh : run1 [0xFFFFFFFF, 2] (.imulh tc .i32 2 (tv 0) (tv 1)) 2 = some (0xFFFFFFFF, 0) ∧
    run1 [0xFFFFFFFF, 2] (.imulh tc .n32 2 (tv 0) (tv 1)) 2 = some (1, 0) := by decide +kernel
/-- R112: a borrow out of 0 − 1 sets the carry predicate. -/
theorem test_isubb : ((fibreOf (exec (.isubb tc 2 (tv 0) (tv 1) 3) (tRegs [0, 1]))).bind fun g => resultPred g 3) =
    some true := by decide +kernel
/-- R110: a shift by the width gives 0, an arithmetic one the sign. -/
theorem test_shifts : run1 [0x80000000, 32] (.shl tc .i32 2 (tv 0) (tv 1)) 2 = some (0, 0) ∧
    run1 [0x80000000, 32] (.sar tc .i32 2 (tv 0) (tv 1)) 2 = some (0xFFFFFFFF, 0) ∧
    run1 [0x80000001, 4] (.rot tc .n32 2 (tv 0) (tv 1)) 2 = some (0x18, 0) := by decide +kernel
/-- R113: `bfx.i32` of 0x0A50 with descriptor 0x0504 gives 5. -/
theorem test_bfx : run1 [0xA50, 0x504] (.bfx tc .i32 2 (tv 0) (tv 1)) 2 = some (5, 0) := by decide +kernel
/-- R114: table 0xE8 gives the majority and 0x96 the exclusive OR. -/
theorem test_logt : run1 [0xF0, 0xCC, 0xAA] (.logt tc .n32 3 (tv 0) (tv 1) (tv 2) 0xE8) 3 = some (0xE8, 0) ∧
    run1 [0xF0, 0xCC, 0xAA] (.logt tc .n32 3 (tv 0) (tv 1) (tv 2) 0x96) 3 = some (0x96, 0) := by decide +kernel
/-- R110: counts and the reversal. -/
theorem test_counts : run1 [0x00F0] (.popc tc .n32 2 (tv 0)) 2 = some (4, 0) ∧
    run1 [0x00F0] (.clz tc .n32 2 (tv 0)) 2 = some (24, 0) ∧ run1 [0] (.ctz tc .n32 2 (tv 0)) 2 = some (32, 0) ∧
    run1 [1] (.brev tc .n32 2 (tv 0)) 2 = some (0x80000000, 0) := by decide +kernel
/-- R115: a signed and an unsigned comparison of −1 and 1. -/
theorem test_icmp : ((fibreOf (exec (.icmp tc .lt .i32 1 (tv 0) (tv 1)) (tRegs [0xFFFFFFFF, 1]))).bind fun g =>
      resultPred g 1) = some true ∧
    ((fibreOf (exec (.icmp tc .lt .n32 1 (tv 0) (tv 1)) (tRegs [0xFFFFFFFF, 1]))).bind fun g => resultPred g 1) =
      some false := by decide +kernel

/-- R153: −2.5 to `.i16` under RNE gives −2 with NX; 40,000.5 gives 32,767 with NV. -/
theorem test_cvtfi : run1 [0xC0200000] (.cvtfi tc .i16 .f32 (some .rne) 2 (tv 0)) 2 = some (0xFFFFFFFE, 0x01) ∧
    run1 [0x471C4080] (.cvtfi tc .i16 .f32 (some .rne) 2 (tv 0)) 2 = some (32767, 0x10) := by decide +kernel
/-- R154: 16,777,217 gives 16,777,216 with NX. -/
theorem test_cvtif : run1 [16777217] (.cvtif tc .f32 .i32 (some .rne) 2 (tv 0)) 2 = some (0x4B800000, 0x01) := by
  decide +kernel
/-- R156's table. -/
theorem test_cvtl6 : run1 [0x40400000, 0, 0] (.cvtl6 tc 0 (some .rne) 3 (tv 0) (tv 1) (tv 2)) 3 = some (0b000110, 0x01) ∧
    run1 [0xBDCCCCCD, 0xF8, 0] (.cvtl6 tc 0 (some .rne) 3 (tv 0) (tv 1) (tv 2)) 3 = some (0b111011, 0x01) ∧
    run1 [0x42C80000, 0, 0] (.cvtl6 tc 0 (some .rne) 3 (tv 0) (tv 1) (tv 2)) 3 = some (0b001111, 0x21) := by decide +kernel
/-- R157: code 0b000110 at scale 0 gives 5793 × 2^−11. -/
theorem test_cvt6f : run1 [0b000110, 0] (.cvt6f tc 0 2 (tv 0) (tv 1)) 2 = some (0x40350800, 0) := by decide +kernel
/-- R161: the two products and c, saturated once. -/
theorem test_pmac2 : run1 [0x7FFF7FFF, 0x00020002, 0x7FFF0000] (.pmac2 tc 3 (tv 0) (tv 1) (tv 2)) 3 =
    some (0x7FFFFFFF, 0x20) := by decide +kernel
/-- R162's table. -/
theorem test_shrr : run1 [0x4000, 15] (.shrr tc .i32 .to16 2 (tv 0) (tv 1)) 2 = some (1, 0) ∧
    run1 [0xFFFFC000, 15] (.shrr tc .i32 .to16 2 (tv 0) (tv 1)) 2 = some (0, 0) ∧
    run1 [0xFFFFBFFF, 15] (.shrr tc .i32 .to16 2 (tv 0) (tv 1)) 2 = some (0xFFFFFFFF, 0) ∧
    run1 [0x40000000, 15] (.shrr tc .i32 .to16 2 (tv 0) (tv 1)) 2 = some (32767, 0x20) := by decide +kernel
/-- R164: the example. -/
theorem test_ldot4 : run1 [0x00424040, 0x003C0044, 0x3F800000] (.ldot4 tc (some .rne) 3 (tv 0) (tv 1) (tv 2)) 3 =
    some (0x401A8400, 0) := by decide +kernel
/-- R459: `FFMA` of −0 × 1 + (−0) gives −0. -/
theorem test_ffma : run1 [0x80000000, 0x3F800000, 0x80000000] (.ffma tc .f32 (some .rne) 3 (tv 0) (tv 1) (tv 2)) 3 =
    some (0x80000000, 0) := by decide +kernel
/-- R146, R150: 1 + 1 = 2, 1 / 3 rounds, the root of 4, 2^3, log2 of 8. -/
theorem test_floats : run1 [0x3F800000, 0x3F800000] (.fadd tc .f32 none 2 (tv 0) (tv 1)) 2 = some (0x40000000, 0) ∧
    run1 [0x3F800000, 0x40400000] (.fdiv tc .f32 none 2 (tv 0) (tv 1)) 2 = some (0x3EAAAAAB, 0x01) ∧
    run1 [0x40800000] (.fsqrt tc .f32 none 2 (tv 0)) 2 = some (0x40000000, 0) ∧
    run1 [0x40400000] (.fexp2 tc .f32 none 2 (tv 0)) 2 = some (0x41000000, 0) ∧
    run1 [0x41000000] (.flog2 tc .f32 none 2 (tv 0)) 2 = some (0x40400000, 0) := by decide +kernel

end Machine

/-! ### Witnesses: the families of one fibre's registers

Each theorem shows a state and operands that meet the hypotheses of a statement together, clause by clause. -/

namespace Machine

/-- A table has the instruction, and nothing holds it back in the small machine. -/
abbrev Starts (table : Instr → Option Claims.Own) (i : Instr) : Prop :=
  ∃ o k, table i = some (o, k) ∧ tState.Clear tUnit (tFibre 0) o ∧ (tFibre 0).strike = 0

/-- The integer instructions. -/
theorem witness_IntegerInstructionsComplete : [
    Instr.iadd tc .i32 true 2 (tv 0) (tv 1), .isub tc .n64 false 2 (tv 0) (tv 2), .imul tc .i32 false 2 (tv 0) (.const 3),
    .imulh tc .n32 2 (tv 0) (tv 1), .imad tc .i32 3 (tv 0) (tv 1) (tv 2), .imadw tc .i32 4 (tv 0) (tv 1) (tv 2),
    .idiv tc .i32 2 (tv 0) (.const 0), .irem tc .n32 2 (tv 0) (tv 1), .imin tc .i32 2 (tv 0) (tv 1), .imax tc .i32 2 (tv 0) (tv 1),
    .iabs tc .i32 true 2 (tv 2), .ineg tc .i32 false 2 (tv 2), .iaddc tc 2 (tv 0) (tv 1) 3, .isubb tc 2 (tv 0) (tv 1) 15,
    .and tc .n32 2 (tv 0) (tv 1), .or tc .n32 2 (tv 0) (tv 1), .xor tc .n64 2 (tv 0) (tv 2), .andn tc .n32 2 (tv 0) (tv 1),
    .logt tc .n32 2 (tv 0) (tv 1) (tv 2) 0xE8, .shl tc .i32 2 (tv 0) (.const 30), .shr tc .i32 2 (tv 0) (tv 1),
    .sar tc .i64 2 (tv 0) (tv 1), .rot tc .n32 2 (tv 0) (tv 1), .bfx tc .i32 2 (tv 0) (.imm 0x504), .bfi tc 2 (tv 0) (tv 1) (tv 2),
    .popc tc .n32 2 (tv 0), .clz tc .n32 2 (tv 0), .ctz tc .n64 2 (tv 0), .brev tc .n32 2 (tv 0),
    .icmp tc .lt .i32 15 (tv 0) (tv 1), .sel tc .i32 2 4 true (tv 0) (tv 1), .mov tc .i32 2 (.imm 0xFFFFFFFF)].Forall
      (Starts Claims.integers) := by
  repeat' apply And.intro
  all_goals exact ⟨_, _, rfl, clear_of_calm tState_calm _ rfl rfl, rfl⟩

/-- The floating instructions. -/
theorem witness_FloatInstructionsComplete : [
    Instr.fadd tc .f32 none 2 (tv 0) (tv 4), .fsub tc .f16 none 2 (tv 0) (tv 4), .fmul tc .bf16 (some .rup) 2 (tv 0) (tv 4),
    .ffma tc .f32 none 2 (tv 0) (tv 4) (tv 1), .fdiv tc .f32 none 2 (tv 4) (.const 0), .fsqrt tc .f32 none 2 (tv 4),
    .fscale tc .f32 none 2 (tv 4) (tv 1), .fmin tc .f32 2 (tv 0) (tv 4), .fmax tc .f32 2 (tv 0) (tv 4),
    .fcmp tc .uno .f32 1 (tv 0) (tv 4), .fclass tc .f32 2 (tv 4), .frcp tc .f32 none 2 (tv 4), .frsq tc .f32 none 2 (tv 4),
    .fexp2 tc .f32 none 2 (tv 4), .flog2 tc .f32 none 2 (.const 0), .fsin tc .f32 none 2 (tv 4), .fcos tc .f32 none 2 (tv 4),
    .ftanh tc .f32 none 2 (tv 4), .frnd tc .f32 (some .rtz) 2 (tv 4), .fcopys tc .f32 2 (tv 0) (tv 4),
    .cvtfi tc .i32 .f32 none 2 (tv 4), .cvtif tc .f32 .i32 none 2 (tv 2), .cvtff tc .f16 .f32 none 2 (tv 4),
    .cvtl6 tc 3 none 2 (tv 4) (.const 0) (tv 1), .cvt6f tc 0 2 (tv 0) (.const 0), .hadd2 tc .f16 none 2 (tv 0) (tv 4),
    .hmul2 tc .bf16 none 2 (tv 0) (tv 4), .hfma2 tc .f16 none 2 (tv 0) (tv 4) (tv 1), .hmnx2 tc true .f16 2 (tv 0) (tv 4)].Forall
      (Starts Claims.floats) := by
  repeat' apply And.intro
  all_goals exact ⟨_, _, rfl, clear_of_calm tState_calm _ rfl rfl, rfl⟩

/-- The packed instructions. -/
theorem witness_PackedInstructionsComplete : [
    Instr.padd2 tc .i16 true 2 (tv 0) (tv 1), .psub2 tc .n16 true 2 (tv 0) (tv 1), .pmul2 tc .i16 false 2 (tv 0) (tv 1),
    .pmac2 tc 2 (tv 0) (tv 1) (tv 3), .pmnx2 tc true .i16 2 (tv 0) (tv 1), .pshr2 tc true 2 (tv 2) (.const 30),
    .shrr tc .i32 .to8 2 (tv 0) (.const 1), .pack2 tc false .i32 true 2 (tv 0) (tv 1), .unpk2 tc true .i16 2 (tv 2),
    .ldot4 tc none 2 (tv 0) (tv 1) (tv 4), .idot4 tc .i8 true 2 (tv 0) (tv 2) (tv 3)].Forall (Starts Claims.packeds) := by
  repeat' apply And.intro
  all_goals exact ⟨_, _, rfl, clear_of_calm tState_calm _ rfl rfl, rfl⟩

/-- PSET, PMOV and SWR. -/
theorem witness_PredicateInstructionsComplete : [
    Instr.pset tc 6 15 0 14, .pmovRd tc 2, .pmovWr tc (tv 0), .swr tc .rmode (tv 0), .swr tc .fstat (tv 0),
    .swr tc .prog (tv 0)].Forall (Starts Claims.predicates) := by
  repeat' apply And.intro
  all_goals exact ⟨_, _, rfl, clear_of_calm tState_calm _ rfl rfl, rfl⟩

/-! ### Witnesses: control -/

/-- The small machine with another fibre in its place. -/
def tWith (f : Fibre) : State := { tState with units := [{ tUnit with fibres := [f] }] }
/-- Its unit. -/
def tUnitOf (f : Fibre) : Unit := { tUnit with fibres := [f] }

/-- An outcome that is not an error is some value. -/
theorem ok_of_isSome {ε α : Type} {e : Except ε α} (h : e.toOption.isSome = true) : ∃ a, e = .ok a := by
  cases e with
  | ok a => exact ⟨a, rfl⟩
  | error _ => simp [Except.toOption] at h

/-- A target whose shift an entry word gives. -/
theorem enters_of {s : State} {u : Unit} {t : BitVec 57} {sh : Nat}
    (h : (match s.checkTarget (s.ctxOf u) t [] with
      | .ok l => (s.wordAt (s.ctxOf u) u.desc l (slotOfPc t)).bind entryShift == some sh
      | .error _ => false) = true) : Claims.enters s u t sh := by
  split at h
  · exact ⟨_, ‹_›, by simpa using h⟩
  · cases h

/-- A branch to the last slot of the line, and to the PC in v10 and v11. -/
theorem witness_BranchesComplete :
    Claims.reaches tState tUnit (branchTarget (tFibre 0).pc { delta := 0, slot := 4 }) [] ∧
    (let v := ((tFibre 0).seen (opPairA tc (tr 10))).pairAt (tr 10).n.toNat;
      v.toNat < 2 ^ 57 ∧ Claims.reaches tState tUnit (v.setWidth 57) []) ∧
    (∀ o, o.ctl = tc → tState.Clear tUnit (tFibre 0) o) := by
  refine ⟨ok_of_isSome (by decide +kernel), ⟨by decide +kernel, ok_of_isSome (by decide +kernel)⟩, fun o h => ?_⟩
  exact clear_of_calm tState_calm o (by rw [h]; rfl) (by rw [h]; rfl)

/-- `LOOPD` at the last turn and before it. -/
theorem witness_BranchesComplete_loopd :
    let o (d : VReg) : Op := { op0 tc with reads := groupReads 1 d.toNat 1 true, regs := dstRegs d 1 }
    let f : Fibre := { tFibre 0 with stack := [(64, fresh 1)] }
    ((f.seen (o 0)).reg 0).val - 1 = 0 ∧ (((tFibre 0).seen (o 0)).reg 0).val - 1 ≠ 0 ∧
      calm (tWith f) (tUnitOf f) f = true := by decide +kernel

/-- A call into the entry word of shift 8, from the highest frame that has room for it, and a return. -/
theorem witness_CallsComplete :
    let f : Fibre := { tFibre 0 with base := 952 }
    let g : Fibre := { tFibre 0 with calls := [{ shift := 8, rpc := 0x1002, entry := 0x1001 }], base := 8 }
    Claims.enters (tWith f) (tUnitOf f) (branchTarget f.pc { delta := 0, slot := 1 }) 8 ∧ 8 ≤ tDesc.frameMax ∧
      f.base + 8 + 64 ≤ tDesc.stack ∧ calm (tWith f) (tUnitOf f) f = true ∧
    (let v := ((tFibre 0).seen (opPairA tc (tr 10))).pairAt (tr 10).n.toNat;
      v.toNat < 2 ^ 57 ∧ Claims.enters tState tUnit (v.setWidth 57) 8) ∧
    g.floorNow < g.calls.length ∧ (8 : BitVec 6).toNat ≤ g.base ∧ Claims.reaches (tWith g) (tUnitOf g) 0x1002 [] ∧
      calm (tWith g) (tUnitOf g) g = true := by
  refine ⟨enters_of (by decide +kernel), by decide, by decide, by decide +kernel, ⟨by decide +kernel, enters_of (by decide +kernel)⟩,
    by decide, by decide, ok_of_isSome (by decide +kernel), by decide +kernel⟩

/-- `FORK` of the first index outside the unit, of a live fibre, and of the last index, which is free; `EXIT` with the kernel
of the next line; and `SLEEPU` until now. -/
theorem witness_FibreLifeCompletes :
    let o (b : Src) := Claims.word2 tc 2 b (tv 0)
    Claims.reaches tState tUnit (branchTarget (tFibre 0).pc { delta := 0, slot := 0 }) [] ∧
    tDesc.fibres ≤ (((tFibre 0).seen (o (.const 8))).src32 (.const 8)).toNat ∧
    ((tUnit.fibre? 0).map Fibre.live = some true ∧ 0 < tDesc.fibres) ∧
    ((((tFibre 0).seen (o (.const 7))).src32 (.const 7)).toNat < tDesc.fibres ∧
      (tUnit.fibre? 7).map Fibre.live ≠ some true) ∧
    (∃ d, tState.successor { u := tUnit, f := tFibre 0 } 1 = .ok d) ∧
    ((tFibre 0).src64 false (.imm 1000)).toNat ≤ tState.clk ∧ tState.clk < ((tFibre 0).src64 false (.imm 1001)).toNat := by
  refine ⟨ok_of_isSome (by decide +kernel), by decide +kernel, by decide +kernel, by decide +kernel,
    ok_of_isSome (by decide +kernel), by decide +kernel, by decide +kernel⟩

/-- `SRD`, `TRAP` and `BRK` need only their turn; an illegal word only a fibre. -/
theorem witness_SpecialRegisterReads (r : SReg) :
    tState.Clear tUnit (tFibre 0) { op0 tc with regs := dstRegs 0 (sregWords r) } := clear_of_calm tState_calm _ rfl rfl

theorem witness_TrapInstructionsTakeTheirTraps : tState.Clear tUnit (tFibre 0) (op1 tc (.imm 5) false false []) ∧
    tState.current? = some (tUnit, tFibre 0) := ⟨clear_of_calm tState_calm _ rfl rfl, by decide +kernel⟩

/-- The fixed word of code 0, and the dictionary word of the highest index. -/
theorem witness_PackedCodesExpand : tState.current? = some (tUnit, tFibre 0) ∧
    (∃ x, tState.dictEntry (tState.ctxOf tUnit) tUnit.desc ((0xE000 : BitVec 16).extractLsb' 0 10).toNat = .ok x) ∧
    ∃ x, tState.dictEntry (tState.ctxOf tUnit) tUnit.desc ((0xFFFF : BitVec 16).extractLsb' 0 10).toNat = .ok x :=
  ⟨by decide +kernel, ok_of_isSome (by decide +kernel), ok_of_isSome (by decide +kernel)⟩

/-- A fibre in its handler, its return PC in v0 and v1. -/
def tHandled : Fibre :=
  { tFibre 0 with handler := true, base := 128, floor := 0, marks := some (0x1000, 0x1001)
                  stack := [(128, fresh 0x1002), (129, fresh 0), (132, fresh 5)] }

theorem witness_TrapReturnsComplete : tHandled.handler = true ∧ (tHandled.pairAt 0).toNat < 2 ^ 57 ∧
    Claims.reaches (tWith tHandled) (tUnitOf tHandled) (Claims.trapTarget (tWith tHandled) (tUnitOf tHandled) tHandled false)
      (Claims.marksOf tHandled) ∧
    Claims.reaches (tWith tHandled) (tUnitOf tHandled) (Claims.trapTarget (tWith tHandled) (tUnitOf tHandled) tHandled true)
      (Claims.marksOf tHandled) ∧
    (tWith tHandled).Clear (tUnitOf tHandled) tHandled (Claims.trapretForm tc) :=
  ⟨rfl, by decide +kernel, ok_of_isSome (by decide +kernel), ok_of_isSome (by decide +kernel),
    clear_of_calm (by decide +kernel) _ rfl rfl⟩

theorem witness_LeavingAHandler : 64 ≤ tHandled.base ∧ 64 ≤ (tFibre 0).base := by decide

end Machine

/-! ### Witnesses: team operations -/

namespace Machine

/-- The unit with its fibre at a team operation. -/
def tArrived : Unit :=
  { tUnit with fibres := [{ tFibre 0 with wait := some (.team 0x1000 0), served := false }] }

/-- The fibre is the last of its team to arrive, at any team operation. -/
theorem tState_converges (o : Op) : Claims.Converges tState tUnit (tFibre 0) tArrived o where
  cur := by decide +kernel
  late := .inr (.inr rfl)
  unit := by decide +kernel
  all := by decide +kernel
  ready := by
    have e : tArrived.teamLive ((tFibre 0).fid / tUnit.desc.team) = tArrived.fibres := by decide +kernel
    intro m hm
    rw [e, tArrived, List.mem_singleton] at hm
    subst hm
    have p (d : Dest) : (({ tFibre 0 with wait := some (.team 0x1000 0), served := false } : Fibre).settle
        tState.clk).isPending d = false := rfl
    simp only [Op.memberBlocked, p, Bool.and_false, Bool.false_or, Bool.or_eq_false_iff, List.any_eq_false]
    exact ⟨fun r _ => by split <;> simp, by simp⟩
  rows := by
    rw [State.teamSpills, List.filterMap_eq_nil_iff]
    have e : ∀ m ∈ tArrived.teamLive ((tFibre 0).fid / tUnit.desc.team),
        (Claims.arrives tState (tFibre 0)).spilledOf tArrived m.fid = [] := by decide +kernel
    intro m hm
    simp [e m hm, spilledReads_nil]

/-- The team operations. -/
theorem witness_TeamOperationsComplete : [
    Instr.tsync 0, .tslide tc true .i16 .fw 2 (tv 0) (tv 1), .tshfl tc true .i32 2 (tv 0) (tv 1) (tv 2),
    .tbcast tc .i32 2 (tv 0) (.const 7), .tscan tc .add true (.int .i32) true none 2 (tv 0), .tred tc .max .f32 false none 2 (tv 4),
    .tvote tc .uni 1 2, .tballot tc 3 2 15, .tmatch tc 0 .n32 2 (tv 0), .telect tc 1].Forall fun i =>
      ∃ o eff, Claims.teams i = some (o, eff) ∧ Claims.Converges tState tUnit (tFibre 0) tArrived o ∧
        Claims.sound i tArrived 0 := by
  have h : ∀ m ∈ tArrived.teamLive 0, m.strike = 0 := by decide +kernel
  repeat' apply And.intro
  all_goals exact ⟨_, _, rfl, tState_converges _, by first | exact trivial | exact h⟩

/-- A member whose guard lets it pass, and the same member where its guard is false. -/
theorem witness_TeamMembersReceive :
    let s : State := { tState with units := [tArrived] }
    ∀ m ∈ tArrived.fibres, s.unit? tArrived.key = some tArrived ∧ (tArrived.fibres.map Fibre.fid).Nodup ∧
      s.detOf tArrived = false ∧ m ∈ tArrived.teamLive 0 ∧
      (op1 tc (tv 0) false true (dstRegs 2 1)).memberTrap (s.chkOf tArrived) (m.settle s.clk) = none ∧
      (m.settle s.clk).runs tc = true ∧ (m.settle s.clk).runs { tc with ps := 3 } = false ∧
      ∀ (x f : Fibre), (Claims.receives 2 x f [fresh 1]).fid = f.fid := by
  intro s m hm
  rw [tArrived, List.mem_singleton] at hm
  subst hm
  exact ⟨by decide +kernel, by decide +kernel, by decide +kernel, by decide +kernel, by decide +kernel, by decide +kernel,
    by decide +kernel, fun _ _ => rfl⟩

end Machine

/-! ### Witnesses: memory, capabilities and the fabric -/

namespace Machine

/-- A table has the instruction, nothing holds it back, and its effect can be had. -/
abbrev Reaches (table : Instr → Option Claims.Reach) (s : State) (f : Fibre) (i : Instr) : Prop :=
  ∃ o R t, table i = some (o, R) ∧ s.Clear (tUnitOf f) f o ∧ R { u := tUnitOf f, f := f.seen o } (s.passed (tUnitOf f) f o) t

/-- The small machine, its unit and fibre written as `tWith` writes them. -/
abbrev tS : State := tWith (tFibre 0)
/-- An address of the unit's scratchpad. -/
abbrev tAcc (n : Nat) : Acc := { space := 1, adr := n, key := keyScratch 0 n }

theorem tS_calm : calm tS (tUnitOf (tFibre 0)) (tFibre 0) = true := by decide +kernel

/-- What comes of a choice can be had where both of its sides can. -/
theorem exists_ite {α : Type} {c : Prop} [Decidable c] {P Q : α → Prop} (hp : c → ∃ t, P t) (hq : ¬ c → ∃ t, Q t) :
    ∃ t, if c then P t else Q t := by
  by_cases h : c
  · simpa [h] using hp h
  · simpa [h] using hq h

/-- Outside a DET launch a store that meets no transfer is carried out. -/
theorem stores_total {kind : ReqKind} {m : MMod} {a : Acc} {size : Nat} {last : List Nat} {x : Ctx} {s : State}
    (h : s.rangeBusy x.u.core a.key size true = false) (d : s.detOf x.u = false) :
    ∃ t, Claims.stores kind m a size last x s t := by
  refine exists_and_left.mpr ⟨h, exists_ite (fun e => ?_) fun _ => ?_⟩
  · rw [d] at e; cases e
  · exact exists_ite (fun _ => ⟨_, rfl⟩) fun _ => exists_ite (fun _ => ⟨_, rfl⟩) fun _ => exists_ite (fun _ => ⟨_, rfl⟩) fun _ =>
      ⟨_, rfl⟩

/-- So is a request to the fabric. -/
theorem requests_total {kind : ReqKind} {cls : AccClass} {acq : Bool} {sc : Scope} {a : Acc} {size : Nat} {ds last : List Nat}
    {x : Ctx} {s : State} (h : s.rangeBusy x.u.core a.key size true = false) (d : s.detOf x.u = false) :
    ∃ t, Claims.requests kind cls acq sc a size ds last x s t :=
  ⟨_, h, false, by simp [d], (if_neg (by simp [d])).mpr rfl⟩

/-- A memory operand of a capability register. -/
def tmc (c : CReg) (d : Word) : MemOp := { cap := tcap c, idx := none, disp := d }
/-- An address of space 0, mapped where it stands. -/
abbrev tAcc0 (n : Nat) : Acc := { space := 0, adr := n, key := n }

/-- The fibre whose load has been answered; and that has read the lower half of a load's 16 bytes, or the upper. -/
abbrev tServed : Fibre := { tFibre 0 with served := true }
abbrev tHalf : Fibre := { tServed with half := some (true, [fresh 1, fresh 2]) }
abbrev tLow : Fibre := { tServed with half := some (false, [fresh 1, fresh 2]) }
theorem tServed_calm : calm (tWith tServed) (tUnitOf tServed) tServed = true := by decide +kernel
theorem tHalf_calm : calm (tWith tHalf) (tUnitOf tHalf) tHalf = true := by decide +kernel
theorem tLow_calm : calm (tWith tLow) (tUnitOf tLow) tLow = true := by decide +kernel

/-- The loads: a word, a byte at the top of a word, the second half of four words, a capability. -/
theorem witness_loads : Reaches Claims.memories tS (tFibre 0) (.ld tc .i32 tmm 2 (tm 8)) ∧
    Reaches Claims.memories tS (tFibre 0) (.ld tc .n8 tmm 2 (tm 11)) ∧
    Reaches Claims.memories (tWith tHalf) tHalf (.ldv tc true tmm 4 (tm 16)) ∧
    Reaches Claims.memories (tWith tLow) tLow (.ldv tc true tmm 4 (tm 16)) ∧
    Reaches Claims.memories tS (tFibre 0) (.ldc tc tmm 9 (tm 16)) := by
  refine ⟨⟨_, _, _, rfl, clear_of_calm tS_calm _ rfl rfl, tAcc 8, _, .mem, _, by decide +kernel,
      .inl ⟨by decide +kernel, .inr ?_, .inl (by decide), rfl, rfl⟩, rfl⟩,
    ⟨_, _, _, rfl, clear_of_calm tS_calm _ rfl rfl, tAcc 11, .mem, 0, false, by decide +kernel, .inr ?_, by decide +kernel, rfl⟩,
    ⟨_, _, _, rfl, clear_of_calm tHalf_calm _ rfl rfl, tAcc 16, _, .mem, _, by decide +kernel,
      .inr ⟨true, [fresh 1, fresh 2], by decide +kernel, .inl ⟨rfl, fun h => absurd h (by decide +kernel)⟩, rfl, rfl⟩, rfl⟩,
    ⟨_, _, _, rfl, clear_of_calm tLow_calm _ rfl rfl, tAcc 16, _, .mem, _, by decide +kernel,
      .inr ⟨false, [fresh 1, fresh 2], by decide +kernel, .inl ⟨rfl, fun h => absurd h (by decide +kernel)⟩, rfl, rfl⟩, rfl⟩,
    ⟨_, _, _, rfl, clear_of_calm tS_calm _ rfl rfl, tAcc 16, _, .mem, _, 0, by decide +kernel,
      .inl ⟨by decide +kernel, .inr ?_, .inr (.inl rfl), rfl, rfl⟩, by decide +kernel, rfl⟩⟩
  all_goals simp only [Claims.free]; decide +kernel

/-- A load of 16 bytes reads its first half: of the scratchpad, and of a line that has come. -/
theorem witness_firstHalf :
    (∃ t a, let o : Op := { opM tc (tm 16) [] [] (dstRegs 4 4) 0 with takes := acqTakes tmm }
      let x : Ctx := { u := tUnitOf (tFibre 0), f := (tFibre 0).seen o }
      let s := tS.passed (tUnitOf (tFibre 0)) (tFibre 0) o
      tS.Clear (tUnitOf (tFibre 0)) (tFibre 0) o ∧ s.reachMem x (tm 16) 16 16 permR rightR allSpaces = .ok a ∧
        Claims.readsHalf (.ldv tc true tmm 4 (tm 16)) tmm a x s t) ∧
    ∃ t a, let o : Op := { opM tc (tmc 0 0x2000) [] [] [] 0 with caps := [9], takes := acqTakes tmm }
      let x : Ctx := { u := tUnitOf tServed, f := tServed.seen o }
      let s := (tWith tServed).passed (tUnitOf tServed) tServed o
      (tWith tServed).Clear (tUnitOf tServed) tServed o ∧
        s.reachMem x (tmc 0 0x2000) 16 16 (permR ||| permL) rightR allSpaces = .ok a ∧ (a.space ≠ 1 ∧ a.space ≠ 2 ∧ a.space ≠ 3) ∧
        Claims.readsHalf (.ldc tc tmm 9 (tmc 0 0x2000)) tmm a x s t := by
  refine ⟨⟨_, tAcc 16, clear_of_calm tS_calm _ rfl rfl, by decide +kernel, by decide +kernel, by decide +kernel, .inr ?_, rfl⟩,
    ⟨_, tAcc0 0x2000, clear_of_calm tServed_calm _ rfl rfl, by decide +kernel, by decide, by decide +kernel, by decide +kernel,
      .inl ⟨rfl, fun _ => by decide +kernel⟩, rfl⟩⟩
  simp only [Claims.free]; decide +kernel

/-- The stores, of a word, of a byte, of two words and of a capability. -/
theorem witness_stores : Reaches Claims.memories tS (tFibre 0) (.st tc .i32 tmm (tm 8) (tv 0)) ∧
    Reaches Claims.memories tS (tFibre 0) (.st tc .i8 tmm (tm 11) (tv 0)) ∧
    Reaches Claims.memories tS (tFibre 0) (.stv tc false tmm (tm 16) (tr 0)) ∧
    Reaches Claims.memories tS (tFibre 0) (.stv tc true tmm (tm 16) (tr 0)) ∧
    Reaches Claims.memories tS (tFibre 0) (.stc tc tmm (tm 16) (tcap 1)) := by
  refine ⟨⟨_, _, _, rfl, clear_of_calm tS_calm _ rfl rfl, tAcc 8, by decide +kernel, (stores_total ?_ ?_).choose_spec⟩,
    ⟨_, _, _, rfl, clear_of_calm tS_calm _ rfl rfl, tAcc 11, by decide +kernel, (stores_total ?_ ?_).choose_spec⟩,
    ⟨_, _, _, rfl, clear_of_calm tS_calm _ rfl rfl, tAcc 16, by decide +kernel, (stores_total ?_ ?_).choose_spec⟩,
    ⟨_, _, _, rfl, clear_of_calm tS_calm _ rfl rfl, tAcc 16, by decide +kernel, (stores_total ?_ ?_).choose_spec⟩,
    ⟨_, _, _, rfl, clear_of_calm tS_calm _ rfl rfl, tAcc 16, by decide +kernel, (stores_total ?_ ?_).choose_spec⟩⟩
  all_goals decide +kernel

/-- A prefetch of a line that can be named is carried out. -/
theorem prefetches_total {l2 : Bool} {p : MemOp} {x : Ctx} {s : State} {a : Acc}
    (r : s.reachMem x p 1 1 permR rightR allSpaces = .ok a) (k : tokenKey a.key = true) :
    ∃ t, Claims.prefetches l2 p x s t := by
  by_cases c1 : (s.line (a.key / 64)).lost = true ∨ (s.line (a.key / 64)).poisoned = true
  · exact ⟨_, .inr ⟨a, r, k, (if_pos c1).mpr rfl⟩⟩
  · by_cases c2 : (s.line (a.key / 64)).canRead (s.reqOf (s.line (a.key / 64)) (dieOf x.u.core)) = true
    · exact ⟨_, .inr ⟨a, r, k, (if_neg c1).mpr ((if_pos c2).mpr rfl)⟩⟩
    · exact ⟨_, .inr ⟨a, r, k, (if_neg c1).mpr ((if_neg c2).mpr rfl)⟩⟩

/-- A prefetch of scratchpad, which has no effect, and of a line of space 0. -/
theorem witness_pref : Reaches Claims.memories tS (tFibre 0) (.pref tc false .dflt (tm 8)) ∧
    Reaches Claims.memories tS (tFibre 0) (.pref tc true .dflt (tmc 0 0x2000)) := by
  refine ⟨⟨_, _, _, rfl, clear_of_calm tS_calm _ rfl rfl, .inl ⟨fun a => ?_, rfl⟩⟩,
    ⟨_, _, _, rfl, clear_of_calm tS_calm _ rfl rfl, (prefetches_total (a := tAcc0 0x2000) ?_ ?_).choose_spec⟩⟩
  rotate_left
  · decide +kernel
  · decide +kernel
  refine or_iff_not_imp_left.mpr fun h => ?_
  have e := not_not.mp h
  have r : (tS.passed (tUnitOf (tFibre 0)) (tFibre 0) (opM tc (tm 8) [] [] [] 0)).reachMem
      { u := tUnitOf (tFibre 0), f := (tFibre 0).seen (opM tc (tm 8) [] [] [] 0) } (tm 8) 1 1 permR rightR allSpaces =
        .ok (tAcc 8) := by decide +kernel
  rw [r] at e
  cases e
  decide +kernel

/-- The capability instructions; `CDERIVE` of the whole parent, `CADDR` of its end. -/
theorem witness_CapabilityInstructionsComplete :
    Reaches Claims.capabilities tS (tFibre 0) (.cderive tc 9 (tcap 1) (.const 0) (.imm 0x200000)) ∧
    Reaches Claims.capabilities tS (tFibre 0) (.cperm tc 9 (tcap 1) (.imm 0x03)) ∧
    Reaches Claims.capabilities tS (tFibre 0) (.cget tc .len 2 (tcap 1)) ∧
    Reaches Claims.capabilities tS (tFibre 0) (.caddr tc 2 (tcap 1) (.imm 0x200000)) ∧
    Reaches Claims.capabilities tS (tFibre 0) (.cmov tc 15 (tcap 1)) ∧
    Reaches Claims.capabilities tS (tFibre 0) (.ctest tc 1 (tcap 1) (.const 2) (.const 4) 0x80) := by
  refine ⟨⟨_, _, _, rfl, clear_of_calm tS_calm _ rfl rfl, ⟨by decide +kernel, by decide +kernel⟩, by decide +kernel, rfl⟩,
    ⟨_, _, _, rfl, clear_of_calm tS_calm _ rfl rfl, ⟨by decide +kernel, by decide +kernel⟩, rfl⟩,
    ⟨_, _, _, rfl, clear_of_calm tS_calm _ rfl rfl, rfl⟩,
    ⟨_, _, _, rfl, clear_of_calm tS_calm _ rfl rfl, by decide +kernel, by decide +kernel, rfl⟩,
    ⟨_, _, _, rfl, clear_of_calm tS_calm _ rfl rfl, rfl⟩, ⟨_, _, _, rfl, clear_of_calm tS_calm _ rfl rfl, rfl⟩⟩

/-- The atomics, in the scratchpad and in space 0, and the updates of a barrier object. -/
theorem witness_fabric_requests :
    Reaches Claims.fabrics tS (tFibre 0) (.amo tc .add .i32 tmm 2 (tm 8) (tv 0)) ∧
    Reaches Claims.fabrics tS (tFibre 0) (.cas tc .n64 { tmm with order := .ar, scope := .dev } 2 (tmc 0 0x2000) (tr 4)) ∧
    Reaches Claims.fabrics tS (tFibre 0) (.cas16 tc tmm 4 (tm 16) (tr 8)) ∧
    Reaches Claims.fabrics tS (tFibre 0) (.amof tc .max tmm 2 (tm 8) (tv 4)) ∧
    Reaches Claims.fabrics tS (tFibre 0) (.barinit tc .gang (tm 8) (tv 0)) ∧
    Reaches Claims.fabrics tS (tFibre 0) (.bararr tc .unit 2 (tm 8)) ∧
    Reaches Claims.fabrics tS (tFibre 0) (.bartx tc .unit 2 (tm 8) (.imm 4194288)) ∧
    Reaches Claims.fabrics tS (tFibre 0) (.lninv tc (tmc 0 0x2004)) ∧
    Reaches Claims.fabrics tS (tFibre 0) (.lnreclaim tc { tmm with order := .rel, scope := .sys } 2 (tmc 0 0x2040) (tr 16)) := by
  refine ⟨⟨_, _, _, rfl, clear_of_calm tS_calm _ rfl rfl, tAcc 8, by decide +kernel, (requests_total ?_ ?_).choose_spec⟩,
    ⟨_, _, _, rfl, clear_of_calm tS_calm _ rfl rfl, tAcc0 0x2000, by decide +kernel, (requests_total ?_ ?_).choose_spec⟩,
    ⟨_, _, _, rfl, clear_of_calm tS_calm _ rfl rfl, tAcc 16, by decide +kernel, (requests_total ?_ ?_).choose_spec⟩,
    ⟨_, _, _, rfl, clear_of_calm tS_calm _ rfl rfl, tAcc 8, by decide +kernel, (requests_total ?_ ?_).choose_spec⟩,
    ⟨_, _, _, rfl, clear_of_calm tS_calm _ rfl rfl, tAcc 8, by decide +kernel, (requests_total ?_ ?_).choose_spec⟩,
    ⟨_, _, _, rfl, clear_of_calm tS_calm _ rfl rfl, tAcc 8, by decide +kernel, (requests_total ?_ ?_).choose_spec⟩,
    ⟨_, _, _, rfl, clear_of_calm tS_calm _ rfl rfl, by decide +kernel, tAcc 8, by decide +kernel,
      (requests_total ?_ ?_).choose_spec⟩,
    ⟨_, _, _, rfl, clear_of_calm tS_calm _ rfl rfl, by decide +kernel, tAcc0 0x2004, by decide +kernel,
      (requests_total ?_ ?_).choose_spec⟩,
    ⟨_, _, _, rfl, clear_of_calm tS_calm _ rfl rfl, by decide +kernel, tAcc0 0x2040, by decide +kernel,
      (requests_total ?_ ?_).choose_spec⟩⟩
  all_goals decide +kernel

/-- Fences, waits and the states of lines: a phase that differs, and one that does not. -/
theorem witness_fabric_waits :
    Reaches Claims.fabrics tS (tFibre 0) (.fence tc .ar .sys) ∧ Reaches Claims.fabrics tS (tFibre 0) (.fence tc .acq .unit) ∧ Reaches Claims.fabrics tS (tFibre 0) (.stroke tc) ∧
    Reaches Claims.fabrics tS (tFibre 0) (.barwait tc .gang (tm 8) (.const 1)) ∧
    Reaches Claims.fabrics tS (tFibre 0) (.bartest tc .unit 15 (tm 8) (.const 0)) ∧
    Reaches Claims.fabrics tS (tFibre 0) (.bartest tc .gang 1 (tm 8) (.const 1)) ∧
    Reaches Claims.fabrics tS (tFibre 0) (.mwait tc false .n32 tmm 2 (tm 8) (.const 1)) ∧
    Reaches Claims.fabrics tS (tFibre 0) (.mwait tc true .n64 tmm 2 (tm 8) (.const 0)) ∧
    Reaches Claims.fabrics tS (tFibre 0) (.lnflush tc (tmc 0 0x2000)) ∧
    Reaches Claims.fabrics tS (tFibre 0) (.lnstat tc 2 (tm 8)) := by
  refine ⟨⟨_, _, _, rfl, clear_of_calm tS_calm _ rfl rfl, fun r h => absurd (show r ∈ ([] : List Req) from h) (by simp),
      fun _ => by decide +kernel, rfl⟩,
    ⟨_, _, _, rfl, clear_of_calm tS_calm _ rfl rfl, fun r h => absurd (show r ∈ ([] : List Req) from h) (by simp),
      fun _ => by decide +kernel, rfl⟩,
    ⟨_, _, _, rfl, clear_of_calm tS_calm _ rfl rfl, rfl⟩,
    ⟨_, _, _, rfl, clear_of_calm tS_calm _ rfl rfl, tAcc 8, by decide +kernel, .inr ⟨by decide +kernel, by decide +kernel,
      by decide +kernel, by decide +kernel, by decide +kernel, by decide +kernel, rfl⟩⟩,
    ⟨_, _, _, rfl, clear_of_calm tS_calm _ rfl rfl, tAcc 8, by decide +kernel, by decide +kernel, by decide +kernel,
      by decide +kernel, fun _ => by decide +kernel, rfl⟩,
    ⟨_, _, _, rfl, clear_of_calm tS_calm _ rfl rfl, tAcc 8, by decide +kernel, by decide +kernel, by decide +kernel,
      by decide +kernel, fun _ => by decide +kernel, rfl⟩,
    ⟨_, _, _, rfl, clear_of_calm tS_calm _ rfl rfl, tAcc 8, by decide +kernel, fun _ => by decide +kernel, .inr ?_,
      by decide +kernel, ?_, rfl⟩,
    ⟨_, _, _, rfl, clear_of_calm tS_calm _ rfl rfl, tAcc 8, by decide +kernel, fun _ => by decide +kernel, .inr ?_,
      by decide +kernel, ?_, rfl⟩,
    ⟨_, _, _, rfl, clear_of_calm tS_calm _ rfl rfl, tAcc0 0x2000, by decide +kernel, rfl⟩,
    ⟨_, _, _, rfl, clear_of_calm tS_calm _ rfl rfl, tAcc 8, by decide +kernel, rfl⟩⟩
  all_goals first | (simp only [Claims.free]; decide +kernel) | (simp only [Claims.meets]; decide +kernel)

/-- A window move with nothing to move. -/
theorem moves_none {r : VReg} {p : MemOp} {n : Src} {need : Byte} {ok : Fibre → Prop}
    {go : Nat → Nat → Nat → Ctx → State → State → Prop} {x : Ctx} {s : State}
    (h : (x.f.src32 n).toNat = 0 ∨ (x.f.src32 n).toNat ≤ x.f.moved) : ∃ t, Claims.moves r p n need ok go x s t :=
  ⟨s.modCur fun f => { f with prog := 0 }, by unfold Claims.moves; exact (if_pos h).mpr rfl⟩

/-- A window move with words to move. -/
theorem moves_some {r : VReg} {p : MemOp} {n : Src} {need : Byte} {ok : Fibre → Prop}
    {go : Nat → Nat → Nat → Ctx → State → State → Prop} {x : Ctx} {s t : State} {adr : Nat}
    (h : ¬ ((x.f.src32 n).toNat = 0 ∨ (x.f.src32 n).toNat ≤ x.f.moved)) (h1 : r.toNat + (x.f.src32 n).toNat ≤ 64) (h2 : ok x.f)
    (h3 : s.access x.u (x.f.cap p.cap.n) p.cap.n (x.f.offset p) (4 * (x.f.src32 n).toNat) 4 need = .ok adr)
    (h4 : go adr x.f.moved ((x.f.src32 n).toNat - x.f.moved) x s t) : Claims.moves r p n need ok go x s t := by
  unfold Claims.moves; exact (if_neg h).mpr ⟨h1, h2, adr, h3, h4⟩

/-- `WSPILL` and `WFILL` of nothing, and of the last register of the window. -/
theorem witness_WindowMovesComplete :
    let f := tFibre 0
    let u := tUnitOf f
    let o (r : VReg) (n : Src) : Op :=
      opM tc (tm 16) (n.reads 3 false true ++ (moveRange tS r n).map fun j => .reg 0 j false true) (n.lastRegs false) [] 0
    let w (r : VReg) (n : Src) : Op := opM tc (tm 16) (n.reads 3 false true) (n.lastRegs false) (moveRange tS r n) 0
    (∀ n ∈ [Src.const 0, .const 1], tS.Clear u f (o 63 n) ∧ ∃ t,
      Claims.moves 63 (tm 16) n permW (fun g => (g.cap (tm 16).cap.n).space ≠ 3)
        (fun adr i k x => Claims.spills x 63 (x.f.cap (tm 16).cap.n).space adr i k) { u := u, f := f.seen (o 63 n) }
        (tS.passed u f (o 63 n)) t) ∧
    (∀ n ∈ [Src.const 0, .const 1], tS.Clear u f (w 63 n) ∧ ∃ t,
      Claims.moves 63 (tm 16) n permR (fun g => (∀ q, (tm 16).idx = some q → ¬ (63 ≤ q.n.toNat ∧ q.n.toNat < 63 + (g.src32 n).toNat)) ∧
          ∀ j, srcRegNo n = some j → ¬ (63 ≤ j ∧ j < 63 + (g.src32 n).toNat))
        (fun adr i k x s t => ∃ t1, Claims.fills x 63 (x.f.cap (tm 16).cap.n).space adr i k x.f s t1 ∧
          t = t1.modCur fun g => (w 63 n).last.foldl (fun (g : Fibre) j => g.release j) g) { u := u, f := f.seen (w 63 n) }
        (tS.passed u f (w 63 n)) t) := by
  intro f u o w
  constructor
  · intro n hn
    refine ⟨clear_of_calm tS_calm _ rfl rfl, ?_⟩
    rcases List.mem_cons.mp hn with rfl | hn
    · exact moves_none (.inl rfl)
    · rw [List.mem_singleton] at hn
      subst hn
      refine ⟨_, moves_some (adr := 16) ?_ ?_ ?_ ?_ ⟨keyScratch 0 16, _, ?_, (stores_total ?_ ?_).choose_spec, rfl⟩⟩
      all_goals decide +kernel
  · intro n hn
    refine ⟨clear_of_calm tS_calm _ rfl rfl, ?_⟩
    rcases List.mem_cons.mp hn with rfl | hn
    · exact moves_none (.inl rfl)
    · rw [List.mem_singleton] at hn
      subst hn
      refine ⟨_, moves_some (adr := 16) ?_ ?_ ⟨fun q h => ?_, fun j h => ?_⟩ ?_
        ⟨_, ⟨keyScratch 0 16, .mem, ?_, .inr ?_, ?_, rfl⟩, rfl⟩⟩
      · decide +kernel
      · decide +kernel
      · cases h
      · cases h
      · decide +kernel
      · decide +kernel
      · simp only [Claims.free]; decide +kernel
      · decide +kernel

end Machine

/-! ### Witnesses: the engines -/

namespace Machine

/-- Two templates: from `c1` to `c2` with an offset, and to a bound side. -/
def tTemplates : List (BitVec 128) := [0x00000040_00000000_00000001_10000000#128, 0x00000040_00000000_00000001_50000000#128]
/-- A layout of one dimension, four words. -/
def tLayouts : List (BitVec 256) := [0x4#256 * 2 ^ 144 + 0x1#256 * 2 ^ 160 + 0x1#256 * 2 ^ 176 + 0x4#256 * 2 ^ 96 +
  0x1#256 * 2 ^ 112 + 0x1#256 * 2 ^ 128 + 0x466#256]
/-- A ring of two slots of 128 bytes at 0x4000, the first landed, the second taken. -/
def tRing : Ring :=
  { (default : Ring) with idx := 3, unit := some 1, desc := 0x00000007_00004000, slots := [.landed, .taken] }
/-- A node of a graph. -/
def tNode (n : Nat) : Node := { idx := n, raw := List.replicate 64 0, pendingN := 1, fired := false }
/-- A graph of two nodes and eight registers. -/
def tGraph : Graph := { (default : Graph) with inst := 1, nodes := [tNode 0, tNode 1], regs := List.replicate 8 0 }

/-- An image of no sections: magic, version, the flag WHOLE, the length, and the digest of nothing (R420). -/
def tImage : List Word :=
  [0x4142585A, 0x4D494B4E, 0x10001, 0x2, 0, 0, 0, 0, 0, 0, 0, 0, 0, 0, 0, 0, 0, 0, 0, 0, 0, 0, 0, 0, 0, 
    0, 0, 0, 0, 0, 0xC0, 0, 0xA760B038, 0x3896AC51, 0x7E32D94C, 0x6AE3B1B1, 0x11B7FD21, 0x4307BE14, 
    0xBFC70C4C, 0xDAE1F663, 0xBFDE4E27, 0xFB656FE7, 0xF1D21AD5, 0x5BB99848, 0, 0, 0, 0]

/-- The unit with its tables. -/
def tEUnit : Unit := { tUnit with templates := tTemplates, layouts := tLayouts, ring := some 3 }
/-- The small machine with its engines supplied: tables, a ring, a graph, a host ring, a host window, an image at 0x4000 and
the function that its kernel lies in. -/
def tE : State :=
  { tState with
    units := [tEUnit]
    mem := { tState.mem with cells := tState.mem.cells ++ tCells 0x4000 tImage }
    bank := { tState.bank with functions := [(0, 0, 0x1080)] }
    wire := { tState.wire with rings := [tRing] }
    fabric := { tState.fabric with hostWin := [{ func := 0, entry := 0, pcie := 0x100000, atomics := true }] }
    fe := { tState.fe with
      launches := [{ tLaunch with graph := some (1, 0) }], graphs := [tGraph]
      rings := [{ func := 0, idx := 2, base := 0, ctl := 0x80000100, head := 0, tail := 1 }] } }

theorem tE_calm : calm tE tEUnit (tFibre 0) = true := by decide +kernel

/-- A table has the instruction, nothing holds it back, and its effect can be had. -/
abbrev EReaches (table : Instr → Option Claims.Reach) (i : Instr) : Prop :=
  ∃ o R t, table i = some (o, R) ∧ tE.Clear tEUnit (tFibre 0) o ∧
    R { u := tEUnit, f := (tFibre 0).seen o } (tE.passed tEUnit (tFibre 0) o) t

/-- The transfer instructions. -/
theorem witness_TransferInstructionsComplete :
    EReaches Claims.transfers (.xfer tc 20 (.const 0) none) ∧ EReaches Claims.transfers (.xprom tc 20 (.const 0) (some (tr 0))) ∧
    EReaches Claims.transfers (.xtpl tc (tcap 1) (.const 1) true) ∧ EReaches Claims.transfers (.xwait tc (.const 0)) ∧
    EReaches Claims.transfers (.xcancel tc 20 (.imm 0xFFFFFFFF)) ∧ EReaches Claims.transfers (.xstat tc 20 (.const 0)) := by
  refine ⟨?_, ?_, ?_, ?_, ?_, ?_⟩
  · let o := opXfer tc 20 (.const 0) none 3
    let s := tE.passed tEUnit (tFibre 0) o
    let x := ((tFibre 0).seen o).xask (.const 0) none
    have room : (match s.xplan tEUnit x.tmpl x.x with
        | .ok p => s.xroom tEUnit p false && !s.xbehind 0 (p.store tEUnit) none
        | .error _ => false) = true := by decide +kernel
    cases hp : s.xplan tEUnit x.tmpl x.x with
    | error e => rw [hp] at room; cases room
    | ok p =>
      rw [hp] at room
      simp only [Bool.and_eq_true, Bool.not_eq_true'] at room
      exact ⟨o, _, _, rfl, clear_of_calm tE_calm _ rfl rfl, p, hp, by simp [Claims.released]; simp [tFibre], room.1,
        .inr room.2, rfl⟩
  · let o := opXfer tc 20 (.const 0) (some (tr 0)) 2
    let x := ((tFibre 0).seen o).xask (.const 0) (some (tr 0))
    obtain ⟨p, hp⟩ : ∃ p, (tE.passed tEUnit (tFibre 0) o).xplan tEUnit x.tmpl x.x = .ok p := ok_of_isSome (by decide +kernel)
    exact ⟨o, _, _, rfl, clear_of_calm tE_calm _ rfl rfl, p, hp, rfl⟩
  · refine ⟨_, _, _, rfl, clear_of_calm tE_calm _ rfl rfl, ?_, ?_, ⟨?_, ?_⟩, rfl⟩
    · decide +kernel
    · decide +kernel
    · decide +kernel
    · have h : (match tplOf tTemplates[1] with
          | some tp => (layOf tLayouts[0]).isSome && tp.lay == 0 && refKind tp.dstRef == 5
          | none => false) = true := by decide +kernel
      cases e : tplOf tTemplates[1] with
      | none => rw [e] at h; cases h
      | some tp =>
        simp only [e, Bool.and_eq_true, beq_iff_eq] at h
        obtain ⟨l, hl⟩ := Option.isSome_iff_exists.mp h.1.1
        refine ⟨tp, l, e, ?_, h.2⟩
        rw [h.1.2]
        show (tLayouts[0]?).bind layOf = some l
        rw [show tLayouts[0]? = some tLayouts[0] from by decide +kernel]
        rw [Option.bind_some]
        exact hl
  · exact ⟨_, _, _, rfl, clear_of_calm tE_calm _ rfl rfl, by decide +kernel, rfl, .inl (by decide +kernel)⟩
  · exact ⟨_, _, _, rfl, clear_of_calm tE_calm _ rfl rfl, rfl⟩
  · exact ⟨_, _, _, rfl, clear_of_calm tE_calm _ rfl rfl, _, rfl, .inl (by decide +kernel), rfl⟩

/-- The wire instructions: a post of the least length at a latch offset with the least room, a ring with a landed slot and a
taken one, and stamps of a pulse and of a post that is unknown. -/
theorem witness_WireInstructionsComplete :
    EReaches Claims.wires (.rxtake tc 20 (.const 3)) ∧ EReaches Claims.wires (.rxrel tc (.const 3) (.imm 0x4080)) ∧
    EReaches Claims.wires (.txpost tc 20 (tcap 1) none (.const 14)) ∧ EReaches Claims.wires (.txpostTs2 tc 20 (tcap 1) none (.imm 9212)) ∧
    EReaches Claims.wires (.txpostTs1 tc 20 (tcap 1) none (.imm 0x10040) 20) ∧ EReaches Claims.wires (.txstat tc 20 (.const 0)) ∧
    EReaches Claims.wires (.ptprd tc 20) ∧ EReaches Claims.wires (.tsrec tc 20 (.imm 0xC0000000)) ∧
    EReaches Claims.wires (.tsrec tc 20 (.const 0)) := by
  refine ⟨?_, ?_, ?_, ?_, ?_, ⟨_, _, _, rfl, clear_of_calm tE_calm _ rfl rfl, rfl⟩,
    ⟨_, _, _, rfl, clear_of_calm tE_calm _ rfl rfl, rfl⟩, ⟨_, _, _, rfl, clear_of_calm tE_calm _ rfl rfl, (if_pos rfl).mpr rfl⟩,
    ⟨_, _, _, rfl, clear_of_calm tE_calm _ rfl rfl, (if_neg (by decide +kernel)).mpr rfl⟩⟩
  · exact ⟨_, _, _, rfl, clear_of_calm tE_calm _ rfl rfl, tRing, by simp [Claims.released]; simp [tFibre], by decide +kernel,
      by decide +kernel, rfl⟩
  · exact ⟨_, _, _, rfl, clear_of_calm tE_calm _ rfl rfl, tRing, 1, by decide +kernel, by decide +kernel, by decide +kernel,
      by decide +kernel, by decide +kernel, by decide +kernel, rfl⟩
  · exact ⟨_, _, _, rfl, clear_of_calm tE_calm _ rfl rfl, 0, by decide +kernel, by decide +kernel, by decide +kernel,
      by decide +kernel, by decide +kernel, by decide +kernel, by decide +kernel, by simp [Claims.released]; simp [tFibre],
      by decide +kernel, by decide +kernel, by decide +kernel, rfl⟩
  · exact ⟨_, _, _, rfl, clear_of_calm tE_calm _ rfl rfl, 0, by decide +kernel, by decide +kernel, by decide +kernel,
      by decide +kernel, by decide +kernel, by decide +kernel, by decide +kernel, by simp [Claims.released]; simp [tFibre],
      by decide +kernel, by decide +kernel, by decide +kernel, rfl⟩
  · exact ⟨_, _, _, rfl, clear_of_calm tE_calm _ rfl rfl, 0, by decide +kernel, by decide +kernel, by decide +kernel,
      by decide +kernel, by decide +kernel, by decide +kernel, by decide +kernel, by simp [Claims.released]; simp [tFibre],
      by decide +kernel, by decide +kernel, by decide +kernel, rfl⟩

/-- The instructions of the front end's work. -/
theorem witness_fronts_work :
    EReaches Claims.fronts (.launch tc 20 (tmc 0 0x2000)) ∧ EReaches Claims.fronts (.cont tc 1) ∧
    EReaches Claims.fronts (.garm tc (.const 1)) ∧ EReaches Claims.fronts (.gcond tc (.const 7) (tv 0)) ∧
    EReaches Claims.fronts (.signalWrite tc (tmc 0 0x2000) (tv 0)) ∧ EReaches Claims.fronts (.signalAdd tc (tmc 4 8) (tv 0)) ∧
    EReaches Claims.fronts (.cancel tc .launch 20 (.const 0)) ∧ EReaches Claims.fronts (.lvlq tc .unit 20 (.const 1)) ∧
    EReaches Claims.fronts (.lvlq tc .job 20 (.const 15)) ∧ EReaches Claims.fronts (.hpost tc 20 (.const 2) (tr 0)) := by
  refine ⟨⟨_, _, _, rfl, clear_of_calm tE_calm _ rfl rfl, List.replicate 64 0, none, _, by decide +kernel,
      by decide +kernel, ⟨tAcc0 0x2000, by decide +kernel, by decide +kernel, (if_neg (by decide +kernel)).mpr ⟨rfl, rfl⟩⟩, rfl⟩,
    ?_, ⟨_, _, _, rfl, clear_of_calm tE_calm _ rfl rfl, tGraph, by decide +kernel, by unfold Claims.inGraph; decide +kernel,
      by decide +kernel, rfl⟩,
    ⟨_, _, _, rfl, clear_of_calm tE_calm _ rfl rfl, tGraph, by decide +kernel, by unfold Claims.inGraph; decide +kernel,
      by decide +kernel, rfl⟩,
    ⟨_, _, _, rfl, clear_of_calm tE_calm _ rfl rfl, tAcc0 0x2000, by decide +kernel, (requests_total ?_ ?_).choose_spec⟩,
    ⟨_, _, _, rfl, clear_of_calm tE_calm _ rfl rfl, { space := 4, adr := 8, key := keyHost 0x100008 }, by decide +kernel,
      by decide +kernel, (requests_total ?_ ?_).choose_spec⟩,
    ⟨_, _, _, rfl, clear_of_calm tE_calm _ rfl rfl, rfl⟩, ?_, ?_, ?_⟩
  · let o := opFe tc [] [] []
    obtain ⟨e, he⟩ : ∃ e, (tE.passed tEUnit (tFibre 0) o).successor { u := tEUnit, f := (tFibre 0).seen o } 1 = .ok e :=
      ok_of_isSome (by decide +kernel)
    exact ⟨o, _, _, rfl, clear_of_calm tE_calm _ rfl rfl, e, by decide +kernel, he, rfl⟩
  iterate 4 (· decide +kernel)
  · let o := opFe tc ((Src.const 1).reads 1 false true) ((Src.const 1).lastRegs false) (dstRegs 20 2)
    let s := tE.passed tEUnit (tFibre 0) o
    let x : Ctx := { u := tEUnit, f := (tFibre 0).seen o }
    have e : s.levelBy (s.myLaunch x) .unit (x.f.src32 (.const 1)) = none := by decide +kernel
    refine ⟨o, _, s.modCur fun f => f.pendRegs (x.f.base + 20) (regs64 (BitVec.allOnes 64)), rfl,
      clear_of_calm tE_calm _ rfl rfl, ?_⟩
    split
    · rfl
    · rename_i w h; exact absurd (e.symm.trans h) (by simp)
  · let o := opFe tc ((Src.const 15).reads 1 false true) ((Src.const 15).lastRegs false) (dstRegs 20 2)
    let s := tE.passed tEUnit (tFibre 0) o
    let x : Ctx := { u := tEUnit, f := (tFibre 0).seen o }
    obtain ⟨w, e⟩ : ∃ w, s.levelBy (s.myLaunch x) .job (x.f.src32 (.const 15)) = some w :=
      Option.isSome_iff_exists.mp (by decide +kernel)
    refine ⟨o, _, (if Level.job ≠ .unit ∧ w.extractLsb' 62 2 ≠ 0 then s.dropL1Shared x.u.core else s).modCur fun f =>
      f.pendRegs (x.f.base + 20) (regs64 w), rfl, clear_of_calm tE_calm _ rfl rfl, ?_⟩
    split
    · rename_i h; exact absurd (e.symm.trans h) (by simp)
    · rename_i v h; cases Option.some.inj (e.symm.trans h); rfl
  · exact ⟨_, _, _, rfl, clear_of_calm tE_calm _ rfl rfl, keyHost 0x100040, true, by decide +kernel, by decide +kernel,
      by decide +kernel, by decide +kernel, by decide +kernel, rfl⟩

/-- The instructions of banking and of the counters. -/
theorem witness_fronts_system :
    EReaches Claims.fronts (.bank tc 22 (tmc 0 0x2000) (tr 20)) ∧ EReaches Claims.fronts (.plant tc 20 (tmc 0 0x4000)) ∧
    EReaches Claims.fronts (.evsel tc (.const 16) (.imm 0x10A)) ∧ EReaches Claims.fronts (.evsel tc (.const 15) (.const 15)) ∧
    EReaches Claims.fronts (.evsel tc (.imm 79) (.const 0)) ∧ EReaches Claims.fronts (.evrd tc 20 (.const 0)) ∧
    EReaches Claims.fronts (.fqstat tc 20 7) := by
  refine ⟨?_, ?_, ⟨_, _, _, rfl, clear_of_calm tE_calm _ rfl rfl, by decide +kernel, by decide +kernel, by decide +kernel,
      by decide +kernel, rfl⟩, ⟨_, _, _, rfl, clear_of_calm tE_calm _ rfl rfl, by decide +kernel, by decide +kernel,
      by decide +kernel, by decide +kernel, rfl⟩, ⟨_, _, _, rfl, clear_of_calm tE_calm _ rfl rfl, by decide +kernel,
      by decide +kernel, by decide +kernel, by decide +kernel, rfl⟩, ⟨_, _, _, rfl, clear_of_calm tE_calm _ rfl rfl, rfl⟩,
    ⟨_, _, _, rfl, clear_of_calm tE_calm _ rfl rfl, rfl⟩⟩
  · let o : Op := { op0 tc with
      reads := (tmc 0 0x2000).reads ++ groupReads 3 20 2 true, last := (tmc 0 0x2000).lastRegs ++ (tr 20).lastRegs 2
      regs := dstRegs 22 2, ends := 3, takes := [.plant] }
    let s := tE.passed tEUnit (tFibre 0) o
    let x : Ctx := { u := tEUnit, f := (tFibre 0).seen o }
    have go : (match s.bankAsk (s.myLaunch x) ((x.f.pairAt (tr 20).n.toNat).extractLsb' 32 32).toNat
          (some ((x.f.cap (tmc 0 0x2000).cap.n).length - (x.f.offset (tmc 0 0x2000)).toNat)) with
        | .go _ _ => true
        | _ => false) = true := by decide +kernel
    split at go
    · exact ⟨o, _, _, rfl, clear_of_calm tE_calm _ rfl rfl, tAcc0 0x2000, s.myLaunch x, by decide +kernel, by decide +kernel,
        by decide +kernel, by decide +kernel, by decide +kernel, _, _, ‹_›, rfl⟩
    · cases go
  · exact ⟨_, _, _, rfl, clear_of_calm tE_calm _ rfl rfl, tAcc0 0x4000, tImage.flatMap fun w => bytesOfNat 4 w.toNat,
      by decide +kernel, by decide +kernel, by decide +kernel, by decide +kernel, rfl⟩

end Machine

/-! ### Witnesses: the matrix engine -/

namespace Machine

/-- The fibre at a matrix instruction. -/
def tAt : Fibre := { tFibre 0 with wait := some (.team 0x1000 0), served := false }
/-- A unit of two teams of 32, the first a crew with the second. -/
def tMUnit (f : Fibre) : Unit :=
  { tUnit with
    desc := { tDesc with teamLog2 := 5, fibres := 64 }, fibres := [f]
    teams := [{ idx := 0, set := true, mask := 3, h := false, count := 0 }] }
/-- The small machine with it. -/
def tM : State := { tState with units := [tMUnit (tFibre 0)] }

/-- The fibre is the last of its team to arrive, at any matrix instruction. -/
theorem tM_musters (o : Op) (all : Bool) :
    Claims.Musters tM (tMUnit (tFibre 0)) (tFibre 0) (tMUnit tAt) [tAt] tAt o all where
  cur := by decide +kernel
  late := .inr (.inr rfl)
  unit := by decide +kernel
  whole := by decide +kernel
  members := by decide +kernel
  first := rfl
  clear := by
    have e : (tMUnit tAt).teamLive ((tFibre 0).fid / (tMUnit (tFibre 0)).desc.team) = [tAt] := by decide +kernel
    intro x hx
    rw [e, List.mem_singleton] at hx
    subst hx; rfl
  rows := by
    have e : ∀ m ∈ (tMUnit tAt).teamLive ((tFibre 0).fid / (tMUnit (tFibre 0)).desc.team),
        (Claims.arrives tM (tFibre 0)).spilledOf (tMUnit tAt) m.fid = [] := by decide +kernel
    have n : (Claims.arrives tM (tFibre 0)).teamSpills (tMUnit tAt) ((tFibre 0).fid / (tMUnit (tFibre 0)).desc.team) o = [] := by
      rw [State.teamSpills, List.filterMap_eq_nil_iff]
      intro m hm
      simp [e m hm, spilledReads_nil]
    simp [n]
  ready := by
    intro x hx
    have e : x = tAt := by cases all <;> exact List.mem_singleton.mp hx
    subst e
    have p (d : Dest) : tAt.isPending d = false := rfl
    refine ⟨?_, ?_⟩
    · simp only [Op.memberBlocked, p, Bool.and_false, Bool.false_or, Bool.or_eq_false_iff, List.any_eq_false]
      exact ⟨fun r _ => by split <;> simp, by simp⟩
    · have c : (Claims.arrives tM (tFibre 0)).chkOf (tMUnit tAt) = false := by decide +kernel
      rw [Fibre.readTrap, c]
      exact codeTrap_none (by decide +kernel) (by decide +kernel) _
  stroke := .inl (by decide +kernel)

/-- A team has the instruction, and its effect can be had. -/
abbrev MReaches (i : Instr) : Prop :=
  ∃ o all R t, Claims.matrices (tMUnit (tFibre 0)).desc.team i = some (o, all, R) ∧
    Claims.Musters tM (tMUnit (tFibre 0)) (tFibre 0) (tMUnit tAt) [tAt] tAt o all ∧
    R (tMUnit tAt) (Claims.memberSeen all o [tAt] tAt) ([tAt].map (Claims.memberSeen all o [tAt]))
      (Claims.teamPassed (Claims.arrives tM (tFibre 0)) (tMUnit tAt) o all [tAt]) t

/-- The crew's instructions, with its last tile on the shelf and its last FIFO. -/
theorem witness_matrix_crew : MReaches (.crew 0 false (.imm 3)) ∧ MReaches (.mma 0 .f16 0 none 0 1 4 .zero) ∧
    MReaches (.acmt 0 0) ∧ MReaches (.aroll 0 0 1 4) := by
  refine ⟨⟨_, _, _, _, rfl, tM_musters _ _, by decide +kernel, by decide +kernel, by decide +kernel, by decide +kernel, rfl⟩,
    ⟨_, _, _, _, rfl, tM_musters _ _, by decide +kernel, by decide +kernel, by decide +kernel, ?_, by decide +kernel,
      by decide +kernel, rfl⟩,
    ⟨_, _, _, _, rfl, tM_musters _ _, by decide +kernel, by decide +kernel, by decide +kernel, ?_, by decide +kernel,
      by decide +kernel, rfl⟩,
    ⟨_, _, _, _, rfl, tM_musters _ _, by decide +kernel, by decide +kernel, by decide +kernel, ?_, by decide +kernel,
      by decide +kernel, rfl⟩⟩
  · intro b hb; cases hb; decide +kernel
  · intro b hb; cases hb
  · intro b hb; cases hb; decide +kernel

/-- The operations of one team, on the last tile of the shelf. -/
theorem witness_matrix_tile : MReaches (.aclr 0 1) ∧ MReaches (.aload 0 false 1 (tm 0x1000)) ∧
    MReaches (.astore 0 true 1 (tm 0x1000)) ∧ MReaches (.adrain 0 false none 1 (tr 10)) ∧
    MReaches (.adrainS 0 false 1 (tcap 1) none 0) ∧ MReaches (.areduce 0 false 1 (.imm 256) 0) ∧ MReaches (.fqdrop 0 7) := by
  refine ⟨⟨_, _, _, _, rfl, tM_musters _ _, by decide +kernel, by decide +kernel, by decide +kernel, rfl⟩,
    ⟨_, _, _, _, rfl, tM_musters _ _, tAcc 0x1000, by decide +kernel, by decide +kernel, by decide +kernel, by decide +kernel,
      by decide +kernel, rfl⟩,
    ⟨_, _, _, _, rfl, tM_musters _ _, tAcc 0x1000, by decide +kernel, by decide +kernel, by decide +kernel, by decide +kernel,
      by decide +kernel, rfl⟩,
    ⟨_, _, _, _, rfl, tM_musters _ _, by decide +kernel, by decide +kernel, by decide +kernel, rfl⟩,
    ⟨_, _, _, _, rfl, tM_musters _ _, tAcc 0, by decide +kernel, by decide +kernel, by decide +kernel, by decide +kernel,
      by decide +kernel, rfl⟩,
    ⟨_, _, _, _, rfl, tM_musters _ _, by decide +kernel, by decide +kernel, by decide +kernel, by decide +kernel,
      by decide +kernel, rfl⟩,
    ⟨_, _, _, _, rfl, tM_musters _ _, by decide +kernel, rfl⟩⟩

end Machine

/-! ### Witnesses: what happens outside a fibre's own turn -/

namespace Machine

/-- A table says what an event leaves of a state. -/
abbrev Fires (table : Instr → State → State → Prop) (i : Instr) (s : State) : Prop := ∃ t, table i s t

/-- The small machine while its fibre waits. -/
abbrev tW (w : Wait) : State := { tWith { tFibre 0 with wait := some w } with clk := 2000000, time := 2 ^ 42 }
theorem tW_unit (w : Wait) : (tW w).unit? 1 = some (tUnitOf { tFibre 0 with wait := some w }) := rfl
theorem tW_fibre (w : Wait) : (tUnitOf { tFibre 0 with wait := some w }).fibre? 0 = some { tFibre 0 with wait := some w } := rfl
theorem tW_waits (w : Wait) : Claims.waiting (tW w) 1 0 w (tUnitOf { tFibre 0 with wait := some w }) { tFibre 0 with wait := some w } :=
  ⟨rfl, rfl⟩
/-- The core of the small machine altered. -/
abbrev tCore (f : Core → Core) (s : State) : State := s.modCore 0 f
/-- A read-modify-write of the host's memory, sent. -/
def tReq : Req :=
  { seq := 1, kind := .amo .add false 1, cls := .at, acquire := false, scope := .dev, space := 4, addr := 8, key := keyHost 8
    size := 4, dests := [], creg := 0, sent := false, pc := 0x1000, issued := 0, undo := [], time := 0 }
/-- The small machine with a request of its fibre under way. -/
abbrev tOut (r : Req) : State := tWith { tFibre 0 with outst := [r] }
theorem tOut_unit (r : Req) : (tOut r).unit? 1 = some (tUnitOf { tFibre 0 with outst := [r] }) := rfl
theorem tOut_fibre (r : Req) : (tUnitOf { tFibre 0 with outst := [r] }).fibre? 0 = some { tFibre 0 with outst := [r] } := rfl
/-- A line whose token and data the cluster of requester 0 holds. -/
def tLine (n : Nat) : Line :=
  { Line.fresh n with
    homeTokens := Config.tokens - 1
    holders := [{ req := 0, tokens := 1, owner := false, valid := true, dirty := false, seen := 0, forward := none, epoch := 0 }] }
/-- Another fibre of its team, at another address. -/
def tApart : Fibre := { tFibre 1 with pc := 0x1002 }
/-- A record of the trap of one fibre. -/
def tRec (held : Bool) : TrapRec :=
  { (default : TrapRec) with num := 3, cause := 0x30, covers := [(1, 0)], page := 0x1000, held := held }
/-- A fault of a fibre that has ended. -/
def tLate (cause : Byte) : LateTrap :=
  { (default : LateTrap) with unit := 1, launch := 1, fid := 1, pc := 0x1000, cause := cause, clk := 1000 }
/-- The small machine with a screened copy of unit 0 that gave a word of its own. -/
abbrev tScreen (a b : DWord) : State :=
  { tState with fe := { tState.fe with launches := [{ tLaunch with screens := [(0, false, 0, a), (0, true, 1, b)] }] } }

/-- What the load of a word is to `issue`. -/
def tLd : Op := { opM tc (tm 8) [] [] (dstRegs 2 1) 0 with takes := acqTakes tmm }

/-- A load parked at the memory system and one at the host, each answered. -/
theorem witness_ReturningLoadsComplete :
    (∃ u f s1, let w := tW (.load (.ld tc .i32 tmm 2 (tm 8)) 0x5000 0 0x5000)
      let s : State := { w with fabric := { w.fabric with lines := [tLine 0x140] } }
      Claims.returning (.ld tc .i32 tmm 2 (tm 8)) 1 0 s (.loadDataReturn 1 0) s1 ∧
        ∃ o R, Claims.answered (.ld tc .i32 tmm 2 (tm 8)) = some (o, R) ∧ s1.Clear u f o ∧
          ∃ t, R { u := u, f := f.seen o } (s1.passed u f o) t) ∧
    (∃ u f s1, let s := tW (.hostRead (.ld tc .i32 tmm 2 (tm 8)) 0)
      Claims.returning (.ld tc .i32 tmm 2 (tm 8)) 1 0 s (.pcieCompletion 1 0 .success false) s1 ∧
        ∃ o R, Claims.answered (.ld tc .i32 tmm 2 (tm 8)) = some (o, R) ∧ s1.Clear u f o ∧
          ∃ t, R { u := u, f := f.seen o } (s1.passed u f o) t) := by
  have served (s : State) (h : calm s (tUnitOf { tFibre 0 with served := true }) { tFibre 0 with served := true } = true)
      (r : (s.passed (tUnitOf { tFibre 0 with served := true }) { tFibre 0 with served := true } tLd).reachMem
        { u := tUnitOf { tFibre 0 with served := true }, f := ({ tFibre 0 with served := true } : Fibre).seen tLd } (tm 8) 4 4
        permR rightR allSpaces = .ok (tAcc 8)) :
      ∃ o R, Claims.answered (.ld tc .i32 tmm 2 (tm 8)) = some (o, R) ∧
        s.Clear (tUnitOf { tFibre 0 with served := true }) { tFibre 0 with served := true } o ∧
        ∃ t, R { u := tUnitOf { tFibre 0 with served := true }, f := ({ tFibre 0 with served := true } : Fibre).seen o }
          (s.passed (tUnitOf { tFibre 0 with served := true }) { tFibre 0 with served := true } o) t := by
    exact ⟨_, _, rfl, clear_of_calm h _ rfl rfl, _, tAcc 8, _, .mem, _, r,
      .inl ⟨by decide +kernel, .inl ⟨rfl, fun h => absurd h (by decide +kernel)⟩, .inl (by decide), rfl, rfl⟩, rfl⟩
  constructor
  · refine ⟨_, _, _, ⟨rfl, rfl, _, _, 0x5000, 0, 0x5000, ⟨rfl, rfl⟩, .inr ⟨by decide +kernel, by decide +kernel, rfl⟩⟩,
      served _ ?_ ?_⟩
    · decide +kernel
    · decide +kernel
  · refine ⟨_, _, _, ⟨rfl, rfl, _, _, tW_unit _, tW_fibre _, rfl, ⟨0, rfl⟩, rfl⟩, served _ ?_ ?_⟩
    · decide +kernel
    · decide +kernel

/-- The events of fibres: two fibres of a team apart, refills, batches, waits that end, results, requests, traps, screens. -/
theorem witness_fibre_waits :
    Fires Claims.fibreEvents (.teamConvergenceTimeout 1 0)
      { tState with clk := 2000000, units := [{ tUnit with fibres := [{ tFibre 0 with wait := some (.team 0x1000 0) }, tApart] }] } ∧
    ({ tState with clk := 2000000 } : State).stalledAt
      { tUnit with fibres := [{ tFibre 0 with wait := some (.team 0x1000 0) }, tApart] } 0 = [0x1000] ∧
    Fires Claims.fibreEvents (.registerFill 1 0) (tW (.fill [64])) ∧
    Fires Claims.fibreEvents (.batchRegroup 95 3) (tW .regroup) ∧
    Fires Claims.fibreEvents (.sleepExpiry 1 0) (tW (.sleep 1000 false)) ∧ Fires Claims.fibreEvents (.sleepExpiry 1 0) (tW (.sleep 0 true)) ∧
    Fires Claims.fibreEvents (.monitorWake 1 0) (tW (.monitor 0x5000 true 0)) ∧
    Fires Claims.fibreEvents (.monitorRereadTimer 1 0) (tW (.monitor 0x5000 false 0)) ∧
    Fires Claims.fibreEvents (.variableLatencyResult 1 0) (tW .result) := by
  refine ⟨⟨_, _, rfl, rfl⟩, by decide +kernel, ⟨_, _, _, _, tW_waits _, rfl⟩,
    ⟨_, by decide +kernel, by decide +kernel, by decide +kernel, rfl⟩,
    ⟨_, _, _, 1000, false, tW_waits _, by decide +kernel, by decide +kernel, rfl⟩,
    ⟨_, _, _, 0, true, tW_waits _, by decide +kernel, by decide +kernel, rfl⟩,
    ⟨_, _, _, _, _, tW_waits _, by decide +kernel, rfl⟩,
    ⟨_, _, _, _, _, tW_waits _, by decide +kernel, by decide +kernel, rfl⟩, ⟨_, rfl⟩⟩

/-- Requests: one sent to the host, one of memory whose tokens are held, and the host's answers. -/
theorem witness_fibre_requests :
    Fires Claims.fibreEvents (.accessPerformed 1 0 0) (tOut tReq) ∧
    Fires Claims.fibreEvents (.accessPerformed 1 0 0) (tOut { tReq with space := 1, key := keyScratch 0 8 }) ∧
    Fires Claims.fibreEvents (.pcieCompletion 1 0 .unsupported false) (tW (.hostRead (.ld tc .i32 tmm 2 (tm 8)) 0)) ∧
    Fires Claims.fibreEvents (.pcieCompletion 1 0 .success true) (tW (.hostRead (.ld tc .i32 tmm 2 (tm 8)) 0)) ∧
    Fires Claims.fibreEvents (.pcieCompletion 1 0 .abort false) (tOut { tReq with sent := true }) ∧
    Fires Claims.fibreEvents (.pcieCompletion 1 0 .success true) (tOut { tReq with sent := true }) ∧
    Fires Claims.fibreEvents (.pcieCompletion 1 0 .success false) (tOut { tReq with sent := true }) ∧
    Fires Claims.fibreEvents (.pcieCompletionTimeout 1 0) (tW (.hostRead (.ld tc .i32 tmm 2 (tm 8)) 0)) ∧
    Fires Claims.fibreEvents (.pcieCompletionTimeout 1 0) { tOut { tReq with sent := true } with time := 2 ^ 42 } := by
  refine ⟨?_, ?_,
    ⟨_, _, _, tW_unit _, tW_fibre _, .inl ⟨_, _, rfl, rfl, .inl ⟨by decide, rfl⟩⟩⟩,
    ⟨_, _, _, tW_unit _, tW_fibre _, .inl ⟨_, _, rfl, rfl, .inr ⟨rfl, rfl, rfl⟩⟩⟩,
    ⟨_, _, _, tOut_unit _, tOut_fibre _, .inr ⟨_, fun _ _ => nofun, rfl, .inl ⟨by decide, rfl⟩⟩⟩,
    ⟨_, _, _, tOut_unit _, tOut_fibre _, .inr ⟨_, fun _ _ => nofun, rfl, .inr (.inl ⟨rfl, rfl, rfl⟩)⟩⟩,
    ⟨_, _, _, tOut_unit _, tOut_fibre _, .inr ⟨_, fun _ _ => nofun, rfl, .inr (.inr ⟨rfl, rfl, rfl⟩)⟩⟩,
    ⟨_, _, _, tW_unit _, tW_fibre _, .inl ⟨_, _, rfl, rfl, by unfold Claims.overdue; decide +kernel, rfl⟩⟩,
    ⟨_, _, _, rfl, rfl, .inr ⟨_, fun _ _ => nofun, rfl, by unfold Claims.overdue; decide +kernel, rfl⟩⟩⟩
  · refine ⟨_, _, _, tReq, tOut_unit _, tOut_fibre _, rfl,
      (if_neg (by decide +kernel)).mpr ((if_pos (by decide +kernel)).mpr rfl)⟩
  · refine ⟨_, _, _, { tReq with space := 1, key := keyScratch 0 8 }, tOut_unit _, tOut_fibre _, rfl,
      (if_neg (by decide +kernel)).mpr ((if_neg (by decide +kernel)).mpr ⟨by decide +kernel, rfl⟩)⟩

/-- Traps: an unassigned code, a trap made one with others and one that ends its gang, records disposed of, a debugger's
actions, and a screened unit's two results, alike and different. -/
theorem witness_fibre_traps :
    Fires Claims.fibreEvents (.unassignedOpcode 1) tState ∧
    Fires Claims.fibreEvents (.trapCoalesce 1 0) (tW (.trapped 0x0A 0 none)) ∧
    Fires Claims.fibreEvents (.trapCoalesce 1 0) (tW (.trapped 0x30 0 none)) ∧
    Fires Claims.fibreEvents (.trapCoalesce 1 1) (tCore (fun c => { c with lateTraps := [tLate 0x0A] }) tState) ∧
    Fires Claims.fibreEvents (.trapCoalesce 1 1) (tCore (fun c => { c with lateTraps := [tLate 0x36] }) tState) ∧
    Fires Claims.fibreEvents (.trapRecordDisposal 0 .refuse false) (tCore (fun c => { c with records := [tRec false] }) tState) ∧
    Fires Claims.fibreEvents (.trapRecordDisposal 96 .refuse false)
      { tState with fe := { tState.fe with graphs := [{ (default : Graph) with inst := 1, fault := some (0, 0x5000) }] } } ∧
    Fires Claims.fibreEvents (.debuggerAction 0 .resume) (tCore (fun c => { c with records := [tRec true] }) tState) ∧
    Fires Claims.fibreEvents (.debuggerAction 0 .finish) (tCore (fun c => { c with records := [tRec true] }) tState) ∧
    Fires Claims.fibreEvents (.screenCompare (2 ^ 24)) (tScreen 5 5) ∧ Fires Claims.fibreEvents (.screenCompare (2 ^ 24)) (tScreen 5 6) := by
  refine ⟨⟨_, _, _, rfl, rfl⟩, ⟨_, .inl ⟨_, _, _, _, _, tW_waits _, (if_pos rfl).mpr rfl⟩⟩, ?_,
    ⟨_, .inr ⟨_, _, _, rfl, by decide +kernel, rfl, rfl, (if_pos rfl).mpr rfl⟩⟩, ?_,
    ⟨_, .inr ⟨_, rfl, .inl ⟨_, rfl, rfl⟩⟩⟩, ⟨_, .inl ⟨by decide +kernel, _, _, rfl, rfl⟩⟩, ⟨_, _, _, rfl, rfl, rfl⟩,
    ⟨_, _, _, rfl, rfl, rfl⟩,
    ⟨_, _, _, _, rfl, rfl, (if_pos (by decide +kernel)).mpr rfl⟩,
    ⟨_, _, _, _, rfl, rfl, (if_neg (by decide +kernel)).mpr rfl⟩⟩
  · have h : ((tW (.trapped 0x30 0 none)).coalesce (tUnitOf { tFibre 0 with wait := some (.trapped 0x30 0 none) })
        { unit := 1, launch := 1, no := 0, fid := 0, seat := 0, pc := 0x1000, cause := 0x30, arg := 0, addr := none, clk := 0 }
        true).isSome = true := by decide +kernel
    obtain ⟨s1, e⟩ := Option.isSome_iff_exists.mp h
    exact ⟨_, .inl ⟨_, _, _, _, _, tW_waits _, (if_neg (by decide +kernel)).mpr ⟨s1, e, rfl⟩⟩⟩
  · have h : ((tCore (fun c => { c with lateTraps := [tLate 0x36] }) tState).coalesce tUnit (tLate 0x36) false).isSome = true := by
      decide +kernel
    obtain ⟨s1, e⟩ := Option.isSome_iff_exists.mp h
    exact ⟨_, .inr ⟨_, _, _, rfl, by decide +kernel, rfl, rfl, (if_neg (by decide +kernel)).mpr ⟨s1, e, rfl⟩⟩⟩

end Machine

/-! ### Witnesses: the token protocol -/

namespace Machine

/-- The small machine with one line supplied. -/
abbrev tLineS (l : Line) : State := { tState with time := 2 ^ 40, fabric := { tState.fabric with lines := [l], lostDir := [9] } }
/-- Line 5 with a message for a holder and one of another epoch, an attempt, an active requester and one waiting. -/
def tLine5 : Line :=
  { Line.fresh 5 with
    homeTokens := Config.tokens - 3
    msgs := [{ id := 1, dst := some 16, tokens := 1, owner := false, data := true, epoch := 0, away := false },
      { id := 2, dst := none, tokens := 1, owner := false, data := false, epoch := 7, away := false },
      { id := 3, dst := none, tokens := 1, owner := false, data := false, epoch := 0, away := false }]
    attempts := [{ req := 16, write := false, count := 1, first := 0, sent := 0, persistent := false, fill := [] },
      { req := 32, write := false, count := 1, first := 2 ^ 40, sent := 0, persistent := false, fill := [] }]
    active := some 48, timer := some 5, hints := [0], actMsgs := [{ dst := 16, num := 3, active := some 48 }] }

/-- The events of the token protocol: requests at a home and at a holder, messages taken, discarded and passed on, attempts
made persistent or again, persistent requests, their end, activations, a lost owner, evictions, a freed entry. -/
theorem witness_TokenEventsComplete :
    Fires Claims.tokenEvents (.coherenceRequest 5 16 true none) (tLineS tLine5) ∧
    Fires Claims.tokenEvents (.coherenceRequest 5 16 true (some 0)) (tLineS tLine5) ∧
    Fires Claims.tokenEvents (.tokenArrival 5 ⟨1, [], false⟩) (tLineS tLine5) ∧ Fires Claims.tokenEvents (.tokenArrival 5 ⟨2, [], false⟩) (tLineS tLine5) ∧
    Fires Claims.tokenEvents (.tokenArrival 5 ⟨3, [], false⟩) (tLineS tLine5) ∧
    Fires Claims.tokenEvents (.attemptTimeout 5 16) (tLineS tLine5) ∧ Fires Claims.tokenEvents (.attemptTimeout 5 32) (tLineS tLine5) ∧
    Fires Claims.tokenEvents (.attemptTimeout 5 16) (tLineS ((tLine5).setHolder { (tLine5).holder 16 with tokens := 3, valid := true })) ∧
    Fires Claims.tokenEvents (.tokenArrival 5 ⟨0, [], true⟩) (tLineS tLine5) ∧
    Fires Claims.tokenEvents (.persistentRequest 5 16) (tLineS tLine5) ∧
    Fires Claims.tokenEvents (.persistentRequest 5 16) (tLineS { tLine5 with active := none }) ∧
    Fires Claims.tokenEvents (.persistentSatisfied 5 48) (tLineS tLine5) ∧
    Fires Claims.tokenEvents (.activationMessage 5 ⟨16, 3⟩) (tLineS tLine5) ∧ Fires Claims.tokenEvents (.ownerTimeout 5) (tLineS tLine5) ∧
    Fires Claims.tokenEvents (.ownerTimeout 5) (tLineS { tLine5 with active := none }) ∧
    Fires Claims.tokenEvents (.l2Eviction 5 16) (tLineS tLine5) ∧ Fires Claims.tokenEvents (.l1CopyExpiry 95 5) (tLineS tLine5) ∧
    Fires Claims.tokenEvents (.directoryEntryFree 9) (tLineS (Line.fresh 9)) ∧
    Fires Claims.tokenEvents (.staleEpochDiscard 5 2) (tLineS tLine5) := by
  refine ⟨?_, ⟨_, rfl⟩,
    ⟨_, { id := 1, dst := some 16, tokens := 1, owner := false, data := true, epoch := 0, away := false }, rfl, (if_neg (by decide +kernel)).mpr rfl⟩,
    ⟨_, _, rfl, (if_pos (by decide +kernel)).mpr rfl⟩,
    ⟨_, { id := 3, dst := none, tokens := 1, owner := false, data := false, epoch := 0, away := false }, rfl,
      (if_neg (by decide +kernel)).mpr rfl⟩,
    ⟨_, _, rfl, rfl, .inr ⟨by decide +kernel, by decide +kernel, .inl (by decide +kernel), (if_pos (by decide +kernel)).mpr rfl⟩⟩,
    ⟨_, _, rfl, rfl, .inr ⟨by decide +kernel, by decide +kernel, .inl (by decide +kernel), (if_neg (by decide +kernel)).mpr rfl⟩⟩,
    ⟨_, _, rfl, rfl, .inl ⟨by decide +kernel, rfl⟩⟩, ⟨_, rfl⟩,
    ?_, ?_, ⟨_, rfl, rfl⟩,
    ⟨_, by decide +kernel, _, rfl, (if_neg (by decide +kernel)).mpr rfl⟩,
    ⟨_, .inr ⟨_, _, rfl, rfl, by decide +kernel, (if_neg (by decide +kernel)).mpr rfl⟩⟩,
    ⟨_, .inl ⟨rfl, rfl⟩⟩, ⟨_, by decide +kernel, rfl⟩, ⟨_, rfl⟩,
    ⟨_, by decide +kernel, by decide +kernel, by decide +kernel, by decide +kernel, rfl⟩, ⟨_, ⟨_, by exact List.mem_cons_of_mem _ (List.mem_cons_self ..), rfl, by decide⟩, rfl⟩⟩
  · apply Exists.intro; unfold Claims.tokenEvents
    exact (if_neg (by decide +kernel)).mpr ((if_neg (by decide +kernel)).mpr rfl)
  · apply Exists.intro; unfold Claims.tokenEvents
    exact ⟨by decide +kernel, (if_neg (by decide +kernel)).mpr rfl⟩
  · apply Exists.intro; unfold Claims.tokenEvents
    exact ⟨by decide +kernel, (if_neg (by decide +kernel)).mpr rfl⟩

/-- A round of a DET launch over, and being committed. -/
theorem witness_TokenEventsComplete_rounds :
    let s (c : Bool) : State := { tState with
      units := [], fe := { tState.fe with launches := [{ tLaunch with det := true, begun := true, committing := c, part := { tLaunch.part with grid := 0 } }] } }
    Fires Claims.tokenEvents (.detRoundCommit 1) (s true) ∧ Fires Claims.tokenEvents (.detRoundCommit 1) (s false) := by
  exact ⟨⟨_, _, rfl, rfl, (if_pos rfl).mpr ⟨rfl, rfl⟩⟩, ⟨_, _, rfl, rfl, (if_neg (by decide +kernel)).mpr ⟨by decide +kernel, rfl⟩⟩⟩

end Machine

/-! ### Witnesses: the engines' events -/

namespace Machine

/-- A transfer of template 0 that its fibre asked for: from space 0 to the scratchpad. -/
def tXReq : XReq :=
  { (default : XReq) with id := 5, unit := 1, fid := some 0, tmpl := 0, src := tCapReg 0 0, dst := tCapReg 1 7, seq := 0x100000001 }
/-- Core 0 of the machine with engines, with a transfer. -/
def tXCore (r : XReq) : Core := { Core.reset 0 with loadQ := [r] }
/-- The machine with it. -/
abbrev tX (r : XReq) : State := { tE with cores := [tXCore r] }
/-- Its plan. -/
def tXPlan : XPlan := (tEUnit.xplanOf tXReq).getD { tpl := default, lay := default, src := default, dst := default, fifo := none, elems := [] }

theorem xplanOf_written (u : Unit) (r : XReq) (b : Bool) : u.xplanOf { r with written := b } = u.xplanOf r := rfl

theorem tX_request (r : XReq) (i : r.id = 5) (u : r.unit = 1) (p : XPlan) (h : tEUnit.xplanOf r = some p) :
    Claims.request (tX r) 0 5 r tEUnit p := by
  refine ⟨?_, by rw [u]; rfl, h, rfl⟩
  show (([r] ++ []).find? fun x => x.id == 5) = some r
  simp [i]

/-- A move, a stamp that comes after it, a fault, a page that has come, and promises: a fibre's, late for the first time and
again, and a late promise of no fibre. -/
theorem witness_transfer_moves :
    Fires Claims.transferEvents (.transferComplete 0 5) (tX tXReq) ∧
    Fires Claims.transferEvents (.sequenceStampWrite 0 5) (tX { tXReq with written := true }) ∧
    Fires Claims.transferEvents (.transferFault 0 5 .pageRefused) (tX { tXReq with fault := some 0x5000 }) ∧
    Fires Claims.transferEvents (.transferPageResume 0 5) (tX { tXReq with fault := some 0x50 }) ∧
    Fires Claims.transferEvents (.promiseExpiry 0 5) (tX tXReq) ∧
    Fires Claims.transferEvents (.promiseExpiry 0 5) (tX { tXReq with lateRaised := true }) ∧
    Fires Claims.transferEvents (.promiseExpiry 0 5) (tX { tXReq with fid := none }) := by
  obtain ⟨p, hp⟩ : ∃ p, tEUnit.xplanOf tXReq = some p := Option.isSome_iff_exists.mp (by decide +kernel)
  have hf : p.fifo = none ∧ p.tpl.count = false := by
    have : ((tEUnit.xplanOf tXReq).map fun p => p.fifo == none && !p.tpl.count) = some true := by decide +kernel
    rw [hp] at this; simpa using this
  refine ⟨?_, ?_, ⟨_, _, rfl, by decide, rfl⟩, ⟨_, _, _, _, rfl, rfl, rfl, by decide +kernel, rfl⟩,
    ⟨_, _, rfl, rfl, by decide +kernel, .inr ⟨0, rfl, ⟨rfl, _, p, _, rfl, hp, hf.2, rfl, rfl⟩, rfl⟩⟩,
    ⟨_, _, rfl, rfl, by decide +kernel, .inl ⟨.inr ⟨0, rfl, by intro h; exact absurd h.1 (by decide)⟩, rfl⟩⟩,
    ⟨_, _, rfl, rfl, by decide +kernel, .inl ⟨.inl rfl, rfl⟩⟩⟩
  · have m : ((tEUnit.xplanOf tXReq).map fun p => ((tX tXReq).movement tEUnit tXReq.tmpl p tXReq.rmode p.elems).toOption.isSome) =
        some true := by decide +kernel
    rw [hp] at m
    obtain ⟨⟨bs, ws⟩, hm⟩ := ok_of_isSome (Option.some.inj m)
    refine ⟨(((tX tXReq).noteMove p 0 bs).unitWrite tEUnit tXReq.fid.toList tXReq.id p.dst.space
      (if tEUnit.screened = true then writeRuns ws bs else []) ws (coversLine bs)).paidX tEUnit 0 tXReq p,
      tXReq, tEUnit, p, tXCore tXReq, tX_request _ rfl rfl _ hp, rfl, by decide +kernel, ?_⟩
    rw [hf.1]
    intro x hx
    rw [hm] at hx; subst hx; rfl
  · have hp' : tEUnit.xplanOf { tXReq with written := true } = some p := by rw [xplanOf_written, hp]
    have k : ((tEUnit.xplanOf tXReq).map fun p =>
        match (tX { tXReq with written := true }).sideKey tEUnit 0 p.dst (p.dst.base + p.tpl.syncOff) rightW with
        | .ok k => ((tX { tXReq with written := true }).lineSnag 0 p.dst.space (p.dst.base + p.tpl.syncOff) k true).isNone
        | .error _ => false) = some true := by decide +kernel
    rw [hp] at k
    have k1 := Option.some.inj k
    beta_reduce at k1
    split at k1
    · rename_i k2 hk
      refine ⟨_, _, _, p, tXCore { tXReq with written := true }, tX_request _ rfl rfl _ hp', rfl, rfl, rfl, by decide +kernel,
        (if_neg (by decide)).mpr ⟨k2, hk, Option.isNone_iff_eq_none.mp k1, rfl⟩⟩
    · cases k1

/-- A template from scratchpad to the first load FIFO, and a layout of a tile of some words. -/
def tPushTemplate : BitVec 128 := 0x00000000_00000000_00000001_30001000#128
def tPushLayout (n : Nat) : BitVec 256 := BitVec.ofNat 256 n * 2 ^ 144 + 0x1#256 * 2 ^ 160 + 0x1#256 * 2 ^ 176 +
  BitVec.ofNat 256 n * 2 ^ 96 + 0x1#256 * 2 ^ 112 + 0x1#256 * 2 ^ 128 + 0x466#256
def tPUnit (n : Nat) : Unit := { tEUnit with templates := [tPushTemplate], layouts := [tPushLayout n] }
def tPReq : XReq := { tXReq with src := tCapReg 1 7 }
/-- The machine with a push, before and after it takes its place in the FIFO. -/
abbrev tP (n : Nat) (filling : List (Nat × Nat)) : State :=
  { tE with
    units := [tPUnit n]
    cores := [{ Core.reset 0 with
      loadQ := [tPReq]
      matrix := { (Core.reset 0).matrix with fifos := [{ (default : FifoState) with filling := filling }] } }] }

/-- A push of a tile of 3072 bytes takes its place, and one (of four words, for the kernel's sake) is complete. -/
theorem witness_transfer_push : Fires Claims.transferEvents (.transferComplete 0 5) (tP 768 []) ∧
    Fires Claims.transferEvents (.fifoPushComplete 0 5) (tP 4 [(5, 1)]) := by
  constructor
  · have hf : ((tPUnit 768).xplanOf tPReq).map (fun p => p.fifo == some 0 && p.lay.tileBytes == 3072) = some true := by
      decide +kernel
    cases hp : (tPUnit 768).xplanOf tPReq with
    | none => rw [hp] at hf; cases hf
    | some p =>
      rw [hp] at hf
      simp only [Option.map_some, Option.some.injEq, Bool.and_eq_true, beq_iff_eq] at hf
      refine ⟨(tP 768 []).modCore 0 fun c => { c with matrix := { c.matrix with fifos := updAt c.matrix.fifos 0 fun h =>
          { h with filling := h.filling ++ [(5, tileSlots p.lay.tileBytes)] } } }, _, _, p, _, ⟨rfl, rfl, hp, rfl⟩, rfl,
        by decide +kernel, ?_⟩
      rw [hf.1]
      exact ⟨by decide +kernel, by decide +kernel, by rw [hf.2]; decide +kernel, rfl⟩
  · have m : ((tPUnit 4).xplanOf tPReq).map (fun p => p.fifo == some 0 &&
        ((tP 4 [(5, 1)]).movement (tPUnit 4) tPReq.tmpl p tPReq.rmode p.elems).toOption.isSome) = some true := by decide +kernel
    cases hp : (tPUnit 4).xplanOf tPReq with
    | none => rw [hp] at m; cases m
    | some p =>
      rw [hp] at m
      simp only [Option.map_some, Option.some.injEq, Bool.and_eq_true, beq_iff_eq] at m
      obtain ⟨⟨bs, ws⟩, hm⟩ := ok_of_isSome m.2
      exact ⟨_, _, _, p, _, 0, bs, ws, ⟨rfl, rfl, hp, rfl⟩, rfl, m.1, by decide +kernel, ⟨1, [], rfl⟩, hm, rfl⟩

end Machine

namespace Machine

/-- A descriptor word stored into channel 3 of core 0's aperture. -/
def tAp (n : Nat) : ApStore := { seq := n, chan := 3, unit := 1, word := 0 }
/-- The machine with engines, that channel its unit's, and words that wait. -/
abbrev tAper (l : List ApStore) : State :=
  { tE with cores := [{ Core.reset 0 with channels := [(3, 1)], apWait := l }] }

/-- A waiting word accepted; stores into the aperture: ill formed, accepted at once, and behind another. -/
theorem witness_transfer_aperture :
    Fires Claims.transferEvents (.transferAccept 0 7) (tAper [tAp 7]) ∧
    Fires Claims.transferEvents (.apertureStore 0 24 4 0) (tAper []) ∧
    Fires Claims.transferEvents (.apertureStore 0 24 8 0) (tAper []) ∧
    Fires Claims.transferEvents (.apertureStore 0 24 8 0) (tAper [tAp 7]) := by
  have accept (s : State) (a : ApStore) (b : Bool) (h : (s.tryAperture tEUnit a b).isSome = true) :
      ∃ t, s.tryAperture tEUnit a b = some t := Option.isSome_iff_exists.mp h
  refine ⟨?_, ?_, ?_, ?_⟩
  · have w : ((tAper [tAp 7]).xwaiters 0).map Prod.fst = [7] := by decide +kernel
    obtain ⟨⟨n, st⟩, hw⟩ : ∃ w, (tAper [tAp 7]).xwaiters 0 = [w] := by
      cases h : (tAper [tAp 7]).xwaiters 0 with
      | nil => rw [h] at w; cases w
      | cons x xs => rw [h] at w; simp at w; exact ⟨x, by rw [w.2]⟩
    rw [hw] at w
    simp only [List.map_cons, List.map_nil, List.cons.injEq, and_true] at w
    obtain ⟨t, ht⟩ := accept ((tAper [tAp 7]).modCore 0 fun c => { c with apWait := c.apWait.filter fun x => x.seq != 7 })
      (tAp 7) false (by decide +kernel)
    refine ⟨t, _, tAp 7, tEUnit, (n, st), t, rfl, rfl, rfl, ?_, ?_, ht, rfl⟩
    · rw [hw, w]; simp
    · rw [State.xbehind, hw, w]; simp
  · apply Exists.intro; unfold Claims.transferEvents
    exact (if_pos (by decide +kernel)).mpr rfl
  · obtain ⟨t, ht⟩ := accept (tAper []) { seq := (tAper []).seqCtr, chan := 3, unit := 1, word := 0 } true (by decide +kernel)
    refine ⟨t, ?_⟩
    unfold Claims.transferEvents
    exact (if_neg (by decide +kernel)).mpr ⟨_, _, tEUnit, rfl, rfl, rfl, .inl ht⟩
  · apply Exists.intro; unfold Claims.transferEvents
    exact (if_neg (by decide +kernel)).mpr ⟨_, _, tEUnit, rfl, rfl, rfl, .inr ⟨by decide +kernel, rfl⟩⟩

/-- A fibre that waits for its transfer's acceptance, and its turn. -/
def tParkF (served : Bool) : Fibre :=
  { tFibre 0 with wait := if served then none else some (.accept (.xfer tc 20 (.const 0) none) 7), served := served }
def tParkU (served : Bool) : Unit := { tEUnit with fibres := [tParkF served] }
abbrev tPark (served : Bool) : State := { tE with units := [tParkU served] }

/-- A parked transfer's acceptance. -/
theorem witness_ParkedTransferIsAccepted : ∃ p o R t,
    (∀ k, (tPark false).core? 0 = some k → k.apWait.find? (fun a => a.seq == 7) = none) ∧
    (tPark false).parkedXfer 0 7 = some (tParkU false, tParkF false) ∧
    (tParkF false).wait = some (.accept (.xfer tc 20 (.const 0) none) 7) ∧
    (tPark false).xplan (tParkU false) ((tParkF false).xask (.const 0) none).tmpl ((tParkF false).xask (.const 0) none).x = .ok p ∧
    (tPark false).xbehind 0 (p.store (tParkU false)) (some 7) = false ∧ (tPark false).xroom (tParkU false) p false = true ∧
    Claims.transfers (.xfer tc 20 (.const 0) none) = some (o, R) ∧
    (Claims.servedAt (tPark false) 1 0).Clear (tParkU true) (tParkF true) o ∧
    R { u := tParkU true, f := (tParkF true).seen o }
      ((Claims.servedAt (tPark false) 1 0).passed (tParkU true) (tParkF true) o) t := by
  have h : (match (tPark false).xplan (tParkU false) ((tParkF false).xask (.const 0) none).tmpl
        ((tParkF false).xask (.const 0) none).x with
      | .ok p => !(tPark false).xbehind 0 (p.store (tParkU false)) (some 7) && (tPark false).xroom (tParkU false) p false &&
        ((Claims.servedAt (tPark false) 1 0).passed (tParkU true) (tParkF true) (opXfer tc 20 (.const 0) none 3)).xroom
          (tParkU true) p false
      | .error _ => false) = true := by decide +kernel
  have same : (tPark false).xplan (tParkU false) ((tParkF false).xask (.const 0) none).tmpl
      ((tParkF false).xask (.const 0) none).x =
    ((Claims.servedAt (tPark false) 1 0).passed (tParkU true) (tParkF true) (opXfer tc 20 (.const 0) none 3)).xplan
      (tParkU true) (((tParkF true).seen (opXfer tc 20 (.const 0) none 3)).xask (.const 0) none).tmpl
      (((tParkF true).seen (opXfer tc 20 (.const 0) none 3)).xask (.const 0) none).x := by decide +kernel
  split at h
  · rename_i p hp
    simp only [Bool.and_eq_true, Bool.not_eq_true'] at h
    exact ⟨p, _, _, _, fun k hk => by cases hk; rfl, rfl, rfl, hp, h.1.1, h.1.2, rfl,
      clear_of_calm (by decide +kernel) _ rfl rfl, p, same.symm.trans hp, by simp [Claims.released]; simp [tParkF, tFibre], h.2, .inl rfl, rfl⟩
  · cases h

end Machine

namespace Machine

/-- An entry of the catch latch: a team's instruction of the crew of teams 0 and 1. -/
def tEntry (n : Nat) (i : Instr) : MxReq :=
  { num := n, unit := 1, team := n, instr := i, rmode := 0, scales := [], crew := [0, 1], ord := 4, since := 0 }
/-- The small machine with the latch supplied, and fibres of the two teams. -/
abbrev tLatch (l : List MxReq) (fs : List Fibre) : State :=
  { tState with
    clk := 1048576, units := [{ tMUnit (tFibre 0) with fibres := fs }]
    cores := [{ Core.reset 0 with matrix := { Matrix.reset with latch := l } }] }
/-- A drain to tile 2 of the unit, of a rank. -/
def tDrain (rank : Nat) (int : Bool) : Drain :=
  { (default : Drain) with num := 7, sender := 9, launch := 1, desc := BitVec.ofNat 64 (512 + rank), int := int }
/-- The small machine with it, while tile 2 expects three drains and is at the second. -/
abbrev tDrains (rank : Nat) (int : Bool) : State :=
  { tState with
    units := [tMUnit (tFibre 0)], drains := [tDrain rank int]
    cores := [{ Core.reset 0 with matrix := { Matrix.reset with
      tiles := updAt Matrix.reset.tiles 2 fun x => { x with fmt := .fp32, red := some (3, 1, 0) } } }] }

/-- The latch: a crew together, a crew that disagrees, a crew that is late by the bound; a perform; and drains: of another
format, past, next and later ones, and one to a tile that expects none. -/
theorem witness_MatrixEventsComplete :
    Fires Claims.matrixEvents (.crewCatch 0 0) (tLatch [tEntry 0 (.acmt 0 3)] [tFibre 0]) ∧
    Fires Claims.matrixEvents (.crewCatch 0 0) (tLatch [tEntry 0 (.acmt 0 3), tEntry 1 (.acmt 0 4)] [tFibre 0, tFibre 32]) ∧
    Fires Claims.matrixEvents (.catchTimeout 0 0) (tLatch [tEntry 0 (.acmt 0 3)] [tFibre 0, tFibre 32]) ∧
    Fires Claims.matrixEvents (.mmaPerform 95) tM ∧
    Fires Claims.matrixEvents (.drainArrival 0 7) (tDrains 1 true) ∧ Fires Claims.matrixEvents (.drainArrival 0 7) (tDrains 0 false) ∧
    Fires Claims.matrixEvents (.drainArrival 0 7) (tDrains 3 false) ∧ Fires Claims.matrixEvents (.drainArrival 0 7) (tDrains 1 false) ∧
    Fires Claims.matrixEvents (.drainArrival 0 7) (tDrains 2 false) ∧
    Fires Claims.matrixEvents (.drainArrival 0 7) { tDrains 1 false with cores := [Core.reset 0] } := by
  refine ⟨⟨_, _, _, rfl, rfl, by decide +kernel, by decide +kernel, (if_neg (by decide +kernel)).mpr rfl⟩,
    ⟨_, _, _, rfl, rfl, by decide +kernel, by decide +kernel, (if_pos (by decide +kernel)).mpr rfl⟩,
    ⟨_, _, _, rfl, rfl, by decide +kernel, by decide +kernel, rfl⟩, ⟨_, rfl⟩,
    ⟨_, _, _, rfl, by decide +kernel, rfl, rfl, .inr ⟨_, _, _, rfl, .inl ⟨by decide +kernel, rfl⟩⟩⟩,
    ⟨_, _, _, rfl, by decide +kernel, rfl, rfl, .inr ⟨_, _, _, rfl, .inr (.inl ⟨by decide +kernel, by decide +kernel, rfl⟩)⟩⟩,
    ⟨_, _, _, rfl, by decide +kernel, rfl, rfl, .inr ⟨_, _, _, rfl, .inr (.inl ⟨by decide +kernel, by decide +kernel, rfl⟩)⟩⟩,
    ⟨_, _, _, rfl, by decide +kernel, rfl, rfl, .inr ⟨_, _, _, rfl, .inr (.inr (.inl ⟨by decide +kernel, by decide +kernel,
      by decide, rfl⟩))⟩⟩,
    ⟨_, _, _, rfl, by decide +kernel, rfl, rfl, .inr ⟨_, _, _, rfl, .inr (.inr (.inr ⟨by decide +kernel, by decide +kernel,
      by decide +kernel, rfl⟩))⟩⟩,
    ⟨_, _, _, rfl, by decide +kernel, rfl, rfl, .inl ⟨rfl, rfl⟩⟩⟩

/-- A ring of a mode, bound to the unit, with a frame to land. -/
abbrev tLand (mode : Nat) : State :=
  { tE with wire := { tE.wire with rings := [{ tRing with desc := BitVec.ofNat 64 (0x700004000 + mode * 2 ^ 59), landings := [⟨0, [1, 2, 3], 3, 0⟩] }] } }
/-- A frame that waits at a port whose link is up or not. -/
abbrev tPosted (up : Bool) (mode : Nat) : State :=
  { tE with wire := { tE.wire with ports := [{ (default : Port) with
    up := up, posts := [{ (default : Post) with unit := 1, key := keyScratch 0 0x1000, len := 60, mode := mode }] }] } }
/-- A frame of IPv4 and UDP to port 9, of a length without its FCS. -/
def tFrame (n : Nat) (proto : Byte) (flags : Byte) : List Byte :=
  (List.replicate 12 0 ++ [0x08, 0x00, 0x45, 0, 0, 46, 0, 0, flags, 0, 64, proto, 0, 0, 1, 2, 3, 4, 5, 6, 7, 8, 0, 1, 0, 9, 0, 26, 0, 0] ++
    List.replicate (n - 42) 0).take n
/-- A port whose link is up, and a flow of everything that is UDP, which keeps frames with a bad FCS or does not. -/
abbrev tRecv (keep : Bool) : State :=
  { tE with wire := { tE.wire with
    ports := [{ (default : Port) with up := true }]
    flows := [{ (default : Flow) with valid := true, ports := 3, ring := 3, keepBad := keep }] } }

/-- A landing, a frame sent, with a stamp in it, and one whose link is down; the end of one; the pulses; the link. -/
theorem witness_wire_sends :
    Fires Claims.wireEvents (.frameLanding 3) (tLand 1) ∧ Fires Claims.wireEvents (.frameLanding 3) (tLand 2) ∧
    Fires Claims.wireEvents (.frameLanding 3) (tLand 0) ∧
    Fires Claims.wireEvents (.frameTransmit 0) (tPosted true 0) ∧ Fires Claims.wireEvents (.frameTransmit 0) (tPosted true 2) ∧
    Fires Claims.wireEvents (.frameTransmit 0) (tPosted false 0) ∧
    Fires Claims.wireEvents (.frameTransmit 0) { tE with wire := { tE.wire with ports := [{ (default : Port) with
      sending := some { post := default, bytes := [1, 2, 3, 4], bad := false, ts := 5 } }] } } ∧
    Fires Claims.wireEvents .ppsOutputSecond tE ∧ Fires Claims.wireEvents .ppsInputEdge tE ∧
    Fires Claims.wireEvents (.portLinkChange 1 true) tE := by
  refine ⟨⟨_, _, _, _, _, _, rfl, rfl, rfl, rfl, rfl⟩, ⟨_, _, _, _, _, _, rfl, rfl, rfl, rfl, rfl⟩,
    ⟨_, _, _, _, _, _, rfl, rfl, rfl, rfl, rfl⟩,
    ⟨_, .inr ⟨_, _, rfl, rfl, (if_neg (by decide)).mpr ⟨fun u h => by cases h; decide +kernel, rfl⟩⟩⟩,
    ⟨_, .inr ⟨_, _, rfl, rfl, (if_neg (by decide)).mpr ⟨fun u h => by cases h; decide +kernel, rfl⟩⟩⟩,
    ⟨_, .inr ⟨_, _, rfl, rfl, (if_pos rfl).mpr rfl⟩⟩, ⟨_, .inl ⟨_, rfl, rfl⟩⟩, ⟨_, rfl⟩, ⟨_, rfl⟩, ⟨_, rfl⟩⟩

/-- The flow that takes a frame, and one that takes none. -/
theorem tRecv_flow (keep : Bool) : ∃ e x, ipKind (tFrame 60 17 0) = .udp x ∧ (tRecv keep).flowFor 0 (tFrame 60 17 0) x = some e ∧
    e.keepBad = keep := by
  have h : (match ipKind (tFrame 60 17 0) with
    | .udp x => ((tRecv keep).flowFor 0 (tFrame 60 17 0) x).map Flow.keepBad
    | _ => none) = some keep := by cases keep <;> decide +kernel
  split at h
  · rename_i x hx
    obtain ⟨e, he, hk⟩ := Option.map_eq_some_iff.mp h
    exact ⟨e, x, hx, he, hk⟩
  · cases h

/-- Frames received: too short by a byte, the shortest whole one, a bad one that a flow keeps and one that no flow keeps, a
fragment, and one that nothing takes. -/
theorem witness_wire_receives :
    (∃ t, Claims.received (tRecv true) 0 (tFrame 59 17 0) false t) ∧ (∃ t, Claims.received (tRecv true) 0 (tFrame 60 17 0) false t) ∧
    (∃ t, Claims.received (tRecv true) 0 (tFrame 60 17 0) true t) ∧ (∃ t, Claims.received (tRecv true) 0 (tFrame 60 17 0x20) false t) ∧
    (∃ t, Claims.received (tRecv true) 0 (tFrame 60 6 0) false t) ∧ (∃ t, Claims.received (tRecv false) 0 (tFrame 60 6 0) true t) ∧
    Fires Claims.wireEvents (.frameReceive 0 (tFrame 60 17 0) false) (tRecv false) := by
  obtain ⟨e, x, hi, hf, hk⟩ := tRecv_flow true
  obtain ⟨e', x', hi', hf', -⟩ := tRecv_flow false
  refine ⟨⟨_, .inl ⟨by decide +kernel, rfl⟩⟩,
    ⟨_, .inr (.inr ⟨by decide +kernel, .inl rfl, .inr (.inr (.inl ⟨by decide +kernel, e, x, ⟨hi, hf⟩, rfl⟩))⟩)⟩,
    ⟨_, .inr (.inr ⟨by decide +kernel, .inr ⟨e, x, ⟨hi, hf⟩, hk⟩, .inr (.inr (.inl ⟨by decide +kernel, e, x, ⟨hi, hf⟩, rfl⟩))⟩)⟩,
    ⟨_, .inr (.inr ⟨by decide +kernel, .inl rfl, .inr (.inl ⟨by decide +kernel, by decide +kernel, rfl⟩)⟩)⟩,
    ⟨_, .inr (.inr ⟨by decide +kernel, .inl rfl, .inr (.inr (.inr ⟨by decide +kernel, by decide +kernel, ?_, rfl⟩))⟩)⟩,
    ⟨_, .inr (.inl ⟨by decide +kernel, rfl, ?_, rfl⟩)⟩,
    ⟨_, rfl, .inr (.inr ⟨by decide +kernel, .inl rfl, .inr (.inr (.inl ⟨by decide +kernel, e', x', ⟨hi', hf'⟩, rfl⟩))⟩)⟩⟩
  · intro e x h
    have : ipKind (tFrame 60 6 0) = .other := by decide +kernel
    rw [this] at h; cases h.1
  · intro e x h
    have : ipKind (tFrame 60 6 0) = .other := by decide +kernel
    rw [this] at h; cases h.1

end Machine

/-! ### Witnesses: the front end and scheduling -/

namespace Machine

/-- A queue whose ring is one entry at 0x8000, with a command in it. -/
def tQueue : Queue := { (default : Queue) with idx := 0, base := 0x8001, ctl := 0x80000000, kick := 1 }
/-- The small machine, ready, with that queue, launches and entries of the ring. -/
abbrev tFe (q : Queue) (ls : List Launch) (ring : List Word) : State :=
  { tState with
    mem := tState.mem.setWords 0x8000 (ring.map fresh), life := { tState.life with readyFlag := true }
    fe := { tState.fe with queues := [q], launches := ls } }
/-- A launch ready to start. -/
def tReady : Launch := { tLaunch with stage := .ready }
/-- The small machine with its unit at its end. -/
abbrev tOver (u : Unit) (l : Launch) : State := { tState with units := [u], fe := { tState.fe with launches := [l] } }
/-- A unit whose fibre has ended. -/
def tEnded : Unit := { tUnit with fibres := [{ tFibre 0 with live := false }] }

/-- A parse of an empty bundle, of one refused, and from a ring that no page holds; a preload done, and of a cancelled
launch; a gang's start. -/
theorem witness_launch_starts :
    Fires Claims.launchEvents (.commandParse 0) (tFe tQueue [] [1]) ∧ Fires Claims.launchEvents (.commandParse 0) (tFe tQueue [] [3]) ∧
    Fires Claims.launchEvents (.commandParse 0) (tFe { tQueue with base := 0x8000000001 } [] []) ∧
    Fires Claims.launchEvents (.preloadComplete ⟨1, none⟩) (tFe tQueue [{ tLaunch with stage := .preload }] []) ∧
    Fires Claims.launchEvents (.preloadComplete ⟨1, none⟩) (tFe tQueue [{ tLaunch with stage := .preload, cancelled := true }] []) ∧
    Fires Claims.launchEvents (.gangDispatch 1 0 [0]) { tFe tQueue [tReady] [] with units := [], gangs := [] } := by
  have parse (w : Word) (h : (tFe tQueue [] [w]).parses ((tFe tQueue [] [w]).queue 0) = true)
      (k : ((tFe tQueue [] [w]).queue 0).ridx.toNat + 1 ≤ ((tFe tQueue [] [w]).queue 0).kick.toNat)
      (e : ((tFe tQueue [] [w]).ringEntries ((tFe tQueue [] [w]).queue 0) 0 1).map partCount = some 0) :
      ∃ b, Claims.parsed (tFe tQueue [] [w]) 0 b 1 ∧
        (tFe tQueue [] [w]).ringEntries ((tFe tQueue [] [w]).queue 0) 0 1 = some b := by
    obtain ⟨b, hb, e⟩ := Option.map_eq_some_iff.mp e
    exact ⟨b, ⟨h, b, hb, by rw [e], k, hb⟩, hb⟩
  refine ⟨?_, ?_, ?_, ?_, ?_, ?_⟩
  · obtain ⟨b, hp, hb⟩ := parse 1 (by decide +kernel) (by decide +kernel) (by decide +kernel)
    have none : (((tFe tQueue [] [1]).ringEntries ((tFe tQueue [] [1]).queue 0) 0 1).map fun b =>
      (((tFe tQueue [] [1]).refusal ((tFe tQueue [] [1]).queue 0) (cmdOf b)).isNone &&
        !(tFe tQueue [] [1]).full (cmdOf b).launch.isSome ((cmdOf b).type == 2))) = some true := by decide +kernel
    rw [hb] at none
    simp only [Option.map_some, Option.some.injEq, Bool.and_eq_true, Option.isNone_iff_eq_none, Bool.not_eq_true'] at none
    exact ⟨_, .inr ⟨b, 1, hp, fun _ => by decide +kernel, .inr ⟨none.1, none.2, rfl⟩⟩⟩
  · obtain ⟨b, hp, hb⟩ := parse 3 (by decide +kernel) (by decide +kernel) (by decide +kernel)
    have some' : (((tFe tQueue [] [3]).ringEntries ((tFe tQueue [] [3]).queue 0) 0 1).map fun b =>
      ((tFe tQueue [] [3]).refusal ((tFe tQueue [] [3]).queue 0) (cmdOf b)).isSome) = some true := by decide +kernel
    rw [hb] at some'
    obtain ⟨r, hr⟩ := Option.isSome_iff_exists.mp (Option.some.inj some')
    exact ⟨_, .inr ⟨b, 1, hp, fun _ => by decide +kernel, .inl ⟨r, hr, rfl⟩⟩⟩
  · exact ⟨_, .inl ⟨by decide +kernel, by decide +kernel, rfl⟩⟩
  · exact ⟨_, _, rfl, rfl, (if_neg (by decide)).mpr (.inl ⟨rfl, rfl⟩)⟩
  · exact ⟨_, _, rfl, rfl, (if_pos rfl).mpr rfl⟩
  · have h : (({ tFe tQueue [tReady] [] with units := [], gangs := [] } : State).startGang tReady 0 [0]).isSome = true := by
      decide +kernel
    obtain ⟨t, ht⟩ := Option.isSome_iff_exists.mp h
    exact ⟨t, _, rfl, .inr ⟨rfl, by decide +kernel, by decide +kernel, by decide +kernel, by decide +kernel,
      by decide +kernel, .inl ht⟩⟩

/-- A unit that is complete, one whose next stage begins, one that waits to continue, and one that is being ended; a launch
settled in time and late; its records, with a screened copy still there and without; a retired launch. -/
theorem witness_launch_ends :
    Fires Claims.launchEvents (.unitRetire 1) (tOver tEnded tReady) ∧
    Fires Claims.launchEvents (.unitRetire 1) (tOver { tEnded with next := some { desc := tDesc, cont := false, issued := 0 } } tReady) ∧
    Fires Claims.launchEvents (.unitRetire 1) (tOver { tEnded with next := some { desc := tDesc, cont := true, issued := 0 } } tReady) ∧
    Fires Claims.launchEvents (.unitRetire 1) (tOver { tEnded with ending := true } tReady) ∧
    Fires Claims.launchEvents (.launchSettle 1) (tOver tUnit { tReady with ends := [{ no := 0, how := .complete, fibres := 1, resident := 0, front := false }] }) ∧
    Fires Claims.launchEvents (.launchSettle 1)
      { tOver tUnit { tReady with ends := [{ no := 0, how := .complete, fibres := 1, resident := 0, front := false }], deadline := some 3 } with time := 4 } ∧
    Fires Claims.launchEvents (.postCopiesDone ⟨1, none⟩) (tOver tUnit { tReady with stage := .settled, hdr := some 0 }) ∧
    Fires Claims.launchEvents (.postCopiesDone ⟨1, none⟩) { tOver tUnit { tReady with stage := .settled } with units := [] } ∧
    Fires Claims.launchEvents (.postCopiesDone ⟨1, none⟩) { tOver tUnit { tReady with stage := .done } with units := [] } := by
  have gone (u : Unit) (h : u.fibres = tEnded.fibres) (s : State)
      (c : ∀ l, s.launch? u.launch = some l → ∀ n ∈ l.conts, n.1 ≠ u.no) : Claims.over' s u := by
    refine ⟨fun f hf => ?_, c⟩
    rw [h] at hf
    have : f = { tFibre 0 with live := false } := by simpa [tEnded] using hf
    subst this
    exact ⟨rfl, by intro d hd; cases hd⟩
  have none' (u : Unit) (hu : u.launch = 1) (l : Launch) (hl : (tOver u tReady).launch? u.launch = some l) :
      ∀ n ∈ l.conts, n.1 ≠ u.no := by
    rw [hu] at hl
    cases hl
    intro n hn; cases hn
  refine ⟨?_, ?_, ?_, ?_, ⟨_, _, rfl, rfl, by decide +kernel, rfl⟩, ⟨_, _, rfl, rfl, by decide +kernel, rfl⟩,
    ⟨_, _, rfl, .inr ⟨rfl, rfl⟩⟩, ⟨_, _, rfl, .inr ⟨rfl, rfl⟩⟩, ⟨_, _, rfl, .inl ⟨rfl, rfl, rfl⟩⟩⟩
  · exact ⟨_, tEnded, rfl, rfl, (if_neg (by decide)).mpr ⟨gone _ rfl _ (none' _ rfl), by decide +kernel, rfl⟩⟩
  · exact ⟨_, { tEnded with next := some { desc := tDesc, cont := false, issued := 0 } }, rfl, rfl,
      (if_neg (by decide)).mpr ⟨gone _ rfl _ (none' _ rfl), by decide +kernel, rfl⟩⟩
  · exact ⟨_, { tEnded with next := some { desc := tDesc, cont := true, issued := 0 } }, rfl, rfl,
      (if_neg (by decide)).mpr ⟨gone _ rfl _ (none' _ rfl), by decide +kernel, (if_pos (by decide)).mpr rfl⟩⟩
  · refine ⟨_, { tEnded with ending := true }, rfl, rfl, (if_pos rfl).mpr ⟨{ tEnded with ending := true }, rfl, rfl,
      gone _ rfl _ (fun l hl n hn => ?_), by decide +kernel, rfl⟩⟩
    cases hl; cases hn

/-- The events of a graph: one whose run is over in failure, with nodes still active and without; a node that may fire, an
ended bundle's successor, and the end. -/
theorem witness_launch_graphs :
    let s (g : Graph) : State := { tState with fe := { tState.fe with graphs := [g] } }
    let busy (g : Graph) : State := { tState with fe := { tState.fe with graphs := [g], launches := [{ tLaunch with graph := some (1, 0) }] } }
    Fires Claims.launchEvents (.graphEvent 1) (busy { tGraph with failed := true, active := 1 }) ∧
    Fires Claims.launchEvents (.graphEvent 1) (s { tGraph with cancelled := true }) ∧
    Fires Claims.launchEvents (.graphEvent 1) (s { tGraph with nodes := [{ tNode 0 with pendingN := 0, raw := 2 :: List.replicate 63 0 }] }) ∧
    Fires Claims.launchEvents (.graphEvent 1) (s { tGraph with events := [1], active := 1 }) ∧
    Fires Claims.launchEvents (.graphEvent 1) (s tGraph) := by
  refine ⟨⟨_, _, rfl, rfl, (if_pos (.inl rfl)).mpr rfl⟩, ⟨_, _, rfl, rfl, (if_pos (.inr rfl)).mpr rfl⟩,
    ⟨_, _, rfl, rfl, (if_neg (by decide +kernel)).mpr (.inl ⟨_, rfl, rfl⟩)⟩,
    ⟨_, _, rfl, rfl, (if_neg (by decide +kernel)).mpr (.inr ⟨rfl, .inl ⟨_, _, rfl, rfl⟩⟩)⟩,
    ⟨_, _, rfl, rfl, (if_neg (by decide +kernel)).mpr (.inr ⟨rfl, .inr ⟨rfl, rfl, rfl⟩⟩)⟩⟩

/-- A kernel of no scratchpad and no shelf, its unit ended, the saving of its gang, and the memory that holds its
descriptor. -/
def tBDesc : KDesc := { tDesc with scratch := 0, shelf := 0, matrix := false, frame := 16, stack := 64 }
def tJob : BankJob := { (default : BankJob) with num := 4, launch := 1, gangs := [0] }
def tBLaunch : Launch := { tLaunch with desc := tBDesc }
/-- The machine that saves the gang. -/
def tSave : State :=
  { tE with
    mem := { tState.mem with cells := tCells 0x1000 ([0, 0, 0, 0, 0, 0, 0, 0, 0, 0, 0, 0, 0, 0, 0, 0, 0x454B585A, 0x53444E52, 0x1030001, 0x20100008,
      0x00400040, 0, 0]) }, bank := { tE.bank with jobs := [tJob] }
    units := [{ tEUnit with desc := tBDesc, fibres := [{ tFibre 0 with live := false }] }]
    gangs := [{ (default : Gang) with launch := 1, idx := 0, gen := 7, banking := 1 }]
    fe := { tE.fe with launches := [tBLaunch] } }
/-- Bytes from a position on: runs of bytes at their places, and zeros between. -/
def tRuns (p : Nat) : List (Nat × List Byte) → List Byte
  | [] => zs (8832 - p)
  | (k, bs) :: rest => zs (k - p) ++ bs ++ tRuns (k + bs.length) rest
/-- An image of the gang, as a save inside the device keeps it, but for its digest, which such a planting does not check: the
header, the directory, and the items. -/
def tSaved : List Byte := tRuns 0 (
  [(0, [90, 88, 66, 65, 78, 75, 73, 77, 1, 0, 1]),
    (16, [255, 255, 31, 0, 255, 255, 255, 255, 255, 255, 255, 31, 255, 7, 255, 3, 255, 31, 0, 0, 255, 255, 0, 0, 63, 0, 255, 7, 63, 255, 15, 0, 127]),
    (56, [8]), (112, [7, 0, 0, 0, 18, 3, 32, 0, 128, 34])] ++
  [(192, [1, 0, 0, 0, 1, 0, 0, 0, 128, 1]), (208, [64, 1]), (216, [2, 0, 0, 0, 1, 0, 0, 0, 192, 2]), (232, [64, 16]),
    (240, [3, 0, 0, 0, 1]), (249, [19]), (256, [64]), (264, [4, 0, 0, 0, 8, 0, 0, 0, 64, 19]), (281, [14]),
    (288, [5, 0, 0, 0, 1, 0, 0, 0, 64, 33]), (304, [64]), (312, [8, 0, 0, 0, 1, 0, 0, 0, 128, 33]), (328, [128]),
    (336, [10, 0, 0, 0, 1]), (345, [34]), (352, [128]), (384, [1])] ++
  [(400, [255, 255, 255, 255, 255, 255, 255, 127]), (428, [64]), (713, [2, 3, 0, 8, 0, 64, 0, 16, 32, 3, 255]),
    (728, [7, 0, 0, 0, 7]), (4872, [3]), (5376, [1]), (5824, [2]), (6272, [3]), (6720, [4]), (7168, [5]), (7616, [6]),
    (8064, [7]), (8580, [3]), (8593, [64, 0, 0, 7]), (8640, [9]), (8704, [1])])
/-- A save with that image, and the machine that is to plant it. -/
def tJobS : BankJob := { tJob with step := 2, ready := true, image := tSaved }
def tRLaunch : Launch := { tBLaunch with stage := .ready, banked := [0], nextUnit := 1 }
def tPlant : State :=
  { tSave with units := [], gangs := [], bank := { tSave.bank with jobs := [tJobS] }, fe := { tSave.fe with launches := [tRLaunch] } }

/-- A bank: a gang at its points, and it is planted again; a job begun, one whose launch is gone, an image written. -/
theorem witness_schedule_banks :
    Fires Claims.scheduleEvents (.bankingStart 4) tSave ∧ Fires Claims.scheduleEvents (.bankPointsReached 4) tSave ∧
    Fires Claims.scheduleEvents (.bankPointsReached 4) { tSave with fe := { tSave.fe with launches := [] } } ∧
    Fires Claims.scheduleEvents (.imageWritten 4) { tSave with bank := { tSave.bank with jobs :=
      [{ tJob with step := 1, dest := some { ctx := 0, func := 0, space := 0, adr := 0x4000, pcie := false }, image := List.replicate 192 1 }] } } ∧
    Fires Claims.scheduleEvents (.planting 4) { tPlant with fe := { tSave.fe with launches := [] } } ∧
    Fires Claims.scheduleEvents (.planting 4) tPlant := by
  refine ⟨⟨_, _, rfl, rfl, rfl⟩, ⟨_, _, rfl, .inr ⟨_, rfl, rfl, by decide +kernel, by decide +kernel, rfl⟩⟩,
    ⟨_, _, rfl, .inl ⟨rfl, rfl⟩⟩, ⟨_, _, _, rfl, rfl, rfl, rfl⟩, ⟨_, _, rfl, .inl ⟨rfl, rfl⟩⟩, ?_⟩
  have h : (({ tPlant with freeCtr := tPlant.freeCtr + 1 } : State).plantGang tJobS tRLaunch 0 0).isSome = true := by decide +kernel
  obtain ⟨v, hv⟩ := Option.isSome_iff_exists.mp h
  exact ⟨_, tJobS, rfl, .inr ⟨tRLaunch, rfl, rfl, rfl, ⟨0, 0, v, ⟨by decide +kernel, by decide +kernel, by decide, by decide +kernel,
    by decide +kernel⟩, hv⟩, rfl⟩⟩

end Machine

namespace Machine

/-- A queue with a reservation of time. -/
def tTimed : Queue := { tQueue with per := 10, bud := 5, budget := 5, periodEnd := 7 }
/-- The small machine with it. -/
abbrev tT (q : Queue) : State := { tFe q [{ tReady with nextUnit := 1 }] [] with time := 2 ^ 30 }

/-- Time: a vector's, a period's start, a budget used up, a gang that nothing has room for, a gang's bound, the copy of the
preemption control, a page that comes while a fibre waits for it, a report of a move. -/
theorem witness_schedule_time :
    Fires Claims.scheduleEvents (.vectorTimeExpiry 0 3)
      { tT tTimed with fe := { tState.fe with vecs := [{ (default : Vec) with idx := 3, time := 1, cnt := 9, pendingN := 1 }] } } ∧
    Fires Claims.scheduleEvents (.periodStart 0) (tT tTimed) ∧
    Fires Claims.scheduleEvents (.budgetExhausted 0) (tT { tTimed with budget := 0 }) ∧
    Fires Claims.scheduleEvents (.preemptionDecision 1 0)
      { tT tTimed with fe := { (tT tTimed).fe with launches := [tReady], excluded := List.range 24 } } ∧
    Fires Claims.scheduleEvents (.drainBoundExpiry 1 0)
      { tT tTimed with gangs := [{ (default : Gang) with launch := 1, gen := 7, drainTill := some 9 }] } ∧
    Fires Claims.scheduleEvents .prectlCopy tState ∧
    Fires Claims.scheduleEvents (.pageCarriage 0 0x1000 [1, 2])
      { tState with
        fabric := { tState.fabric with pages := [{ ctx := 0, va := 0, sizeCode := 0, phys := 0, rights := 7, aperture := none, absent := true, dirty := false }] }
        cores := [{ Core.reset 0 with records := [{ tRec false with cause := 0x24, addr := some (0, 0x1000) }] }] } ∧
    Fires Claims.scheduleEvents (.pageCarriage 0 0x1000 []) tState ∧
    Fires Claims.scheduleEvents (.moveReport 1 1) { tT tTimed with fe := { (tT tTimed).fe with launches := [{ tReady with moved := some 1 }] } } := by
  refine ⟨⟨_, by decide +kernel, rfl⟩, ⟨_, by decide +kernel, by decide +kernel, rfl⟩,
    ⟨_, by decide +kernel, rfl, rfl, by decide +kernel, rfl⟩,
    ⟨_, _, rfl, by decide +kernel, by decide +kernel, by decide +kernel, rfl⟩,
    ⟨_, _, _, rfl, rfl, by decide +kernel, by decide +kernel, rfl⟩, ⟨_, rfl⟩, ⟨_, _, rfl, .inr ⟨rfl, rfl⟩⟩,
    ⟨_, _, rfl, .inl ⟨rfl, rfl⟩⟩, ⟨_, by decide +kernel, rfl⟩⟩

end Machine

/-! ### Witnesses: the host's registers, the mailboxes, the device -/

namespace Machine

/-- The small machine, ready, with a queue. -/
abbrev tReg : State := tFe tQueue [] []

/-- The queues' registers: a kick, one too far, one of the wrong size and to the last queue, an error cleared and kept, the
control, the reservation's two words, the reserved cores, the count of overruns. -/
theorem witness_registers_queues :
    Fires Claims.registerEvents (.qkick 0 8 8 1) tReg ∧ Fires Claims.registerEvents (.qkick 255 8 8 2) tReg ∧
    Fires Claims.registerEvents (.qkick 0 4 8 1) tReg ∧
    Fires Claims.registerEvents (.qstatErrClear 255 0x100) tReg ∧ Fires Claims.registerEvents (.qstatErrClear 0 1) tReg ∧
    Fires Claims.registerEvents (.qctl 0 255 0x80000000) tReg ∧ Fires Claims.registerEvents (.qctl 0 0 0) tReg ∧
    Fires Claims.registerEvents (.qperQbudWrite 0 true 0xFFFFFFFF) tReg ∧ Fires Claims.registerEvents (.qperQbudWrite 255 false 1) tReg ∧
    Fires Claims.registerEvents (.qres 255 0x8060) tReg ∧ Fires Claims.registerEvents (.qres 0 95) tReg ∧
    Fires Claims.registerEvents (.ovcntClear 255) tReg := by
  refine ⟨⟨_, rfl, by decide, (if_neg (by decide +kernel)).mpr ((if_neg (by decide +kernel)).mpr rfl)⟩,
    ⟨_, rfl, by decide, (if_neg (by decide +kernel)).mpr ((if_pos (by decide +kernel)).mpr rfl)⟩,
    ⟨_, rfl, by decide, (if_pos (by decide +kernel)).mpr rfl⟩,
    ⟨_, rfl, by decide, rfl⟩, ⟨_, rfl, by decide, rfl⟩, ⟨_, rfl, by decide, .inl rfl, rfl⟩, ⟨_, rfl, by decide, .inl rfl, rfl⟩,
    ⟨_, rfl, by decide, (if_pos rfl).mpr rfl⟩, ⟨_, rfl, by decide, (if_neg (by decide)).mpr rfl⟩,
    ⟨_, rfl, by decide, rfl⟩, ⟨_, rfl, by decide, rfl⟩, ⟨_, rfl, by decide, rfl⟩⟩

/-- The other registers: a host ring's, a vector's, the device's; and a write by its offset: to a mailbox, before READY, to a
queue's last register, a ring's, a vector's, an aperture, the device's three, and the firmware's mailboxes. -/
theorem witness_registers_rest :
    Fires Claims.registerEvents (.hrhead 0 63 5) tReg ∧ Fires Claims.registerEvents (.hrctl 0 63 0x80000000) tReg ∧
    Fires Claims.registerEvents (.ivctl 0 63 0xFFFFFFFF) tReg ∧ Fires Claims.registerEvents (.prectl 0xFFFFFFFF) tReg ∧
    Fires Claims.registerEvents (.scrctl 3) tReg ∧ Fires Claims.registerEvents (.pwrcap 4095) tReg ∧
    Fires Claims.registerEvents (.msixVectorUnmask 16 63) tReg ∧
    Fires Claims.registerEvents (.registerWrite 0 0x5000FF 8 0) tState ∧ Fires Claims.registerEvents (.registerWrite 16 0x5000FF 8 0) tState ∧ Fires Claims.registerEvents (.registerWrite 0 0x500100 8 0) tState ∧
    Fires Claims.registerEvents (.registerWrite 0 0x103FFF 4 0) tReg ∧ Fires Claims.registerEvents (.registerWrite 0 0x200000 8 0) tReg ∧
    Fires Claims.registerEvents (.registerWrite 0 0x3000FC 4 0) tReg ∧ Fires Claims.registerEvents (.registerWrite 0 0x100BFFF 8 0) tReg ∧
    Fires Claims.registerEvents (.registerWrite 0 0x400000 4 0) tReg ∧ Fires Claims.registerEvents (.registerWrite 0 0x400008 4 0) tReg ∧
    Fires Claims.registerEvents (.registerWrite 0 0x400010 4 0) tReg ∧ Fires Claims.registerEvents (.registerWrite 0 0x5007FF 4 0) tReg := by
  refine ⟨⟨_, rfl, by decide, rfl⟩, ⟨_, rfl, by decide, rfl⟩, ⟨_, rfl, by decide, rfl⟩, ⟨_, rfl, rfl⟩, ⟨_, rfl, rfl⟩,
    ⟨_, rfl, rfl⟩, ⟨_, rfl⟩, ⟨_, .inl ⟨rfl, by decide, by decide, rfl⟩⟩, ⟨_, .inr (.inl ⟨rfl, by decide, rfl⟩)⟩,
    ⟨_, .inr (.inl ⟨rfl, by decide, rfl⟩)⟩, ?_, ?_, ?_, ?_, ?_, ?_, ?_, ?_⟩
  · exact ⟨_, .inr (.inr ⟨rfl, .inl ⟨by decide, by decide, rfl⟩⟩)⟩
  · exact ⟨_, .inr (.inr ⟨rfl, .inr (.inl ⟨by decide, by decide, rfl⟩)⟩)⟩
  · exact ⟨_, .inr (.inr ⟨rfl, .inr (.inr (.inl ⟨by decide, by decide, rfl, by decide, rfl⟩))⟩)⟩
  · exact ⟨_, .inr (.inr ⟨rfl, .inr (.inr (.inr (.inl ⟨by decide, by decide, by decide +kernel, rfl⟩)))⟩)⟩
  · exact ⟨_, .inr (.inr ⟨rfl, .inr (.inr (.inr (.inr (.inl ⟨rfl, rfl, rfl, rfl⟩))))⟩)⟩
  · exact ⟨_, .inr (.inr ⟨rfl, .inr (.inr (.inr (.inr (.inr (.inl ⟨rfl, rfl, rfl, rfl⟩)))))⟩)⟩
  · exact ⟨_, .inr (.inr ⟨rfl, .inr (.inr (.inr (.inr (.inr (.inr (.inl ⟨rfl, rfl, rfl, rfl⟩))))))⟩)⟩
  · exact ⟨_, .inr (.inr ⟨rfl, .inr (.inr (.inr (.inr (.inr (.inr (.inr ⟨rfl, by decide, by decide, rfl⟩))))))⟩)⟩

end Machine

namespace Machine

/-- A machine whose firmware core has a command with its arguments. -/
abbrev tMail (n cmd : Nat) (args : List Nat) (s : State) : State :=
  { s with life := { s.life with mailboxes := updAt s.life.mailboxes n fun m =>
    { m with req := bytesOfNat 8 cmd ++ args.flatMap (bytesOfNat 8), busy := true } } }
/-- The commands of the first cores: a report, the certificates, a cancellation; a page mapped to memory, to an aperture, and
refused; constants placed, refused and taken away; a page unmapped; a window; the log and the counters. -/
theorem witness_firmware_maps :
    Fires Claims.firmwareEvents .attestationReport (tMail 0 1 [0, 0, 0, 0, 0x100000] tE) ∧
    Fires Claims.firmwareEvents .certificateChain (tMail 0 2 [0x100000] tE) ∧
    Fires Claims.firmwareEvents .mailboxCancel (tMail 1 0x10 [1, 1] tE) ∧
    Fires Claims.firmwareEvents .mailboxMap (tMail 3 0x30 [15, 0x400000, 1, 0x400000, 7] tE) ∧
    Fires Claims.firmwareEvents .mailboxMap (tMail 3 0x30 [15, 0x400000, 1, 2 ^ 63 + 95, 7] tE) ∧
    Fires Claims.firmwareEvents .mailboxMap (tMail 3 0x30 [16] tE) ∧
    Fires Claims.firmwareEvents .mailboxMap (tMail 3 0x30 [15, 0x400000, 1, 2 ^ 63 + 96, 7] tE) ∧
    Fires Claims.firmwareEvents .mailboxMap (tMail 3 0x30 [15, 0x400000, 1, 0x400008, 7] tE) ∧
    Fires Claims.firmwareEvents .mailboxMap (tMail 3 0x30 [15, 2 ^ 63 + 65536, 768 * 2 ^ 30, 0] tE) ∧
    Fires Claims.firmwareEvents .mailboxMap (tMail 3 0x30 [15, 2 ^ 63 + 65472, 64, 0] tE) ∧
    Fires Claims.firmwareEvents .mailboxUnmap (tMail 3 0x31 [15, 0x400000, 2] tE) ∧
    Fires Claims.firmwareEvents .mailboxUnmap (tMail 3 0x31 [15, 0x400000, 3] tE) ∧
    Fires Claims.firmwareEvents .mailboxUnmap (tMail 3 0x31 [15, 2 ^ 63 + 65536, 64] tE) ∧
    Fires Claims.firmwareEvents .hostWindowEntry (tMail 3 0x32 [16, 2 ^ 27 - 1, 0x200000, 1] tE) ∧
    Fires Claims.firmwareEvents .hostWindowEntry (tMail 3 0x32 [17, 0, 0, 1] tE) ∧
    Fires Claims.firmwareEvents .readLog (tMail 4 0x40 [0x100000, 64] tE) ∧
    Fires Claims.firmwareEvents .readCounters (tMail 4 0x41 [0x100000, 64] tE) := by
  refine ⟨⟨_, rfl, rfl, _, _, Prod.mk.eta, rfl⟩, ⟨_, rfl, rfl, _, _, Prod.mk.eta, rfl⟩, ⟨_, rfl, rfl, _, _, Prod.mk.eta, rfl⟩,
    ⟨_, rfl, rfl, _, _, .inr (.inr (.inr (.inr (.inr (.inr (⟨?_, by decide +kernel, by decide +kernel, rfl, rfl⟩)))))), rfl⟩,
    ⟨_, rfl, rfl, _, _, .inr (.inr (.inr (.inr (.inl ⟨?_, by decide +kernel, by decide +kernel, rfl, rfl⟩)))), rfl⟩,
    ⟨_, rfl, rfl, _, _, .inr (.inr (.inl ⟨by decide +kernel, ?_, rfl, rfl⟩)), rfl⟩,
    ⟨_, rfl, rfl, _, _, .inr (.inr (.inr (.inl ⟨?_, by decide +kernel, by decide +kernel, rfl, rfl⟩))), rfl⟩,
    ⟨_, rfl, rfl, _, _, .inr (.inr (.inr (.inr (.inr (.inl ⟨?_, by decide +kernel, by decide +kernel, rfl, rfl⟩))))), rfl⟩,
    ⟨_, rfl, rfl, _, _, .inr (.inl ⟨by decide +kernel, by decide +kernel, rfl, rfl⟩), rfl⟩,
    ⟨_, rfl, rfl, _, _, .inl ⟨by decide +kernel, by decide +kernel, rfl, rfl⟩, rfl⟩,
    ⟨_, rfl, rfl, _, _, .inr (.inr (⟨by decide +kernel, by decide +kernel, by decide +kernel, by decide +kernel, rfl, rfl⟩)), rfl⟩,
    ⟨_, rfl, rfl, _, _, .inr (.inl ⟨by decide +kernel, by decide +kernel, rfl, rfl⟩), rfl⟩,
    ⟨_, rfl, rfl, _, _, .inl ⟨by decide +kernel, rfl, rfl⟩, rfl⟩,
    ⟨_, rfl, rfl, _, _, .inr ⟨by decide +kernel, rfl, rfl⟩, rfl⟩,
    ⟨_, rfl, rfl, _, _, .inl ⟨by decide +kernel, rfl, rfl⟩, rfl⟩, ⟨_, rfl, rfl, _, _, Prod.mk.eta, rfl⟩, ⟨_, rfl, rfl, _, _, Prod.mk.eta, rfl⟩⟩
  all_goals unfold Claims.pageAsked; decide +kernel

/-- The commands of pools, the wire and the clock. -/
theorem witness_firmware_tables :
    Fires Claims.firmwareEvents .poolTable (tMail 5 0x50 [511, 2 ^ 22 - 1, 15, 0x40000000] tE) ∧
    Fires Claims.firmwareEvents .poolTable (tMail 5 0x50 [512, 0, 0, 0] tE) ∧
    Fires Claims.firmwareEvents .memberAdd (tMail 5 0x51 [511, 15, 1] tE) ∧ Fires Claims.firmwareEvents .memberAdd (tMail 5 0x51 [31, 16, 1] tE) ∧
    Fires Claims.firmwareEvents .memberRemove (tMail 5 0x52 [511, 15] tE) ∧ Fires Claims.firmwareEvents .memberRemove (tMail 5 0x52 [512, 15] tE) ∧
    Fires Claims.firmwareEvents .ownerTimeOutSet (tMail 5 0x53 [511, 9] tE) ∧
    Fires Claims.firmwareEvents .ownerTimeOutSet (tMail 5 0x53 [2 ^ 64 - 1, 9] tE) ∧
    Fires Claims.firmwareEvents .ownerTimeOutSet (tMail 5 0x53 [512, 9] tE) ∧
    Fires Claims.firmwareEvents .flowEntry (tMail 6 0x60 [4095, 0] tE) ∧ Fires Claims.firmwareEvents .flowEntry (tMail 6 0x60 [4096, 0] tE) ∧
    Fires Claims.firmwareEvents .flowEntry (tMail 6 0x60 [0, 2 ^ 63] tE) ∧
    Fires Claims.firmwareEvents .clockSource (tMail 6 0x61 [3] tE) ∧ Fires Claims.firmwareEvents .clockSource (tMail 6 0x61 [4] tE) ∧
    Fires Claims.firmwareEvents .clockStep (tMail 6 0x62 [5 * 65536, 1] tE) ∧
    Fires Claims.firmwareEvents .clockStep (tMail 6 0x62 [1000000000 * 65536, 1] tE) ∧
    Fires Claims.firmwareEvents .portReset (tMail 6 0x63 [1] tE) ∧ Fires Claims.firmwareEvents .portReset (tMail 6 0x63 [2] tE) ∧
    Fires Claims.firmwareEvents (.mailboxUnknownCommand 7) (tMail 7 0xEE [] tE) := by
  refine ⟨⟨_, rfl, rfl, _, _, .inr ⟨by decide +kernel, rfl, rfl⟩, rfl⟩, ⟨_, rfl, rfl, _, _, .inl ⟨by decide +kernel, rfl, rfl⟩, rfl⟩,
    ⟨_, rfl, rfl, _, _, .inr ⟨by decide +kernel, by decide +kernel, rfl, rfl⟩, rfl⟩,
    ⟨_, rfl, rfl, _, _, .inl ⟨by decide +kernel, rfl, rfl⟩, rfl⟩,
    ⟨_, rfl, rfl, _, _, .inr ⟨by decide +kernel, by decide +kernel, rfl, rfl⟩, rfl⟩,
    ⟨_, rfl, rfl, _, _, .inl ⟨by decide +kernel, rfl, rfl⟩, rfl⟩,
    ⟨_, rfl, rfl, _, _, .inl ⟨by decide +kernel, rfl, rfl⟩, rfl⟩,
    ⟨_, rfl, rfl, _, _, .inr (.inl ⟨by decide +kernel, rfl, rfl⟩), rfl⟩,
    ⟨_, rfl, rfl, _, _, .inr (.inr ⟨by decide +kernel, by decide +kernel, rfl, rfl⟩), rfl⟩,
    ?_, ⟨_, rfl, rfl, _, _, .inl ⟨by decide +kernel, rfl, rfl⟩, rfl⟩,
    ⟨_, rfl, rfl, _, _, .inr (.inl ⟨by decide +kernel, by decide +kernel, rfl, rfl⟩), rfl⟩,
    ⟨_, rfl, rfl, _, _, .inr ⟨by decide +kernel, rfl, rfl⟩, rfl⟩, ⟨_, rfl, rfl, _, _, .inl ⟨by decide +kernel, rfl, rfl⟩, rfl⟩,
    ⟨_, rfl, rfl, _, _, .inr ⟨by decide +kernel, rfl, rfl⟩, rfl⟩, ⟨_, rfl, rfl, _, _, .inl ⟨by decide +kernel, rfl, rfl⟩, rfl⟩,
    ⟨_, rfl, rfl, _, _, .inr ⟨by decide +kernel, rfl, rfl⟩, rfl⟩, ⟨_, rfl, rfl, _, _, .inl ⟨by decide +kernel, rfl, rfl⟩, rfl⟩,
    ⟨_, rfl, by decide +kernel, rfl⟩⟩
  have h : (((List.range 64).mapM fun i => ((tMail 6 0x60 [4095, 0] tE).hostKey 0 (((tMail 6 0x60 [4095, 0] tE).mailbox 6).arg 1 + i)).map
    fun k => (tMail 6 0x60 [4095, 0] tE).mem.byte k.1).isSome) = true := by decide +kernel
  obtain ⟨b, hb⟩ := Option.isSome_iff_exists.mp h
  exact ⟨_, rfl, rfl, _, _, .inr (.inr ⟨by decide +kernel, b, hb, rfl, rfl⟩), rfl⟩

end Machine

namespace Machine

/-- The machine with engines, and a launch that can be moved, whose unit 0 is out. -/
def tMovable : Launch := { tReady with desc := { tDesc with args := 0 } }
abbrev tGone : State := { tE with units := [], fe := { tE.fe with launches := [{ tMovable with nextUnit := 1 }] } }

/-- The commands of banking: a bank, one of no launch, misaligned and absent; a planting turned away, one whose image no page holds,
and one of a job that is not; a move and one that may not; a release; a checkpoint, and one of no list. -/
theorem witness_firmware_banks :
    Fires Claims.firmwareEvents .mailboxBank (tMail 7 0x70 [1, 0, 0x4000] tE) ∧
    Fires Claims.firmwareEvents .mailboxBank (tMail 7 0x70 [9, 0, 0x4000] tE) ∧
    Fires Claims.firmwareEvents .mailboxBank (tMail 7 0x70 [1, 0, 0x4001] tE) ∧
    Fires Claims.firmwareEvents .mailboxBank (tMail 7 0x70 [1, 5, 0x4000] tE) ∧
    Fires Claims.firmwareEvents .mailboxPlant (tMail 7 0x71 [0x9000, 255, 15] tE) ∧
    Fires Claims.firmwareEvents .mailboxPlant (tMail 7 0x71 [2 ^ 56, 0, 0] tE) ∧
    Fires Claims.firmwareEvents .mailboxPlant (tMail 7 0x71 [0x4000, 0, 16] tE) ∧
    Fires Claims.firmwareEvents .move (tMail 7 0x72 [1, 3] { tE with fe := { tE.fe with launches := [tMovable] } }) ∧
    Fires Claims.firmwareEvents .move (tMail 7 0x72 [1, 3] { tE with fe := { tE.fe with launches := [{ tMovable with det := true }] } }) ∧
    Fires Claims.firmwareEvents .move (tMail 7 0x72 [9, 3] tE) ∧
    Fires Claims.firmwareEvents .release (tMail 7 0x73 [1] tGone) ∧ Fires Claims.firmwareEvents .release (tMail 7 0x73 [1] tE) ∧
    Fires Claims.firmwareEvents .release (tMail 7 0x73 [9] tE) ∧
    Fires Claims.firmwareEvents .checkpoint (tMail 7 0x74 [15, 0x9000, 0] tE) ∧
    Fires Claims.firmwareEvents .checkpoint (tMail 7 0x74 [16, 0x9000, 0] tE) := by
  refine ⟨?_, ⟨_, rfl, rfl, _, _, .inl ⟨by decide +kernel, rfl, rfl⟩, rfl⟩,
    ⟨_, rfl, rfl, _, _, .inr ⟨_, by rfl, .inl ⟨by decide +kernel, rfl, rfl⟩⟩, rfl⟩, ?_, ?_,
    ⟨_, rfl, rfl, _, _, .inr ⟨by decide +kernel, by decide +kernel, .inl ⟨by decide +kernel, rfl, rfl⟩⟩, rfl⟩,
    ⟨_, rfl, rfl, _, _, .inl ⟨by decide +kernel, rfl, rfl⟩, rfl⟩,
    ⟨_, rfl, rfl, _, _, .inr ⟨_, by rfl, .inr ⟨by decide +kernel, rfl, rfl⟩⟩, rfl⟩,
    ⟨_, rfl, rfl, _, _, .inr ⟨_, by rfl, .inl ⟨by decide +kernel, rfl, rfl⟩⟩, rfl⟩,
    ⟨_, rfl, rfl, _, _, .inl ⟨by decide +kernel, rfl, rfl⟩, rfl⟩,
    ⟨_, rfl, rfl, _, _, .inr ⟨_, by rfl, .inr ⟨by decide +kernel, rfl, rfl, rfl⟩⟩, rfl⟩,
    ⟨_, rfl, rfl, _, _, .inr ⟨_, by rfl, .inl ⟨by decide +kernel, rfl, rfl⟩⟩, rfl⟩,
    ⟨_, rfl, rfl, _, _, .inl ⟨by decide +kernel, rfl, rfl⟩, rfl⟩, ?_,
    ⟨_, rfl, rfl, _, _, .inl ⟨by decide +kernel, rfl, rfl⟩, rfl⟩⟩
  · have l : (tMail 7 0x70 [1, 0, 0x4000] tE).launchOf (((tMail 7 0x70 [1, 0, 0x4000] tE).mailbox 7).arg 0) =
        some { tLaunch with graph := some (1, 0) } := by rfl
    have h : (match (tMail 7 0x70 [1, 0, 0x4000] tE).bankAsk { tLaunch with graph := some (1, 0) }
        (((tMail 7 0x70 [1, 0, 0x4000] tE).mailbox 7).arg 1 % 2 ^ 32) none with
      | .go _ _ => true
      | _ => false) = true := by decide +kernel
    split at h
    · rename_i n gs e
      exact ⟨_, rfl, rfl, _, _, .inr ⟨_, l, .inr (.inr ⟨by decide +kernel, n, gs, e, rfl, rfl⟩)⟩, rfl⟩
    · cases h
  · have l : (tMail 7 0x70 [1, 5, 0x4000] tE).launchOf (((tMail 7 0x70 [1, 5, 0x4000] tE).mailbox 7).arg 0) =
        some { tLaunch with graph := some (1, 0) } := by rfl
    have h : (tMail 7 0x70 [1, 5, 0x4000] tE).bankAsk { tLaunch with graph := some (1, 0) }
        (((tMail 7 0x70 [1, 5, 0x4000] tE).mailbox 7).arg 1 % 2 ^ 32) none = .absent := by decide +kernel
    refine ⟨_, rfl, rfl, _, _, .inr ⟨_, l, .inr (.inl ⟨by decide +kernel, ?_, rfl, rfl⟩)⟩, rfl⟩
    intro n gs e
    exact absurd (h.symm.trans e) (by simp)
  · let s : State := tMail 7 0x71 [0x9000, 255, 15] tE
    have h : (((s.extRead (s.queue 255).ctx 0x9000 192).bind fun h =>
        s.extRead (s.queue 255).ctx 0x9000 (max (field h 120 8) 192)).map fun b =>
          ((s.noteExt (s.queue 255).ctx 0x9000 b.length).plantRefusal (s.queue 255).ctx b).isSome) = some true := by decide +kernel
    obtain ⟨b, hb, hr⟩ := Option.map_eq_some_iff.mp h
    obtain ⟨e, he⟩ := Option.isSome_iff_exists.mp hr
    exact ⟨_, rfl, rfl, _, _, .inr ⟨by decide +kernel, by decide +kernel, .inr ⟨b, hb, .inl ⟨e, he, rfl, rfl⟩⟩⟩, rfl⟩
  · have h : (tMail 7 0x74 [15, 0x9000, 0] tE).shardList (((tMail 7 0x74 [15, 0x9000, 0] tE).mailbox 7).arg 2)
        (((tMail 7 0x74 [15, 0x9000, 0] tE).mailbox 7).arg 1) (2 ^ 52) = some ([], 0) := by decide +kernel
    exact ⟨_, rfl, rfl, _, _, .inr ⟨by decide +kernel, [], 0, h, .inr ⟨[], rfl, rfl, rfl⟩⟩, rfl⟩

end Machine

namespace Machine

/-- The host's accesses: outside the device, at its end, poisoned, to a dead line; the patrol; power. -/
theorem witness_device_accesses :
    Fires Claims.deviceEvents (.hostWrite deviceBytes [1] false false) tReg ∧ Fires Claims.deviceEvents (.hostWrite 0 [1] false false) tState ∧
    Fires Claims.deviceEvents (.hostWrite (deviceBytes - 1) [1] true false) tReg ∧
    Fires Claims.deviceEvents (.hostWrite (deviceBytes - 2) [1, 2] false true) tReg ∧
    Fires Claims.deviceEvents (.hostRead ⟨none, deviceBytes⟩ 1) tReg ∧ Fires Claims.deviceEvents (.hostRead ⟨none, 0x1000⟩ 8) tReg ∧
    Fires Claims.deviceEvents (.hostRead ⟨some 16, 0x600000⟩ 4) tReg ∧ Fires Claims.deviceEvents (.hostRead ⟨some 17, 0x600000⟩ 4) tReg ∧
    Fires Claims.deviceEvents (.hostAtomicop .fetchAdd true 0x1004 1 0) tReg ∧
    Fires Claims.deviceEvents (.hostAtomicop .cas true 0x2000 1 0) tReg ∧
    Fires Claims.deviceEvents (.hostAtomicop .swap false 0x2000 1 0)
      { tReg with fabric := { tReg.fabric with lines := [{ Line.fresh 0x80 with poisoned := true }] } } ∧
    Fires Claims.deviceEvents (.patrolScrub 5) tReg ∧ Fires Claims.deviceEvents (.powerSample 4095 109) tReg ∧ Fires Claims.deviceEvents (.powerSample 0 110) tReg := by
  refine ⟨⟨_, .inl ⟨by unfold Claims.inReach; decide +kernel, rfl⟩⟩, ⟨_, .inl ⟨by unfold Claims.inReach; decide +kernel, rfl⟩⟩,
    ⟨_, .inr (.inl ⟨by unfold Claims.inReach; decide +kernel, rfl, rfl⟩)⟩,
    ⟨_, .inr (.inr ⟨by unfold Claims.inReach; decide +kernel, rfl, rfl⟩)⟩,
    ⟨_, .inl ⟨by unfold Claims.inReach; decide +kernel, rfl⟩⟩, ⟨_, .inr ⟨by unfold Claims.inReach; decide +kernel, rfl⟩⟩,
    ⟨_, rfl⟩, ⟨_, rfl⟩,
    ⟨_, .inl ⟨by unfold Claims.inReach; decide +kernel, rfl⟩⟩,
    ⟨_, .inr (.inr ⟨by unfold Claims.inReach; decide +kernel, by decide +kernel, by decide +kernel, by decide +kernel, rfl⟩)⟩,
    ⟨_, .inr (.inl ⟨by unfold Claims.inReach; decide +kernel, by decide +kernel, .inl (by decide +kernel), rfl⟩)⟩,
    ⟨_, by decide +kernel, by decide +kernel, rfl⟩, ⟨_, rfl⟩, ⟨_, rfl⟩⟩

/-- Signatures over no digest. -/
def tUnsigned : FirmSign := { digest := [], edKey := [], edSig := [], mlKey := [], mlSig := [] }
theorem tUnsigned_bad : ¬ Claims.signed tUnsigned [] := fun h => absurd h.1 (by decide +kernel)

/-- The device's life: a thermal stop, a reset, trust (a good image, a bad one, an old one), calibration, READY and its
failure, a function's reset, links, faults of stored words, and configuration requests. -/
theorem witness_device_life :
    let at' (n : Nat) : State := { State.reset with life := { State.reset.life with stage := n } }
    let tZeroed : State := { at' 3 with life := { (at' 3).life with zeroed := 768 * 2 ^ 30 } }
    Fires Claims.deviceEvents (.thermalStop 3) tE ∧ Fires Claims.deviceEvents .moduleReset tE ∧
    (∀ g, Claims.signed g [1] → Fires Claims.deviceEvents (.firmwareMeasured 7 [[1]] g Config.minVersion) State.reset) ∧
    Fires Claims.deviceEvents (.firmwareMeasured 0 [] tUnsigned 0) State.reset ∧
    (∀ g, Claims.signed g [] → 0 < Config.minVersion → Fires Claims.deviceEvents (.firmwareMeasured 0 [] g 0) State.reset) ∧
    Fires Claims.deviceEvents (.calibrationDone 0 0) (at' 2) ∧ Fires Claims.deviceEvents (.calibrationDone 3 9) (at' 2) ∧
    Fires Claims.deviceEvents (.calibrationDone 4 9) (at' 2) ∧
    Fires Claims.deviceEvents (.ready false) tZeroed ∧ Fires Claims.deviceEvents (.ready true) (at' 3) ∧
    Fires Claims.deviceEvents (.functionLevelReset 1) tE ∧ Fires Claims.deviceEvents (.functionLevelReset 16) tE ∧
    Fires Claims.deviceEvents (.flitReplay 11) tE ∧ Fires Claims.deviceEvents (.linkRetrain 0 true ⟨true, [(0, 2)], [(0, 3)]⟩) tE ∧
    Fires Claims.deviceEvents (.linkStatusRead 11) tReg ∧ Fires Claims.deviceEvents (.linkStatusRead 0) tState ∧
    Fires Claims.deviceEvents (.lineStateStoreFault 5) tE ∧ Fires Claims.deviceEvents (.storedWordError (.mem 0x1003) 1 0) tE ∧
    Fires Claims.deviceEvents (.storedWordError (.reg 1 0 66) 1 0) tE ∧ Fires Claims.deviceEvents (.storedWordError (.cap 1 0 15) 0 1) tE ∧
    Fires Claims.deviceEvents (.storedWordError (.line 0x1000) 1 0) tE ∧ Fires Claims.deviceEvents (.storedWordError (.result 1 0) 5 0) tE ∧
    Fires Claims.deviceEvents (.hostConfigRequest ⟨0, .ids, none⟩) (at' 1) ∧
    Fires Claims.deviceEvents (.hostConfigRequest ⟨17, .ids, none⟩) (at' 2) ∧
    Fires Claims.deviceEvents (.hostConfigRequest ⟨16, .classRev, none⟩) (at' 4) ∧
    Fires Claims.deviceEvents (.hostConfigRequest ⟨16, .devCtl2, some 6⟩) (at' 4) ∧
    Fires Claims.deviceEvents (.hostConfigRequest ⟨0, .ids, some 6⟩) (at' 4) := by
  refine ⟨⟨_, rfl⟩, ⟨_, rfl⟩, fun _ h => ⟨_, by decide +kernel, by decide, .inr (.inr ⟨h, by exact Nat.le_refl _, rfl⟩)⟩,
    ⟨_, by decide +kernel, by decide, .inl ⟨tUnsigned_bad, rfl⟩⟩,
    fun _ g h => ⟨_, by decide +kernel, by decide, .inr (.inl ⟨g, h, rfl⟩)⟩,
    ⟨_, rfl, .inl ⟨rfl, rfl⟩⟩, ⟨_, rfl, .inr ⟨.inl rfl, rfl⟩⟩, ⟨_, rfl, .inr ⟨.inr rfl, rfl⟩⟩,
    ⟨_, rfl, .inr ⟨rfl, by decide +kernel, rfl⟩⟩, ⟨_, rfl, .inl ⟨rfl, rfl⟩⟩, ⟨_, by decide, by decide, rfl⟩, ⟨_, by decide, by decide, rfl⟩,
    ⟨_, rfl⟩, ⟨_, rfl⟩, ⟨_, .inr ⟨_, rfl, by decide, rfl, rfl⟩⟩, ⟨_, .inl ⟨rfl, by decide, rfl⟩⟩, ⟨_, rfl⟩, ⟨_, rfl⟩, ⟨_, rfl⟩, ⟨_, rfl⟩, ⟨_, rfl⟩, ⟨_, rfl⟩,
    ⟨_, .inl ⟨by decide, rfl⟩⟩, ⟨_, .inr (.inl ⟨by decide, by decide, rfl⟩)⟩,
    ⟨_, .inr (.inr (.inl ⟨by decide, by decide, rfl, rfl⟩))⟩, ⟨_, .inr (.inr (.inr ⟨by decide, by decide, _, rfl, rfl⟩))⟩,
    ⟨_, .inr (.inr (.inr ⟨by decide, by decide, _, rfl, rfl⟩))⟩⟩

end Machine

/-! ### Witnesses: the rules of the whole machine -/

namespace Machine

/-- Well-formed instructions have words. -/
theorem witness_DecodeInvertsEncode : (wf (.nop 0 none) = true ∧ (encode (.nop 0 none)).isSome = true) ∧
    wf (.iadd tc .n64 true 62 (.imm 0xFFFFFFFF) (.const 15)) = true ∧
    (encode (.iadd tc .n64 true 62 (.imm 0xFFFFFFFF) (.const 15))).isSome = true := by decide +kernel

/-- The ends of the ranges of unassigned opcodes, their neighbours, and the machine at its instruction. -/
theorem witness_UnassignedOpcodesAreIllegal :
    (∀ op ∈ [0x15, 0x1F, 0x5D, 0x5F, 0x6B, 0x6F, 0x7A, 0x7F, 0x8D, 0x9F, 0xB0, 0xBF, 0xC6, 0xCF, 0xDB, 0xDF, 0xE6, 0xE7, 0xF4, 0xFF],
      Claims.unassigned op) ∧
    (∀ op ∈ [0x14, 0x20, 0x5C, 0x60, 0x6A, 0x70, 0x79, 0x80, 0x8C, 0xA0, 0xAF, 0xC0, 0xC5, 0xD0, 0xDA, 0xE0, 0xE5, 0xE8, 0xF3],
      ¬ Claims.unassigned op) ∧ tState.current? = some (tUnit, tFibre 0) := by
  refine ⟨?_, ?_, by decide +kernel⟩ <;> (unfold Claims.unassigned; decide)

/-- The small machine about to issue from a PC, with a line of an unassigned opcode at 0x6000 and a packed line of NOPs at
0x6040. -/
def tIssueF (pc : BitVec 57) : Fibre := { tFibre 0 with pc := pc }
def tIssueU (pc : BitVec 57) : Unit := { tUnit with desc := { tDesc with dict := true }, fibres := [tIssueF pc] }
abbrev tIssue (pc : BitVec 57) : State :=
  { tState with
    mem := (tState.mem.setWords 0x6000 ([0, 0, 0xFF000000].map fresh)).setWords 0x603C ([0x04000000].map fresh) |>.setWords 0x607C
      ([0x80000000].map fresh)
    units := [tIssueU pc], issuing := [(1, 0)] }

/-- A word that decodes, one that does not, a packed code and a PC that no page holds; and the fibre may issue. -/
theorem witness_StepRunsTheDecodedInstruction :
    (∀ pc, (tIssue pc).agenda = [] ∧ ({ tIssue pc with issuing := [] } : State).live? 1 0 = some (tIssueU pc, tIssueF pc) ∧
      ({ tIssue pc with issuing := [] } : State).mayIssue (tIssueU pc) (tIssueF pc) = true ∧
      ({ tIssue pc with issuing := [] } : State).bankingOf (tIssueU pc) = false ∧ (tIssueU pc).ending = false) ∧
    (∃ w p i, ({ tIssue 0x1001 with issuing := [] } : State).fetch (tIssueU 0x1001) (tIssueF 0x1001) = .ok (.word w p) ∧
      decode w p = .ok i) ∧
    (∃ w p r, ({ tIssue 0x6000 with issuing := [] } : State).fetch (tIssueU 0x6000) (tIssueF 0x6000) = .ok (.word w p) ∧
      decode w p = .illegal r) ∧
    (∃ code s3 w p i, ({ tIssue 0x6040 with issuing := [] } : State).fetch (tIssueU 0x6040) (tIssueF 0x6040) = .ok (.packed code) ∧
      exec (.packedCode code) { tIssue 0x6040 with issuing := [] } = .next s3 ∧ s3.ir = some (w, p) ∧ decode w p = .ok i) ∧
    ∃ t, ({ tIssue 0x8000000000 with issuing := [] } : State).fetch (tIssueU 0x8000000000) (tIssueF 0x8000000000) = .error t := by
  refine ⟨fun pc => ⟨rfl, rfl, rfl, rfl, rfl⟩, ?_, ?_, ?_, ?_⟩
  · have h : (match ({ tIssue 0x1001 with issuing := [] } : State).fetch (tIssueU 0x1001) (tIssueF 0x1001) with
      | .ok (.word w p) => (match decode w p with | .ok _ => true | .illegal _ => false)
      | _ => false) = true := by decide +kernel
    split at h
    · rename_i w p hw
      cases hd : decode w p with
      | ok i => exact ⟨w, p, i, hw, hd⟩
      | illegal r => rw [hd] at h; cases h
    · cases h
  · have h : (match ({ tIssue 0x6000 with issuing := [] } : State).fetch (tIssueU 0x6000) (tIssueF 0x6000) with
      | .ok (.word w p) => (match decode w p with | .ok _ => false | .illegal _ => true)
      | _ => false) = true := by decide +kernel
    split at h
    · rename_i w p hw
      cases hd : decode w p with
      | ok i => rw [hd] at h; cases h
      | illegal r => exact ⟨w, p, r, hw, hd⟩
    · cases h
  · have h : (match ({ tIssue 0x6040 with issuing := [] } : State).fetch (tIssueU 0x6040) (tIssueF 0x6040) with
      | .ok (.packed code) => code == 0
      | _ => false) = true := by decide +kernel
    have e : (match execPackedCode 0 { tIssue 0x6040 with issuing := [] } with
      | .next s3 => s3.ir
      | _ => none) = some (packWord fixedNop 0, false) := by decide +kernel
    have d : (match decode (packWord fixedNop 0) false with | .ok _ => true | .illegal _ => false) = true := by decide +kernel
    split at h
    · rename_i code hc
      cases eq_of_beq h
      split at e
      · rename_i s3 hs
        cases hd : decode (packWord fixedNop 0) false with
        | ok i => exact ⟨0, s3, _, _, i, hc, hs, e, hd⟩
        | illegal r => rw [hd] at d; cases d
      · cases e
    · cases h
  · have h : (match ({ tIssue 0x8000000000 with issuing := [] } : State).fetch (tIssueU 0x8000000000) (tIssueF 0x8000000000) with
      | .error _ => true
      | _ => false) = true := by decide +kernel
    split at h
    · rename_i t ht; exact ⟨t, ht⟩
    · cases h

/-- An event on the agenda. -/
theorem witness_StepTakesTheNextEvent : ∃ i rest, ({ tState with agenda := [.prectlCopy] } : State).agenda = i :: rest :=
  ⟨_, _, rfl⟩

/-- A state whose memory is canonical steps. -/
theorem witness_StepKeepsMemoryCanonical : State.reset.mem.wf = true ∧
    ∃ t, step { State.reset with agenda := [.prectlCopy] } = .next t := ⟨by decide +kernel, _, rfl⟩

/-- The lines of a machine with one line supplied are named as the protocol names them. -/
theorem witness_TokensAreConserved : Claims.movesTokens (.tokenArrival 5 ⟨1, [], false⟩) = true ∧ (∀ m, Claims.named ((tLineS tLine5).line m)) ∧
    ∃ t, exec (.tokenArrival 5 ⟨1, [], false⟩) (tLineS tLine5) = .next t := by
  refine ⟨rfl, fun m => ?_, ?_⟩
  · by_cases h : m = 5
    · subst h; unfold Claims.named; decide +kernel
    · obtain ⟨p, e⟩ : ∃ p, (tLineS tLine5).line m = { Line.fresh m with pool := p } := by
        have l : (tLine5.line == m) = false := by simpa [tLine5, Line.fresh] using fun e : 5 = m => h e.symm
        refine ⟨match keyedPool m with | some p => some p | none => (tLineS tLine5).poolOf m, ?_⟩
        show ([tLine5].find? fun l => l.line == m).getD _ = _
        rw [List.find?_cons, l]; rfl
      rw [e]
      exact ⟨List.nodup_nil, List.nodup_nil, fun _ => by show 1 ≤ Config.tokens; decide, fun _ h => by cases h⟩
  · have h : (match exec (.tokenArrival 5 ⟨1, [], false⟩) (tLineS tLine5) with | .next _ => true | _ => false) = true := by decide +kernel
    split at h
    · exact ⟨_, ‹_›⟩
    · cases h

/-- Two words stored, and the word after them. -/
theorem witness_WordsStoredAreReadBack : State.reset.mem.wf = true ∧ 0 < [fresh 1, fresh 2].length ∧
    (0x1000 + 4 * [fresh 1, fresh 2].length ≤ 0x1008 ∨ 0x1008 + 4 ≤ 0x1000) := by decide +kernel

end Machine

namespace Machine

/-- An addition of an unwritten register, executed, and one whose guard is false. -/
def tAdd (pn : Bool) (a : Src) : Instr := .iadd { stall := 3, pn := pn, ps := 15 } .i32 false 2 a (.const 1)
/-- Its form. -/
def tAddOp (pn : Bool) (a : Src) : Op := ((Claims.integers (tAdd pn a)).getD (op0 tc, fun _ _ f => f)).1

theorem tAdd_own (pn : Bool) (a : Src) : ∃ k, Claims.own (tAdd pn a) = some (tAddOp pn a, k) := ⟨_, rfl⟩
theorem tAdd_op (pn : Bool) (a : Src) : Claims.opOf (tAdd pn a) = some (tAddOp pn a) := rfl

/-- A guard that is false (`!pT`), of a fibre that nothing else holds back. -/
theorem tAdd_guarded : ∃ o, Claims.opOf (tAdd true (.reg 0 false)) = some o ∧
    Claims.Guarded tState tUnit (tFibre 0) o ∧ (tFibre 0).pred o.ctl.ps = o.ctl.pn := by
  have c := clear_of_calm tState_calm (op0 tc) rfl rfl
  exact ⟨_, tAdd_op _ _, { cur := c.cur, late := c.late, guardKnown := .inl rfl, guardRead := c.guardRead }, rfl⟩

/-- A guard that is false (`p3`), of an instruction of each kind; the privileged one in a launch with SYS. -/
theorem witness_AFalseGuardOnlyPasses : ∀ i ∈ (let c : Ctl := { tc with ps := 3 }
      [Instr.iadd c .i32 false 2 (tv 0) (.const 1), .fadd c .f32 none 2 (tv 0) (tv 1), .ld c .i32 tmm 2 (tm 2), .cmov c 9 (tcap 1),
        .amo c .add .i32 tmm 2 (tm 2) (tv 0), .fence c .ar .sys, .lninv c (tm 0), .xwait c (tv 0), .rxtake c 20 (.const 1),
        .launch c 20 (tm 0), .evrd c 2 (.const 0), .fqstat c 2 7, .bra c { delta := 0, slot := 4 }, .wspill c 0 (tm 0) (.const 4),
        .trapret c, .srd c 2 .clk]), ∃ o,
      Claims.formOf tState i = some o ∧ (Claims.needsSys i = true → tState.sysOf tUnit = true) ∧
      Claims.Guarded tState tUnit (tFibre 0) o ∧ (tFibre 0).pred o.ctl.ps = o.ctl.pn := by
  have c := clear_of_calm tState_calm (op0 tc) rfl rfl
  simp only [List.forall_mem_cons]
  repeat' apply And.intro
  all_goals first
    | exact ⟨_, rfl, fun _ => by decide +kernel,
        { cur := c.cur, late := c.late, guardKnown := .inr rfl, guardRead := by decide +kernel }, rfl⟩
    | simp

/-- A stall count: of an executed addition, of one predicated off, of a branch, and of a fibre whose time has not come. -/
theorem witness_StallCountsHold :
    (∃ k, Claims.own (tAdd false (.reg 0 false)) = some k ∧ tState.Clear tUnit (tFibre 0) k.1 ∧
      Claims.delivers (tAdd false (.reg 0 false)) (tFibre 0)) ∧
    (∃ o, Claims.opOf (tAdd true (.reg 0 false)) = some o ∧ Claims.Guarded tState tUnit (tFibre 0) o ∧
      (tFibre 0).pred o.ctl.ps = o.ctl.pn) ∧
    (tState.Clear tUnit (tFibre 0) (op0 tc) ∧ Claims.reaches tState tUnit (branchTarget (tFibre 0).pc { delta := 0, slot := 4 }) []) ∧
    ∃ (s : State) (f : Fibre), s.agenda = [] ∧ s.issuing = (1, 0) :: [] ∧
      ({ s with issuing := [] } : State).live? 1 0 = some (tUnitOf f, f) ∧ s.clk < f.ready := by
  obtain ⟨o, ho, g, e⟩ := tAdd_guarded
  exact ⟨⟨_, (tAdd_own _ _).choose_spec, clear_of_calm tState_calm _ rfl rfl, fun _ => rfl⟩, ⟨o, ho, g, e⟩,
    ⟨clear_of_calm tState_calm _ rfl rfl, ok_of_isSome (by decide +kernel)⟩,
    { tWith { tFibre 0 with ready := 1001 } with issuing := [(1, 0)] }, { tFibre 0 with ready := 1001 }, rfl, rfl, rfl,
    by decide +kernel⟩

/-- A fibre whose source is pending. -/
def tPend : Fibre := { tFibre 0 with pending := [{ dest := .slot 66, val := some (.reg (fresh 5)) }] }

/-- An instruction that reads a pending register. -/
theorem witness_ResultsLandInTime : (∃ o, Claims.opOf (tAdd false (.reg 2 false)) = some o ∧
      Claims.Guarded (tWith tPend) (tUnitOf tPend) tPend o ∧ tPend.pred o.ctl.ps ≠ o.ctl.pn ∧ takeFault tPend.faults o.takes = none ∧
      o.blocked tPend = true) ∧ (0 : PReg) ≠ 15 ∧ tPend.pending = { dest := .slot 66, val := some (.reg (fresh 5)) } :: [] :=
  ⟨⟨_, tAdd_op _ _, { cur := ⟨tPend, by decide +kernel, by decide +kernel⟩, late := .inr rfl, guardKnown := .inl rfl, guardRead := by decide +kernel },
    by decide, rfl, by decide +kernel⟩, by decide, rfl⟩

/-- The small machine with a launch under CHK, or without SYS. -/
abbrev tChk : State := { tState with fe := { tState.fe with launches := [{ tLaunch with part := { tLaunch.part with chk := true } }] } }
abbrev tUser : State := { tState with fe := { tState.fe with launches := [{ tLaunch with sys := false }] } }

/-- A fibre with results in flight to `v0` and `p3`, in a launch under CHK. -/
def tFly : Fibre :=
  { tFibre 0 with flights := [{ dest := .slot 64, val := .reg (fresh 1), land := 1003 }, { dest := .pred 3, val := .bit true, land := 1003 }] }
abbrev tChkFly : State := { tWith tFly with fe := tChk.fe }

/-- A read of a released register (`v9`), without CHK and under it, and reads of results that are in flight. -/
theorem witness_ReleasedReads :
    (tget (tFibre 0).stack ((tFibre 0).base + 9) = none) ∧
    (∃ k, Claims.own (tAdd false (.reg 9 false)) = some k ∧ tState.Clear tUnit (tFibre 0) k.1 ∧
      Claims.delivers (tAdd false (.reg 9 false)) (tFibre 0) ∧ tState.chkOf tUnit = false ∧
      ∃ fl b, Rd.reg fl 9 b false ∈ k.1.reads) ∧
    (∃ o, Claims.opOf (tAdd false (.reg 9 false)) = some o ∧ Claims.Reads tChk tUnit (tFibre 0) o ∧ tChk.chkOf tUnit = true ∧
      ∃ r post, o.reads = [] ++ r :: post ∧ ¬ Claims.early (tFibre 0) r ∧ Claims.stale (tFibre 0) r) ∧
    (∃ o, Claims.opOf (tAdd false (.reg 0 false)) = some o ∧ Claims.Reads tChkFly (tUnitOf tFly) tFly o ∧
      tChkFly.chkOf (tUnitOf tFly) = true ∧ ∃ r post, o.reads = [] ++ r :: post ∧ Claims.early tFly r) ∧
    (Claims.Turns tChkFly (tUnitOf tFly) tFly ∧ (3 : PReg) ≠ 15 ∧ tFly.isPending (.pred 3) = false ∧
      tFly.inFlight (.pred 3) = true) := by
  have fly : ∀ d, (tFibre 0).inFlight d = false := fun _ => rfl
  have turn : tChkFly.turn (tUnitOf tFly) tFly := ⟨tFly, by decide +kernel, by decide +kernel⟩
  exact ⟨by decide +kernel, ⟨_, (tAdd_own _ _).choose_spec, clear_of_calm tState_calm _ rfl rfl,
      fun _ => rfl, by decide +kernel, 1, true, by decide +kernel⟩,
    ⟨_, tAdd_op _ _, { cur := ⟨tFibre 0, by decide +kernel, by decide +kernel⟩, late := .inr rfl, guardKnown := .inl rfl
                       guardRead := by decide +kernel, guard := by decide, fault := rfl, ready := by decide +kernel
                       rows := by decide +kernel }, by decide +kernel, .reg 1 9 true false, _, rfl,
      fun ⟨d, _, h⟩ => absurd h (by rw [fly d]; decide), rfl, by decide +kernel⟩,
    ⟨_, tAdd_op _ _, { cur := turn, late := .inr rfl, guardKnown := .inl rfl
                       guardRead := by decide +kernel, guard := by decide, fault := rfl, ready := by decide +kernel
                       rows := by decide +kernel }, by decide +kernel, .reg 1 0 true false, _, rfl, .slot 64, rfl, by decide +kernel⟩,
    { cur := turn, late := .inr rfl }, by decide, rfl, by decide +kernel⟩

/-- An outcome that is a next state. -/
theorem next_of {r : Host.Outcome State Fault Refusal} (h : (match r with | .next _ => true | _ => false) = true) :
    ∃ t, r = .next t := by
  split at h
  · exact ⟨_, rfl⟩
  · cases h

/-- An addition on registers, for the frames. -/
theorem witness_RegisterInstructionsAreLocal : ∃ k t, Claims.own (tAdd false (.reg 0 false)) = some k ∧
    exec (tAdd false (.reg 0 false)) tState = .next t :=
  ⟨_, _, (tAdd_own _ _).choose_spec, (next_of (by decide +kernel)).choose_spec⟩
theorem witness_RegistersOutsideTheDestinationsStay : ∃ k, Claims.own (tAdd false (.reg 0 false)) = some k ∧
    tState.Clear tUnit (tFibre 0) k.1 ∧ Claims.delivers (tAdd false (.reg 0 false)) (tFibre 0) :=
  ⟨_, (tAdd_own _ _).choose_spec, clear_of_calm tState_calm _ rfl rfl, fun _ => rfl⟩
theorem witness_InstructionsThatStoreNothing : Claims.storesNothing (tAdd false (.reg 0 false)) = true ∧
    ∃ t, exec (tAdd false (.reg 0 false)) tState = .next t := ⟨rfl, next_of (by decide +kernel)⟩

end Machine

namespace Machine

/-- The stores, for the frame: each has a next state, and a byte outside its words. -/
theorem witness_StoresTouchOnlyTheirWords : tState.mem.wf = true ∧ (∃ t, exec (.st tc .i32 tmm (tm 8) (tv 0)) tState = .next t) ∧
    (∃ t, exec (.stv tc false tmm (tm 16) (tr 0)) tState = .next t) ∧ (∃ t, exec (.stc tc tmm (tm 16) (tcap 1)) tState = .next t) ∧
    Claims.outside (keyScratch 0 8) 4 (keyScratch 0 12) ∧ Claims.outside (keyScratch 0 8) 4 (keyScratch 0 7) := by
  refine ⟨by decide +kernel, next_of (by decide +kernel), next_of (by decide +kernel), next_of (by decide +kernel), ?_, ?_⟩ <;>
    (unfold Claims.outside; decide +kernel)

/-- A fibre whose `c1` is a capability supplied. -/
def tCapF (c : CapReg) : Fibre := { tFibre 0 with caps := (tFibre 0).caps.set 1 c }
/-- The first failing check of a load of a word through it, at an offset. -/
abbrev tFails (c : CapReg) (off : Int) : Option TrapInfo := Claims.fails (tWith (tCapF c)) (tUnitOf (tCapF c)) c 1 off 4 4 1

/-- Each check of an access, failing first; an access that passes; and a load that meets them. -/
theorem witness_AccessesAreChecked :
    tFails { tCapReg 1 7 with tag := false } 0 = some { cause := 0x20, arg := 1, addr := none } ∧
    tFails (tCapReg 6 7) 0 = some { cause := 0x22, arg := 1, addr := none } ∧
    tFails (tCapReg 1 8) 0 = some { cause := 0x23, arg := 1, addr := none } ∧
    tFails { tCapReg 1 7 with bits := capBits 7 1 0xFE 8192 8 0 } 0 = some { cause := 0x22, arg := 1, addr := none } ∧
    tFails (tCapReg 1 7) (-1) = some { cause := 0x21, arg := 0xFFFFFFFF, addr := none } ∧
    tFails (tCapReg 1 7) 0x1FFFFD = some { cause := 0x21, arg := 0x1FFFFD, addr := none } ∧
    tFails (tCapReg 1 7) 2 = some { cause := 0x25, arg := 2, addr := none } ∧
    tFails (tCapReg 1 7) 0x1FFFFC = none ∧
    (∀ i ∈ [Instr.ld tc .i32 tmm 2 (tm 2), .stv tc true tmm (tm 4) (tr 0), .ldc tc tmm 9 (tm 8), .wspill tc 0 (tm 2) (.const 4),
        .wfill tc 0 (tm 2) (.const 4), .amo tc .add .i32 tmm 2 (tm 2) (tv 0), .cas16 tc tmm 4 (tm 8) (tr 8),
        .barwait tc .unit (tm 4) (.const 0), .mwait tc false .n64 tmm 2 (tm 4) (.const 0), .lninv tc (tm 0x200000),
        .lnreclaim tc tmm 2 (tm 4) (tr 16), .launch tc 20 (tm 32), .signalAdd tc (tm 4) (tv 0), .bank tc 4 (tm 32) (tr 6),
        .plant tc 4 (tm 32), .txpost tc 20 (tcap 1) (some (tr 1)) (.const 14)], ∃ a, Claims.accesses tState i = some a ∧
      tState.Clear tUnit (tFibre 0) a.form ∧ a.first tState tUnit ((tFibre 0).seen a.form) ∧
      (Claims.fails tState tUnit (((tFibre 0).seen a.form).cap a.cap) a.cap (a.off ((tFibre 0).seen a.form))
        (a.size ((tFibre 0).seen a.form)) a.align a.need).isSome = true) := by
  refine ⟨by decide +kernel, by decide +kernel, by decide +kernel, by decide +kernel, by decide +kernel, by decide +kernel,
    by decide +kernel, by decide +kernel, ?_⟩
  simp only [List.forall_mem_cons]
  repeat' apply And.intro
  all_goals first
    | exact ⟨_, rfl, clear_of_calm tState_calm _ rfl rfl, trivial, by decide +kernel⟩
    | exact ⟨_, rfl, clear_of_calm tState_calm _ rfl rfl, by decide +kernel, by decide +kernel⟩
    | exact ⟨_, rfl, clear_of_calm tState_calm _ rfl rfl, ⟨by decide +kernel, by decide +kernel, by decide +kernel, trivial⟩,
        by decide +kernel⟩
    | exact ⟨_, rfl, clear_of_calm tState_calm _ rfl rfl, ⟨by decide +kernel, by decide +kernel, by decide +kernel,
        by decide +kernel, fun h => absurd h (by decide)⟩, by decide +kernel⟩
    | exact ⟨_, rfl, clear_of_calm tState_calm _ rfl rfl, ⟨by decide +kernel, by decide +kernel, by decide +kernel,
        by simp [tm], by simp [srcRegNo]⟩, by decide +kernel⟩
    | simp

/-- A tile at a misaligned address, of a team that has arrived. -/
theorem witness_teamAccesses : ∃ o p d need, Claims.teamAccesses (.aload 0 false 1 (tm 0x1001)) = some (o, p, d, need) ∧
    Claims.Musters tM (tMUnit (tFibre 0)) (tFibre 0) (tMUnit tAt) [tAt] tAt o false ∧ d.toNat < (tMUnit tAt).desc.shelf ∧
    Claims.fails tM (tMUnit tAt) ((Claims.memberSeen false o [tAt] tAt).cap p.cap.n) p.cap.n
      ((Claims.memberSeen false o [tAt] tAt).offset p) 16384 64 need = some { cause := 0x25, arg := 0x1001, addr := none } :=
  ⟨_, _, _, _, rfl, tM_musters _ _, by decide +kernel, by decide +kernel⟩

/-- A launch without SYS. -/
theorem witness_PrivilegedInstructionsNeedSys : Claims.needsSys (.evsel tc (.const 0) (.const 0)) = true ∧
    tUser.current? = some (tUnit, tFibre 0) ∧ tUser.sysOf tUnit = false := by decide +kernel

/-- A recoverable trap where there is a handler and room for its window, to the last slot of the stack; and the other cases. -/
theorem witness_TrapsAreDelivered :
    (∃ l, tState.unit? 1 = some tUnit ∧ tUnit.fibre? 0 = some (tFibre 0) ∧ containment 0x25 = false ∧
      recoverable { cause := 0x25, arg := 2, addr := none } = true ∧ tUnit.desc.hasHandler = true ∧ (tFibre 0).handler = false ∧
      (tFibre 0).base + 128 ≤ tUnit.desc.stack ∧ tState.checkTarget (tState.ctxOf tUnit) tUnit.desc.handlerPc [] = .ok l) ∧
    (tFibre 0).awaits = false ∧ ({ tFibre 0 with pending := [{ dest := .slot 66, val := none }] } : Fibre).awaits = true ∧
    containment 0x0A = true ∧ recoverable { cause := 0x24, arg := 0, addr := none } = false ∧
    tUnit.desc.stack < ({ tFibre 0 with base := 960 } : Fibre).base + 128 := by
  refine ⟨?_, by decide +kernel⟩
  obtain ⟨l, hl⟩ : ∃ l, tState.checkTarget (tState.ctxOf tUnit) tUnit.desc.handlerPc [] = .ok l := ok_of_isSome (by decide +kernel)
  exact ⟨l, by decide +kernel, by decide +kernel, by decide +kernel, by decide +kernel, by decide +kernel, by decide +kernel,
    by decide +kernel, hl⟩

/-- A capability of the whole allocation, one derived of it, and one with fewer permissions. -/
theorem witness_DerivedCapabilitiesStayWithin :
    Reaches Claims.capabilities tS (tFibre 0) (.cderive tc 9 (tcap 1) (.const 0) (.imm 0x200000)) ∧
    Reaches Claims.capabilities tS (tFibre 0) (.cperm tc 9 (tcap 1) (.imm 0x03)) ∧
    ((tFibre 0).cap 1).base + ((tFibre 0).cap 1).length ≤ 2 ^ 64 ∧ 0 < ((tFibre 0).src32 (.imm 0x200000)).toNat :=
  ⟨witness_CapabilityInstructionsComplete.1, witness_CapabilityInstructionsComplete.2.1, by decide +kernel, by decide +kernel⟩

/-- Division: by 0, of the most negative number by −1, and of a wide type. -/
theorem witness_DivisionRule : ITy.i32.is3264 = true ∧ ITy.n64.is3264 = true ∧
    (∀ o, o.ctl = tc → tState.Clear tUnit (tFibre 0) o) :=
  ⟨rfl, rfl, fun o h => clear_of_calm tState_calm o (by rw [h]; rfl) (by rw [h]; rfl)⟩

/-- A fibre whose unit gets bits of its next checked result wrong. -/
def tStruck (w : Word) : Fibre := { tFibre 0 with strike := w }

/-- Whether a result of the k-th part of `v4` and itself fails the check with the unit's wrong bits. -/
def tWrong (t : FTy) (w : Word) (k : Nat) (x : FVal → Round → Exact) : Bool :=
  let f := tStruck w
  let r : FRes := { t := t, r := f.rounding none
                    x := x (fread t (f.rounding none).daz (f.fsrc (tv 4) / 2 ^ (16 * k) % 2 ^ t.bits)) (f.rounding none) }
  r.fails (r.out.1 ^^^ (f.strike.toNat / 2 ^ (16 * k) % 2 ^ t.bits))

/-- A sum, a product and a fused product of pi, a wrong sign in each; and a packed sum with a wrong sign in either half. -/
theorem witness_FailedShadowChecksTrap :
    calm (tWith (tStruck 0x80000000)) (tUnitOf (tStruck 0x80000000)) (tStruck 0x80000000) = true ∧
    calm (tWith (tStruck 0x8000)) (tUnitOf (tStruck 0x8000)) (tStruck 0x8000) = true ∧
    tWrong .f32 0x80000000 0 (fun v r => addExact r.rm v v) = true ∧ tWrong .f32 0x80000000 0 (fun v _ => mulExact v v) = true ∧
    tWrong .f32 0x80000000 0 (fun v r => fmaExact r.rm v v v) = true ∧
    tWrong .f16 0x8000 0 (fun v r => addExact r.rm v v) = true ∧ tWrong .f16 0x80000000 0 (fun v r => addExact r.rm v v) = false ∧
    tWrong .f16 0x80000000 1 (fun v r => addExact r.rm v v) = true := by
  exact ⟨by decide +kernel, by decide +kernel, by decide +kernel, by decide +kernel, by decide +kernel, by decide +kernel,
    by decide +kernel, by decide +kernel⟩

end Machine

end Sys2Proof
end

section

/-! SUPPORT. What every step does with memory (spec 00 R2, 09 R194): it leaves memory alone, or leaves it in its canonical
form. A function over the state that leaves memory alone has a lemma `…_mem`, which says that memory is as it was; any other has a
lemma `…_wf`, which says that memory in canonical form stays so; an effect of an instruction has a lemma `…_keeps`. The lemmas
follow the order of the model, each under the heading of its definition. -/

namespace Sys2Proof.Machine

/-! ### What is said of outcomes and effects -/

/-- The state that an outcome goes on to, if it goes on, has its memory in canonical form. -/
def WfNext (r : Host.Outcome State Fault Refusal) : Prop := ∀ t, r = .next t → t.mem.wf = true

@[simp] theorem wfNext_next (s : State) : WfNext (.next s) ↔ s.mem.wf = true := by simp [WfNext]
@[simp] theorem wfNext_fault (r : Fault) : WfNext (.fault r) := by simp [WfNext]
@[simp] theorem wfNext_refused (r : Refusal) : WfNext (.refused r) := by simp [WfNext]
theorem WfNext.ite {c : Prop} [Decidable c] {a b} (ha : WfNext a) (hb : WfNext b) : WfNext (if c then a else b) := by
  split <;> assumption

/-- The state that an effect leaves has its memory in canonical form; a trap discards the effect's state. -/
def Fx.Wf : Fx → Prop
  | .done s | .trapKeep s _ _ | .wait s _ | .waitKeep s _ _ => s.mem.wf = true
  | .trap _ => True

@[simp] theorem Fx.wf_done (s : State) : (Fx.done s).Wf ↔ s.mem.wf = true := Iff.rfl
@[simp] theorem Fx.wf_trap (t : TrapInfo) : (Fx.trap t).Wf := True.intro
@[simp] theorem Fx.wf_trapKeep (s : State) (f : Fibre) (t : TrapInfo) : (Fx.trapKeep s f t).Wf ↔ s.mem.wf = true := Iff.rfl
@[simp] theorem Fx.wf_wait (s : State) (w : Wait) : (Fx.wait s w).Wf ↔ s.mem.wf = true := Iff.rfl
@[simp] theorem Fx.wf_waitKeep (s : State) (f : Fibre) (w : Wait) : (Fx.waitKeep s f w).Wf ↔ s.mem.wf = true := Iff.rfl

/-- An effect that keeps memory in canonical form. -/
def Keeps (eff : Ctx → State → Fx) : Prop := ∀ x s, s.mem.wf = true → (eff x s).Wf

/-- What an effect that keeps memory in canonical form comes to. -/
theorem Keeps.wf {eff : Ctx → State → Fx} (he : Keeps eff) {x s r} (e : eff x s = r) (h : s.mem.wf = true) : r.Wf :=
  e ▸ he x s h

/-- The state that an operation of a matrix engine leaves has its memory in canonical form. -/
def MxGo.Wf : MxGo → Prop
  | .done s | .fail s _ => s.mem.wf = true
  | .wait => True

@[simp] theorem MxGo.wf_done (s : State) : (MxGo.done s).Wf ↔ s.mem.wf = true := Iff.rfl
@[simp] theorem MxGo.wf_fail (s : State) (t : TrapInfo) : (MxGo.fail s t).Wf ↔ s.mem.wf = true := Iff.rfl
@[simp] theorem MxGo.wf_wait : MxGo.wait.Wf := True.intro

/-- The state that a team's matrix instruction leaves has its memory in canonical form. -/
def TeamGo.Wf : TeamGo → Prop
  | .done s => s.mem.wf = true
  | .trap _ | .wait => True

@[simp] theorem TeamGo.wf_done (s : State) : (TeamGo.done s).Wf ↔ s.mem.wf = true := Iff.rfl
@[simp] theorem TeamGo.wf_trap (t : TrapInfo) : (TeamGo.trap t).Wf := True.intro
@[simp] theorem TeamGo.wf_wait : TeamGo.wait.Wf := True.intro

/-- A team's effect that keeps memory in canonical form. -/
def TeamKeeps (eff : Unit → Fibre → List Fibre → State → TeamGo) : Prop :=
  ∀ u f ms s, s.mem.wf = true → (eff u f ms s).Wf

/-- Where a step of a load stops the instruction, what it comes to leaves memory in canonical form. -/
def StopsWf {α : Type} (e : Except Fx α) : Prop := ∀ r, e = .error r → r.Wf

@[simp] theorem stopsWf_error {α : Type} (r : Fx) : StopsWf (.error r : Except Fx α) ↔ r.Wf := by simp [StopsWf]
@[simp] theorem stopsWf_ok {α : Type} (a : α) : StopsWf (.ok a) := by simp [StopsWf]

/-- The state that a mailbox command leaves has its memory in canonical form. -/
def ReplyWf (r : State × Reply) : Prop := r.1.mem.wf = true

@[simp] theorem replyWf_iff (r : State × Reply) : ReplyWf r ↔ r.1.mem.wf = true := Iff.rfl

theorem ReplyWf.ite {c : Prop} [Decidable c] {a b : State × Reply} (ha : ReplyWf a) (hb : ReplyWf b) :
    ReplyWf (if c then a else b) := by
  split <;> assumption

theorem ReplyWf.of_wire {s : State} (h : s.mem.wf = true) (w : Wire) (r) : ReplyWf ({ s with wire := w }, r) := h

/-! ### Choices, lists and folds -/

@[simp] theorem ite_mem (c : Prop) [Decidable c] (s t : State) : (if c then s else t).mem = if c then s.mem else t.mem :=
  apply_ite State.mem c s t

/-- What holds of a list's entries and of the default holds of what `List.getD` returns. -/
theorem getD_of_forall {α : Type} {p : α → Prop} {l : List α} (h : ∀ a ∈ l, p a) {d : α} (hd : p d) (k : Nat) :
    p (l.getD k d) := by
  by_cases hk : k < l.length
  · rw [List.getD_eq_getElem _ _ hk]
    exact h _ (List.getElem_mem hk)
  · rw [List.getD_eq_default _ _ (not_lt.1 hk)]
    exact hd

/-- A fold over steps that leave memory alone leaves it alone. -/
theorem foldl_mem {α : Type} {f : State → α → State} (hf : ∀ s a, (f s a).mem = s.mem) (l : List α) (s : State) :
    (l.foldl f s).mem = s.mem := by
  induction l generalizing s with
  | nil => rfl
  | cons a l ih => exact (ih _).trans (hf s a)

/-- A fold over steps that keep what holds of the state keeps it. -/
theorem foldl_keeps {σ α : Type} {p : σ → Prop} {f : σ → α → σ} (hf : ∀ s a, p s → p (f s a)) (l : List α) {s : σ} (h : p s) :
    p (l.foldl f s) := by
  induction l generalizing s with
  | nil => exact h
  | cons a l ih => exact ih (hf s a h)

/-- A fold over steps that keep memory in canonical form keeps it so. -/
theorem foldl_wf {α : Type} {f : State → α → State} (hf : ∀ s a, s.mem.wf = true → (f s a).mem.wf = true) (l : List α)
    {s : State} (h : s.mem.wf = true) : (l.foldl f s).mem.wf = true :=
  foldl_keeps (p := fun s : State => s.mem.wf = true) hf l h

/-! ### Memory -/

@[simp] theorem Memory.setWord_keeps {m : Memory} (h : m.wf = true) (k : Nat) (r : Reg) : (m.setWord k r).wf = true :=
  setWord_wf h
@[simp] theorem Memory.setWords_keeps {m : Memory} (h : m.wf = true) (k : Nat) (rs : List Reg) : (m.setWords k rs).wf = true :=
  setWords_wf h
@[simp] theorem Memory.setByte_keeps {m : Memory} (h : m.wf = true) (k : Nat) (b : Byte) : (m.setByte k b).wf = true :=
  setByte_wf h
@[simp] theorem Memory.setBytes_keeps {m : Memory} (h : m.wf = true) (k : Nat) (bs : List Byte) : (m.setBytes k bs).wf = true :=
  setBytes_wf h
@[simp] theorem Memory.setTag_keeps {m : Memory} (h : m.wf = true) (k : Nat) : (m.setTag k).wf = true := setTag_wf h
@[simp] theorem Memory.clearRange_keeps {m : Memory} (h : m.wf = true) (j k : Nat) : (m.clearRange j k).wf = true :=
  clearRange_wf h

/-! ### Counters, traps and the shared form of an instruction (R50, R82, R83) -/

@[simp] theorem State.count_mem (s : State) (core ev n) : (s.count core ev n).mem = s.mem := by simp [State.count]
@[simp] theorem State.countDie_mem (s : State) (die ev n) : (s.countDie die ev n).mem = s.mem := by simp [State.countDie]
@[simp] theorem State.draw_mem (s : State) : s.draw.2.mem = s.mem := rfl
@[simp] theorem State.stampNow_mem (s : State) : s.stampNow.2.mem = s.mem := rfl
@[simp] theorem State.sigWrite_mem (s : State) (u fid seq space adr bs) : (s.sigWrite u fid seq space adr bs).mem = s.mem := by
  simp [State.sigWrite]
@[simp] theorem State.beyond_mem (s : State) (k fid t) : (s.beyond k fid t).mem = s.mem := rfl
@[simp] theorem State.deliver_mem (s : State) (u f t) : (s.deliver u f t).mem = s.mem := rfl

@[simp] theorem State.takeTrap_mem (s : State) (k fid t) : (s.takeTrap k fid t).mem = s.mem := by
  simp only [State.takeTrap]
  (repeat' split) <;> rfl

@[simp] theorem State.startHandlers_mem (s : State) : s.startHandlers.mem = s.mem := by
  unfold State.startHandlers
  split
  · refine foldl_mem (fun s u => foldl_mem (fun s f => ?_) _ _) _ _
    split <;> simp
  · rfl

@[simp] theorem State.endStroke_mem (s : State) (ends) : (s.endStroke ends).mem = s.mem := rfl

/-- Before its effect an instruction ends in nine ways, none of which writes memory; then the effect decides. -/
theorem State.issueOn_wf {s : State} (h : s.mem.wf = true) (u f o) {eff} (he : Keeps eff) :
    (s.issueOn u f o eff).mem.wf = true := by
  simp only [State.issueOn]
  iterate 9
    split
    · simp [h]
  split
  · next s2 e =>
    have k : s2.mem.wf = true := he.wf e h
    split <;> split <;> simp [k]
  · simp [h]
  · next e => simpa using he.wf e h
  · next e => simpa using he.wf e h
  · next e => simpa using he.wf e h

@[simp] theorem State.issue_wf {s : State} (h : s.mem.wf = true) (o) {eff} (he : Keeps eff) : WfNext (s.issue o eff) := by
  unfold State.issue
  split
  · simp
  · simp [State.issueOn_wf h _ _ o he]

@[simp] theorem State.trapIllegal_wf {s : State} (h : s.mem.wf = true) (reason) : WfNext (s.trapIllegal reason) := by
  unfold State.trapIllegal
  split <;> simp [h]

/-! ### Rows -/

@[simp] theorem State.setSpilled_mem (s : State) (core part l) : (s.setSpilled core part l).mem = s.mem := rfl

@[simp] theorem State.spillRow_wf {s : State} (h : s.mem.wf = true) (core part seat slot) :
    (s.spillRow core part seat slot).mem.wf = true :=
  foldl_wf (fun _ _ h => by split <;> simp [h]) _ h

@[simp] theorem State.fillRow_mem (s : State) (core part seat slot hit) :
    (s.fillRow core part seat slot hit).mem = s.mem := by
  simp only [State.fillRow]
  exact foldl_mem (fun _ _ => by simp) _ _

@[simp] theorem State.sendLanes_wf {s : State} (h : s.mem.wf = true) (core part seat slot hit) :
    (s.sendLanes core part seat slot hit).mem.wf = true :=
  foldl_wf (fun _ _ h => by (repeat' split) <;> simp [h]) _ h

@[simp] theorem State.giveRow_wf {s : State} (h : s.mem.wf = true) (core part seat keep slot hit) :
    (s.giveRow core part seat keep slot hit).mem.wf = true := by
  simp only [State.giveRow]
  (repeat' split) <;> simp [h]

@[simp] theorem State.settleSeat_wf {s : State} (h : s.mem.wf = true) (s0 core ps) :
    (State.settleSeat s0 core s ps).mem.wf = true := by
  unfold State.settleSeat
  extract_lets was now hit old slots gone need left fresh s1 keep
  split
  · exact h
  · split
    · exact h
    · refine foldl_wf (fun s n h => ?_) _ h
      dsimp only
      split <;> simp [h]

@[simp] theorem State.settleRows_wf {s : State} (h : s.mem.wf = true) (s0 unit) : (s.settleRows s0 unit).mem.wf = true := by
  unfold State.settleRows
  split
  · exact h
  · exact foldl_wf (fun _ _ h => State.settleSeat_wf h _ _ _) _ h

/-! ### Operands: Destinations -/

@[simp] theorem fx_keeps (g) : Keeps (fx g) := fun _ _ h => by simp [fx, h]
@[simp] theorem fxFixed_keeps (lat d v) : Keeps (fxFixed lat d v) := fx_keeps _
@[simp] theorem fxFlags_keeps (lat d v) : Keeps (fxFlags lat d v) := fx_keeps _
@[simp] theorem fxVar_keeps (d v) : Keeps (fxVar d v) := fx_keeps _
@[simp] theorem fxPred_keeps (lat p v) : Keeps (fxPred lat p v) := fx_keeps _

/-! ### Control: Branches (R86 to R88) -/

@[simp] theorem goto_wf {s : State} (h : s.mem.wf = true) (x t marks g) : (goto x s t marks g).Wf := by
  simp only [goto]
  split <;> simp [h]

@[simp] theorem execNop_wf {s : State} (h : s.mem.wf = true) (stall entry) : WfNext (execNop stall entry s) :=
  State.issue_wf h _ fun _ _ h => by simp [h]
@[simp] theorem execBra_wf {s : State} (h : s.mem.wf = true) (c t) : WfNext (execBra c t s) :=
  State.issue_wf h _ fun _ _ h => by simp [h]

@[simp] theorem execBrx_wf {s : State} (h : s.mem.wf = true) (c a) : WfNext (execBrx c a s) :=
  State.issue_wf h _ fun _ _ h => by
    dsimp only
    split <;> simp [h]

@[simp] theorem execLoopd_wf {s : State} (h : s.mem.wf = true) (c d t) : WfNext (execLoopd c d t s) :=
  State.issue_wf h _ fun _ _ h => by
    dsimp only
    split <;> simp [h]

/-! ### Control: Calls and returns (R89 to R92) -/

@[simp] theorem doCall_wf {s : State} (h : s.mem.wf = true) (x t) : (doCall x s t).Wf := by
  simp only [doCall]
  (repeat' split) <;> simp [h]

@[simp] theorem execCall_wf {s : State} (h : s.mem.wf = true) (c t) : WfNext (execCall c t s) :=
  State.issue_wf h _ fun _ _ h => by simp [h]

@[simp] theorem execCallx_wf {s : State} (h : s.mem.wf = true) (c a) : WfNext (execCallx c a s) :=
  State.issue_wf h _ fun _ _ h => by
    dsimp only
    split <;> simp [h]

@[simp] theorem execRet_wf {s : State} (h : s.mem.wf = true) (c) : WfNext (execRet c s) :=
  State.issue_wf h _ fun x s h => by
    cases x.f.calls with
    | nil => simp
    | cons r rest => dsimp only; split <;> [simp; split <;> simp [h]]

/-! ### Control: Traps (R93, R94) -/

@[simp] theorem execTrap_wf {s : State} (h : s.mem.wf = true) (c a) : WfNext (execTrap c a s) :=
  State.issue_wf h _ fun _ _ _ => by simp
@[simp] theorem execBrk_wf {s : State} (h : s.mem.wf = true) (c a) : WfNext (execBrk c a s) :=
  State.issue_wf h _ fun _ _ _ => by simp

@[simp] theorem doTrapret_keeps (succ) : Keeps (doTrapret succ) := fun _ _ h => by
  simp only [doTrapret]
  (repeat' split) <;> simp [h]

@[simp] theorem execTrapret_wf {s : State} (h : s.mem.wf = true) (c) : WfNext (execTrapret c s) := by simp [execTrapret, h]
@[simp] theorem execTrapretResume_wf {s : State} (h : s.mem.wf = true) (c) : WfNext (execTrapretResume c s) := by
  simp [execTrapretResume, h]

/-! ### Control: Fibre life (R96 to R101) -/

@[simp] theorem execFork_wf {s : State} (h : s.mem.wf = true) (c d a b t) : WfNext (execFork c d a b t s) :=
  State.issue_wf h _ fun _ _ h => by
    dsimp only
    (repeat' split) <;> simp [h]

@[simp] theorem State.endCur_mem (s : State) : s.endCur.mem = s.mem := rfl
@[simp] theorem execFend_wf {s : State} (h : s.mem.wf = true) (c) : WfNext (execFend c s) :=
  State.issue_wf h _ fun _ _ h => by simp [h]
@[simp] theorem execExit_wf {s : State} (h : s.mem.wf = true) (c) : WfNext (execExit c s) :=
  State.issue_wf h _ fun _ _ h => by simp [h]

@[simp] theorem State.recordNext_mem (s : State) (x cont d) : (s.recordNext x cont d).mem = s.mem := by
  simp only [State.recordNext]
  split <;> simp

@[simp] theorem execExitSuccessor_wf {s : State} (h : s.mem.wf = true) (c delta) : WfNext (execExitSuccessor c delta s) :=
  State.issue_wf h _ fun x s h => by
    cases s.successor x delta <;> simp [h]

@[simp] theorem execYield_wf {s : State} (h : s.mem.wf = true) (c) : WfNext (execYield c s) :=
  State.issue_wf h _ fun _ _ h => by simp [h]

@[simp] theorem execSleepu_wf {s : State} (h : s.mem.wf = true) (c a) : WfNext (execSleepu c a s) :=
  State.issue_wf h _ fun _ _ h => by
    dsimp only
    split <;> simp [h]

/-! ### Control: Predicates and special registers (R102 to R106) -/

@[simp] theorem execPset_wf {s : State} (h : s.mem.wf = true) (c k d a b) : WfNext (execPset c k d a b s) := by
  simp [execPset, h]
@[simp] theorem execPmovRd_wf {s : State} (h : s.mem.wf = true) (c d) : WfNext (execPmovRd c d s) := by simp [execPmovRd, h]
@[simp] theorem execPmovWr_wf {s : State} (h : s.mem.wf = true) (c a) : WfNext (execPmovWr c a s) := by simp [execPmovWr, h]
@[simp] theorem execSrd_wf {s : State} (h : s.mem.wf = true) (c d r) : WfNext (execSrd c d r s) :=
  State.issue_wf h _ fun _ _ h => by simp [h]
@[simp] theorem execSwr_wf {s : State} (h : s.mem.wf = true) (c r a) : WfNext (execSwr c r a s) := by simp [execSwr, h]

/-! ### Tokens: Lines -/

@[simp] theorem State.rejoin_mem (s : State) : s.rejoin.mem = s.mem := rfl

/-! ### Tokens: Tokens on their way (R200, R201) -/

@[simp] theorem State.countSend_mem (s : State) (l src dst data) : (s.countSend l src dst data).mem = s.mem := by
  simp only [State.countSend]
  split <;> simp

@[simp] theorem State.sendTokens_mem (s : State) (n src dst tokens owner data epoch) :
    (s.sendTokens n src dst tokens owner data epoch).mem = s.mem := by simp [State.sendTokens]
@[simp] theorem State.giveAll_mem (s : State) (n req dst) : (s.giveAll n req dst).mem = s.mem := by simp [State.giveAll]
@[simp] theorem State.homeGiveAll_mem (s : State) (n req) : (s.homeGiveAll n req).mem = s.mem := by simp [State.homeGiveAll]

@[simp] theorem State.passOn_mem (s : State) (n) : (s.passOn n).mem = s.mem := by
  unfold State.passOn
  split
  · rfl
  · exact (foldl_mem (fun _ _ => by simp) _ _).trans (by simp)

@[simp] theorem State.gather_mem (s : State) (n) : (s.gather n).mem = s.mem := by simp [State.gather]
@[simp] theorem State.gatherHome_mem (s : State) (n) : (s.gatherHome n).mem = s.mem := by simp [State.gatherHome]
@[simp] theorem State.gatherAt_mem (s : State) (n req) : (s.gatherAt n req).mem = s.mem := by simp [State.gatherAt]
@[simp] theorem State.dirtyLine_mem (s : State) (n req) : (s.dirtyLine n req).mem = s.mem := rfl

/-! ### Tokens: Writes that some agents do not see yet (R14, R213, R224, R265) -/

@[simp] theorem State.notice_mem (s : State) (agent es) : (s.notice agent es).mem = s.mem := rfl
@[simp] theorem State.look_mem (s : State) (agent key size) : (s.look agent key size).mem = s.mem := by simp [State.look]
@[simp] theorem State.lookAll_mem (s : State) (agent key size) : (s.lookAll agent key size).mem = s.mem := by
  simp [State.lookAll]
@[simp] theorem State.showAll_mem (s : State) (key size) : (s.showAll key size).mem = s.mem := rfl
@[simp] theorem State.showEngines_mem (s : State) : s.showEngines.mem = s.mem := rfl
@[simp] theorem State.lookEngines_mem (s : State) (agent) : (s.lookEngines agent).mem = s.mem := by simp [State.lookEngines]
@[simp] theorem State.lagStore_mem (s : State) (old core key size whole) :
    (s.lagStore old core key size whole).mem = s.mem := by simp [State.lagStore]
@[simp] theorem State.lagWrite_mem (s : State) (old core held keys) : (s.lagWrite old core held keys).mem = s.mem := rfl

/-! ### Tokens: Commits that the system does not see yet (R235) -/

@[simp] theorem State.hide_mem (s : State) (u old key size) : (s.hide u old key size).mem = s.mem := by
  unfold State.hide
  split
  · rfl
  · refine foldl_mem (fun _ _ => ?_) _ _
    rfl

@[simp] theorem State.sysRelease_mem (s : State) (u scope) : (s.sysRelease u scope).mem = s.mem := by
  simp [State.sysRelease]

/-! ### Tokens: Copies (R192, R201, R216) -/

@[simp] theorem State.dropL1_mem (s : State) (core line) : (s.dropL1 core line).mem = s.mem := rfl
@[simp] theorem State.dropL1All_mem (s : State) (line) : (s.dropL1All line).mem = s.mem := rfl
@[simp] theorem State.dropL1Shared_mem (s : State) (core) : (s.dropL1Shared core).mem = s.mem := rfl
@[simp] theorem execL1CopyExpiry_wf {s : State} (h : s.mem.wf = true) (core line) : WfNext (execL1CopyExpiry core line s) := by
  simp [execL1CopyExpiry, h]
@[simp] theorem State.fillL1_mem (s : State) (core line) : (s.fillL1 core line).mem = s.mem := rfl

/-! ### Tokens: Faults found after acceptance (R209, R264) -/

@[simp] theorem State.takeTrapAt_mem (s : State) (k fid pc t) : (s.takeTrapAt k fid pc t).mem = s.mem := by
  simp only [State.takeTrapAt]
  split <;> simp

@[simp] theorem State.lateTrap_mem (s : State) (u fid pc t) : (s.lateTrap u fid pc t).mem = s.mem := rfl

@[simp] theorem State.failReq_mem (s : State) (k fid r t) : (s.failReq k fid r t).mem = s.mem := by
  simp only [State.failReq]
  (repeat' split) <;> simp

@[simp] theorem State.failLater_mem (s : State) (k fid r t) : (s.failLater k fid r t).mem = s.mem := rfl

@[simp] theorem State.failFibre_mem (s : State) (k n f) : (s.failFibre k n f).mem = s.mem := by
  unfold State.failFibre
  extract_lets rs held mine fail s1
  have hf (s r) : (fail s r).mem = s.mem := by simp [fail]
  have h1 : s1.mem = s.mem := foldl_mem hf _ _
  split
  · exact (foldl_mem (fun _ _ => by simp) _ _).trans ((hf _ _).trans h1)
  · split
    · split <;> simp [h1]
    · exact h1

@[simp] theorem State.failLine_mem (s : State) (n reqs) : (s.failLine n reqs).mem = s.mem := by
  refine foldl_mem (fun s u => ?_) _ _
  split
  · exact foldl_mem (fun _ _ => by simp) _ _
  · rfl

/-! ### Tokens: Requests (R201, R202) -/

@[simp] theorem State.homeAnswer_mem (s : State) (n req write) : (s.homeAnswer n req write).mem = s.mem := by
  simp [State.homeAnswer]
@[simp] theorem State.holderAnswer_mem (s : State) (n h req write) : (s.holderAnswer n h req write).mem = s.mem := by
  simp [State.holderAnswer]
@[simp] theorem State.noteAttempt_mem (s : State) (n req write) : (s.noteAttempt n req write).mem = s.mem := rfl
@[simp] theorem State.ask_mem (s : State) (n req write to') : (s.ask n req write to').mem = s.mem := rfl

@[simp] theorem execCoherenceRequest_wf {s : State} (h : s.mem.wf = true) (line req write holder) :
    WfNext (execCoherenceRequest line req write holder s) := by
  simp only [execCoherenceRequest]
  (repeat' split) <;> simp [h]

@[simp] theorem State.lineFrom_wf {s : State} (h : s.mem.wf = true) (n m data) : (s.lineFrom n m data).mem.wf = true := by
  simp only [State.lineFrom]
  (repeat' split) <;> simp [h]

@[simp] theorem State.makeRoom_mem (s : State) (n req) : (s.makeRoom n req).mem = s.mem := by
  simp only [State.makeRoom]
  (repeat' split) <;> simp

@[simp] theorem State.fillWaiting_mem (s : State) (n req) : (s.fillWaiting n req).mem = s.mem := by
  unfold State.fillWaiting
  split
  · rfl
  · split
    · rfl
    · exact foldl_mem (fun _ _ => by simp) _ _

@[simp] theorem State.reclaimedAfar_wf {s : State} (h : s.mem.wf = true) (n data) :
    (s.reclaimedAfar n data).mem.wf = true := by
  simp only [State.reclaimedAfar]
  (repeat' split) <;> simp [h]

@[simp] theorem execTokenArrival_wf {s : State} (h : s.mem.wf = true) (line got) :
    WfNext (execTokenArrival line got s) := by
  simp only [execTokenArrival]
  (repeat' split) <;> simp [h]

@[simp] theorem execL2Eviction_wf {s : State} (h : s.mem.wf = true) (line holder) : WfNext (execL2Eviction line holder s) := by
  simp [execL2Eviction, h]

@[simp] theorem execAttemptTimeout_wf {s : State} (h : s.mem.wf = true) (line number) :
    WfNext (execAttemptTimeout line number s) := by
  simp only [execAttemptTimeout]
  (repeat' split) <;> simp [h]

/-! ### Tokens: Persistent requests (R203, R204) -/

@[simp] theorem State.broadcast_mem (s : State) (n num active) : (s.broadcast n num active).mem = s.mem := rfl
@[simp] theorem State.activate_mem (s : State) (n req) : (s.activate n req).mem = s.mem := by simp [State.activate]

@[simp] theorem execPersistentRequest_wf {s : State} (h : s.mem.wf = true) (line number) :
    WfNext (execPersistentRequest line number s) := by
  simp only [execPersistentRequest]
  (repeat' split) <;> simp [h]

@[simp] theorem execPersistentSatisfied_wf {s : State} (h : s.mem.wf = true) (line number) :
    WfNext (execPersistentSatisfied line number s) := by
  simp only [execPersistentSatisfied]
  (repeat' split) <;> simp [h]

@[simp] theorem execActivationMessage_wf {s : State} (h : s.mem.wf = true) (line dst) :
    WfNext (execActivationMessage line dst s) := by
  simp only [execActivationMessage]
  (repeat' split) <;> simp [h]

/-! ### Tokens: Owner-lost (R205, R206) -/

@[simp] theorem State.restoreHome_wf {s : State} (h : s.mem.wf = true) (n) : (s.restoreHome n).mem.wf = true := by
  simp only [State.restoreHome]
  split <;> simp [h]

@[simp] theorem State.ownerLost_wf {s : State} (h : s.mem.wf = true) (n) : (s.ownerLost n).mem.wf = true := by
  simp [State.ownerLost, h]
@[simp] theorem State.forgetMember_mem (s : State) (pool member) : (s.forgetMember pool member).mem = s.mem := rfl
@[simp] theorem State.failReclaims_mem (s : State) (n) : (s.failReclaims n).mem = s.mem :=
  foldl_mem (fun _ _ => foldl_mem (fun _ _ => foldl_mem (fun _ _ => by simp) _ _) _ _) _ _

@[simp] theorem execOwnerTimeout_wf {s : State} (h : s.mem.wf = true) (line) : WfNext (execOwnerTimeout line s) := by
  simp only [execOwnerTimeout]
  (repeat' split) <;> simp [h]

@[simp] theorem execStaleEpochDiscard_wf {s : State} (h : s.mem.wf = true) (line msg) :
    WfNext (execStaleEpochDiscard line msg s) := by
  simp only [execStaleEpochDiscard]
  split <;> simp [h]

@[simp] theorem execDirectoryEntryFree_wf {s : State} (h : s.mem.wf = true) (line) :
    WfNext (execDirectoryEntryFree line s) := by
  simp only [execDirectoryEntryFree]
  split <;> simp [h]

/-! ### Access: The gate of a load (R188, R192, R209, R215, R217) -/

@[simp] theorem State.fixView_mem (s : State) (x src a size) : (s.fixView x src a size).mem = s.mem := by
  simp only [State.fixView]
  (repeat' split) <;> simp

@[simp] theorem State.afterLoad_mem (s : State) (x m a src) : (s.afterLoad x m a src).mem = s.mem := by
  simp [State.afterLoad]
@[simp] theorem State.noteFix_mem (s : State) (core key fixed) : (s.noteFix core key fixed).mem = s.mem := by
  simp [State.noteFix]

@[simp] theorem State.noteRange_mem (s : State) (m core key size) : (s.noteRange m core key size).mem = s.mem := by
  unfold State.noteRange
  split
  · exact foldl_mem (fun _ _ => by simp) _ _
  · rfl

@[simp] theorem State.noteHome_mem (s : State) (m key size) : (s.noteHome m key size).mem = s.mem := by
  simp [State.noteHome]

@[simp] theorem State.noteWords_mem (s : State) (core ws) : (s.noteWords core ws).mem = s.mem := by
  unfold State.noteWords
  split
  · exact foldl_mem (fun _ _ => by simp) _ _
  · rfl

/-! ### Access: Making a request -/

@[simp] theorem State.countL2_mem (s : State) (core r) : (s.countL2 core r).mem = s.mem := by simp [State.countL2]
@[simp] theorem State.leave_mem (s : State) (core r) : (s.leave core r).mem = s.mem := by simp [State.leave]

/-! ### Access: Barrier objects (R229 to R231) -/

@[simp] theorem State.wakeBarrier_mem (s : State) (key phase) : (s.wakeBarrier key phase).mem = s.mem := rfl
@[simp] theorem State.barUpdate_wf {s : State} (h : s.mem.wf = true) (key arr g) :
    (s.barUpdate key arr g).1.mem.wf = true := by simp [State.barUpdate, h]

/-! ### Access: Performing a request (R243 to R251, R259 to R261) -/

@[simp] theorem State.refreshL1_mem (s : State) (core r) : (s.refreshL1 core r).mem = s.mem := rfl

@[simp] theorem State.noteEgress_mem (s : State) (core ws) : (s.noteEgress core ws).mem = s.mem := by
  unfold State.noteEgress
  extract_lets bad s1 s2
  have h2 : s2.mem = s.mem := (foldl_mem (fun _ _ => by simp) _ _).trans (foldl_mem (fun _ _ => by simp) _ _)
  split <;> exact h2

@[simp] theorem Memory.sent_wf {m : Memory} (h : m.wf = true) (ws) : (m.sent ws).wf = true :=
  foldl_keeps (p := fun m : Memory => m.wf = true) (fun _ _ h => setWord_wf h) _ h

@[simp] theorem Req.write_wf (r : Req) {m : Memory} (h : m.wf = true) : (r.write m).wf = true := by
  simp only [Req.write]
  split
  · simp [h]
  · simp [h]
  · split <;> simp [h]
  · exact h

@[simp] theorem Req.compute_wf (r : Req) {m : Memory} (h : m.wf = true) : (r.compute m).1.wf = true := by
  simp only [Req.compute]
  split
  · simp [h]
  · simp [h]
  · dsimp only
    split <;> simp [h]
  · simp [h]
  · exact h

/-- What a request has written becomes memory. -/
@[simp] theorem State.wrote_mem (s : State) (core req r keepL1 m) : (s.wrote core req r keepL1 m).mem = m := by
  simp only [State.wrote]
  split
  · split <;> rfl
  · rfl

theorem State.wrote_wf {s : State} (core req r keepL1) {m : Memory} (h : m.wf = true) :
    (s.wrote core req r keepL1 m).mem.wf = true := by simp [h]
@[simp] theorem State.releaseOf_mem (s : State) (u r) : (s.releaseOf u r).mem = s.mem := by simp [State.releaseOf]

@[simp] theorem State.doStore_wf {s : State} (h : s.mem.wf = true) (u fid req r) :
    (s.doStore u fid req r).mem.wf = true := by
  simp only [State.doStore]
  (repeat' split) <;> simp [h]

@[simp] theorem State.flushLine_mem (s : State) (n) : (s.flushLine n).mem = s.mem := by
  simp only [State.flushLine, State.passOn_mem, State.countDie_mem]
  refine foldl_mem (fun s req => ?_) _ _
  split <;> rfl

@[simp] theorem State.doLninv_wf {s : State} (h : s.mem.wf = true) (u fid r) : (s.doLninv u fid r).mem.wf = true := by
  simp [State.doLninv, h]
@[simp] theorem State.doLnreclaim_wf {s : State} (h : s.mem.wf = true) (u fid r bytes) :
    (s.doLnreclaim u fid r bytes).mem.wf = true := by simp [State.doLnreclaim, h]

@[simp] theorem State.performPhantom_mem (s : State) (u fid r) : (s.performPhantom u fid r).mem = s.mem := by
  simp only [State.performPhantom]
  split <;> simp

@[simp] theorem State.barSigned_mem (s : State) (m u fid r) : (s.barSigned m u fid r).mem = s.mem := by
  simp [State.barSigned]

@[simp] theorem State.perform_wf {s : State} (h : s.mem.wf = true) (u fid req r) :
    (s.perform u fid req r).mem.wf = true := by
  simp only [State.perform]
  (repeat' split) <;> simp [h]

@[simp] theorem execAccessPerformed_wf {s : State} (h : s.mem.wf = true) (unit fid k) :
    WfNext (execAccessPerformed unit fid k s) := by
  simp only [execAccessPerformed]
  (repeat' split) <;> simp [h]

/-! ### Access: The gate of a load (R188, R192, R209, R215, R217) -/

/-- A load's gate writes no memory: where the value is not fixed now, the fibre traps or waits. -/
theorem State.gate_wf {s : State} (h : s.mem.wf = true) (x i m a size l1) : StopsWf (s.gate x i m a size l1) := by
  simp only [State.gate]
  (repeat' split) <;> simp [h]

/-! ### Memory: Loads (R120, R122, R126) -/

@[simp] theorem State.firstHalf_wf {s : State} (h : s.mem.wf = true) (x i a src) : (s.firstHalf x i a src).Wf := by
  simp [State.firstHalf, State.draw, h]

/-- A load that stops before its value is fixed writes no memory. -/
theorem State.loadFrom_wf {s : State} (h : s.mem.wf = true) (x i m a n whole) : StopsWf (s.loadFrom x i m a n whole) := by
  unfold State.loadFrom
  split
  · extract_lets b
    split
    · next e => exact (stopsWf_error _).2 (State.gate_wf h _ _ _ _ _ _ _ e)
    · simp
  · split
    · next e => exact (stopsWf_error _).2 (State.gate_wf h _ _ _ _ _ _ _ e)
    · split <;> simp [h]

/-- Memory is as it was in the state in which a load's value is fixed. -/
theorem State.loadFrom_mem {s : State} {x i m a n whole s1 src ws} (e : s.loadFrom x i m a n whole = .ok (s1, src, ws)) :
    s1.mem = s.mem := by
  simp only [State.loadFrom] at e
  repeat' split at e
  all_goals simp at e
  all_goals simp [← e.1]

@[simp] theorem loadWords_wf {s : State} (h : s.mem.wf = true) (x i m p d n) : (loadWords x s i m p d n).Wf := by
  unfold loadWords
  split
  · simp
  · split
    · next e => exact State.loadFrom_wf h _ _ _ _ _ _ _ e
    · next e => simp [State.loadFrom_mem e, h]

@[simp] theorem execLd_wf {s : State} (h : s.mem.wf = true) (c t m d p) : WfNext (execLd c t m d p s) :=
  State.issue_wf h _ fun x s h => by
    dsimp only
    split
    · simp [h]
    · split
      · simp
      · split
        · next e => exact State.gate_wf h _ _ _ _ _ _ _ e
        · split <;> simp [h]

@[simp] theorem execLdv_wf {s : State} (h : s.mem.wf = true) (c four m d p) : WfNext (execLdv c four m d p s) :=
  State.issue_wf h _ fun _ _ h => by simp [h]

@[simp] theorem execLdc_wf {s : State} (h : s.mem.wf = true) (c m d p) : WfNext (execLdc c m d p s) :=
  State.issue_wf h _ fun x s h => by
    dsimp only
    split
    · simp
    · split
      · next e => exact State.loadFrom_wf h _ _ _ _ _ _ _ e
      · next e =>
        split
        · simp
        · rw [Fx.wf_done, State.modCur_mem, foldl_mem (fun _ _ => by simp), State.afterLoad_mem, State.loadFrom_mem e, h]

/-! ### Memory: Stores (R121, R122, R126) -/

@[simp] theorem State.storeFx_wf {s : State} (h : s.mem.wf = true) (x kind m a size last) :
    (s.storeFx x kind m a size last).Wf := by
  simp only [State.storeFx]
  (repeat' split) <;> simp [h]

@[simp] theorem storeWords_wf {s : State} (h : s.mem.wf = true) (x m p ws last) : (storeWords x s m p ws last).Wf := by
  simp only [storeWords]
  split <;> simp [h]

@[simp] theorem execSt_wf {s : State} (h : s.mem.wf = true) (c t m p v) : WfNext (execSt c t m p v s) :=
  State.issue_wf h _ fun _ _ h => by
    (repeat' split) <;> simp [h]

@[simp] theorem execStv_wf {s : State} (h : s.mem.wf = true) (c four m p v) : WfNext (execStv c four m p v s) :=
  State.issue_wf h _ fun _ _ h => by simp [h]

@[simp] theorem execStc_wf {s : State} (h : s.mem.wf = true) (c m p v) : WfNext (execStc c m p v s) :=
  State.issue_wf h _ fun _ _ h => by
    split <;> simp [h]

/-! ### Memory: Prefetch (R124) -/

@[simp] theorem execPref_wf {s : State} (h : s.mem.wf = true) (c l2 _hint p) : WfNext (execPref c l2 _hint p s) :=
  State.issue_wf h _ fun _ _ h => by
    dsimp only
    (repeat' split) <;> simp [h]

/-! ### Memory: Window moves (R107, R108) -/

@[simp] theorem spillLoop_wf {s : State} (h : s.mem.wf = true) (x r space adr i k) : (spillLoop x r space adr s i k).Wf := by
  induction k generalizing s i with
  | zero => exact h
  | succ k ih =>
    unfold spillLoop
    split
    · exact h
    · next key _ =>
      extract_lets w
      have hk := State.storeFx_wf h x (.store (bytesOfWords [w]) [w.code]) { order := .plain, scope := .unit, hint := .dflt }
        { space := space, adr := adr + 4 * i, key := key } 4 []
      split <;> next e => simp_all

@[simp] theorem execWspill_wf {s : State} (h : s.mem.wf = true) (c f m n) : WfNext (execWspill c f m n s) :=
  State.issue_wf h _ fun _ _ h => by
    dsimp only
    (repeat' split) <;> simp [h]

@[simp] theorem fillLoop_wf {s : State} (h : s.mem.wf = true) (x ins r space adr g i k) :
    (fillLoop x ins r space adr s g i k).Wf := by
  induction k generalizing s g i with
  | zero => exact h
  | succ k ih =>
    unfold fillLoop
    extract_lets m
    split
    · exact h
    · extract_lets a
      split
      · next e => simpa using State.gate_wf h _ _ _ _ _ _ _ e
      · exact h
      · next e => exact State.gate_wf h _ _ _ _ _ _ _ e
      · extract_lets sv w s1
        split
        · simp [h]
        · exact ih (by simp [s1, sv, h]) _ _

@[simp] theorem execWfill_wf {s : State} (h : s.mem.wf = true) (c f m n) : WfNext (execWfill c f m n s) :=
  State.issue_wf h _ fun x s h => by
    dsimp only
    split
    · exact h
    split
    · simp
    split
    · simp
    split
    · simp
    · next adr _ =>
      have hk := fillLoop_wf h x (.wfill c f m n) f (x.f.cap m.cap.n).space adr x.f x.f.moved
        ((x.f.src32 n).toNat - x.f.moved)
      split <;> next e => simp_all

/-! ### Fabric: Shared -/

/-- A privileged instruction runs, or traps with memory as it was. -/
@[simp] theorem State.privileged_wf {s : State} (h : s.mem.wf = true) {run} (hr : WfNext run) : WfNext (s.privileged run) := by
  unfold State.privileged
  split
  · simp
  · split <;> simp [h, hr]

@[simp] theorem State.request_wf {s : State} (h : s.mem.wf = true) (x kind cls acq sc a size dests last) :
    (s.request x kind cls acq sc a size dests last).Wf := by
  simp only [State.request]
  (repeat' split) <;> simp [h]

/-! ### Fabric: Atomics (R243 to R246) -/

@[simp] theorem execAmo_wf {s : State} (h : s.mem.wf = true) (c op t m d p v) : WfNext (execAmo c op t m d p v s) :=
  State.issue_wf h _ fun _ _ h => by
    split <;> simp [h]

@[simp] theorem execCas_wf {s : State} (h : s.mem.wf = true) (c t m d p v) : WfNext (execCas c t m d p v s) :=
  State.issue_wf h _ fun _ _ h => by
    split <;> simp [h]

@[simp] theorem execCas16_wf {s : State} (h : s.mem.wf = true) (c m d p v) : WfNext (execCas16 c m d p v s) :=
  State.issue_wf h _ fun _ _ h => by
    split <;> simp [h]

@[simp] theorem execAmof_wf {s : State} (h : s.mem.wf = true) (c op m d p v) : WfNext (execAmof c op m d p v s) :=
  State.issue_wf h _ fun _ _ h => by
    split <;> simp [h]

/-! ### Fabric: Fences and strokes (R248, R257) -/

@[simp] theorem execFence_wf {s : State} (h : s.mem.wf = true) (c order scope) : WfNext (execFence c order scope s) :=
  State.issue_wf h _ fun _ _ h => by
    dsimp only
    (repeat' split) <;> simp [h]

@[simp] theorem execStroke_wf {s : State} (h : s.mem.wf = true) (c) : WfNext (execStroke c s) :=
  State.issue_wf h _ fun _ _ h => by simp [h]

/-! ### Fabric: Barrier objects (R249 to R253) -/

@[simp] theorem execBarinit_wf {s : State} (h : s.mem.wf = true) (c scope p v) : WfNext (execBarinit c scope p v s) :=
  State.issue_wf h _ fun _ _ h => by
    split <;> simp [h]

@[simp] theorem execBararr_wf {s : State} (h : s.mem.wf = true) (c scope d p) : WfNext (execBararr c scope d p s) :=
  State.issue_wf h _ fun _ _ h => by
    split <;> simp [h]

@[simp] theorem execBartx_wf {s : State} (h : s.mem.wf = true) (c scope d p v) : WfNext (execBartx c scope d p v s) :=
  State.issue_wf h _ fun _ _ h => by
    dsimp only
    (repeat' split) <;> simp [h]

@[simp] theorem State.barAcquire_mem (s : State) (core scope) : (s.barAcquire core scope).mem = s.mem := by
  simp [State.barAcquire]

@[simp] theorem execBarwait_wf {s : State} (h : s.mem.wf = true) (c scope p v) : WfNext (execBarwait c scope p v s) :=
  State.issue_wf h _ fun _ _ h => by
    (repeat' split) <;> simp [h]

@[simp] theorem execBartest_wf {s : State} (h : s.mem.wf = true) (c scope d p v) : WfNext (execBartest c scope d p v s) :=
  State.issue_wf h _ fun _ _ h => by
    dsimp only
    (repeat' split) <;> simp [h]

/-! ### Fabric: Monitors (R255, R256) -/

@[simp] theorem mwaitEnd_wf {s : State} (h : s.mem.wf = true) (x ge t m d a v) : (mwaitEnd x s ge t m d a v).Wf := by
  simp only [mwaitEnd]
  (repeat' split) <;> simp [h]

@[simp] theorem execMwait_wf {s : State} (h : s.mem.wf = true) (c ge t m d p v) : WfNext (execMwait c ge t m d p v s) :=
  State.issue_wf h _ fun x s h => by
    dsimp only
    split
    · simp
    · split
      · exact h
      · split
        · next e => exact State.gate_wf h _ _ _ _ _ _ _ e
        · simp [h]

/-! ### Fabric: Line management (R259 to R262) -/

@[simp] theorem execLnflush_wf {s : State} (h : s.mem.wf = true) (c p) : WfNext (execLnflush c p s) :=
  State.issue_wf h _ fun _ _ h => by
    (repeat' split) <;> simp [h]

@[simp] theorem execLninv_wf {s : State} (h : s.mem.wf = true) (c p) : WfNext (execLninv c p s) :=
  State.privileged_wf h <| State.issue_wf h _ fun _ _ h => by
    split <;> simp [h]

@[simp] theorem execLnreclaim_wf {s : State} (h : s.mem.wf = true) (c m d p v) : WfNext (execLnreclaim c m d p v s) :=
  State.privileged_wf h <| State.issue_wf h _ fun _ _ h => by
    split <;> simp [h]

@[simp] theorem execLnstat_wf {s : State} (h : s.mem.wf = true) (c d p) : WfNext (execLnstat c d p s) :=
  State.issue_wf h _ fun _ _ h => by
    split <;> simp [h]

/-! ### Float: Shapes -/

@[simp] theorem fxShadow_keeps (op lat d v) : Keeps (fxShadow op lat d v) := fun x s h => by
  unfold fxShadow
  extract_lets o bits
  split
  · exact h
  · exact fx_keeps _ x s h

@[simp] theorem floatOp2_wf {s : State} (h : s.mem.wf = true) (op lat c t r d a b g) :
    WfNext (floatOp2 op lat c t r d a b g s) := by simp [floatOp2, h]
@[simp] theorem floatFn_wf {s : State} (h : s.mem.wf = true) (op c t r d a g) : WfNext (floatFn op c t r d a g s) := by
  simp [floatFn, h]
@[simp] theorem floatOp1_wf {s : State} (h : s.mem.wf = true) (c r d a g) : WfNext (floatOp1 c r d a g s) := by
  simp [floatOp1, h]

/-! ### Float: Arithmetic (R146) -/

@[simp] theorem execFadd_wf {s : State} (h : s.mem.wf = true) (c t r d a b) : WfNext (execFadd c t r d a b s) := by
  simp [execFadd, h]
@[simp] theorem execFsub_wf {s : State} (h : s.mem.wf = true) (c t r d a b) : WfNext (execFsub c t r d a b s) := by
  simp [execFsub, h]
@[simp] theorem execFmul_wf {s : State} (h : s.mem.wf = true) (c t r d a b) : WfNext (execFmul c t r d a b s) := by
  simp [execFmul, h]
@[simp] theorem execFfma_wf {s : State} (h : s.mem.wf = true) (c t r d a b e) : WfNext (execFfma c t r d a b e s) := by
  simp [execFfma, h]
@[simp] theorem execFdiv_wf {s : State} (h : s.mem.wf = true) (c t r d a b) : WfNext (execFdiv c t r d a b s) := by
  simp [execFdiv, h]
@[simp] theorem execFsqrt_wf {s : State} (h : s.mem.wf = true) (c t r d a) : WfNext (execFsqrt c t r d a s) := by
  simp [execFsqrt, h]
@[simp] theorem execFscale_wf {s : State} (h : s.mem.wf = true) (c t r d a b) : WfNext (execFscale c t r d a b s) := by
  simp [execFscale, h]

/-! ### Float: Minimum, maximum, comparison, class, sign (R147 to R149, R152) -/

@[simp] theorem execFmin_wf {s : State} (h : s.mem.wf = true) (c t d a b) : WfNext (execFmin c t d a b s) := by
  simp [execFmin, h]
@[simp] theorem execFmax_wf {s : State} (h : s.mem.wf = true) (c t d a b) : WfNext (execFmax c t d a b s) := by
  simp [execFmax, h]
@[simp] theorem execFcmp_wf {s : State} (h : s.mem.wf = true) (c cond t d a b) : WfNext (execFcmp c cond t d a b s) := by
  simp [execFcmp, h]
@[simp] theorem execFclass_wf {s : State} (h : s.mem.wf = true) (c t d a) : WfNext (execFclass c t d a s) := by
  simp [execFclass, h]
@[simp] theorem execFcopys_wf {s : State} (h : s.mem.wf = true) (c t d a b) : WfNext (execFcopys c t d a b s) := by
  simp [execFcopys, h]

/-! ### Float: Functions (R150, R151) -/

@[simp] theorem execFrcp_wf {s : State} (h : s.mem.wf = true) (c t r d a) : WfNext (execFrcp c t r d a s) := by
  simp [execFrcp, h]
@[simp] theorem execFrsq_wf {s : State} (h : s.mem.wf = true) (c t r d a) : WfNext (execFrsq c t r d a s) := by
  simp [execFrsq, h]
@[simp] theorem execFexp2_wf {s : State} (h : s.mem.wf = true) (c t r d a) : WfNext (execFexp2 c t r d a s) := by
  simp [execFexp2, h]
@[simp] theorem execFlog2_wf {s : State} (h : s.mem.wf = true) (c t r d a) : WfNext (execFlog2 c t r d a s) := by
  simp [execFlog2, h]
@[simp] theorem execFsin_wf {s : State} (h : s.mem.wf = true) (c t r d a) : WfNext (execFsin c t r d a s) := by
  simp [execFsin, h]
@[simp] theorem execFcos_wf {s : State} (h : s.mem.wf = true) (c t r d a) : WfNext (execFcos c t r d a s) := by
  simp [execFcos, h]
@[simp] theorem execFtanh_wf {s : State} (h : s.mem.wf = true) (c t r d a) : WfNext (execFtanh c t r d a s) := by
  simp [execFtanh, h]
@[simp] theorem execFrnd_wf {s : State} (h : s.mem.wf = true) (c t r d a) : WfNext (execFrnd c t r d a s) := by
  simp [execFrnd, h]

/-! ### Float: Conversions (R153 to R157) -/

@[simp] theorem execCvtfi_wf {s : State} (h : s.mem.wf = true) (c t src r d a) : WfNext (execCvtfi c t src r d a s) := by
  simp [execCvtfi, h]
@[simp] theorem execCvtif_wf {s : State} (h : s.mem.wf = true) (c t src r d a) : WfNext (execCvtif c t src r d a s) := by
  simp [execCvtif, h]
@[simp] theorem execCvtff_wf {s : State} (h : s.mem.wf = true) (c t src r d a) : WfNext (execCvtff c t src r d a s) := by
  simp [execCvtff, h]
@[simp] theorem execCvtl6_wf {s : State} (h : s.mem.wf = true) (c i r d a b e) : WfNext (execCvtl6 c i r d a b e s) := by
  simp [execCvtl6, h]
@[simp] theorem execCvt6f_wf {s : State} (h : s.mem.wf = true) (c i d a b) : WfNext (execCvt6f c i d a b s) := by
  simp [execCvt6f, h]

/-! ### Float: Packed halves (R158) -/

@[simp] theorem packedOp2_wf {s : State} (h : s.mem.wf = true) (op c t r d a b g) : WfNext (packedOp2 op c t r d a b g s) := by
  simp [packedOp2, h]
@[simp] theorem execHadd2_wf {s : State} (h : s.mem.wf = true) (c t r d a b) : WfNext (execHadd2 c t r d a b s) := by
  simp [execHadd2, h]
@[simp] theorem execHmul2_wf {s : State} (h : s.mem.wf = true) (c t r d a b) : WfNext (execHmul2 c t r d a b s) := by
  simp [execHmul2, h]
@[simp] theorem execHfma2_wf {s : State} (h : s.mem.wf = true) (c t r d a b e) : WfNext (execHfma2 c t r d a b e s) := by
  simp [execHfma2, h]
@[simp] theorem execHmnx2_wf {s : State} (h : s.mem.wf = true) (c max t d a b) : WfNext (execHmnx2 c max t d a b s) := by
  simp [execHmnx2, h]

/-! ### Packed -/

@[simp] theorem packOp2_wf {s : State} (h : s.mem.wf = true) (c t sat d a b g) : WfNext (packOp2 c t sat d a b g s) := by
  simp [packOp2, h]
@[simp] theorem execPadd2_wf {s : State} (h : s.mem.wf = true) (c t sat d a b) : WfNext (execPadd2 c t sat d a b s) := by
  simp [execPadd2, h]
@[simp] theorem execPsub2_wf {s : State} (h : s.mem.wf = true) (c t sat d a b) : WfNext (execPsub2 c t sat d a b s) := by
  simp [execPsub2, h]
@[simp] theorem execPmul2_wf {s : State} (h : s.mem.wf = true) (c t sat d a b) : WfNext (execPmul2 c t sat d a b s) := by
  simp [execPmul2, h]
@[simp] theorem execPmnx2_wf {s : State} (h : s.mem.wf = true) (c max t d a b) : WfNext (execPmnx2 c max t d a b s) := by
  simp [execPmnx2, h]
@[simp] theorem execPmac2_wf {s : State} (h : s.mem.wf = true) (c d a b e) : WfNext (execPmac2 c d a b e s) := by
  simp [execPmac2, h]
@[simp] theorem execPshr2_wf {s : State} (h : s.mem.wf = true) (c arith d a b) : WfNext (execPshr2 c arith d a b s) := by
  simp [execPshr2, h]
@[simp] theorem execShrr_wf {s : State} (h : s.mem.wf = true) (c t nar d a b) : WfNext (execShrr c t nar d a b s) := by
  simp [execShrr, h]
@[simp] theorem execPack2_wf {s : State} (h : s.mem.wf = true) (c hi t sat d a b) : WfNext (execPack2 c hi t sat d a b s) := by
  simp [execPack2, h]
@[simp] theorem execUnpk2_wf {s : State} (h : s.mem.wf = true) (c hi t d a) : WfNext (execUnpk2 c hi t d a s) := by
  simp [execUnpk2, h]
@[simp] theorem execLdot4_wf {s : State} (h : s.mem.wf = true) (c r d a b e) : WfNext (execLdot4 c r d a b e s) := by
  simp [execLdot4, h]
@[simp] theorem execIdot4_wf {s : State} (h : s.mem.wf = true) (c t sat d a b e) : WfNext (execIdot4 c t sat d a b e s) := by
  simp [execIdot4, h]

/-! ### Team: Gathering (R80) -/

@[simp] theorem State.teamRun_mem (s : State) (u team o eff) : (s.teamRun u team o eff).mem = s.mem := by
  unfold State.teamRun
  extract_lets w chk det ms trapOfMember good read g bad s1
  have h1 : s1.mem = s.mem := by
    refine foldl_mem (fun s e => ?_) _ _
    dsimp only
    split <;> simp
  refine (foldl_mem (fun s f => ?_) _ _).trans h1
  split <;> simp

@[simp] theorem State.parkFills_mem (s : State) (k l) : (s.parkFills k l).mem = s.mem := by
  simp only [State.parkFills]
  exact foldl_mem (fun _ _ => by simp) _ _

@[simp] theorem State.teamIssue_wf {s : State} (h : s.mem.wf = true) (o eff) : WfNext (s.teamIssue o eff) := by
  simp only [State.teamIssue]
  (repeat' split) <;> simp [h]

/-! ### Team: The operations -/

@[simp] theorem execTsync_wf {s : State} (h : s.mem.wf = true) (stall) : WfNext (execTsync stall s) := by
  simp [execTsync, h]
@[simp] theorem execTslide_wf {s : State} (h : s.mem.wf = true) (c down t fill d a b) :
    WfNext (execTslide c down t fill d a b s) := by simp [execTslide, h]
@[simp] theorem execTshfl_wf {s : State} (h : s.mem.wf = true) (c byXor t d a b e) :
    WfNext (execTshfl c byXor t d a b e s) := by simp [execTshfl, h]
@[simp] theorem execTbcast_wf {s : State} (h : s.mem.wf = true) (c t d a k) : WfNext (execTbcast c t d a k s) := by
  simp [execTbcast, h]
@[simp] theorem execTscan_wf {s : State} (h : s.mem.wf = true) (c op ex t sat r d a) :
    WfNext (execTscan c op ex t sat r d a s) := by simp [execTscan, h]
@[simp] theorem execTred_wf {s : State} (h : s.mem.wf = true) (c op t sat r d a) : WfNext (execTred c op t sat r d a s) := by
  simp [execTred, h]
@[simp] theorem execTvote_wf {s : State} (h : s.mem.wf = true) (c op d a) : WfNext (execTvote c op d a s) := by
  simp [execTvote, h]
@[simp] theorem execTballot_wf {s : State} (h : s.mem.wf = true) (c k d a) : WfNext (execTballot c k d a s) := by
  simp [execTballot, h]
@[simp] theorem execTmatch_wf {s : State} (h : s.mem.wf = true) (c k t d a) : WfNext (execTmatch c k t d a s) := by
  simp [execTmatch, h]
@[simp] theorem execTelect_wf {s : State} (h : s.mem.wf = true) (c d) : WfNext (execTelect c d s) := by simp [execTelect, h]

/-! ### Team: TEAM_CONVERGENCE_TIMEOUT (R80) -/

@[simp] theorem execTeamConvergenceTimeout_wf {s : State} (h : s.mem.wf = true) (unit team) :
    WfNext (execTeamConvergenceTimeout unit team s) := by
  unfold execTeamConvergenceTimeout
  split
  · simp [h]
  · rw [wfNext_next, foldl_mem (fun _ _ => foldl_mem (fun _ _ => by simp) _ _)]
    exact h

/-! ### Caps -/

@[simp] theorem flyCap_mem (s : State) (d v) : (flyCap s d v).mem = s.mem := rfl

@[simp] theorem execCderive_wf {s : State} (h : s.mem.wf = true) (c d a b e) : WfNext (execCderive c d a b e s) :=
  State.issue_wf h _ fun _ _ h => by
    dsimp only
    (repeat' split) <;> simp [h]

@[simp] theorem execCperm_wf {s : State} (h : s.mem.wf = true) (c d a b) : WfNext (execCperm c d a b s) :=
  State.issue_wf h _ fun _ _ h => by
    dsimp only
    (repeat' split) <;> simp [h]

@[simp] theorem execCget_wf {s : State} (h : s.mem.wf = true) (c f d a) : WfNext (execCget c f d a s) := by
  simp [execCget, h]

@[simp] theorem execCaddr_wf {s : State} (h : s.mem.wf = true) (c d a b) : WfNext (execCaddr c d a b s) :=
  State.issue_wf h _ fun _ _ h => by
    dsimp only
    (repeat' split) <;> simp [h]

@[simp] theorem execCmov_wf {s : State} (h : s.mem.wf = true) (c d a) : WfNext (execCmov c d a s) :=
  State.issue_wf h _ fun _ _ h => by simp [h]
@[simp] theorem execCtest_wf {s : State} (h : s.mem.wf = true) (c d a b e mask) : WfNext (execCtest c d a b e mask s) :=
  State.issue_wf h _ fun _ _ h => by simp [h]

/-! ### Fetch -/

@[simp] theorem execPackedCode_wf {s : State} (h : s.mem.wf = true) (code) : WfNext (execPackedCode code s) := by
  simp only [execPackedCode]
  (repeat' split) <;> simp [h]

@[simp] theorem execUnassignedOpcode_wf {s : State} (h : s.mem.wf = true) (reason) :
    WfNext (execUnassignedOpcode reason s) := by simp [execUnassignedOpcode, h]

/-! ### Service: Loads (R70, R188) -/

@[simp] theorem performLoad_wf {s : State} (h : s.mem.wf = true) (i) : WfNext (performLoad i s) := by
  simp only [performLoad]
  split <;> simp [h]

@[simp] theorem State.serveLoad_wf {s : State} (h : s.mem.wf = true) (unit fid i) : WfNext (s.serveLoad unit fid i) := by
  simp [State.serveLoad, h]

@[simp] theorem execLoadDataReturn_wf {s : State} (h : s.mem.wf = true) (unit fid) :
    WfNext (execLoadDataReturn unit fid s) := by
  simp only [execLoadDataReturn]
  (repeat' split) <;> simp [h]

@[simp] theorem execPcieCompletion_wf {s : State} (h : s.mem.wf = true) (unit fid status poisoned) :
    WfNext (execPcieCompletion unit fid status poisoned s) := by
  simp only [execPcieCompletion]
  (repeat' split) <;> simp [h]

@[simp] theorem execPcieCompletionTimeout_wf {s : State} (h : s.mem.wf = true) (unit fid) :
    WfNext (execPcieCompletionTimeout unit fid s) := by
  simp only [execPcieCompletionTimeout]
  (repeat' split) <;> simp [h]

/-! ### Service: Results, fills, sleeps, monitors (R54, R78, R101, R255, R256) -/

@[simp] theorem execVariableLatencyResult_wf {s : State} (h : s.mem.wf = true) (unit fid) :
    WfNext (execVariableLatencyResult unit fid s) := by simp [execVariableLatencyResult, h]

@[simp] theorem State.fillSlot_wf {s : State} (h : s.mem.wf = true) (core part seat n) :
    (s.fillSlot core part seat n).mem.wf = true := by
  simp only [State.fillSlot]
  split <;> simp [h]

@[simp] theorem execRegisterFill_wf {s : State} (h : s.mem.wf = true) (unit fid) : WfNext (execRegisterFill unit fid s) := by
  unfold execRegisterFill
  split
  · simp [h]
  · split
    · exact (wfNext_next _).2 (foldl_wf (fun _ _ h => State.fillSlot_wf h _ _ _ _) _ h)
    · simp [h]

@[simp] theorem State.afterSleep_mem (s : State) (u f) : (s.afterSleep u f).mem = s.mem := by
  simp only [State.afterSleep]
  split <;> simp

@[simp] theorem State.wakeSleep_mem (s : State) (u f planted) : (s.wakeSleep u f planted).mem = s.mem := by
  simp [State.wakeSleep]

@[simp] theorem execSleepExpiry_wf {s : State} (h : s.mem.wf = true) (unit fid) : WfNext (execSleepExpiry unit fid s) := by
  simp only [execSleepExpiry]
  (repeat' split) <;> simp [h]

@[simp] theorem execMonitorWake_wf {s : State} (h : s.mem.wf = true) (unit fid) : WfNext (execMonitorWake unit fid s) := by
  simp only [execMonitorWake]
  (repeat' split) <;> simp [h]

@[simp] theorem execMonitorRereadTimer_wf {s : State} (h : s.mem.wf = true) (unit fid) :
    WfNext (execMonitorRereadTimer unit fid s) := by
  simp only [execMonitorRereadTimer]
  (repeat' split) <;> simp [h]

/-! ### Service: Waking (R13, R70) -/

@[simp] theorem State.wakeRanges_mem (s : State) (core) : (s.wakeRanges core).mem = s.mem := rfl
@[simp] theorem State.freeRanges_mem (s : State) (core who) : (s.freeRanges core who).mem = s.mem := rfl

/-! ### Service: Rounds of a DET launch (R234 to R237) -/

@[simp] theorem State.commitFibre_wf {s : State} (h : s.mem.wf = true) (u f) : (s.commitFibre u f).mem.wf = true :=
  foldl_wf (fun _ _ h => by split <;> simp [h]) _ h

@[simp] theorem State.seekLines_mem (s : State) (ls) : (s.seekLines ls).mem = s.mem := by
  simp only [State.seekLines]
  exact foldl_mem (fun _ _ => by simp) _ _

@[simp] theorem State.passFibres_mem (s : State) (fs) : (s.passFibres fs).mem = s.mem := by
  simp only [State.passFibres]
  exact foldl_mem (fun _ _ => by simp) _ _

@[simp] theorem State.commitFirst_wf {s : State} (h : s.mem.wf = true) (l) : (s.commitFirst l).mem.wf = true :=
  foldl_wf (fun _ _ h => foldl_wf (fun _ _ h => State.commitFibre_wf h _ _) _ h) _ h
@[simp] theorem State.commitNext_mem (s : State) (l e rest) : (s.commitNext l e rest).mem = s.mem := by
  simp [State.commitNext]

@[simp] theorem State.commitLast_wf {s : State} (h : s.mem.wf = true) (l) : (s.commitLast l).mem.wf = true := by
  unfold State.commitLast
  extract_lets us s0 s1 ended s2
  have h0 : s0.mem = s.mem := by simp [s0]
  have h1 : s1.mem.wf = true := foldl_wf (fun _ _ h => State.barUpdate_wf h _ _ _) _ (h0 ▸ h)
  rw [foldl_mem (fun _ _ => by simp)]
  exact h1

@[simp] theorem State.wakePlanted_mem (s : State) (l) : (s.wakePlanted l).mem = s.mem := by
  refine foldl_mem (fun _ _ => foldl_mem (fun s f => ?_) _ _) _ _
  split
  · split <;> simp
  · rfl

@[simp] theorem State.beginRound_mem (s : State) (l) : (s.beginRound l).mem = s.mem := by simp [State.beginRound]

@[simp] theorem execDetRoundCommit_wf {s : State} (h : s.mem.wf = true) (launch) :
    WfNext (execDetRoundCommit launch s) := by
  simp only [execDetRoundCommit]
  (repeat' split) <;> simp [h]

@[simp] theorem State.countInto_wf {s : State} (h : s.mem.wf = true) (key granules) :
    (s.countInto key granules).mem.wf = true := by
  simp only [State.countInto]
  (repeat' split) <;> simp [h]

/-! ### Move: Ranges, paths and promises (R278, R280, R292) -/

@[simp] theorem State.promise_mem (s : State) (u p) : (s.promise u p).2.mem = s.mem := rfl

/-! ### Move: Acceptance (R279, R280) -/

@[simp] theorem State.enqueue_mem (s : State) (u p r) : (s.enqueue u p r).mem = s.mem := rfl
@[simp] theorem State.acceptX_mem (s : State) (u a p) : (s.acceptX u a p).1.mem = s.mem := rfl

/-! ### Move: The movement of bytes (R286 to R290, R294) -/

@[simp] theorem State.noteMove_mem (s : State) (p core bs) : (s.noteMove p core bs).mem = s.mem := by
  simp only [State.noteMove]
  exact foldl_mem (fun _ _ => by simp) _ _

@[simp] theorem State.engineWrite_wf {s : State} (h : s.mem.wf = true) (core ws covered) :
    (s.engineWrite core ws covered).mem.wf = true := by
  unfold State.engineWrite
  extract_lets s1 out
  have h1 : s1.mem = s.mem := foldl_mem (fun _ _ => by simp) _ _
  exact Memory.sent_wf (foldl_keeps (p := fun m : Memory => m.wf = true) (fun _ _ h => setWord_wf h) _ (h1 ▸ h)) _

@[simp] theorem State.unitWrite_wf {s : State} (h : s.mem.wf = true) (u fids seq space runs ws covered) :
    (s.unitWrite u fids seq space runs ws covered).mem.wf = true := by
  unfold State.unitWrite
  extract_lets kept gone blank store s1 s2 s3
  have h1 : s1.mem = s.mem := foldl_mem (fun _ _ => by simp) _ _
  have h2 : s2.mem = s.mem := (foldl_mem (fun _ _ => by simp) _ _).trans h1
  have h3 : s3.mem.wf = true := State.engineWrite_wf (by rw [ite_mem, h1, h2, ite_self]; exact h) _ _ _
  simpa using h3

@[simp] theorem State.unitCount_wf {s : State} (h : s.mem.wf = true) (u key granules) :
    (s.unitCount u key granules).mem.wf = true := by
  simp only [State.unitCount]
  split <;> simp [h]

/-! ### Move: The end of a request -/

@[simp] theorem State.finishX_mem (s : State) (r d) : (s.finishX r d).mem = s.mem := by
  simp only [State.finishX]
  (repeat' split) <;> simp

@[simp] theorem State.writePart_wf {s : State} (h : s.mem.wf = true) (u r p es) :
    (s.writePart u r p es).1.mem.wf = true := by
  simp only [State.writePart]
  (repeat' split) <;> simp [h]

/-! ### Move: When a request may move (R13, R279, R295) -/

@[simp] theorem State.cancelX_wf {s : State} (h : s.mem.wf = true) (core r) : (s.cancelX core r).mem.wf = true := by
  simp only [State.cancelX]
  (repeat' split) <;> simp [h]

/-! ### Contain: What a unit holds elsewhere -/

@[simp] theorem State.dropTransfers_wf {s : State} (h : s.mem.wf = true) (u) : (s.dropTransfers u).mem.wf = true := by
  unfold State.dropTransfers
  split
  · exact h
  · exact foldl_wf (fun _ _ h => State.cancelX_wf h _ _) _ h

@[simp] theorem State.dropDrains_mem (s : State) (u) : (s.dropDrains u).mem = s.mem := rfl
@[simp] theorem State.dropPosts_mem (s : State) (u) : (s.dropPosts u).mem = s.mem := rfl
@[simp] theorem State.unbind_mem (s : State) (u) : (s.unbind u).mem = s.mem := rfl
@[simp] theorem State.dropMatrix_mem (s : State) (u) : (s.dropMatrix u).mem = s.mem := rfl
@[simp] theorem State.removeUnit_wf {s : State} (h : s.mem.wf = true) (u) : (s.removeUnit u).mem.wf = true := by
  simp [State.removeUnit, h]
@[simp] theorem State.finishUnit_wf {s : State} (h : s.mem.wf = true) (u how) : (s.finishUnit u how).mem.wf = true := by
  simp [State.finishUnit, h]

/-! ### Contain: Failure and cancel (R372, R402) -/

@[simp] theorem State.endTrapped_mem (s : State) (l) : (s.endTrapped l).mem = s.mem := rfl
@[simp] theorem State.dropJobs_mem (s : State) (launch gang) : (s.dropJobs launch gang).mem = s.mem := rfl
@[simp] theorem State.endUnits_mem (s : State) (key) : (s.endUnits key).mem = s.mem := rfl

@[simp] theorem State.failLaunch_mem (s : State) (key cause arg) : (s.failLaunch key cause arg).mem = s.mem := by
  simp only [State.failLaunch]
  split <;> simp

@[simp] theorem State.cancelLaunch_mem (s : State) (key) : (s.cancelLaunch key).mem = s.mem := by
  simp only [State.cancelLaunch]
  split <;> simp

/-! ### Contain: Bank points (R415) -/

@[simp] theorem State.endAtPoints_mem (s : State) (u) : (s.endAtPoints u).mem = s.mem := rfl

/-! ### Contain: The kill of a gang (R403, R404) -/

@[simp] theorem State.loseContribs_mem (s : State) (launch gang) : (s.loseContribs launch gang).mem = s.mem := rfl

@[simp] theorem State.removeGang_wf {s : State} (h : s.mem.wf = true) (launch gang) :
    (s.removeGang launch gang).mem.wf = true :=
  foldl_wf (fun _ _ h => by split <;> simp [h]) _ h

@[simp] theorem State.keepRings_mem (s : State) (rings launch) : (s.keepRings rings launch).mem = s.mem := rfl

@[simp] theorem State.killGang_wf {s : State} (h : s.mem.wf = true) (launch gang cause arg) :
    (s.killGang launch gang cause arg).mem.wf = true := by
  simp only [State.killGang]
  split <;> simp [h]

@[simp] theorem State.orphan_wf {s : State} (h : s.mem.wf = true) (u t) : (s.orphan u t).mem.wf = true := by
  simp only [State.orphan]
  split <;> simp [h]

@[simp] theorem State.engineFault_wf {s : State} (h : s.mem.wf = true) (u by' cls t) :
    (s.engineFault u by' cls t).mem.wf = true := by
  simp only [State.engineFault]
  split <;> simp [h]

/-! ### Transfer: Faults (R294) -/

@[simp] theorem State.failX_wf {s : State} (h : s.mem.wf = true) (core r t) : (s.failX core r t).mem.wf = true := by
  simp only [State.failX]
  (repeat' split) <;> simp [h]

@[simp] theorem State.snagX_wf {s : State} (h : s.mem.wf = true) (core r e) : (s.snagX core r e).mem.wf = true := by
  simp only [State.snagX]
  split <;> simp [h]

/-- Congruence does the case split here: `split` leaves the kernel to evaluate `Memory.badWord` at a symbolic key. -/
theorem State.countX_wf {s t : State} (h : s.mem.wf = true) {u r p n} (e : s.countX u r p n = .ok t) : t.mem.wf = true := by
  grind [State.countX, State.unitCount_wf]

@[simp] theorem State.paidX_wf {s : State} (h : s.mem.wf = true) (u core r p) : (s.paidX u core r p).mem.wf = true := by
  unfold State.paidX
  split
  · simp [h]
  · split
    · next e => simp [State.countX_wf h e]
    · simp [h]

/-! ### Transfer: Completion (R290, R291) -/

@[simp] theorem execTransferComplete_wf {s : State} (h : s.mem.wf = true) (core req) :
    WfNext (execTransferComplete core req s) := by
  simp only [execTransferComplete]
  (repeat' split) <;> simp [h]

@[simp] theorem execFifoPushComplete_wf {s : State} (h : s.mem.wf = true) (core req) :
    WfNext (execFifoPushComplete core req s) := by
  simp only [execFifoPushComplete]
  (repeat' split) <;> simp [h]

@[simp] theorem execSequenceStampWrite_wf {s : State} (h : s.mem.wf = true) (core req) :
    WfNext (execSequenceStampWrite core req s) := by
  simp only [execSequenceStampWrite]
  (repeat' split) <;> simp [h]

/-! ### Transfer: Faults, pages and lateness (R293, R294) -/

@[simp] theorem execTransferFault_wf {s : State} (h : s.mem.wf = true) (core req why) :
    WfNext (execTransferFault core req why s) := by
  simp only [execTransferFault]
  (repeat' split) <;> simp [h]

@[simp] theorem execTransferPageResume_wf {s : State} (h : s.mem.wf = true) (core req) :
    WfNext (execTransferPageResume core req s) := by
  simp only [execTransferPageResume]
  (repeat' split) <;> simp [h]

@[simp] theorem execPromiseExpiry_wf {s : State} (h : s.mem.wf = true) (core req) :
    WfNext (execPromiseExpiry core req s) := by
  simp only [execPromiseExpiry]
  (repeat' split) <;> simp [h]

/-! ### Transfer: The aperture (R12, R282) -/

theorem State.tryAperture_wf {s t : State} (h : s.mem.wf = true) {u a behind} (e : s.tryAperture u a behind = some t) :
    t.mem.wf = true := by
  unfold State.tryAperture at e
  split at e
  · simp at e
    simp [← e, h]
  · split at e <;> simp at e
    simp [← e, h]

@[simp] theorem execApertureStore_wf {s : State} (h : s.mem.wf = true) (core offset size data) :
    WfNext (execApertureStore core offset size data s) := by
  simp only [execApertureStore]
  split
  · simp [h]
  · split
    · simp [h]
    · split
      · simp [h]
      · split
        · next e => simp [State.tryAperture_wf h e]
        · simp [h]

/-! ### Transfer: The instructions (R297 to R304) -/

@[simp] theorem execXfer_wf {s : State} (h : s.mem.wf = true) (c d t b) : WfNext (execXfer c d t b s) :=
  State.issue_wf h _ fun _ _ h => by
    dsimp only
    (repeat' split) <;> simp [h]

@[simp] theorem execTransferAccept_wf {s : State} (h : s.mem.wf = true) (core req) : WfNext (execTransferAccept core req s) := by
  simp only [execTransferAccept]
  split
  · split
    · simp [h]
    · split
      · simp [h]
      · split
        · simp [h]
        · rw [wfNext_next]
          split
          · next e => exact State.tryAperture_wf (by simp [h]) e
          · exact h
  · split
    · simp [h]
    · split
      · split
        · exact execXfer_wf (by simp [h]) _ _ _ _
        · split
          · simp [h]
          · exact execXfer_wf (by simp [h]) _ _ _ _
      · simp [h]

@[simp] theorem execXprom_wf {s : State} (h : s.mem.wf = true) (c d t b) : WfNext (execXprom c d t b s) :=
  State.issue_wf h _ fun _ _ h => by
    dsimp only
    split <;> simp [h]

@[simp] theorem execXtpl_wf {s : State} (h : s.mem.wf = true) (c a t toSide) : WfNext (execXtpl c a t toSide s) :=
  State.issue_wf h _ fun _ _ h => by
    dsimp only
    (repeat' split) <;> simp [h]

@[simp] theorem execXwait_wf {s : State} (h : s.mem.wf = true) (c a) : WfNext (execXwait c a s) :=
  State.issue_wf h _ fun _ _ h => by
    dsimp only
    (repeat' split) <;> simp [h]

@[simp] theorem execXcancel_wf {s : State} (h : s.mem.wf = true) (c d a) : WfNext (execXcancel c d a s) :=
  State.issue_wf h _ fun x s h => by
    simpa using foldl_wf (fun _ _ h => State.cancelX_wf h _ _) _ h

@[simp] theorem execXstat_wf {s : State} (h : s.mem.wf = true) (c d a) : WfNext (execXstat c d a s) :=
  State.issue_wf h _ fun _ _ h => by
    dsimp only
    (repeat' split) <;> simp [h]

/-! ### Matrix: Teams and faults (R312, R333) -/

@[simp] theorem State.discardTeam_mem (s : State) (core unit team num) :
    (s.discardTeam core unit team num).mem = s.mem := by
  simp only [State.discardTeam]
  exact foldl_mem (fun _ _ => by simp) _ _

@[simp] theorem State.teamFault_mem (s : State) (core unit team num t) : (s.teamFault core unit team num t).mem = s.mem := by
  simp only [State.teamFault]
  split
  · simp
  · split
    · simp
    · exact (foldl_mem (fun _ _ => by simp) _ _).trans (by simp)

/-! ### Matrix: Tiles and the shelf (R309, R318, R319) -/

@[simp] theorem State.noteTile_mem (s : State) (u t) : (s.noteTile u t).mem = s.mem := by simp [State.noteTile]

@[simp] theorem State.commitTile_wf {s : State} (h : s.mem.wf = true) (u t force) :
    (s.commitTile u t force).mem.wf = true := by
  simp only [State.commitTile]
  split <;> simp [h]

/-! ### Matrix: The crew instructions as operations -/

@[simp] theorem State.autoCommit_wf {s : State} (h : s.mem.wf = true) (u) : (s.autoCommit u).mem.wf = true :=
  foldl_wf (fun _ _ h => by simp [h]) _ h

@[simp] theorem State.tryMma_wf {s : State} (h : s.mem.wf = true) (u o t r d fa fb) : (s.tryMma u o t r d fa fb).Wf := by
  unfold State.tryMma
  extract_lets m n ts head
  split
  · simp [h]
  split
  · simp [h]
  split
  · split
    · simp [h]
    split
    · simp [h]
    split
    · simp [h]
    split
    · simp [h]
    split
    · simp [h]
    extract_lets av s0 s1
    have h0 : s0.mem = s.mem := (foldl_mem (fun _ _ => by simp) _ _).trans (by simp)
    have h1 : s1.mem = s.mem := (foldl_mem (fun _ _ => by simp) _ _).trans h0
    simp [h1, h]
  · simp

@[simp] theorem State.tryRoll_wf {s : State} (h : s.mem.wf = true) (u o d fa fb) : (s.tryRoll u o d fa fb).Wf := by
  simp only [State.tryRoll]
  (repeat' split) <;> simp [h]

@[simp] theorem State.tryCommit_wf {s : State} (h : s.mem.wf = true) (u o) : (s.tryCommit u o).Wf := by
  simp only [State.tryCommit]
  split
  · simp
  · split
    · simp [h]
    · exact foldl_wf (fun _ _ h => State.commitTile_wf h _ _ _) _ h

/-! ### Matrix: One team's operations (R322 to R327) -/

@[simp] theorem State.tryClear_wf {s : State} (h : s.mem.wf = true) (u d) : (s.tryClear u d).Wf := by
  simp only [State.tryClear]
  split <;> simp [h]

@[simp] theorem State.tryLoad_wf {s : State} (h : s.mem.wf = true) (u o int d) : (s.tryLoad u o int d).Wf := by
  simp only [State.tryLoad]
  (repeat' split) <;> simp [h]

@[simp] theorem State.storeTile_wf {s : State} (h : s.mem.wf = true) (u o t k) : (s.storeTile u o t k).mem.wf = true := by
  simp [State.storeTile, h]

@[simp] theorem State.tryStore_wf {s : State} (h : s.mem.wf = true) (u o int d) : (s.tryStore u o int d).Wf := by
  simp only [State.tryStore]
  (repeat' split) <;> simp [h]

@[simp] theorem State.tryDrain_wf {s : State} (h : s.mem.wf = true) (u o int r d) : (s.tryDrain u o int r d).Wf := by
  simp only [State.tryDrain]
  (repeat' split) <;> simp [h]

@[simp] theorem State.tryDrainS_wf {s : State} (h : s.mem.wf = true) (u o int d bar) : (s.tryDrainS u o int d bar).Wf := by
  simp only [State.tryDrainS]
  split
  · simp
  split
  · simp [h]
  split
  · simp [h]
  split
  · simp [h]
  split
  · simp [h]
  split
  · simp [h]
  · split
    · simp [h]
    · exact State.unitCount_wf (State.storeTile_wf (State.commitTile_wf (by simp [h]) _ _ _) _ _ _ _) _ _ _

@[simp] theorem State.tryReduce_wf {s : State} (h : s.mem.wf = true) (u o int d bar) : (s.tryReduce u o int d bar).Wf := by
  simp only [State.tryReduce]
  (repeat' split) <;> simp [h]

@[simp] theorem State.tryDrop_wf {s : State} (h : s.mem.wf = true) (u f) : (s.tryDrop u f).Wf := by simp [State.tryDrop, h]

@[simp] theorem State.tryOp_wf {s : State} (h : s.mem.wf = true) (u o) : (s.tryOp u o).Wf := by
  simp only [State.tryOp]
  split <;> simp [h]

@[simp] theorem State.dropOp_mem (s : State) (core num) : (s.dropOp core num).mem = s.mem := rfl

@[simp] theorem State.mxRun_wf {s : State} (h : s.mem.wf = true) (core before l) : (s.mxRun core before l).mem.wf = true := by
  induction l generalizing before with
  | nil => exact h
  | cons o rest ih =>
    simp only [State.mxRun]
    split
    · exact ih _
    · split
      · simp [h]
      · next u _ =>
        have k : (s.tryOp u o).Wf := State.tryOp_wf h u o
        split
        · exact ih _
        · next e => simpa [e] using k
        · next e =>
          rw [foldl_mem (fun _ _ => by simp)]
          simpa [e] using k

@[simp] theorem execMmaPerform_wf {s : State} (h : s.mem.wf = true) (core) : WfNext (execMmaPerform core s) := by
  simp [execMmaPerform, h]

/-! ### Matrix: Issuing for a team (R307) -/

@[simp] theorem State.parkTeam_mem (s : State) (k ms) : (s.parkTeam k ms).mem = s.mem := by
  simp only [State.parkTeam]
  exact foldl_mem (fun _ _ => by simp) _ _

theorem State.matrixRun_wf {s : State} (h : s.mem.wf = true) (u ms o all) {eff} (he : TeamKeeps eff) :
    (s.matrixRun u ms o all eff).mem.wf = true := by
  unfold State.matrixRun
  extract_lets trapAll det
  have hTrap (t) : (trapAll t).mem.wf = true := by
    have e : (trapAll t).mem = s.mem := foldl_mem (fun _ _ => by simp) _ _
    exact e ▸ h
  split
  · exact h
  · next lead rest =>
    extract_lets readers
    split
    · exact hTrap _
    · next fixed s1 _ _ =>
      have h1 : s1.mem = s.mem := foldl_mem (fun _ _ => by simp) _ _
      have k : (eff u (fixed lead) ((lead :: rest).map fixed) s1).Wf := he _ _ _ _ (h1 ▸ h)
      split
      · next e =>
        rw [e] at k
        exact k
      · exact hTrap _
      · split <;> simp [h]

@[simp] theorem State.deliverTeam_mem (s : State) (u team pc) : (s.deliverTeam u team pc).mem = s.mem := by
  refine foldl_mem (fun s m => ?_) _ _
  split <;> simp

@[simp] theorem State.matrixIssue_wf {s : State} (h : s.mem.wf = true) (o all) {eff} (he : TeamKeeps eff) :
    WfNext (s.matrixIssue o all eff) := by
  unfold State.matrixIssue
  split
  · simp
  · next u f _ =>
    split
    · simp [h]
    · extract_lets team s0 s1
      have h1 : s1.mem.wf = true := by
        simp only [s1, s0]
        cases (s.modCur fun g => { g with wait := some (.team f.pc f.came), served := false }).unit? u.key <;> simp [h]
      split
      · simp [h1]
      · extract_lets ms readers spills
        split
        · simp [h1]
        split
        · simp [h1]
        split
        · simp [h1]
        · simp [State.matrixRun_wf h1 _ _ _ _ he]

/-! ### Matrix: Acceptance (R307, R313, R318) -/

@[simp] theorem State.acceptOp_wf {s : State} (h : s.mem.wf = true) (u f i space adr creg opA ranges) :
    (s.acceptOp u f i space adr creg opA ranges).mem.wf = true := by simp [State.acceptOp, h]

@[simp] theorem tileOp_keeps (i d check opA mm) : TeamKeeps (tileOp i d check opA mm) := fun _ _ _ _ h => by
  simp only [tileOp]
  (repeat' split) <;> simp [h]

@[simp] theorem tileMem_keeps (i d p need write) : TeamKeeps (tileMem i d p need write) := fun _ _ _ _ h => by
  simp only [tileMem]
  (repeat' split) <;> simp [h]

/-! ### Matrix: The instructions (R308) -/

@[simp] theorem execCrew_wf {s : State} (h : s.mem.wf = true) (stall upper a) : WfNext (execCrew stall upper a s) :=
  State.matrixIssue_wf h _ _ fun _ _ _ _ h => by
    dsimp only
    (repeat' split) <;> simp [h]

@[simp] theorem execAclr_wf {s : State} (h : s.mem.wf = true) (stall d) : WfNext (execAclr stall d s) := by
  simp [execAclr, h]
@[simp] theorem execAload_wf {s : State} (h : s.mem.wf = true) (stall int d p) : WfNext (execAload stall int d p s) := by
  simp [execAload, h]
@[simp] theorem execAstore_wf {s : State} (h : s.mem.wf = true) (stall int d p) : WfNext (execAstore stall int d p s) := by
  simp [execAstore, h]
@[simp] theorem execAdrain_wf {s : State} (h : s.mem.wf = true) (stall int r d a) : WfNext (execAdrain stall int r d a s) := by
  simp [execAdrain, h]
@[simp] theorem execAdrainS_wf {s : State} (h : s.mem.wf = true) (stall int d cap idx bar) :
    WfNext (execAdrainS stall int d cap idx bar s) := by simp [execAdrainS, h]
@[simp] theorem execAreduce_wf {s : State} (h : s.mem.wf = true) (stall int d n bar) :
    WfNext (execAreduce stall int d n bar s) := by simp [execAreduce, h]

@[simp] theorem execFqdrop_wf {s : State} (h : s.mem.wf = true) (stall f) : WfNext (execFqdrop stall f s) :=
  State.matrixIssue_wf h _ _ fun _ _ _ _ h => by
    split <;> simp [h]

@[simp] theorem execFqstat_wf {s : State} (h : s.mem.wf = true) (c d f) : WfNext (execFqstat c d f s) :=
  State.issue_wf h _ fun _ _ h => by simp [h]

/-! ### Matrix: Crew instructions (R313) -/

@[simp] theorem crewGo_keeps (i d fb scales) : TeamKeeps (crewGo i d fb scales) := fun _ _ _ _ h => by
  simp only [crewGo]
  (repeat' split) <;> simp [h]

@[simp] theorem execMma_wf {s : State} (h : s.mem.wf = true) (stall t k r d fa fb sc) :
    WfNext (execMma stall t k r d fa fb sc s) := by
  simp only [execMma]
  split <;> simp [h]

@[simp] theorem execAcmt_wf {s : State} (h : s.mem.wf = true) (stall d) : WfNext (execAcmt stall d s) := by
  simp [execAcmt, h]
@[simp] theorem execAroll_wf {s : State} (h : s.mem.wf = true) (stall d fa fb) : WfNext (execAroll stall d fa fb s) := by
  simp [execAroll, h]

@[simp] theorem execCrewCatch_wf {s : State} (h : s.mem.wf = true) (core entry) : WfNext (execCrewCatch core entry s) := by
  unfold execCrewCatch
  extract_lets m
  split
  · simp [h]
  split
  · simp [h]
  extract_lets g
  split
  · simp [h]
  next ranked s1 tile o after put s2' s2 s3 _ =>
  have h1 : s1.mem = s.mem := by simp [s1]
  split
  · rw [wfNext_next, foldl_mem (fun _ _ => by simp), h1]
    exact h
  · have h3 : s3.mem.wf = true := by
      simp only [s3]
      split <;> simp [s2, s2', h1, h]
    simp [h3]

@[simp] theorem execCatchTimeout_wf {s : State} (h : s.mem.wf = true) (core entry) :
    WfNext (execCatchTimeout core entry s) := by
  simp only [execCatchTimeout]
  split
  · simp [h]
  split
  · simp [h]
  split
  · simp [h]
  · refine (wfNext_next _).2 ?_
    rw [foldl_mem (fun _ _ => by simp), foldl_mem (fun _ _ => by simp)]
    simpa using h

/-! ### Matrix: Drains on their way (R323 to R325) -/

@[simp] theorem State.dropDrain_mem (s : State) (num) : (s.dropDrain num).mem = s.mem := rfl

@[simp] theorem State.refuseDrain_mem (s : State) (d reason) : (s.refuseDrain d reason).mem = s.mem := by
  simp only [State.refuseDrain]
  split <;> simp

@[simp] theorem State.applyDrain_wf {s : State} (h : s.mem.wf = true) (u d n next bar) :
    (s.applyDrain u d n next bar).mem.wf = true := by
  simp only [State.applyDrain]
  (repeat' split) <;> simp [h]

@[simp] theorem execDrainArrival_wf {s : State} (h : s.mem.wf = true) (core drain) :
    WfNext (execDrainArrival core drain s) := by
  simp only [execDrainArrival]
  (repeat' split) <;> simp [h]

/-! ### Wire: Landing (R339 to R342) -/

@[simp] theorem State.steer_mem (s : State) (port f bad e u) : (s.steer port f bad e u).mem = s.mem := by
  simp only [State.steer]
  split <;> simp

@[simp] theorem State.dropFrame_mem (s : State) (port) : (s.dropFrame port).mem = s.mem := rfl

@[simp] theorem execFrameReceive_wf {s : State} (h : s.mem.wf = true) (port frame fcsBad) :
    WfNext (execFrameReceive port frame fcsBad s) := by
  simp only [execFrameReceive]
  (repeat' split) <;> simp [h]

@[simp] theorem execFrameLanding_wf {s : State} (h : s.mem.wf = true) (ring) : WfNext (execFrameLanding ring s) := by
  simp only [execFrameLanding]
  (repeat' split) <;> simp [h]

/-! ### Wire: Transmission (R344, R345) -/

@[simp] theorem State.postFault_wf {s : State} (h : s.mem.wf = true) (p t) : (s.postFault p t).mem.wf = true := by
  simp only [State.postFault]
  split <;> simp [h]

@[simp] theorem State.leaveQueue_mem (s : State) (port p) : (s.leaveQueue port p).mem = s.mem := by
  simp only [State.leaveQueue]
  split <;> simp

@[simp] theorem State.wakeStamp_mem (s : State) (p) : (s.wakeStamp p).mem = s.mem := rfl

@[simp] theorem State.readPost_wf {s : State} (h : s.mem.wf = true) (port p) : (s.readPost port p).mem.wf = true := by
  simp only [State.readPost]
  split <;> simp [h]

@[simp] theorem State.sentPost_mem (s : State) (port x) : (s.sentPost port x).mem = s.mem := rfl

@[simp] theorem execFrameTransmit_wf {s : State} (h : s.mem.wf = true) (port) : WfNext (execFrameTransmit port s) := by
  simp only [execFrameTransmit]
  (repeat' split) <;> simp [h]

/-! ### Wire: Time (R347) -/

@[simp] theorem State.discipline_mem (s : State) : s.discipline.mem = s.mem := rfl
@[simp] theorem execPpsOutputSecond_wf {s : State} (h : s.mem.wf = true) : WfNext (execPpsOutputSecond s) := by
  simp [execPpsOutputSecond, h]
@[simp] theorem execPpsInputEdge_wf {s : State} (h : s.mem.wf = true) : WfNext (execPpsInputEdge s) := by
  simp [execPpsInputEdge, h]

/-! ### Wire: The instructions (R352 to R354) -/

@[simp] theorem execRxtake_wf {s : State} (h : s.mem.wf = true) (c d r) : WfNext (execRxtake c d r s) :=
  State.issue_wf h _ fun _ _ h => by
    dsimp only
    (repeat' split) <;> simp [h]

@[simp] theorem execRxrel_wf {s : State} (h : s.mem.wf = true) (c r o) : WfNext (execRxrel c r o s) :=
  State.issue_wf h _ fun _ _ h => by
    dsimp only
    (repeat' split) <;> simp [h]

@[simp] theorem doTxpost_wf {s : State} (h : s.mem.wf = true) (i mode hdr c d a b w) :
    WfNext (doTxpost i mode hdr c d a b w s) :=
  State.issue_wf h _ fun x s h => by
    extract_lets v len port off
    split
    · simp
    split
    · simp
    split
    · simp
    extract_lets sp
    split
    · simp
    split
    · simp [h]
    split
    · simp [h]
    split
    · simp [h]
    · next s1 s2 _ _ _ _ => simp [s2, s1, h]

@[simp] theorem execTxpost_wf {s : State} (h : s.mem.wf = true) (c d a b w) : WfNext (execTxpost c d a b w s) := by
  simp [execTxpost, h]
@[simp] theorem execTxpostTs2_wf {s : State} (h : s.mem.wf = true) (c d a b w) : WfNext (execTxpostTs2 c d a b w s) := by
  simp [execTxpostTs2, h]
@[simp] theorem execTxpostTs1_wf {s : State} (h : s.mem.wf = true) (c d a b w hdr) :
    WfNext (execTxpostTs1 c d a b w hdr s) := doTxpost_wf h _ _ _ _ _ _ _ _
@[simp] theorem execTxstat_wf {s : State} (h : s.mem.wf = true) (c d a) : WfNext (execTxstat c d a s) :=
  State.issue_wf h _ fun _ _ h => by simp [h]
@[simp] theorem execPtprd_wf {s : State} (h : s.mem.wf = true) (c d) : WfNext (execPtprd c d s) :=
  State.issue_wf h _ fun _ _ h => by simp [h]

@[simp] theorem execTsrec_wf {s : State} (h : s.mem.wf = true) (c d a) : WfNext (execTsrec c d a s) :=
  State.issue_wf h _ fun _ _ h => by
    dsimp only
    (repeat' split) <;> simp [h]

/-! ### Front: Vectors (R379, R380) -/

@[simp] theorem State.raiseEvent_mem (s : State) (func k) : (s.raiseEvent func k).mem = s.mem := rfl

/-! ### Front: Memory that a command names (R356, R363, R366) -/

@[simp] theorem State.noteExt_mem (s : State) (ctx a n) : (s.noteExt ctx a n).mem = s.mem := by
  unfold State.noteExt
  split
  · rfl
  · next ks _ =>
    extract_lets s1
    have h1 : s1.mem = s.mem := foldl_mem (fun _ _ => by simp) _ _
    split
    · exact h1
    · exact (foldl_mem (fun _ _ => by simp) _ _).trans h1

@[simp] theorem State.pokeKeys_wf {s : State} (h : s.mem.wf = true) (ks bs) : (s.pokeKeys ks bs).mem.wf = true := by
  unfold State.pokeKeys
  extract_lets s0 s1
  have h0 : s0.mem = s.mem := foldl_mem (fun _ _ => by simp) _ _
  have h1 : s1.mem = s.mem := (foldl_mem (fun _ _ => by simp) _ _).trans h0
  exact foldl_keeps (p := fun m : Memory => m.wf = true) (fun _ _ h => setByte_wf h) _ (h1 ▸ h)

@[simp] theorem State.extWrite_wf {s : State} (h : s.mem.wf = true) (ctx a bs) : (s.extWrite ctx a bs).mem.wf = true := by
  simp only [State.extWrite]
  split <;> simp [h]

/-! ### Front: Copies (R363) -/

@[simp] theorem State.noteCopy_mem (s : State) (p bs) : (s.noteCopy p bs).mem = s.mem := by
  simp only [State.noteCopy]
  exact foldl_mem (fun _ _ => by simp) _ _

theorem State.runCopy_wf {s t : State} (h : s.mem.wf = true) {ctx c err} (e : s.runCopy ctx c err = .ok t) :
    t.mem.wf = true := by
  unfold State.runCopy at e
  split at e
  · cases e
  split at e
  · cases e
  · cases e
  extract_lets bs at e
  split at e
  · cases e
  split at e
  · cases e
  · cases e
  · cases e
    simp [h]

@[simp] theorem State.runCopies_wf {s : State} (h : s.mem.wf = true) (ctx cs err) : (s.runCopies ctx cs err).1.mem.wf = true := by
  induction cs generalizing s err with
  | nil => exact h
  | cons c rest ih =>
    unfold State.runCopies
    split
    · exact h
    · next e => exact ih (State.runCopy_wf h e) _

/-! ### Front: Levels (R370, R371) -/

@[simp] theorem State.modLevel_mem (s : State) (ctx job phase f) : (s.modLevel ctx job phase f).mem = s.mem := rfl
@[simp] theorem State.modLevels_mem (s : State) (ctx job phase f) : (s.modLevels ctx job phase f).mem = s.mem := rfl
@[simp] theorem State.openLevels_mem (s : State) (ctx job phase) : (s.openLevels ctx job phase).mem = s.mem := rfl

/-! ### Front: Records and signals (R366 to R369) -/

@[simp] theorem State.queueRecord_wf {s : State} (h : s.mem.wf = true) (q hdr b) : (s.queueRecord q hdr b).mem.wf = true := by
  simp [State.queueRecord, h]

@[simp] theorem State.nodeRecord_wf {s : State} (h : s.mem.wf = true) (g node b) :
    (s.nodeRecord g node b).mem.wf = true := by
  simp only [State.nodeRecord]
  (repeat' split) <;> simp [h]

@[simp] theorem State.sendSignal_wf {s : State} (h : s.mem.wf = true) (ctx q p) : (s.sendSignal ctx q p).mem.wf = true := by
  simp only [State.sendSignal]
  (repeat' split) <;> simp [h]

/-! ### Work: Accepting a launch (R364, R365, R382, R391) -/

@[simp] theorem State.buildArgs_wf {s : State} (h : s.mem.wf = true) (key ctx adr len tags) :
    (s.buildArgs key ctx adr len tags).mem.wf = true := by
  unfold State.buildArgs
  split
  · exact h
  extract_lets bs
  split
  · exact h
  · refine foldl_keeps (p := fun m : Memory => m.wf = true) (fun m k h => ?_) _
      (foldl_keeps (p := fun m : Memory => m.wf = true) (fun _ _ h => setWord_wf h) _ h)
    split <;> simp [h]

@[simp] theorem State.copyArgs_wf {s : State} (h : s.mem.wf = true) (key u len) : (s.copyArgs key u len).mem.wf = true := by
  refine foldl_keeps (p := fun m : Memory => m.wf = true) (fun m k h => ?_) _ (setWords_wf h)
  dsimp only
  split <;> simp [h]

@[simp] theorem State.enlist_mem (s : State) (a part desc) : (s.enlist a part desc).1.mem = s.mem := by
  simp only [State.enlist]
  (repeat' split) <;> simp

@[simp] theorem State.acceptBundle_wf {s : State} (h : s.mem.wf = true) (a c) : (s.acceptBundle a c).mem.wf = true := by
  simp only [State.acceptBundle]
  split <;> simp [h]

@[simp] theorem State.closeLevels_mem (s : State) (ctx job phase ph jb) : (s.closeLevels ctx job phase ph jb).mem = s.mem :=
  rfl

/-! ### Work: Starting a graph (R375, R376) -/

@[simp] theorem State.startGraph_mem (s : State) (q hdr c nodes records) :
    (s.startGraph q hdr c nodes records).mem = s.mem := rfl

/-! ### Starts: Starting a unit (R37, R66, R284, R306) -/

@[simp] theorem State.beginStage_mem (s : State) (key d) : (s.beginStage key d).mem = s.mem := by
  simp only [State.beginStage]
  split <;> simp

@[simp] theorem State.takeGen_mem (s : State) : s.takeGen.2.mem = s.mem := rfl
@[simp] theorem State.takeGangGen_mem (s : State) : s.takeGangGen.2.mem = s.mem := rfl

theorem State.placeUnit_mem {s t : State} {l no core shadow screened} (e : s.placeUnit l no core shadow screened = some t) :
    t.mem = s.mem := by
  unfold State.placeUnit at e
  extract_lets d chan at e
  split at e
  · cases e
  next ring channel _ _ _ _ _ =>
  clear_value ring channel
  split at e
  next gen s1 hg =>
  have h1 : s1.mem = s.mem := by simpa [hg] using State.takeGen_mem s
  extract_lets u s2 s3 s4 s5 at e
  cases e
  have h3 : s3.mem = s.mem := by
    simp only [s3]
    split <;> simp [s2, h1]
  have h4 : s4.mem = s.mem := by
    simp only [s4]
    split <;> simp [h3]
  have h5 : s5.mem = s.mem := by
    simp only [s5]
    split <;> simp [h4]
  simp [h5]

theorem State.placeUnits_mem {s t : State} {l places} (e : s.placeUnits l places = some t) : t.mem = s.mem := by
  induction places generalizing s with
  | nil =>
    cases e
    rfl
  | cons p rest ih =>
    unfold State.placeUnits at e
    split at e
    · cases e
    · next e1 => exact (ih e).trans (State.placeUnit_mem e1)

@[simp] theorem State.addGang_mem (s : State) (launch gang cluster shadow gen) :
    (s.addGang launch gang cluster shadow gen).mem = s.mem := rfl
@[simp] theorem State.dropCopy_wf {s : State} (h : s.mem.wf = true) (u) : (s.dropCopy u).mem.wf = true := by
  simp [State.dropCopy, h]
@[simp] theorem State.dropShadow_wf {s : State} (h : s.mem.wf = true) (g) : (s.dropShadow g).mem.wf = true :=
  foldl_wf (fun _ _ h => by simp [h]) _ h
@[simp] theorem State.without_mem (s : State) (gs) : (s.without gs).mem = s.mem := rfl

@[simp] theorem State.unshadowed_mem (s : State) : s.unshadowed.mem = s.mem := by
  simp only [State.unshadowed]
  split <;> simp

@[simp] theorem State.clearShadows_wf {s : State} (h : s.mem.wf = true) (cores) : (s.clearShadows cores).mem.wf = true :=
  foldl_wf (fun _ _ h => by simp [h]) _ h

/-! ### Starts: Screening (R406) -/

@[simp] theorem State.screen_mem (s : State) (l no cluster gen) : (s.screen l no cluster gen).mem = s.mem := by
  simp only [State.screen]
  split
  · rfl
  split
  · simp
  split
  · simp
  · next e =>
    obtain ⟨c, -, e⟩ := List.exists_of_findSome?_eq_some e
    refine (State.placeUnit_mem e).trans ?_
    split <;> simp

/-! ### Starts: GANG_DISPATCH (R392) -/

@[simp] theorem State.startCont_mem (s : State) (l no dl) : (s.startCont l no dl).mem = s.mem := by
  simp only [State.startCont]
  (repeat' split) <;> simp

theorem State.startGang_mem {s t : State} {l gang cores} (e : s.startGang l gang cores = some t) : t.mem = s.mem := by
  simp only [State.startGang] at e
  split at e
  · cases e
  split at e
  · cases e
  · next e1 =>
    cases e
    rw [foldl_mem (fun _ _ => by simp)]
    simpa using State.placeUnits_mem e1

@[simp] theorem execGangDispatch_wf {s : State} (h : s.mem.wf = true) (launch gang cores) :
    WfNext (execGangDispatch launch gang cores s) := by
  simp only [execGangDispatch]
  split
  · simp [h]
  split
  · simp [h]
  split
  · simp [h]
  split
  · next e => simp [State.startGang_mem e, h]
  · rw [wfNext_next]
    cases e : (s.clearShadows cores).startGang _ gang cores with
    | none => exact h
    | some t => simp [State.startGang_mem e, h]

/-! ### Starts: UNIT_RETIRE (R97, R281, R369, R384) -/

@[simp] theorem State.cancelUnit_wf {s : State} (h : s.mem.wf = true) (u) : (s.cancelUnit u).mem.wf = true := by
  simp [State.cancelUnit, h]
@[simp] theorem State.orphans_mem (s : State) (u) : (s.orphans u).mem = s.mem :=
  (foldl_mem (fun _ _ => foldl_mem (fun _ _ => by simp) _ _) _ _).trans (by simp)

@[simp] theorem State.keepSignature_mem (s : State) (u) : (s.keepSignature u).mem = s.mem := by
  simp only [State.keepSignature]
  (repeat' split) <;> simp

@[simp] theorem State.completeUnit_wf {s : State} (h : s.mem.wf = true) (u) : (s.completeUnit u).mem.wf = true := by
  simp [State.completeUnit, h]

@[simp] theorem execUnitRetire_wf {s : State} (h : s.mem.wf = true) (unit) : WfNext (execUnitRetire unit s) := by
  simp only [execUnitRetire]
  (repeat' split) <;> simp [h]

/-! ### Starts: The end of a launch (R362, R363, R369) -/

@[simp] theorem execPreloadComplete_wf {s : State} (h : s.mem.wf = true) (done) : WfNext (execPreloadComplete done s) := by
  simp only [execPreloadComplete]
  (repeat' split) <;> simp [h]

@[simp] theorem execLaunchSettle_wf {s : State} (h : s.mem.wf = true) (launch) : WfNext (execLaunchSettle launch s) := by
  simp only [execLaunchSettle]
  (repeat' split) <;> simp [h]

@[simp] theorem State.settleLevels_mem (s : State) (l) : (s.settleLevels l).mem = s.mem := by
  simp only [State.settleLevels]
  split <;> simp

@[simp] theorem State.retireLaunch_wf {s : State} (h : s.mem.wf = true) (l) : (s.retireLaunch l).mem.wf = true := by
  simp [State.retireLaunch, h]

@[simp] theorem execPostCopiesDone_wf {s : State} (h : s.mem.wf = true) (done) : WfNext (execPostCopiesDone done s) := by
  unfold execPostCopiesDone
  extract_lets launch
  split
  · simp [h]
  split
  · simp [h]
  split
  · simp [h]
  extract_lets r l1 s1 s2 s3
  have hr : r.1.mem.wf = true := by
    simp only [r]
    split <;> simp [h]
  have h1 : s1.mem.wf = true := by
    simp only [s1]
    (repeat' split) <;> simp [hr]
  have h2 : s2.mem.wf = true := by
    simp only [s2]
    split <;> simp [h1]
  rw [wfNext_next]
  split <;> simp [s3, h2]

/-! ### FrontEnd: COMMAND_PARSE (R358, R360, R376) -/

@[simp] theorem State.refuseCommand_wf {s : State} (h : s.mem.wf = true) (q hdr tag reason) :
    (s.refuseCommand q hdr tag reason).mem.wf = true := by simp [State.refuseCommand, h]

@[simp] theorem State.startCommand_wf {s : State} (h : s.mem.wf = true) (q hdr c) :
    (s.startCommand q hdr c).mem.wf = true := by
  simp only [State.startCommand]
  (repeat' split) <;> simp [h]

@[simp] theorem execCommandParse_wf {s : State} (h : s.mem.wf = true) (q) : WfNext (execCommandParse q s) := by
  unfold execCommandParse
  extract_lets x i
  split
  · simp [h]
  split
  · simp [h]
  extract_lets n
  split
  · simp [h]
  split
  · simp [h]
  next s0 s1 _ _ _ _ =>
  extract_lets c
  have h0 : s0.mem = s.mem := foldl_mem (fun _ _ => by simp) _ _
  have h1 : s1.mem.wf = true := by simp [s1, h0, h]
  split
  · simp [h]
  split
  · simp [h1]
  split <;> simp [h, h1]

/-! ### FrontEnd: GRAPH_EVENT (R375) -/

@[simp] theorem State.failGraph_mem (s : State) (g cause arg) : (s.failGraph g cause arg).mem = s.mem := rfl
@[simp] theorem State.refuseNode_wf {s : State} (h : s.mem.wf = true) (g n tag reason) :
    (s.refuseNode g n tag reason).mem.wf = true := by simp [State.refuseNode, h]

@[simp] theorem State.fireBundle_wf {s : State} (h : s.mem.wf = true) (g n) : (s.fireBundle g n).mem.wf = true := by
  simp only [State.fireBundle]
  (repeat' split) <;> simp [h]

@[simp] theorem State.fireCond_mem (s : State) (g n) : (s.fireCond g n).mem = s.mem := by
  simp only [State.fireCond]
  split <;> simp

@[simp] theorem State.fireNode_wf {s : State} (h : s.mem.wf = true) (g n) : (s.fireNode g n).mem.wf = true := by
  simp only [State.fireNode]
  split <;> simp [h]

@[simp] theorem State.giveNode_mem (s : State) (g n) : (s.giveNode g n).mem = s.mem := by
  simp only [State.giveNode]
  split <;> simp

@[simp] theorem State.endGraph_wf {s : State} (h : s.mem.wf = true) (g) : (s.endGraph g).mem.wf = true := by
  simp only [State.endGraph]
  split <;> simp [h]

@[simp] theorem execGraphEvent_wf {s : State} (h : s.mem.wf = true) (inst) : WfNext (execGraphEvent inst s) := by
  simp only [execGraphEvent]
  (repeat' split) <;> simp [h]

/-! ### FrontEnd: Cancel and level queries (R372, R387) -/

@[simp] theorem State.cancelGraph_mem (s : State) (g) : (s.cancelGraph g).mem = s.mem := by
  simp only [State.cancelGraph]
  exact foldl_mem (fun _ _ => by simp) _ _

@[simp] theorem State.cancelLevel_mem (s : State) (ctx job phase) : (s.cancelLevel ctx job phase).mem = s.mem :=
  (foldl_mem (fun _ _ => by simp) _ _).trans (foldl_mem (fun _ _ => by simp) _ _)
@[simp] theorem State.cancelUnitNo_mem (s : State) (l no) : (s.cancelUnitNo l no).mem = s.mem := by
  simp [State.cancelUnitNo]

@[simp] theorem State.cancelBy_mem (s : State) (me lv a) : (s.cancelBy me lv a).1.mem = s.mem := by
  simp only [State.cancelBy]
  (repeat' split) <;> simp

/-! ### FrontEnd: The instructions (R381 to R388) -/

@[simp] theorem State.refuseFe_wf {s : State} (h : s.mem.wf = true) (x reason) : (s.refuseFe x reason).mem.wf = true := by
  simp [State.refuseFe, h]

@[simp] theorem State.launchFrom_wf {s : State} (h : s.mem.wf = true) (x part sig) :
    (s.launchFrom x part sig).1.mem.wf = true := by
  simp only [State.launchFrom]
  (repeat' split) <;> simp [h]

@[simp] theorem execLaunch_wf {s : State} (h : s.mem.wf = true) (c d p) : WfNext (execLaunch c d p s) :=
  State.issue_wf h _ fun _ _ h => by
    dsimp only
    (repeat' split) <;> simp [h]

@[simp] theorem execCont_wf {s : State} (h : s.mem.wf = true) (c delta) : WfNext (execCont c delta s) :=
  State.issue_wf h _ fun _ _ h => by
    (repeat' split) <;> simp [h]

@[simp] theorem execGarm_wf {s : State} (h : s.mem.wf = true) (c a) : WfNext (execGarm c a s) :=
  State.issue_wf h _ fun _ _ h => by
    dsimp only
    (repeat' split) <;> simp [h]

@[simp] theorem execGcond_wf {s : State} (h : s.mem.wf = true) (c k v) : WfNext (execGcond c k v s) :=
  State.issue_wf h _ fun _ _ h => by
    dsimp only
    (repeat' split) <;> simp [h]

@[simp] theorem execSignalWrite_wf {s : State} (h : s.mem.wf = true) (c p v) : WfNext (execSignalWrite c p v s) :=
  State.issue_wf h _ fun _ _ h => by
    split <;> simp [h]

@[simp] theorem execSignalAdd_wf {s : State} (h : s.mem.wf = true) (c p v) : WfNext (execSignalAdd c p v s) :=
  State.issue_wf h _ fun _ _ h => by
    (repeat' split) <;> simp [h]

@[simp] theorem execCancel_wf {s : State} (h : s.mem.wf = true) (c l d a) : WfNext (execCancel c l d a s) :=
  State.issue_wf h _ fun _ _ h => by simp [h]
@[simp] theorem execLvlq_wf {s : State} (h : s.mem.wf = true) (c l d a) : WfNext (execLvlq c l d a s) :=
  State.issue_wf h _ fun _ _ h => by simp [h]

@[simp] theorem execHpost_wf {s : State} (h : s.mem.wf = true) (c d r v) : WfNext (execHpost c d r v s) :=
  State.issue_wf h _ fun x s h => by
    extract_lets func n r
    split
    · simp [h]
    split
    · simp [h]
    split
    · simp [h]
    split
    · simp
    · next s1 _ _ _ _ _ _ _ _ _ _ => simp [s1, h]

/-! ### Sched: Registers before READY (R450) -/

@[simp] theorem State.whenReady_mem (s : State) (offset) {f} (hf : ∀ s, (f s).mem = s.mem) : (s.whenReady offset f).mem = s.mem := by
  unfold State.whenReady
  split <;> simp [hf]

/-! ### Sched: Reservations (R389) -/

@[simp] theorem State.setReserve_mem (s : State) (q n) : (s.setReserve q n).mem = s.mem := by simp [State.setReserve]
@[simp] theorem State.writeRcores_mem (s : State) (q n) : (s.writeRcores q n).mem = s.mem := by simp [State.writeRcores]

/-! ### Sched: Periods and budgets (R390, R393) -/

@[simp] theorem State.writeQper_mem (s : State) (q v) : (s.writeQper q v).mem = s.mem := rfl
@[simp] theorem State.writeQbud_mem (s : State) (q v) : (s.writeQbud q v).mem = s.mem := rfl
@[simp] theorem execQperQbudWrite_wf {s : State} (h : s.mem.wf = true) (q bud v) : WfNext (execQperQbudWrite q bud v s) := by
  simp [execQperQbudWrite, h]

@[simp] theorem execPeriodStart_wf {s : State} (h : s.mem.wf = true) (q) : WfNext (execPeriodStart q s) := by
  simp only [execPeriodStart]
  split <;> simp [h]

@[simp] theorem State.drawBudgets_mem (s : State) (dt) : (s.drawBudgets dt).mem = s.mem := rfl

@[simp] theorem execBudgetExhausted_wf {s : State} (h : s.mem.wf = true) (q) : WfNext (execBudgetExhausted q s) := by
  simp only [execBudgetExhausted]
  split <;> simp [h]

@[simp] theorem State.writeQres_mem (s : State) (q v) : (s.writeQres q v).mem = s.mem := by simp [State.writeQres]
@[simp] theorem execQres_wf {s : State} (h : s.mem.wf = true) (q v) : WfNext (execQres q v s) := by simp [execQres, h]
@[simp] theorem execOvcntClear_wf {s : State} (h : s.mem.wf = true) (q) : WfNext (execOvcntClear q s) := by
  simp [execOvcntClear, h]

/-! ### Sched: PRECTL and SCRCTL (R397, R405) -/

@[simp] theorem execPrectl_wf {s : State} (h : s.mem.wf = true) (v) : WfNext (execPrectl v s) := by
  rw [execPrectl, wfNext_next, State.whenReady_mem]
  · exact h
  · exact fun _ => rfl

@[simp] theorem execPrectlCopy_wf {s : State} (h : s.mem.wf = true) : WfNext (execPrectlCopy s) := by
  simp [execPrectlCopy, h]

@[simp] theorem execScrctl_wf {s : State} (h : s.mem.wf = true) (v) : WfNext (execScrctl v s) := by
  rw [execScrctl, wfNext_next, State.whenReady_mem]
  · exact h
  · exact fun _ => rfl

/-! ### Sched: What is done to a victim (R395 to R398) -/

@[simp] theorem State.modPlaced_mem (s : State) (g f) : (s.modPlaced g f).mem = s.mem := rfl

@[simp] theorem State.flushGang_wf {s : State} (h : s.mem.wf = true) (g) : (s.flushGang g).mem.wf = true := by
  simp only [State.flushGang]
  split <;> simp [h]

@[simp] theorem State.startJob_mem (s : State) (launch gangs whole dest) :
    (s.startJob launch gangs whole dest).mem = s.mem := rfl
@[simp] theorem State.saveGang_wf {s : State} (h : s.mem.wf = true) (g) : (s.saveGang g).mem.wf = true :=
  foldl_wf (fun _ _ h => by simp [h]) _ h

@[simp] theorem State.preempt_wf {s : State} (h : s.mem.wf = true) (g) : (s.preempt g).mem.wf = true := by
  simp only [State.preempt]
  split <;> simp [h]

/-! ### Sched: PREEMPTION_DECISION (R395) -/

@[simp] theorem execPreemptionDecision_wf {s : State} (h : s.mem.wf = true) (launch gang) :
    WfNext (execPreemptionDecision launch gang s) := by
  simp only [execPreemptionDecision]
  split
  · simp [h]
  split
  · simp [h]
  · exact (wfNext_next _).2 (foldl_wf (fun _ _ h => State.preempt_wf h _) _ h)

@[simp] theorem execDrainBoundExpiry_wf {s : State} (h : s.mem.wf = true) (launch gang) :
    WfNext (execDrainBoundExpiry launch gang s) := by
  simp only [execDrainBoundExpiry]
  (repeat' split) <;> simp [h]

/-! ### Sched: The bounds of deadline gangs (R394) -/

@[simp] theorem State.keepWaiting_mem (s : State) : s.keepWaiting.mem = s.mem := by simp [State.keepWaiting]

/-! ### Sched: SCREEN_COMPARE (R407) -/

@[simp] theorem execScreenCompare_wf {s : State} (h : s.mem.wf = true) (unit) : WfNext (execScreenCompare unit s) := by
  simp only [execScreenCompare]
  (repeat' split) <;> simp [h]

/-! ### Sched: Vectors (R380) -/

@[simp] theorem execVectorTimeExpiry_wf {s : State} (h : s.mem.wf = true) (func vec) :
    WfNext (execVectorTimeExpiry func vec s) := by
  simp only [execVectorTimeExpiry]
  split <;> simp [h]

@[simp] theorem State.writeIvctl_mem (s : State) (func vec v) : (s.writeIvctl func vec v).mem = s.mem := rfl
@[simp] theorem execIvctl_wf {s : State} (h : s.mem.wf = true) (func vec v) : WfNext (execIvctl func vec v s) := by
  simp [execIvctl, h]
@[simp] theorem execMsixVectorUnmask_wf {s : State} (h : s.mem.wf = true) (func vec) :
    WfNext (execMsixVectorUnmask func vec s) := by simp [execMsixVectorUnmask, h]

/-! ### Traps: Pages (R190) -/

@[simp] theorem State.mapPage_mem (s : State) (p) : (s.mapPage p).mem = s.mem := rfl
@[simp] theorem State.unmapPage_mem (s : State) (ctx va sizeCode) : (s.unmapPage ctx va sizeCode).mem = s.mem := rfl

/-! ### Traps: TRAP_COALESCE (R400) -/

theorem State.coalesce_mem {s r : State} {u t parked} (e : s.coalesce u t parked = some r) : r.mem = s.mem := by
  simp only [State.coalesce] at e
  split at e
  · cases e
  split at e
  · cases e
    simp
  split at e
  · cases e
  · cases e
    simp

@[simp] theorem State.coalesce_getD_mem (s : State) (u t parked) : ((s.coalesce u t parked).getD s).mem = s.mem := by
  cases e : s.coalesce u t parked with
  | none => rfl
  | some r => exact State.coalesce_mem e

@[simp] theorem execTrapCoalesce_wf {s : State} (h : s.mem.wf = true) (unit fid) : WfNext (execTrapCoalesce unit fid s) := by
  simp only [execTrapCoalesce]
  split
  · simp [h]
  split
  · split
    · simp [h]
    split
    · simp [h]
    · next e => simp [State.coalesce_mem e, h]
  · split
    · simp [h]
    split
    · simp [h]
    · next e => simp [State.coalesce_mem e, h]
  · simp [h]

/-! ### Traps: TRAP_RECORD_DISPOSAL (R402) -/

@[simp] theorem State.resumeCovered_mem (s : State) (cs) : (s.resumeCovered cs).mem = s.mem := by
  simp only [State.resumeCovered]
  exact foldl_mem (fun _ _ => by simp) _ _

@[simp] theorem State.failCovered_mem (s : State) (r) : (s.failCovered r).mem = s.mem := by
  simp only [State.failCovered]
  exact foldl_mem (fun _ _ => by simp) _ _

@[simp] theorem State.failEnded_mem (s : State) (r) : (s.failEnded r).mem = s.mem :=
  foldl_mem (fun _ _ => by split <;> simp) _ _

@[simp] theorem State.takeRecord_mem (s : State) (core r) : (s.takeRecord core r).mem = s.mem := rfl

theorem State.answerPage_mem {s t : State} {ctx unit space adr answer} (e : s.answerPage ctx unit space adr answer = some t) :
    t.mem = s.mem := by
  unfold State.answerPage at e
  split at e
  · cases e
  split at e
  · split at e
    · cases e
    split at e
    · cases e
    · cases e
      rfl
  · obtain ⟨va, -, rfl⟩ := Option.map_eq_some_iff.1 e
    simp

@[simp] theorem State.dispose_mem (s : State) (core r0 answer debugger) : (s.dispose core r0 answer debugger).mem = s.mem := by
  unfold State.dispose
  extract_lets ended s0 r gone hold
  have h0 : ended.mem = s.mem := by
    refine foldl_mem (fun s l => ?_) _ _
    split <;> simp
  have h1 : gone.mem = s.mem := by simp [gone, s0, h0]
  split
  · exact h1
  split
  · split
    · next e =>
      split at e
      · cases e
      · obtain ⟨a, -, e⟩ := Option.bind_eq_some_iff.1 e
        simp [State.answerPage_mem e, h1]
    · simp [h1]
  split
  · simp [hold, s0, h0]
  split <;> simp [h1]

@[simp] theorem State.answerTransfer_mem (s : State) (core r a answer) : (s.answerTransfer core r a answer).mem = s.mem := by
  simp only [State.answerTransfer]
  split
  · next e => simp [State.answerPage_mem e]
  · simp

@[simp] theorem State.answerGraph_mem (s : State) (g space adr answer) : (s.answerGraph g space adr answer).mem = s.mem := by
  simp only [State.answerGraph]
  split
  · next e => simp [State.answerPage_mem e]
  · simp

@[simp] theorem execTrapRecordDisposal_wf {s : State} (h : s.mem.wf = true) (core answer debugger) :
    WfNext (execTrapRecordDisposal core answer debugger s) := by
  simp only [execTrapRecordDisposal]
  (repeat' split) <;> simp [h]

/-! ### Traps: DEBUGGER_ACTION (R402) -/

@[simp] theorem State.stepOver_mem (s : State) (unit fid) : (s.stepOver unit fid).mem = s.mem := by
  simp only [State.stepOver]
  split <;> simp

@[simp] theorem State.endFibre_mem (s : State) (unit fid) : (s.endFibre unit fid).mem = s.mem := rfl

@[simp] theorem execDebuggerAction_wf {s : State} (h : s.mem.wf = true) (core act) : WfNext (execDebuggerAction core act s) := by
  simp only [execDebuggerAction]
  split
  · simp [h]
  split
  · simp [h]
  · rw [wfNext_next, foldl_mem (fun _ _ => by cases act <;> simp)]
    simpa using h

/-! ### Regs: Queue registers (R356, R357) -/

@[simp] theorem State.writeQkick_mem (s : State) (q size offset v) : (s.writeQkick q size offset v).mem = s.mem := by
  simp [State.writeQkick]
@[simp] theorem execQkick_wf {s : State} (h : s.mem.wf = true) (q size offset v) : WfNext (execQkick q size offset v s) := by
  simp [execQkick, h]
@[simp] theorem State.writeQstat_mem (s : State) (q v) : (s.writeQstat q v).mem = s.mem := by simp [State.writeQstat]
@[simp] theorem execQstatErrClear_wf {s : State} (h : s.mem.wf = true) (q v) : WfNext (execQstatErrClear q v s) := by
  simp [execQstatErrClear, h]
@[simp] theorem State.writeQctl_mem (s : State) (func q v) : (s.writeQctl func q v).mem = s.mem := by simp [State.writeQctl]
@[simp] theorem execQctl_wf {s : State} (h : s.mem.wf = true) (func q v) : WfNext (execQctl func q v s) := by
  simp [execQctl, h]
@[simp] theorem State.writeQueueReg_mem (s : State) (func q r size v) : (s.writeQueueReg func q r size v).mem = s.mem := by
  simp [State.writeQueueReg]

/-! ### Regs: Host rings (R377) -/

@[simp] theorem State.writeHrhead_mem (s : State) (func ring v) : (s.writeHrhead func ring v).mem = s.mem := rfl
@[simp] theorem execHrhead_wf {s : State} (h : s.mem.wf = true) (func ring v) : WfNext (execHrhead func ring v s) := by
  simp [execHrhead, h]
@[simp] theorem State.writeHrctl_mem (s : State) (func ring v) : (s.writeHrctl func ring v).mem = s.mem := rfl
@[simp] theorem execHrctl_wf {s : State} (h : s.mem.wf = true) (func ring v) : WfNext (execHrctl func ring v s) := by
  simp [execHrctl, h]
@[simp] theorem State.writeRingReg_mem (s : State) (func h r size v) : (s.writeRingReg func h r size v).mem = s.mem := by
  simp [State.writeRingReg]

/-! ### Regs: The rest of BAR 0 (R397, R405, R453, R456) -/

@[simp] theorem State.writePwrcap_mem (s : State) (v) : (s.writePwrcap v).mem = s.mem := rfl

@[simp] theorem execPwrcap_wf {s : State} (h : s.mem.wf = true) (v) : WfNext (execPwrcap v s) := by
  rw [execPwrcap, wfNext_next, State.whenReady_mem]
  · exact h
  · exact fun _ => rfl

@[simp] theorem State.writeMailbox_mem (s : State) (n r size v) : (s.writeMailbox n r size v).mem = s.mem := by
  simp [State.writeMailbox]

@[simp] theorem execRegisterWrite_wf {s : State} (h : s.mem.wf = true) (func offset size v) :
    WfNext (execRegisterWrite func offset size v s) := by
  unfold execRegisterWrite
  extract_lets w block
  clear_value w block
  refine WfNext.ite (by simp [h]) (WfNext.ite (by simp [h]) (WfNext.ite (by simp [h]) (WfNext.ite (by simp [h]) ?_)))
  refine WfNext.ite ?_ (WfNext.ite ?_ ?_)
  · split <;> simp [h]
  · exact WfNext.ite (by simp [h]) (by simp [h])
  refine WfNext.ite (by simp [h]) (WfNext.ite (by simp [h]) (WfNext.ite (by simp [h]) ?_))
  exact WfNext.ite (by simp [h]) (WfNext.ite (by simp [h]) (by simp [h]))

/-! ### Regs: Reads of BAR 0 (R3, R356, R377, R379, R389, R397, R405, R449, R450, R453 to R456) -/

@[simp] theorem State.clearReplay_mem (s : State) (func offset n) : (s.clearReplay func offset n).mem = s.mem := by
  simp [State.clearReplay]

/-! ### Image: Portable locations (R430 to R432) -/

@[simp] theorem State.noteFunction_mem (s : State) (ctx d) : (s.noteFunction ctx d).mem = s.mem := by
  simp [State.noteFunction]
@[simp] theorem State.noteEntry_mem (s : State) (ctx d entry) : (s.noteEntry ctx d entry).mem = s.mem := by
  simp [State.noteEntry]

@[simp] theorem State.noteUnit_mem (s : State) (ctx u) : (s.noteUnit ctx u).mem = s.mem := by
  simp only [State.noteUnit]
  rw [foldl_mem (fun _ _ => by simp)]
  split <;> simp

/-! ### Bank: A unit leaves its core without ending -/

@[simp] theorem State.liftUnit_mem (s : State) (u) : (s.liftUnit u).mem = s.mem := by
  simp only [State.liftUnit]
  exact foldl_mem (fun _ _ => by simp) _ _

/-! ### Bank: BANKING_START and BANK_POINTS_REACHED (R416) -/

@[simp] theorem State.modJob_mem (s : State) (n f) : (s.modJob n f).mem = s.mem := rfl
@[simp] theorem State.dropJob_mem (s : State) (n) : (s.dropJob n).mem = s.mem := rfl

@[simp] theorem execBankingStart_wf {s : State} (h : s.mem.wf = true) (job) : WfNext (execBankingStart job s) := by
  simp only [execBankingStart]
  (repeat' split) <;> simp [h]

@[simp] theorem State.stopMoves_wf {s : State} (h : s.mem.wf = true) (u) : (s.stopMoves u).mem.wf = true := by
  unfold State.stopMoves
  split
  · exact h
  · refine foldl_wf (fun s r h => ?_) _ h
    split
    · split <;> simp [h]
    · exact h

@[simp] theorem State.keepPages_mem (s : State) (j l) : (s.keepPages j l).mem = s.mem := by simp [State.keepPages]
@[simp] theorem State.dropShadows_wf {s : State} (h : s.mem.wf = true) (launch gangs) :
    (s.dropShadows launch gangs).mem.wf = true := foldl_wf (fun _ _ h => by simp [h]) _ h

@[simp] theorem State.writeDest_wf {s : State} (h : s.mem.wf = true) (d b) : (s.writeDest d b).mem.wf = true := by
  simp only [State.writeDest]
  split <;> simp [h]

@[simp] theorem State.settleGangs_wf {s : State} (h : s.mem.wf = true) (j l) : (s.settleGangs j l).mem.wf = true := by
  simp only [State.settleGangs]
  rw [foldl_mem (fun _ _ => by simp)]
  simpa using foldl_wf (fun _ _ h => State.stopMoves_wf h _) _ h

@[simp] theorem State.copyOut_wf {s : State} (h : s.mem.wf = true) (j l) : (s.copyOut j l).mem.wf = true := by
  unfold State.copyOut
  extract_lets s1 us image kept s2 s3 mine s4 save s5
  have h1 : s1.mem.wf = true := by simp [s1, h]
  have h2 : s2.mem = (s1.dropShadows l.key j.gangs).mem := foldl_mem (fun _ _ => by simp) _ _
  have h5 : s5.mem.wf = true := by simp [s5, s4, s3, h2, h1]
  split <;> simp [h5]

@[simp] theorem execBankPointsReached_wf {s : State} (h : s.mem.wf = true) (job) :
    WfNext (execBankPointsReached job s) := by
  simp only [execBankPointsReached]
  (repeat' split) <;> simp [h]

@[simp] theorem execImageWritten_wf {s : State} (h : s.mem.wf = true) (job) : WfNext (execImageWritten job s) := by
  simp only [execImageWritten]
  (repeat' split) <;> simp [h]

/-! ### Bank: BANK (R439) -/

@[simp] theorem State.startBank_mem (s : State) (l gangs whole d) : (s.startBank l gangs whole d).mem = s.mem := by
  simp [State.startBank]

@[simp] theorem execBank_wf {s : State} (h : s.mem.wf = true) (c d p v) : WfNext (execBank c d p v s) :=
  State.privileged_wf h (State.issue_wf h _ fun x s h => by
    dsimp only
    (repeat' split) <;> simp [h])

/-! ### Batch: Forming a batch (R69) -/

@[simp] theorem State.regroup_mem (s : State) (core part) : (s.regroup core part).mem = s.mem := rfl

@[simp] theorem execBatchRegroup_wf {s : State} (h : s.mem.wf = true) (core part) :
    WfNext (execBatchRegroup core part s) := by
  simp only [execBatchRegroup]
  split <;> simp [h]

/-! ### Batch: Issuing a batch (R69, R70, R72) -/

@[simp] theorem State.issueCore_mem (s : State) (core) : (s.issueCore core).mem = s.mem := by
  simp only [State.issueCore]
  split <;> simp

/-! ### Plant: Tiles, FIFOs and contributions (R428, R434 step 2) -/

@[simp] theorem State.plantMatrix_mem (s : State) (u b) : (s.plantMatrix u b).mem = s.mem := by simp [State.plantMatrix]

/-! ### Plant: Latch entries, transfers, posts and rings (R434 step 4) -/

@[simp] theorem State.plantLatch_mem (s : State) (u b) : (s.plantLatch u b).mem = s.mem :=
  foldl_mem (fun _ _ => by split <;> simp) _ _

@[simp] theorem State.plantTransfer_wf {s : State} (h : s.mem.wf = true) (key b) :
    (s.plantTransfer key b).mem.wf = true := by
  simp only [State.plantTransfer]
  (repeat' split) <;> simp [h]

@[simp] theorem State.plantPost_mem (s : State) (u b) : (s.plantPost u b).mem = s.mem := rfl

/-! ### Plant: Reading the parts of an item -/

@[simp] theorem Memory.putRange_wf {m : Memory} (h : m.wf = true) (k n bytes codes tags) :
    (m.putRange k n bytes codes tags).wf = true := by
  refine foldl_keeps (p := fun m : Memory => m.wf = true) (fun m i h => ?_) _ (setWords_wf h)
  split <;> simp [h]

/-! ### Plant: New generations (R434 step 1) -/

@[simp] theorem GenMap.range_wf (g : GenMap) {m : Memory} (h : m.wf = true) (k n) : (g.range m k n).wf = true := by
  refine foldl_keeps (p := fun m : Memory => m.wf = true) (fun m i h => ?_) _ h
  dsimp only
  split <;> simp [h]

/-! ### Plant: Latch entries, transfers, posts and rings (R434 step 4) -/

@[simp] theorem State.plantWire_mem (s : State) (u b) : (s.plantWire u b).mem = s.mem := by
  refine (foldl_mem (fun _ _ => by simp) _ _).trans ?_
  split <;> simp

/-! ### Plant: A unit (R423, R424, R434) -/

@[simp] theorem State.plantUnit_wf {s : State} (h : s.mem.wf = true) (l j g key b) : (s.plantUnit l j g key b).mem.wf = true := by
  unfold State.plantUnit
  extract_lets image
  split
  · exact h
  · extract_lets k s1 next u1 fs u2 grans s2' s2 s3 s4 s5
    have h1 : s1.mem.wf = true := by
      simp only [s1]
      split <;> simp [h]
    have h3 : s3.mem.wf = true := by
      simp only [s3]
      split <;> simp [s2, s2', h1]
    have h4 : s4.mem = s3.mem := foldl_mem (fun _ _ => by simp) _ _
    have h5 : s5.mem.wf = true := foldl_wf (fun _ _ h => State.plantTransfer_wf h _ _) _ (h4 ▸ h3)
    split <;> simp [h5]

/-! ### Plant: PLANTING (R434) -/

theorem State.plantUnits_wf {s t : State} (h : s.mem.wf = true) {l j gangGen us} (e : s.plantUnits l j gangGen us = some t) :
    t.mem.wf = true := by
  unfold State.plantUnits at e
  extract_lets placed at e
  have hp : ∀ r, placed = some r → r.1.mem = s.mem := by
    refine foldl_keeps (p := fun o : Option (State × List (Nat × List Byte) × GenMap) => ∀ r, o = some r → r.1.mem = s.mem)
      (fun o x ho r er => ?_) us (fun r er => ?_)
    · split at er
      · cases er
      · split at er
        extract_lets key at er
        split at er
        · cases er
        · next e1 =>
          cases er
          simpa using (State.placeUnit_mem e1).trans (ho _ rfl)
    · cases er
      rfl
  clear_value placed
  split at e
  · cases e
  · next s1 keys g =>
    extract_lets s2 at e
    cases e
    have h1 : s1.mem.wf = true := (hp _ rfl).symm ▸ h
    have h2 : s2.mem.wf = true := by
      simp only [s2]
      split <;> simp [h1]
    exact foldl_wf (fun _ _ h => State.plantUnit_wf h _ _ _ _ _) _ h2

@[simp] theorem State.raiseReplay_wf {s : State} (h : s.mem.wf = true) (image launch gang) :
    (s.raiseReplay image launch gang).mem.wf = true := by
  simp only [State.raiseReplay]
  split <;> simp [h]

theorem State.plantGang_wf {s t : State} (h : s.mem.wf = true) {j l gang cl} (e : s.plantGang j l gang cl = some t) :
    t.mem.wf = true := by
  unfold State.plantGang at e
  split at e
  · cases e
  split at e
  · cases e
  split at e
  next fresh' s1 hs1 =>
  have h1 : s1.mem = s.mem := by simpa [hs1] using State.takeGangGen_mem s
  extract_lets gen put at e
  have hPut {r t : State} (h : r.mem.wf = true) (e : put r = some t) : t.mem.wf = true :=
    State.plantUnits_wf (by simp [h]) e
  split at e
  · cases e
  · next s2 e2 =>
    have h2 : s2.mem.wf = true := by
      split at e2
      · next e3 =>
        cases e2
        exact hPut (by simp [h1, h]) e3
      · exact hPut (by simp [h1, h]) e2
    extract_lets s3 s4 at e
    cases e
    split <;> simp [s4, s3, h2]

/-- Every outcome of a planting keeps memory in canonical form. -/
theorem State.plantings_wf {s : State} (h : s.mem.wf = true) (j l) : ∀ t ∈ s.plantings j l, t.mem.wf = true := by
  intro t ht
  simp only [State.plantings, List.mem_flatMap, List.mem_filterMap] at ht
  obtain ⟨g, -, cl, -, e⟩ := ht
  split at e
  · exact State.plantGang_wf h e
  · cases e

@[simp] theorem execPlanting_wf {s : State} (h : s.mem.wf = true) (job) : WfNext (execPlanting job s) := by
  simp only [execPlanting]
  split
  · simp [h]
  split
  · simp [h]
  split
  · simp [h]
  · rw [wfNext_next]
    split
    · exact h
    · exact getD_of_forall (State.plantings_wf (by simp [h]) _ _) h _

/-! ### Plant: The pages of an image (R435) -/

@[simp] theorem State.mapAbsent_mem (s : State) (ctx item) : (s.mapAbsent ctx item).mem = s.mem := by
  simp only [State.mapAbsent]
  exact foldl_mem (fun _ _ => by simp) _ _

@[simp] theorem State.pageFetched_mem (s : State) (ctx va) : (s.pageFetched ctx va).mem = s.mem := rfl

@[simp] theorem execPageCarriage_wf {s : State} (h : s.mem.wf = true) (ctx page data) :
    WfNext (execPageCarriage ctx page data s) := by
  simp only [execPageCarriage]
  (repeat' split) <;> simp [h]

/-! ### Plant: Taking up a launch (R434 step 5, R437) -/

@[simp] theorem State.takeUp_wf {s : State} (h : s.mem.wf = true) (who image d) : (s.takeUp who image d).1.mem.wf = true := by
  unfold State.takeUp
  extract_lets item rest own moved part key n m taken hdr cmd a s1 back here gone start s2 s3
  have h1 : s1.mem.wf = true := by simp [s1, m, h]
  simp only [s3]
  split <;> simp [s2, h1]

@[simp] theorem State.noteTranslation_mem (s : State) (ctx chash) : (s.noteTranslation ctx chash).mem = s.mem := by
  simp [State.noteTranslation]

@[simp] theorem State.newGens_mem (s : State) (image) : (s.newGens image).2.mem = s.mem := by
  refine foldl_keeps (p := fun r : GenMap × State => r.2.mem = s.mem) (fun r b h => ?_) _ rfl
  dsimp only
  split <;> simp [h]

@[simp] theorem State.plantImage_wf {s : State} (h : s.mem.wf = true) (who image) : (s.plantImage who image).1.mem.wf = true := by
  unfold State.plantImage
  extract_lets gangs unit
  split
  next s1 l e =>
  have h1 : s1.mem.wf = true := by
    split at e
    · cases e
      simp [h]
    · cases e
      simp [h]
    · cases e
      exact h
  dsimp only
  simp [h1]

@[simp] theorem execMoveReport_wf {s : State} (h : s.mem.wf = true) (launch done) :
    WfNext (execMoveReport launch done s) := by
  simp only [execMoveReport]
  split <;> simp [h]

/-! ### Plant: PLANT (R439, R441) -/

@[simp] theorem execPlant_wf {s : State} (h : s.mem.wf = true) (c d p) : WfNext (execPlant c d p s) :=
  State.privileged_wf h (State.issue_wf h _ fun x s h => by
    dsimp only
    (repeat' split) <;> simp [h])

/-! ### Mailbox: Requests and replies (R453) -/

@[simp] theorem State.answer_mem (s : State) (n r) : (s.answer n r).mem = s.mem := by simp [State.answer]

/-- A mailbox command that keeps memory in canonical form, served. -/
theorem State.serve_wf {s : State} (h : s.mem.wf = true) {n cmd f} (hf : ∀ m s, s.mem.wf = true → ReplyWf (f m s)) :
    WfNext (s.serve n cmd f) := by
  simp only [State.serve]
  split
  · simpa using hf _ _ h
  · simp [h]

@[simp] theorem execMailboxUnknownCommand_wf {s : State} (h : s.mem.wf = true) (core) :
    WfNext (execMailboxUnknownCommand core s) := by
  simp only [execMailboxUnknownCommand]
  split <;> simp [h]

@[simp] theorem State.toWindow_wf {s : State} (h : s.mem.wf = true) (off b results) :
    (s.toWindow off b results).1.mem.wf = true := by
  simp only [State.toWindow]
  split <;> simp [h]

/-! ### Mailbox: Firmware core 0 (R451, R452) -/

@[simp] theorem execAttestationReport_wf {s : State} (h : s.mem.wf = true) : WfNext (execAttestationReport s) :=
  State.serve_wf h fun _ _ h => by simp [h]
@[simp] theorem execCertificateChain_wf {s : State} (h : s.mem.wf = true) : WfNext (execCertificateChain s) :=
  State.serve_wf h fun _ _ h => by simp [h]

/-! ### Mailbox: Firmware core 1: cancel (R372, R387) -/

@[simp] theorem State.hostCancel_mem (s : State) (level id) : (s.hostCancel level id).1.mem = s.mem := by
  simp only [State.hostCancel]
  (repeat' split) <;> simp

@[simp] theorem execMailboxCancel_wf {s : State} (h : s.mem.wf = true) : WfNext (execMailboxCancel s) :=
  State.serve_wf h fun _ _ h => by simp [h]

/-! ### Mailbox: Firmware core 3: mappings (R187, R190, R241, R282) -/

@[simp] theorem State.placeConst_wf {s : State} (h : s.mem.wf = true) (ctx adr n phys) :
    (s.placeConst ctx adr n phys).mem.wf = true := by
  refine foldl_keeps (p := fun m : Memory => m.wf = true) (fun m i h => ?_) _ (setWords_wf h)
  split <;> simp [h]

@[simp] theorem execMailboxMap_wf {s : State} (h : s.mem.wf = true) : WfNext (execMailboxMap s) :=
  State.serve_wf h fun _ _ h => by
    dsimp only
    (repeat' split) <;> simp [h]

@[simp] theorem execMailboxUnmap_wf {s : State} (h : s.mem.wf = true) : WfNext (execMailboxUnmap s) :=
  State.serve_wf h fun _ _ h => by
    dsimp only
    (repeat' split) <;> simp [h]

@[simp] theorem execHostWindowEntry_wf {s : State} (h : s.mem.wf = true) : WfNext (execHostWindowEntry s) :=
  State.serve_wf h fun _ _ h => by
    dsimp only
    split <;> simp [h]

/-! ### Mailbox: Firmware core 4: the log and the counters (R453, R457) -/

@[simp] theorem execReadLog_wf {s : State} (h : s.mem.wf = true) : WfNext (execReadLog s) :=
  State.serve_wf h fun _ _ h => by simp [h]
@[simp] theorem execReadCounters_wf {s : State} (h : s.mem.wf = true) : WfNext (execReadCounters s) :=
  State.serve_wf h fun _ _ h => by simp [h]

/-! ### Mailbox: Firmware core 5: pools (R189, R208, R210) -/

@[simp] theorem execPoolTable_wf {s : State} (h : s.mem.wf = true) : WfNext (execPoolTable s) :=
  State.serve_wf h fun _ _ h => by
    dsimp only
    split <;> simp [h]

@[simp] theorem execMemberAdd_wf {s : State} (h : s.mem.wf = true) : WfNext (execMemberAdd s) :=
  State.serve_wf h fun _ _ h => by
    dsimp only
    split <;> simp [h]

@[simp] theorem execMemberRemove_wf {s : State} (h : s.mem.wf = true) : WfNext (execMemberRemove s) :=
  State.serve_wf h fun _ _ h => by
    dsimp only
    split <;> simp [h]

@[simp] theorem execOwnerTimeOutSet_wf {s : State} (h : s.mem.wf = true) : WfNext (execOwnerTimeOutSet s) :=
  State.serve_wf h fun _ _ h => by
    dsimp only
    (repeat' split) <;> simp [h]

/-! ### Mailbox: Firmware core 6: flows, clock and ports (R337, R344, R347) -/

@[simp] theorem execFlowEntry_wf {s : State} (h : s.mem.wf = true) : WfNext (execFlowEntry s) :=
  State.serve_wf h fun _ _ h => by
    dsimp only
    (repeat' split) <;> simp [h]

@[simp] theorem execClockSource_wf {s : State} (h : s.mem.wf = true) : WfNext (execClockSource s) :=
  State.serve_wf h fun _ _ h => by
    split <;> simp [h]

/-- The answers are compared as `ReplyWf` has them: taken apart, the kernel would unfold the clock's bound in unary. -/
@[simp] theorem execClockStep_wf {s : State} (h : s.mem.wf = true) : WfNext (execClockStep s) :=
  State.serve_wf h fun _ _ h => ReplyWf.ite h (ReplyWf.of_wire h _ _)

@[simp] theorem State.flushPosts_wf {s : State} (h : s.mem.wf = true) (port) : (s.flushPosts port).mem.wf = true :=
  foldl_wf (fun _ _ h => by simp [h]) _ h

@[simp] theorem execPortReset_wf {s : State} (h : s.mem.wf = true) : WfNext (execPortReset s) :=
  State.serve_wf h fun _ _ h => by
    split <;> simp [h]

/-! ### Mailbox: Firmware core 7: banking (R433 to R439) -/

@[simp] theorem execMailboxBank_wf {s : State} (h : s.mem.wf = true) : WfNext (execMailboxBank s) :=
  State.serve_wf h fun _ _ h => by
    dsimp only
    (repeat' split) <;> simp [h]

@[simp] theorem execMailboxPlant_wf {s : State} (h : s.mem.wf = true) : WfNext (execMailboxPlant s) :=
  State.serve_wf h fun _ _ h => by
    dsimp only
    (repeat' split) <;> simp [h]

@[simp] theorem execMove_wf {s : State} (h : s.mem.wf = true) : WfNext (execMove s) := State.serve_wf h fun _ _ h => by
    dsimp only
    (repeat' split) <;> simp [h]

@[simp] theorem execRelease_wf {s : State} (h : s.mem.wf = true) : WfNext (execRelease s) :=
  State.serve_wf h fun _ _ h => by
    dsimp only
    (repeat' split) <;> simp [h]

@[simp] theorem execCheckpoint_wf {s : State} (h : s.mem.wf = true) : WfNext (execCheckpoint s) :=
  State.serve_wf h fun _ s h => by
    dsimp only
    split
    · exact h
    split
    · exact h
    · have h0 (asks : List ShardAsk) (ctx list n) :
          (asks.foldl (fun s a => s.noteExt ctx a.src a.len) (s.noteExt ctx list n)).mem.wf = true := by
        rw [foldl_mem (fun _ _ => by simp)]
        simpa using h
      simp [foldl_wf (fun _ _ h => State.extWrite_wf h _ _ _) _ (h0 _ _ _ _)]

/-! ### Device -/

@[simp] theorem State.failDevice_mem (s : State) (code detail) : (s.failDevice code detail).mem = s.mem := rfl

/-! ### Device: Event counters (R457, R458) -/

@[simp] theorem State.modCounter_mem (s : State) (core n f) : (s.modCounter core n f).mem = s.mem := by
  simp [State.modCounter]
@[simp] theorem State.select_mem (s : State) (core n sel) : (s.select core n sel).mem = s.mem := by simp [State.select]
@[simp] theorem execEvsel_wf {s : State} (h : s.mem.wf = true) (c a b) : WfNext (execEvsel c a b s) :=
  State.privileged_wf h (State.issue_wf h _ fun _ _ h => by simp [h])
@[simp] theorem execEvrd_wf {s : State} (h : s.mem.wf = true) (c d a) : WfNext (execEvrd c d a s) :=
  State.issue_wf h _ fun _ _ h => by simp [h]

/-! ### Device: Host accesses to device memory (R197, R198, R225, R454) -/

@[simp] theorem execHostWrite_wf {s : State} (h : s.mem.wf = true) (addr data poisoned relaxed) :
    WfNext (execHostWrite addr data poisoned relaxed s) := by
  simp only [execHostWrite]
  split
  · simp [h]
  split
  · rw [wfNext_next, foldl_mem (fun _ _ => by simp)]
    exact h
  · rw [wfNext_next]
    refine State.pokeKeys_wf ?_ _ _
    rw [foldl_mem (fun _ _ => by simp)]
    exact h

@[simp] theorem State.completeHost_mem (s : State) (adr b ep) : (s.completeHost adr b ep).mem = s.mem := by
  simp [State.completeHost]
@[simp] theorem State.readBar_mem (s : State) (func addr len) : (s.readBar func addr len).mem = s.mem := by
  simp [State.readBar]

@[simp] theorem execHostRead_wf {s : State} (h : s.mem.wf = true) (src len) : WfNext (execHostRead src len s) := by
  simp only [execHostRead]
  (repeat' split) <;> simp [h]

@[simp] theorem execHostAtomicop_wf {s : State} (h : s.mem.wf = true) (op eight addr operand compare) :
    WfNext (execHostAtomicop op eight addr operand compare s) := by
  simp only [execHostAtomicop]
  (repeat' split) <;> simp [h]

@[simp] theorem State.configWrite_mem (s : State) (func reg v) : (s.configWrite func reg v).mem = s.mem := by
  simp [State.configWrite]

@[simp] theorem execHostConfigRequest_wf {s : State} (h : s.mem.wf = true) (ask) :
    WfNext (execHostConfigRequest s ask) := by
  simp only [execHostConfigRequest]
  (repeat' split) <;> simp [h]

/-! ### Device: Stored words (R42, R85, R195, R198, R199) -/

@[simp] theorem Memory.flipWord_wf {m : Memory} (h : m.wf = true) (k flip codeFlip) : (m.flipWord k flip codeFlip).wf = true := by
  simp only [Memory.flipWord]
  split <;> simp [h]

@[simp] theorem execPatrolScrub_wf {s : State} (h : s.mem.wf = true) (line) : WfNext (execPatrolScrub line s) := by
  simp only [execPatrolScrub]
  split
  · simp [h]
  · refine (wfNext_next _).2 (foldl_wf (fun s k h => ?_) _ h)
    split
    · simp [h]
    · simp only [State.logRec_mem, State.countDie_mem]
      split <;> simp [h]
    · exact h

@[simp] theorem execLineStateStoreFault_wf {s : State} (h : s.mem.wf = true) (line) :
    WfNext (execLineStateStoreFault line s) := by simp [execLineStateStoreFault, h]

@[simp] theorem execStoredWordError_wf {s : State} (h : s.mem.wf = true) (site flip codeFlip) :
    WfNext (execStoredWordError site flip codeFlip s) := by
  cases site with
  | line addr =>
    rw [execStoredWordError, wfNext_next, foldl_mem (fun _ _ => by simp)]
    exact h
  | _ => simp [execStoredWordError, h]

/-! ### Device: Power-up (R449 to R451) -/

/-- What memory outside the device keeps. -/
@[simp] theorem Memory.outside_wf {m : Memory} (h : m.wf = true) : m.outside.wf = true := by
  obtain ⟨hcells, hsynd, htags⟩ := (Memory.wf_iff m).1 h
  exact (Memory.wf_iff _).2 ⟨cells_filter_wf _ hcells, cells_filter_wf _ hsynd, rising_filter_wf _ htags⟩

@[simp] theorem execModuleReset_wf {s : State} (h : s.mem.wf = true) : WfNext (execModuleReset s) := by
  simp [execModuleReset, h]

@[simp] theorem execFirmwareMeasured_wf {s : State} (h : s.mem.wf = true) (core images signed version) :
    WfNext (execFirmwareMeasured core images signed version s) := by
  simp only [execFirmwareMeasured]
  (repeat' split) <;> simp [h]

@[simp] theorem execCalibrationDone_wf {s : State} (h : s.mem.wf = true) (failcode detail) :
    WfNext (execCalibrationDone failcode detail s) := by
  simp only [execCalibrationDone]
  (repeat' split) <;> simp [h]

@[simp] theorem execReady_wf {s : State} (h : s.mem.wf = true) (failed) : WfNext (execReady failed s) := by
  simp only [execReady]
  split
  · simp [h]
  split
  · simp [h]
  split <;> simp [h]

@[simp] theorem execFunctionLevelReset_wf {s : State} (h : s.mem.wf = true) (vf) : WfNext (execFunctionLevelReset vf s) := by
  unfold execFunctionLevelReset
  split
  · simp [h]
  · extract_lets mine s1 s2 off
    have h1 : s1.mem = s.mem := foldl_mem (fun _ _ => by simp) _ _
    have h2 : s2.mem = s.mem := (foldl_mem (fun _ _ => by simp) _ _).trans h1
    simp [h2, h]

/-! ### Device: Links and ports (R344, R455) -/

@[simp] theorem execFlitReplay_wf {s : State} (h : s.mem.wf = true) (link) : WfNext (execFlitReplay link s) := by
  simp [execFlitReplay, h]

@[simp] theorem State.hearMembers_mem (s : State) (up quiet reset) : (s.hearMembers up quiet reset).mem = s.mem := by
  simp only [State.hearMembers]
  exact foldl_mem (fun _ _ => by simp) _ _

@[simp] theorem execLinkRetrain_wf {s : State} (h : s.mem.wf = true) (link half news) :
    WfNext (execLinkRetrain link half news s) := by simp [execLinkRetrain, h]
@[simp] theorem execLinkStatusRead_wf {s : State} (h : s.mem.wf = true) (link) : WfNext (execLinkStatusRead link s) := by
  simp [execLinkStatusRead, h]
@[simp] theorem execPortLinkChange_wf {s : State} (h : s.mem.wf = true) (port up) : WfNext (execPortLinkChange port up s) := by
  simp [execPortLinkChange, h]

/-! ### Device: Power (R456) -/

@[simp] theorem execThermalStop_wf {s : State} (h : s.mem.wf = true) (die) : WfNext (execThermalStop die s) := by
  unfold execThermalStop
  extract_lets s1 s2
  have h1 : s1.mem = s.mem := foldl_mem (fun _ _ => by simp) _ _
  have h2 : s2.mem.wf = true := by
    refine foldl_wf (fun s u h => ?_) _ (h1 ▸ h)
    split <;> simp [h]
  simp [h2]

@[simp] theorem execPowerSample_wf {s : State} (h : s.mem.wf = true) (watts tj) : WfNext (execPowerSample watts tj s) := by
  simp only [execPowerSample]
  split <;> simp [h]

/-! ### Integer: Shapes -/

@[simp] theorem intOp2_wf {s : State} (h : s.mem.wf = true) (c t sat d a b g) : WfNext (intOp2 c t sat d a b g s) := by
  simp [intOp2, h]
@[simp] theorem bitOp2_wf {s : State} (h : s.mem.wf = true) (c t d a b g) : WfNext (bitOp2 c t d a b g s) := by
  simp [bitOp2, h]
@[simp] theorem countOp_wf {s : State} (h : s.mem.wf = true) (c t d a g) : WfNext (countOp c t d a g s) := by
  simp [countOp, h]
@[simp] theorem shiftOp_wf {s : State} (h : s.mem.wf = true) (c t d a b g) : WfNext (shiftOp c t d a b g s) := by
  simp [shiftOp, h]

/-! ### Integer: Arithmetic -/

@[simp] theorem execIadd_wf {s : State} (h : s.mem.wf = true) (c t sat d a b) : WfNext (execIadd c t sat d a b s) := by
  simp [execIadd, h]
@[simp] theorem execIsub_wf {s : State} (h : s.mem.wf = true) (c t sat d a b) : WfNext (execIsub c t sat d a b s) := by
  simp [execIsub, h]
@[simp] theorem execImul_wf {s : State} (h : s.mem.wf = true) (c t sat d a b) : WfNext (execImul c t sat d a b s) := by
  simp [execImul, h]
@[simp] theorem execImulh_wf {s : State} (h : s.mem.wf = true) (c t d a b) : WfNext (execImulh c t d a b s) := by
  simp [execImulh, h]
@[simp] theorem execImad_wf {s : State} (h : s.mem.wf = true) (c t d a b e) : WfNext (execImad c t d a b e s) := by
  simp [execImad, h]
@[simp] theorem execImadw_wf {s : State} (h : s.mem.wf = true) (c t d a b e) : WfNext (execImadw c t d a b e s) := by
  simp [execImadw, h]
@[simp] theorem execIdiv_wf {s : State} (h : s.mem.wf = true) (c t d a b) : WfNext (execIdiv c t d a b s) := by
  simp [execIdiv, h]
@[simp] theorem execIrem_wf {s : State} (h : s.mem.wf = true) (c t d a b) : WfNext (execIrem c t d a b s) := by
  simp [execIrem, h]
@[simp] theorem execImin_wf {s : State} (h : s.mem.wf = true) (c t d a b) : WfNext (execImin c t d a b s) := by
  simp [execImin, h]
@[simp] theorem execImax_wf {s : State} (h : s.mem.wf = true) (c t d a b) : WfNext (execImax c t d a b s) := by
  simp [execImax, h]
@[simp] theorem execIabs_wf {s : State} (h : s.mem.wf = true) (c t sat d a) : WfNext (execIabs c t sat d a s) := by
  simp [execIabs, h]
@[simp] theorem execIneg_wf {s : State} (h : s.mem.wf = true) (c t sat d a) : WfNext (execIneg c t sat d a s) := by
  simp [execIneg, h]
@[simp] theorem carryOp_wf {s : State} (h : s.mem.wf = true) (c d a b k g) : WfNext (carryOp c d a b k g s) := by
  simp [carryOp, h]
@[simp] theorem execIaddc_wf {s : State} (h : s.mem.wf = true) (c d a b k) : WfNext (execIaddc c d a b k s) := by
  simp [execIaddc, h]
@[simp] theorem execIsubb_wf {s : State} (h : s.mem.wf = true) (c d a b k) : WfNext (execIsubb c d a b k s) := by
  simp [execIsubb, h]

/-! ### Integer: Logic -/

@[simp] theorem execAnd_wf {s : State} (h : s.mem.wf = true) (c t d a b) : WfNext (execAnd c t d a b s) := by
  simp [execAnd, h]
@[simp] theorem execOr_wf {s : State} (h : s.mem.wf = true) (c t d a b) : WfNext (execOr c t d a b s) := by simp [execOr, h]
@[simp] theorem execXor_wf {s : State} (h : s.mem.wf = true) (c t d a b) : WfNext (execXor c t d a b s) := by
  simp [execXor, h]
@[simp] theorem execAndn_wf {s : State} (h : s.mem.wf = true) (c t d a b) : WfNext (execAndn c t d a b s) := by
  simp [execAndn, h]
@[simp] theorem execLogt_wf {s : State} (h : s.mem.wf = true) (c t d a b e table) : WfNext (execLogt c t d a b e table s) := by
  simp [execLogt, h]

/-! ### Integer: Shifts and fields -/

@[simp] theorem execShl_wf {s : State} (h : s.mem.wf = true) (c t d a b) : WfNext (execShl c t d a b s) := by
  simp [execShl, h]
@[simp] theorem execShr_wf {s : State} (h : s.mem.wf = true) (c t d a b) : WfNext (execShr c t d a b s) := by
  simp [execShr, h]
@[simp] theorem execSar_wf {s : State} (h : s.mem.wf = true) (c t d a b) : WfNext (execSar c t d a b s) := by
  simp [execSar, h]
@[simp] theorem execRot_wf {s : State} (h : s.mem.wf = true) (c t d a b) : WfNext (execRot c t d a b s) := by
  simp [execRot, h]
@[simp] theorem execBfx_wf {s : State} (h : s.mem.wf = true) (c t d a b) : WfNext (execBfx c t d a b s) := by
  simp [execBfx, h]
@[simp] theorem execBfi_wf {s : State} (h : s.mem.wf = true) (c d a b e) : WfNext (execBfi c d a b e s) := by
  simp [execBfi, h]
@[simp] theorem execPopc_wf {s : State} (h : s.mem.wf = true) (c t d a) : WfNext (execPopc c t d a s) := by
  simp [execPopc, h]
@[simp] theorem execClz_wf {s : State} (h : s.mem.wf = true) (c t d a) : WfNext (execClz c t d a s) := by simp [execClz, h]
@[simp] theorem execCtz_wf {s : State} (h : s.mem.wf = true) (c t d a) : WfNext (execCtz c t d a s) := by simp [execCtz, h]
@[simp] theorem execBrev_wf {s : State} (h : s.mem.wf = true) (c t d a) : WfNext (execBrev c t d a s) := by
  simp [execBrev, h]

/-! ### Integer: Comparison, choice and moves (R115) -/

@[simp] theorem execIcmp_wf {s : State} (h : s.mem.wf = true) (c cond t d a b) : WfNext (execIcmp c cond t d a b s) := by
  simp [execIcmp, h]
@[simp] theorem execSel_wf {s : State} (h : s.mem.wf = true) (c t d k inv a b) : WfNext (execSel c t d k inv a b s) := by
  simp [execSel, h]
@[simp] theorem execMov_wf {s : State} (h : s.mem.wf = true) (c t d a) : WfNext (execMov c t d a s) := by simp [execMov, h]

/-! ### Dispatch: every instruction and every event -/

/-- Every instruction and every event keeps memory in canonical form. -/
@[simp] theorem exec_wf {s : State} (h : s.mem.wf = true) (i : Instr) : WfNext (exec i s) := by
  cases i <;> simp [exec, h]

/-! ### Cycle: what happens of itself -/

theorem exec_next_wf {s t : State} (h : s.mem.wf = true) {i} (e : exec i s = .next t) : t.mem.wf = true := exec_wf h i t e

theorem State.serveMail_wf {s : State} (h : s.mem.wf = true) (core) : WfNext (s.serveMail core) := by
  unfold State.serveMail
  split <;> simp [h]

theorem State.tryAccept_wf {s t : State} (h : s.mem.wf = true) {unit fid} (e : s.tryAccept unit fid = some t) :
    t.mem.wf = true := by
  unfold State.tryAccept at e
  split at e
  · cases e
  · split at e
    · split at e
      · next r =>
        cases (Option.ite_none_left_eq_some.1 e).2
        exact exec_next_wf (by simpa using h) r
      · cases e
    · cases e

@[simp] theorem State.acceptNow_wf {s : State} (h : s.mem.wf = true) (unit fid) : (s.acceptNow unit fid).mem.wf = true := by
  unfold State.acceptNow
  split
  · exact h
  · split
    · split
      · exact h
      · cases e : s.tryAccept unit fid with
        | none => exact h
        | some t => exact State.tryAccept_wf h e
    · exact h

theorem State.doChore_wf {s : State} (h : s.mem.wf = true) (c) : WfNext (s.doChore c) := by
  cases c with
  | event i => exact exec_wf h i
  | mail n => exact State.serveMail_wf h n
  | accept k f => exact (wfNext_next _).2 (State.acceptNow_wf h k f)

/-! ### Cycle: a cycle ends -/

@[simp] theorem State.advance_mem (s : State) : s.advance.mem = s.mem := by
  unfold State.advance
  extract_lets
  split <;> rfl

@[simp] theorem State.freeStopped_mem (s : State) : s.freeStopped.mem = s.mem := by simp [State.freeStopped]

@[simp] theorem State.regroups_mem (s : State) : s.regroups.mem = s.mem := by
  unfold State.regroups
  split
  · rfl
  · exact foldl_mem (fun s c => foldl_mem (fun s p => State.regroup_mem s c p) _ _) _ _

theorem State.acceptRound_wf {s : State} (h : s.mem.wf = true) (l) : (s.acceptRound l).mem.wf = true := by
  refine foldl_wf (fun s e h => ?_) _ h
  split
  · exact h
  · split
    · split
      · next r => exact exec_next_wf h r
      · exact h
    · exact State.acceptNow_wf h _ _

theorem State.beginRounds_wf {s : State} (h : s.mem.wf = true) : s.beginRounds.mem.wf = true := by
  refine foldl_wf (fun s l h => ?_) _ h
  split
  · simpa using State.acceptRound_wf h l
  · exact h

theorem State.tick_wf {s : State} (h : s.mem.wf = true) : s.tick.mem.wf = true := by
  unfold State.tick
  extract_lets s1 s2 s3 s4
  have h2 : s2.mem.wf = true := by simpa [s2, s1] using h
  split
  · exact h2
  · have h3 : s3.mem.wf = true := by simpa [s3] using State.beginRounds_wf h2
    have h4 : s4.mem.wf = true := foldl_wf (fun s c h => by split <;> simp [h]) _ h3
    clear_value s4
    exact h4

theorem State.housekeep_wf {s : State} (h : s.mem.wf = true) : WfNext s.housekeep := by
  have h1 : s.draw.2.mem.wf = true := by simpa using h
  simp only [State.housekeep]
  split
  · exact State.doChore_wf h1 _
  · exact (wfNext_next _).2 (State.tick_wf h1)

/-! ### Cycle: a fibre issues -/

theorem execWord_wf {s : State} (h : s.mem.wf = true) (w pair) : WfNext (execWord w pair s) := by
  unfold execWord
  split <;> exact exec_wf h _

theorem execCode_wf {s : State} (h : s.mem.wf = true) (code) : WfNext (execCode code s) := by
  unfold execCode
  split
  · next r =>
    have h1 := exec_next_wf h r
    split
    · exact execWord_wf (by exact h1) _ _
    · exact (wfNext_next _).2 h1
  · exact wfNext_fault _
  · exact wfNext_refused _

@[simp] theorem State.noteFetch_mem (s : State) (u f) : (s.noteFetch u f).mem = s.mem := by
  unfold State.noteFetch
  split
  · rfl
  · split <;> simp

theorem State.runCur_wf {s : State} (h : s.mem.wf = true) (u f) : WfNext (s.runCur u f) := by
  have h1 : (s.noteFetch u f).mem.wf = true := by simpa using h
  simp only [State.runCur]
  split
  · simpa using h
  · exact execWord_wf h1 _ _
  · exact execCode_wf h1 _

@[simp] theorem State.wakePhases_mem (s : State) : s.wakePhases.mem = s.mem := by
  unfold State.wakePhases
  extract_lets
  split <;> rfl

theorem settled_wf {r} (h : WfNext r) (s0 us) : WfNext (settled s0 us r) := by
  unfold settled
  split
  · have k := foldl_wf (fun _ k h => State.settleRows_wf h s0 k) us ((wfNext_next _).1 h)
    simpa using k
  · exact wfNext_fault _
  · exact wfNext_refused _

theorem settledAll_wf {r} (h : WfNext r) (s0) : WfNext (settledAll s0 r) := by
  unfold settledAll
  split
  · exact settled_wf h s0 _
  · exact wfNext_fault _
  · exact wfNext_refused _

theorem State.issueFibre_wf {s : State} (h : s.mem.wf = true) (e) : WfNext (s.issueFibre e) := by
  unfold State.issueFibre
  split
  · exact (wfNext_next _).2 h
  · split
    · exact (wfNext_next _).2 h
    split
    · simpa using h
    split
    · split <;> simpa using h
    split
    · exact (wfNext_next _).2 h
    · exact settled_wf (State.runCur_wf (by exact h) _ _) _ _

/-- One step keeps memory in canonical form, whatever it takes: an event, an issue, a commit, or what happens of itself. -/
theorem State.stepOnce_wf {s : State} (h : s.mem.wf = true) : WfNext s.stepOnce := by
  unfold State.stepOnce
  split
  · exact settledAll_wf (exec_wf (by exact h) _) _
  · split
    · exact State.issueFibre_wf (by exact h) _
    · split
      · exact settledAll_wf (exec_wf h _) _
      · exact settledAll_wf (State.housekeep_wf h) _

/-! ### The obligations -/

/-- Settles O40: no word of the reset memory is stored. -/
theorem resetMemoryIsCanonical : Obligations.ResetMemoryIsCanonical := by
  unfold Obligations.ResetMemoryIsCanonical
  decide

/-- Settles O41: each branch of a step keeps memory in canonical form, for every instruction and every event does. -/
theorem stepKeepsMemoryCanonical : Obligations.StepKeepsMemoryCanonical := by
  unfold Obligations.StepKeepsMemoryCanonical
  intro s t h e
  exact State.stepOnce_wf h t e

end Sys2Proof.Machine
end

section

/-! SUPPORT. What a load that nothing holds back comes to (spec 06 R120 to R126, 09 R217, 11 R255), and how the events of an
answer carry it out (09 R188, R202). Where the claim about an instruction holds, its effect has a lemma
`…_done`, which says in which state it is done, and its execution a lemma `…_next`, which says in which state the machine goes on. -/

namespace Sys2Proof.Machine

/-! ### Access: the gate of a load (R188, R192, R209, R215, R217) -/

/-- An access that nothing holds back waits for no release of its fibre (R217). -/
theorem Claims.free.acquires {s : State} {x : Ctx} {m : MMod} {a : Acc} {size : Nat} (h : Claims.free s x m a size) :
    (m.order == .acq && x.f.releaseOut) = false := by
  obtain ⟨-, -, -, acquire, -⟩ := h
  simpa using acquire

/-- The gate lets a load through to the source that fixes its value. -/
theorem State.gate_of_fixedBy {s : State} {x : Ctx} {m : MMod} {a : Acc} {size : Nat} {l1 : Bool} {src : Source}
    (h : Claims.fixedBy s x m a size l1 src) (i : Instr) : s.gate x i m a size l1 = .ok src := by
  cases src with
  | mem =>
    rcases h with ⟨served, line⟩ | ⟨free, noLine⟩
    · by_cases k : tokenKey a.key = true
      · obtain ⟨lost, poisoned⟩ := line k
        simp [State.gate, served, lost, poisoned]
      · simp [State.gate, served, k]
    · have order := free.acquires
      obtain ⟨served, ranges, own, -, space⟩ := free
      simp [State.gate, served, ranges, own, order, space, noLine]
  | l1 c =>
    obtain ⟨free, isLine, rfl, keeps, det, copy⟩ := h
    have order := free.acquires
    obtain ⟨served, ranges, own, -, space⟩ := free
    simp [State.gate, served, ranges, own, order, space, isLine, keeps, det, copy]

/-! ### Memory: loads (R120 to R123, R126) -/

/-- The half of an access of 16 bytes that is read after the other. -/
theorem Acc.half_not (a : Acc) (upper : Bool) :
    a.half (!upper) = if upper = true then a else { a with adr := a.adr + 8, key := a.key + 8 } := by
  cases upper <;> rfl

/-- The words that a load fixes are those that it goes on with. -/
theorem State.loadFrom_of_fixes {m : MMod} {a : Acc} {n : Nat} {whole : Bool} {x : Ctx} {s s1 : State} {src : Source}
    {ws : List Reg} (h : Claims.fixes m a n whole x s s1 src ws) (i : Instr) :
    s.loadFrom x i m a n whole = .ok (s1, src, ws) := by
  rcases h with ⟨noHalf, fixed, once, rfl, rfl⟩ | ⟨upper, held, half, fixed, rfl, rfl⟩
  · have one : (n == 4 && !whole && src == .mem && !s.overlaid x.u) = false := by
      rcases once with h | h | h | h <;> simp [h]
    simp [State.loadFrom, noHalf, State.gate_of_fixedBy fixed, one, State.readWords]
  · simp [State.loadFrom, half, Acc.half_not, State.gate_of_fixedBy fixed, State.readWords]

/-- A load of whole words leaves the state that the claim about it gives. -/
theorem loadWords_done {m : MMod} {p : MemOp} {d : VReg} {n : Nat} {x : Ctx} {s t : State} (h : Claims.loads m p d n x s t)
    (i : Instr) : loadWords x s i m p d n = .done t := by
  obtain ⟨a, s1, src, ws, reach, fixed, rfl⟩ := h
  simp only [loadWords, reach, State.loadFrom_of_fixes fixed]
  rfl

/-- LD of which nothing holds back the instruction or its access is carried out. -/
theorem execLd_next {c : Ctl} {t : ITy} {m : MMod} {d : VReg} {p : MemOp} {o : Op} {R : Ctx → State → State → Prop}
    (hi : Claims.memories (.ld c t m d p) = some (o, R)) {s t' : State} {u : Unit} {f : Fibre} (h : s.Clear u f o)
    (hR : R { u := u, f := f.seen o } (s.passed u f o) t') : execLd c t m d p s = .next (s.closed u f o t') := by
  cases hi
  refine issue_done h ?_
  dsimp only at hR ⊢
  split at hR
  · next wide => rw [if_pos wide, loadWords_done hR]
  · next small =>
    obtain ⟨a, src, w, fixed, reach, gate, word, rfl⟩ := hR
    simp only [if_neg small, reach, State.gate_of_fixedBy gate, word]
    rfl

/-- LDV of which nothing holds back the instruction or its access is carried out. -/
theorem execLdv_next {c : Ctl} {four : Bool} {m : MMod} {d : VReg} {p : MemOp} {o : Op} {R : Ctx → State → State → Prop}
    (hi : Claims.memories (.ldv c four m d p) = some (o, R)) {s t : State} {u : Unit} {f : Fibre} (h : s.Clear u f o)
    (hR : R { u := u, f := f.seen o } (s.passed u f o) t) : execLdv c four m d p s = .next (s.closed u f o t) := by
  cases hi
  exact issue_done h (loadWords_done hR _)

/-- LDC of which nothing holds back the instruction or its access is carried out. -/
theorem execLdc_next {c : Ctl} {m : MMod} {d : CReg} {p : MemOp} {o : Op} {R : Ctx → State → State → Prop}
    (hi : Claims.memories (.ldc c m d p) = some (o, R)) {s t : State} {u : Unit} {f : Fibre} (h : s.Clear u f o)
    (hR : R { u := u, f := f.seen o } (s.passed u f o) t) : execLdc c m d p s = .next (s.closed u f o t) := by
  cases hi
  refine issue_done h ?_
  obtain ⟨a, s1, src, ws, bits, reach, fixed, words, rfl⟩ := hR
  simp only [reach, State.loadFrom_of_fixes fixed, words]

/-! ### Fabric: monitors (R255) -/

/-- The read of a monitor wait whose value meets it ends the wait. -/
theorem mwaitEnd_done {ge : Bool} {t : ITy} {m : MMod} {d : VReg} {a : Acc} {v : DWord} {x : Ctx} {s : State} :
    let w : DWord := if t.wide then s.mem.dword a.key else (s.mem.good a.key).setWidth 64
    let s0 := (s.lookAll x.u.core a.key (memBytes t)).noteRange s.mem x.u.core a.key (memBytes t)
    let s1 := s0.dropL1 x.u.core (a.key / 64)
    s.badRange a (memBytes t) = none → Claims.meets ge v w →
    mwaitEnd x s ge t m d a v = .done ((if discards m then s1.dropL1Shared x.u.core else s1).modCur fun f =>
      f.pendRegs (x.f.base + d.toNat) (regsAt t.wide w)) := by
  intro w s0 s1 good meets
  have ends : (if ge then decide (v.toNat ≤ w.toNat) else w != v) = true := by
    cases ge <;> simpa [Claims.meets] using meets
  simp only [mwaitEnd, good]
  exact if_pos ends

/-- MWAIT of which nothing holds back the instruction or its access, and whose value meets the wait, is carried out. -/
theorem execMwait_next {c : Ctl} {ge : Bool} {t : ITy} {m : MMod} {d : VReg} {p : MemOp} {v : Src} {o : Op}
    {R : Ctx → State → State → Prop} (hi : Claims.fabrics (.mwait c ge t m d p v) = some (o, R)) {s t' : State} {u : Unit}
    {f : Fibre} (h : s.Clear u f o) (hR : R { u := u, f := f.seen o } (s.passed u f o) t') :
    execMwait c ge t m d p v s = .next (s.closed u f o t') := by
  cases hi
  refine issue_done h ?_
  obtain ⟨a, reach, ranges, fixed, good, meets, rfl⟩ := hR
  have idle := Bool.and_eq_false_imp.2 ranges
  simp only [reach, idle, State.gate_of_fixedBy fixed, Bool.false_eq_true, if_false]
  exact mwaitEnd_done good meets

/-! ### Service: loads (R70, R188, R202) -/

/-- A load that an answer lets go on is carried out. -/
theorem performLoad_next {i : Instr} {o : Op} {R : Ctx → State → State → Prop} (hi : Claims.answered i = some (o, R))
    {s t : State} {u : Unit} {f : Fibre} (h : s.Clear u f o) (hR : R { u := u, f := f.seen o } (s.passed u f o) t) :
    performLoad i s = .next (s.closed u f o t) := by
  unfold Claims.answered at hi
  split at hi
  · exact execLd_next hi h hR
  · exact execLdv_next hi h hR
  · exact execLdc_next hi h hR
  · exact execMwait_next hi h hR
  · cases hi

/-- LOAD_DATA_RETURN performs the load that waits, where its data lies outside the lines of tokens or its line answers. -/
theorem execLoadDataReturn_of_returning {i : Instr} {a b unit fid : Nat} {s s1 : State}
    (h : Claims.returning i unit fid s (.loadDataReturn a b) s1) : execLoadDataReturn a b s = performLoad i s1 := by
  obtain ⟨rfl, rfl, u, f, key, x, y, ⟨live, wait⟩, ⟨noLine, rfl⟩ | ⟨isLine, answers, rfl⟩⟩ := h
  · simp only [execLoadDataReturn, live, wait, noLine]
    rfl
  · have held : ((s.line (key / 64)).lost || (s.line (key / 64)).poisoned ||
        (s.line (key / 64)).canRead (s.reqOf (s.line (key / 64)) (dieOf u.core))) = true := by
      simpa [or_assoc] using answers
    simp only [execLoadDataReturn, live, wait, isLine, held]
    rfl

/-- A good PCIE_COMPLETION performs the load that waits. -/
theorem execPcieCompletion_of_returning {i : Instr} {a b unit fid : Nat} {s s1 : State}
    (h : Claims.returning i unit fid s (.pcieCompletion a b .success false) s1) :
    execPcieCompletion a b .success false s = performLoad i s1 := by
  obtain ⟨rfl, rfl, u, f, isUnit, isFibre, live, ⟨since, wait⟩, rfl⟩ := h
  simp only [execPcieCompletion, isUnit, isFibre, wait, live]
  rfl

/-- The event of a returning answer performs the load that waits for it. -/
theorem exec_returning {i ev : Instr} {unit fid : Nat} {s s1 : State} (h : Claims.returning i unit fid s ev s1) :
    exec ev s = performLoad i s1 := by
  unfold Claims.returning at h
  split at h
  · exact execLoadDataReturn_of_returning h
  · exact execPcieCompletion_of_returning h
  · exact h.elim

/-! ### Cycle: the agenda (R8, R9) -/

/-- The first event of the agenda is taken before any fibre issues. -/
theorem State.stepOnce_of_agenda {s : State} {i : Instr} {rest : List Instr} (h : s.agenda = i :: rest) :
    s.stepOnce = settledAll s (exec i { s with agenda := rest }) := by
  simp only [State.stepOnce, h]

/-! ### The obligations -/

/-- Settles O23: the event performs the load that waits, and nothing holds the load back, so its effect is done. -/
theorem returningLoadsComplete : Obligations.ReturningLoadsComplete := by
  unfold Obligations.ReturningLoadsComplete
  intro i ev o R hi s s1 unit fid u f t returns clear effect
  rw [exec_returning returns]
  exact performLoad_next hi clear effect

/-- Settles O39: the agenda is the first thing a step looks at. -/
theorem stepTakesTheNextEvent : Obligations.StepTakesTheNextEvent := by
  unfold Obligations.StepTakesTheNextEvent
  intro s i rest h
  exact State.stepOnce_of_agenda h

end Sys2Proof.Machine
end

section

/-! SUPPORT. What SRD does (spec 02 R27, 06 R104): a special register depends on the fibre, its unit and the parts of the
machine that passing an instruction leaves alone, so its value in the cycle of issue is the one its destination receives. -/

namespace Sys2Proof.Machine

/-! ### State: what passing an instruction leaves alone (R43, R55) -/

@[simp] theorem State.passed_fe (s : State) (u : Unit) (f : Fibre) (o : Op) : (s.passed u f o).fe = s.fe := rfl
@[simp] theorem State.passed_wire (s : State) (u : Unit) (f : Fibre) (o : Op) : (s.passed u f o).wire = s.wire := rfl

/-! ### Control: special registers (R27, R104) -/

/-- A special register of a fibre depends on the machine through its cycle, its launches and its PTP clock alone. -/
theorem State.sregVal_congr {s t : State} (clk : t.clk = s.clk) (fe : t.fe = s.fe) (wire : t.wire = s.wire) (x : Ctx)
    (r : SReg) : t.sregVal x r = s.sregVal x r := by
  have launch (k : Nat) : t.launch? k = s.launch? k := by simp only [State.launch?, fe]
  cases r with
  | fid | tid | tw | team | unit | gang | rmode | fstat | prog => rfl
  | clk => simp only [State.sregVal, clk]
  | ptp => simp only [State.sregVal, State.ptpAt, wire]
  | nunits => simp only [State.sregVal, State.unitsIn, launch]
  | launch => simp only [State.sregVal, launch]

/-- Once its fibre has passed the instruction, a special register still reads as it did in the cycle of issue. -/
@[simp] theorem State.sregVal_passed (s : State) (u : Unit) (f : Fibre) (o : Op) (x : Ctx) (r : SReg) :
    (s.passed u f o).sregVal x r = s.sregVal x r :=
  State.sregVal_congr (passed_clk s u f o) (State.passed_fe s u f o) (State.passed_wire s u f o) x r

/-- SRD is the issue of an instruction that reads no register and whose words come with variable latency. -/
theorem exec_srd (c : Ctl) (d : VReg) (r : SReg) (s : State) :
    exec (.srd c d r) s = s.issue { op0 c with regs := dstRegs d (sregWords r) } fun x s =>
      .done (s.modCur fun f => f.pendRegs (x.f.base + d.toNat) (s.sregVal x r)) := rfl

/-! ### The obligations -/

/-- Settles O8: SRD corrects no register of its fibre, and passing it changes no special register. -/
theorem specialRegisterReads : Obligations.SpecialRegisterReads := by
  unfold Obligations.SpecialRegisterReads
  intro s u f c d r clear
  rw [exec_srd]
  refine issue_done clear ?_
  rw [State.sregVal_passed, seen_of_reads_nil f rfl]

end Sys2Proof.Machine
end

section

/-! SUPPORT. What the events of commands, launches and graphs come to (spec 02 R37, 17 R358 to R392): each event has a lemma
`…_next`, which says that where the claim about it holds the event answers the state that the claim names. -/

namespace Sys2Proof.Machine

/-! ### COMMAND_PARSE (R358, R360, R376) -/

/-- COMMAND_PARSE stops a queue whose next entry cannot be read, and refuses or starts a command that has been read whole and that
SERIAL does not hold back. -/
theorem execCommandParse_next {q : Nat} {s t : State} (h : Claims.launchEvents (.commandParse q) s t) :
    execCommandParse q s = .next t := by
  obtain ⟨parses, unread, rfl⟩ | ⟨b, n, ⟨parses, e, first, rfl, kicked, whole⟩, serial, answer⟩ := h
  · simp [execCommandParse, parses, unread]
  · have free : ((cmdOf b).serial && s.queueBusy q) = false := by simpa using serial
    simp only [execCommandParse, parses, first, whole, free, Nat.not_lt.2 kicked, Bool.not_true, Bool.false_eq_true, if_false]
    obtain ⟨r, refused, rfl⟩ | ⟨accepted, room, rfl⟩ := answer
    · simp only [refused]
    · simp only [accepted, room, Bool.false_eq_true, if_false]

/-! ### PRELOAD_COMPLETE (R362, R363) -/

/-- PRELOAD_COMPLETE makes a launch ready, and fails it where a copy has failed; of a cancelled one no copy is performed. -/
theorem execPreloadComplete_next {done : CopyEnd} {s t : State} (h : Claims.launchEvents (.preloadComplete done) s t) :
    execPreloadComplete done s = .next t := by
  obtain ⟨l, isLaunch, stage, effect⟩ := h
  split at effect
  · next cancelled => simp [execPreloadComplete, isLaunch, stage, cancelled, effect]
  · next runs =>
    obtain ⟨copied, rfl⟩ | ⟨e, failed, rfl⟩ := effect
    · simp [execPreloadComplete, isLaunch, stage, runs, copied]
    · simp [execPreloadComplete, isLaunch, stage, runs, failed]

/-! ### GANG_DISPATCH (R384, R392) -/

/-- GANG_DISPATCH starts a unit that waits to continue, or else the gang that comes next, where it has been chosen for the cluster
and the cores may take it; shadow copies make way where it has no room otherwise. -/
theorem execGangDispatch_next {launch gang : Nat} {cores : List Nat} {s t : State}
    (h : Claims.launchEvents (.gangDispatch launch gang cores) s t) : execGangDispatch launch gang cores s = .next t := by
  obtain ⟨l, isLaunch, ⟨n, cont, rfl⟩ | ⟨noCont, nextGang, places, chosen, welcome, together, starts⟩⟩ := h
  · simp only [execGangDispatch, isLaunch, cont]
  · have may : (cores.all fun k => clusterOf k == clusterOf (cores.headD 0) && s.mayPlace l.queue k) = true := by
      simpa using places
    simp only [execGangDispatch, isLaunch, noCont, nextGang, may, chosen, welcome, together, bne_self_eq_false, Bool.not_true,
      Bool.or_self, Bool.false_eq_true, if_false]
    obtain starts | ⟨crowded, starts⟩ := starts
    · simp only [starts]
    · simp only [crowded, starts, Option.getD_some]

/-! ### UNIT_RETIRE (R37, R97, R98, R369, R372, R384) -/

/-- Of a unit whose fibres are over, none is live. -/
theorem Claims.over'.noneLive {s : State} {u : Unit} (h : Claims.over' s u) : u.fibres.any Fibre.live = false := by
  obtain ⟨fibres, -⟩ := h
  simpa using fun f hf => (fibres f hf).1

/-- Of a unit whose fibres are over, no fault is left to deliver. -/
theorem Claims.over'.faultsLate {s : State} {u : Unit} (h : Claims.over' s u) :
    (u.fibres.all fun f => f.faults.all fun d => d.cls == .late) = true := by
  obtain ⟨fibres, -⟩ := h
  simpa using fun f hf => (fibres f hf).2

/-- Of a unit whose fibres are over, no continuation waits. -/
theorem Claims.over'.noCont {s : State} {u : Unit} (h : Claims.over' s u) :
    (((s.launch? u.launch).map fun l => l.conts.any fun n => n.1 == u.no).getD false) = false := by
  obtain ⟨-, conts⟩ := h
  cases isLaunch : s.launch? u.launch with
  | none => rfl
  | some l => simpa using fun no deadline waits => conts l isLaunch (no, deadline) waits

/-- UNIT_RETIRE takes away a unit that is being ended, once its fibres have ended at their bank points and the cancel of its
requests has left none (R372). -/
theorem execUnitRetire_of_ending {s : State} {u v : Unit} (isUnit : s.unit? u.key = some u) (ending : u.ending = true)
    (after : (s.endAtPoints u).unit? u.key = some v) (still : v.ending = true) (isOver : Claims.over' (s.endAtPoints u) v)
    (quiet : ((s.endAtPoints u).cancelUnit v).quiet v = true) :
    execUnitRetire u.key s =
      .next ((((s.endAtPoints u).cancelUnit v).finishUnit v .ended).logRec 4 0x68 (BitVec.ofNat 32 v.no) v.launch) := by
  simp [execUnitRetire, isUnit, ending, after, still, isOver.noneLive, isOver.noCont, isOver.faultsLate, quiet]

/-- UNIT_RETIRE takes away a unit that is being ended, and completes another one, lets it wait to continue, or begins its next
stage, once its fibres are over and its requests have completed. -/
theorem execUnitRetire_next {unit : Nat} {s t : State} (h : Claims.launchEvents (.unitRetire unit) s t) :
    execUnitRetire unit s = .next t := by
  obtain ⟨u, isUnit, rfl, retires⟩ := h
  unfold Claims.retires at retires
  split at retires
  · next ending =>
    obtain ⟨v, after, still, isOver, quiet, rfl⟩ := retires
    exact execUnitRetire_of_ending isUnit ending after still isOver quiet
  · next stays =>
    obtain ⟨isOver, quiet, effect⟩ := retires
    simp only [execUnitRetire, isUnit, stays, isOver.noneLive, isOver.noCont, isOver.faultsLate, quiet, Bool.not_true,
      Bool.or_self, Bool.false_eq_true, if_false]
    cases successor : u.next with
    | none =>
      simp only [successor] at effect
      rw [effect]
    | some n =>
      simp only [successor] at effect
      have waits : (n.cont && !u.shadow) = true ↔ n.cont = true ∧ u.shadow = false := by simp
      simp only [waits]
      split at effect
      · next cont => rw [if_pos cont, effect]
      · next onward => rw [if_neg onward, effect]

/-! ### LAUNCH_SETTLE (R369, R435) -/

/-- LAUNCH_SETTLE settles a ready launch all units of which have left, and counts it where its deadline has passed. -/
theorem execLaunchSettle_next {launch : Nat} {s t : State} (h : Claims.launchEvents (.launchSettle launch) s t) :
    execLaunchSettle launch s = .next t := by
  obtain ⟨l, isLaunch, stage, gone, rfl⟩ := h
  have settles : (l.stage != .ready || decide (l.gone < l.part.grid)) = false := by simp [stage, gone]
  cases deadline : l.deadline with
  | none => simp [execLaunchSettle, isLaunch, settles, deadline]
  | some d => simp [execLaunchSettle, isLaunch, settles, deadline]

/-! ### POST_COPIES_DONE (R362, R363, R369) -/

/-- POST_COPIES_DONE removes a launch whose work is done, once no shadow copy of a unit of it runs; it does that work where the
launch has settled, and where a post copy faults the launch fails. -/
theorem execPostCopiesDone_next {done : CopyEnd} {s t : State} (h : Claims.launchEvents (.postCopiesDone done) s t) :
    execPostCopiesDone done s = .next t := by
  obtain ⟨l, isLaunch, ⟨stage, shadows, rfl⟩ | ⟨stage, rfl⟩⟩ := h
  · simp [execPostCopiesDone, isLaunch, stage, shadows]
  · have notDone : (l.stage == .done) = false := by simp [stage]
    have settled : (l.stage != .settled) = false := by simp [stage]
    simp only [execPostCopiesDone, isLaunch, notDone, settled, Bool.false_and, Bool.false_eq_true, if_false]
    generalize (if l.status = 2 then s.runCopies l.ctx l.posts done.err else (s, none)) = r
    cases hdr : l.hdr with
    | some h => rfl
    | none =>
      cases node : l.graph with
      | none => rfl
      | some p =>
        dsimp only
        cases r.1.graph? p.1 <;> rfl

/-! ### GRAPH_EVENT (R375) -/

/-- GRAPH_EVENT drops the completions of a graph that has failed or was cancelled, or else fires a node or gives a completion, and
ends a graph of which no launch is left. -/
theorem execGraphEvent_next {inst : Nat} {s t : State} (h : Claims.launchEvents (.graphEvent inst) s t) :
    execGraphEvent inst s = .next t := by
  obtain ⟨g, isGraph, noFault, effect⟩ := h
  split at effect
  · next stopped =>
    split at effect
    · next idle => simp [execGraphEvent, isGraph, noFault, stopped, idle, effect]
    · next busy => simp [execGraphEvent, isGraph, noFault, stopped, busy, effect]
  · next runs =>
    obtain ⟨n, fires, rfl⟩ | ⟨nofire, ⟨n, rest, events, rfl⟩ | ⟨events, idle, rfl⟩⟩ := effect
    · simp [execGraphEvent, isGraph, noFault, runs, fires]
    · simp [execGraphEvent, isGraph, noFault, runs, nofire, events]
    · simp [execGraphEvent, isGraph, noFault, runs, nofire, events, idle]

/-! ### The obligations -/

/-- Settles O30: each of the seven events by its own lemma; no other event is claimed of. -/
theorem launchEventsComplete : Obligations.LaunchEventsComplete := by
  unfold Obligations.LaunchEventsComplete Claims.Occurs
  intro i s t h
  cases i with
  | commandParse q => exact execCommandParse_next h
  | preloadComplete done => exact execPreloadComplete_next h
  | gangDispatch launch gang cores => exact execGangDispatch_next h
  | unitRetire unit => exact execUnitRetire_next h
  | launchSettle launch => exact execLaunchSettle_next h
  | postCopiesDone done => exact execPostCopiesDone_next h
  | graphEvent inst => exact execGraphEvent_next h
  | _ => exact h.elim

end Sys2Proof.Machine
end

section

/-! SUPPORT. How a fibre leaves its handler (spec 05 R83, 06 R94): what a release of slots leaves in the table of registers, what
the word given restores, and when TRAPRET reaches its target. -/

namespace Sys2Proof.Machine

/-! ### State: tables and released slots (R73, R75) -/

/-- A key has no value in a table exactly when no entry bears it. -/
theorem tget_eq_none_iff {α : Type} {l : List (Nat × α)} {k : Nat} : tget l k = none ↔ ∀ e ∈ l, e.1 ≠ k := by
  induction l with
  | nil => simp [tget]
  | cons e l ih =>
    by_cases h : e.1 = k
    · simp [tget, h]
    · simp [tget, h, ih]

/-- A release from a slot upwards leaves no register there. -/
theorem Fibre.tget_releaseFrom {f : Fibre} {top n : Nat} (h : top ≤ n) : tget (f.releaseFrom top).stack n = none := by
  rw [tget_eq_none_iff]
  intro e he
  have below : e.1 < top := of_decide_eq_true (List.mem_filter.1 he).2
  omega

/-! ### State: predicates (R46) -/

/-- A predicate that can be set is a bit of the predicate word. -/
theorem Fibre.pred_of_ne {f : Fibre} {p : PReg} (h : p ≠ 15) : f.pred p = f.preds.getLsbD p.toNat := by
  simp only [Fibre.pred, beq_false_of_ne h, Bool.false_or]

/-! ### State: what a landing result leaves alone (R54) -/

/-- A value put into its destination changes registers, predicates and capability registers alone. -/
theorem Fibre.put_eq (f : Fibre) (d : Dest) (v : DVal) :
    f.put d v = { f with stack := (f.put d v).stack, preds := (f.put d v).preds, caps := (f.put d v).caps } := by
  unfold Fibre.put
  split
  · rfl
  · unfold Fibre.setPred
    split <;> rfl
  · rfl
  · rfl

/-- Writing the results that have landed changes registers, predicates, capability registers and the results in flight alone. -/
theorem Fibre.settle_eq (f : Fibre) (clk : Nat) :
    f.settle clk = { f with stack := (f.settle clk).stack, preds := (f.settle clk).preds, caps := (f.settle clk).caps
                            flights := (f.settle clk).flights } := by
  have landed (l : List Flight) (f : Fibre) :
      let g := l.foldl (fun (g : Fibre) x => if x.land ≤ clk then g.put x.dest x.val else g) f
      g = { f with stack := g.stack, preds := g.preds, caps := g.caps } := by
    induction l generalizing f with
    | nil => rfl
    | cons x l ih =>
      dsimp only [List.foldl_cons] at ih ⊢
      split
      · rw [ih (f.put x.dest x.val), Fibre.put_eq f]
      · exact ih f
  rw [Fibre.settle]
  dsimp only
  rw [landed f.flights f]

/-- Writing the results that have landed does not leave a handler. -/
@[simp] theorem Fibre.settle_handler (f : Fibre) (clk : Nat) : (f.settle clk).handler = f.handler := by rw [Fibre.settle_eq]

/-! ### Control: TRAPRET (R83, R94) -/

/-- Leaving a handler takes the predicates from the word given. -/
theorem Fibre.leaveHandler_pred (f : Fibre) (w : Word) {p : PReg} (h : p ≠ 15) :
    (f.leaveHandler w).pred p = w.getLsbD p.toNat := by
  have bit : p.toNat < 15 := by
    have low := p.isLt
    have not15 : p.toNat ≠ 15 := fun e => h (BitVec.eq_of_toNat_eq e)
    omega
  rw [Fibre.pred_of_ne h]
  simp [Fibre.leaveHandler, bit]

/-- Leaving a handler releases every slot from the handler's base upwards. -/
theorem Fibre.leaveHandler_stack (f : Fibre) (w : Word) (h : 64 ≤ f.base) {n : Nat} (hn : f.base ≤ n) :
    tget (f.leaveHandler w).stack n = none :=
  Fibre.tget_releaseFrom (by omega)

/-- Control passes to a target that may be branched to. -/
theorem goto_of_reaches {x : Ctx} {s : State} {t : BitVec 57} {marks : List (BitVec 57)} (h : Claims.reaches s x.u t marks)
    (g : Fibre → Fibre) : goto x s t marks g = .done (s.modCur fun f => { g f with pc := t }) := by
  obtain ⟨l, target⟩ := h
  simp only [goto, target]

/-- In a handler the operands of a trap return are v0, v1, v4 and the predicates. -/
theorem opTrapret_of_handler {s : State} {u : Unit} {f : Fibre} (h : s.turn u f) (inHandler : f.handler = true) (c : Ctl) :
    opTrapret c s = Claims.trapretForm c := by
  obtain ⟨g, cur, rfl⟩ := h
  rw [Fibre.settle_handler] at inHandler
  simp only [opTrapret, cur, inHandler, if_true]
  rfl

/-- A trap return whose target may be branched to leaves the handler for it. -/
theorem doTrapret_done {succ : Bool} {x : Ctx} {s : State} (inHandler : x.f.handler = true)
    (pc : (x.f.pairAt 0).toNat < 2 ^ 57)
    (target : Claims.reaches s x.u (Claims.trapTarget s x.u x.f succ) (Claims.marksOf x.f)) :
    doTrapret succ x s = .done (s.modCur fun g =>
      { g.leaveHandler (x.f.reg 4).val with pc := Claims.trapTarget s x.u x.f succ }) := by
  have high : (x.f.pairAt 0).extractLsb' 57 7 = 0 := by
    apply BitVec.eq_of_toNat_eq
    simp only [BitVec.extractLsb'_toNat, Nat.shiftRight_eq_div_pow, Nat.div_eq_of_lt pc, Nat.zero_mod]
    rfl
  simp only [doTrapret, inHandler, high, Bool.not_true, bne_self_eq_false, Bool.false_eq_true, if_false]
  exact goto_of_reaches target _

/-- Passing an instruction leaves alone which targets may be branched to. -/
theorem Claims.reaches_passed {s : State} {u v : Unit} {f : Fibre} {o : Op} {t : BitVec 57} {marks : List (BitVec 57)} :
    Claims.reaches (s.passed u f o) v t marks ↔ Claims.reaches s v t marks := Iff.rfl

/-- Passing an instruction leaves the target of a trap return alone. -/
@[simp] theorem Claims.trapTarget_passed (s : State) (u v : Unit) (f g : Fibre) (o : Op) (succ : Bool) :
    Claims.trapTarget (s.passed u f o) v g succ = Claims.trapTarget s v g succ := rfl

/-- A trap return checks no register, so it corrects none. -/
@[simp] theorem seen_trapretForm (f : Fibre) (c : Ctl) : f.seen (Claims.trapretForm c) = f := rfl

/-- A trap return that nothing holds back leaves its handler for its target. -/
theorem issue_trapret {s : State} {u : Unit} {f : Fibre} {c : Ctl} {succ : Bool} (inHandler : f.handler = true)
    (pc : (f.pairAt 0).toNat < 2 ^ 57)
    (target : Claims.reaches s u (Claims.trapTarget s u f succ) (Claims.marksOf f))
    (clear : s.Clear u f (Claims.trapretForm c)) :
    s.issue (opTrapret c s) (doTrapret succ) = .next (s.closed u f (Claims.trapretForm c)
      ((s.passed u f (Claims.trapretForm c)).modCur fun g =>
        { g.leaveHandler (f.reg 4).val with pc := Claims.trapTarget s u f succ })) := by
  rw [opTrapret_of_handler clear.cur inHandler]
  have passed := doTrapret_done (x := { u := u, f := f }) (s := s.passed u f (Claims.trapretForm c)) inHandler pc <|
    Claims.reaches_passed.2 (by rwa [Claims.trapTarget_passed])
  rw [Claims.trapTarget_passed] at passed
  refine issue_done clear ?_
  rwa [seen_trapretForm]

/-! ### The obligations -/

/-- Settles O11: both forms are one return whose target is the PC held in v0 and v1, or its successor. -/
theorem trapReturnsComplete : Obligations.TrapReturnsComplete := by
  unfold Obligations.TrapReturnsComplete Claims.Does
  intro s u f c inHandler pc
  exact ⟨issue_trapret inHandler pc, issue_trapret inHandler pc⟩

/-- Settles O12: the predicates are the low bits of the word given, and a release from the handler's base leaves no slot there. -/
theorem leavingAHandler : Obligations.LeavingAHandler := by
  unfold Obligations.LeavingAHandler
  intro f w base
  exact ⟨rfl, rfl, rfl, fun _ h => f.leaveHandler_pred w h, rfl, fun _ h => f.leaveHandler_stack w base h, rfl, rfl, rfl, rfl⟩

end Sys2Proof.Machine
end

section

/-! SUPPORT. When a team operation is executed for its whole team (spec 05 R80, 07 R166 to R176), and when its results do not depend
on the shadow check (07 R143). -/

namespace Sys2Proof.Machine

/-! ### Issue: what a member's strike is (R143) -/

@[simp] theorem Fibre.settle_strike (f : Fibre) (clk : Nat) : (f.settle clk).strike = f.strike := by rw [Fibre.settle_eq]
@[simp] theorem Fibre.scrub_strike (f : Fibre) (rs : List Rd) : (f.scrub rs).1.strike = f.strike := by rw [scrub_eq]
@[simp] theorem Fibre.raise_strike (f : Fibre) (m : Word) : (f.raise m).strike = f.strike := rfl

/-- Setting the strike that a fibre has leaves the fibre as it is. -/
theorem Fibre.set_strike {f : Fibre} {n : Word} (h : f.strike = n) : { f with strike := n } = f := by subst h; rfl

/-- Passing an instruction leaves the strike alone. -/
@[simp] theorem Fibre.pass_strike (f : Fibre) (last : List Nat) (next : BitVec 57) (clk : Nat) (stall : BitVec 4) :
    (f.pass last next clk stall).strike = f.strike := by
  have released (f : Fibre) : (last.foldl (fun (g : Fibre) n => g.release n) f).strike = f.strike := by
    induction last generalizing f with
    | nil => rfl
    | cons n last ih => exact ih (f.release n)
  exact released f

/-- Results of variable latency leave the strike alone. -/
@[simp] theorem Fibre.pendRegs_strike (f : Fibre) (slot : Nat) (rs : List Reg) : (f.pendRegs slot rs).strike = f.strike := by
  induction rs generalizing f slot with
  | nil => rfl
  | cons r rs ih => exact ih (f.pend (.slot slot) (some (.reg r))) (slot + 1)

/-! ### Team: the operation of a converged team (R80, R166) -/

/-- The last arrival has the operation executed for the whole team. -/
theorem teamIssue_of_converges {s : State} {u v : Unit} {f : Fibre} {o : Op} (h : Claims.Converges s u f v o) (eff : TeamFx) :
    s.teamIssue o eff = .next ((Claims.arrives s f).teamRun v (f.fid / u.desc.team) o eff) := by
  obtain ⟨cur, late, unit, all, ready, rows⟩ := h
  have noLate : (if f.again || f.arrivedAt f.pc then none else takeFault f.faults [.late]) = none := by
    rcases late with h | h | h <;> simp [h]
  have noneBlocked : (v.teamLive (f.fid / u.desc.team)).all (fun m => !o.memberBlocked (m.settle s.clk)) = true := by
    simpa using ready
  rw [Claims.arrives] at unit rows ⊢
  simp only [State.teamIssue, cur, noLate, unit, all, noneBlocked, rows, Bool.and_self, List.isEmpty_nil, if_true]

/-- What a team operation comes to is what it does for the members as read and as passed: two effects that agree on those whose
unit is sound do the same to a team of such members. -/
theorem State.teamRun_congr {s : State} {u : Unit} {team : Nat} {o : Op} {eff eff' : TeamFx}
    (sound : ∀ m ∈ u.teamLive team, m.strike = 0)
    (trap : ∀ g tid x, x.strike = 0 → eff.trap g tid x = eff'.trap g tid x)
    (run : ∀ g tid x f, x.strike = 0 → f.strike = 0 → eff.run g tid x f = eff'.run g tid x f) :
    s.teamRun u team o eff = s.teamRun u team o eff' := by
  unfold State.teamRun
  extract_lets w chk det ms trapOfMember good read g bad s1 bad' s1'
  have members : ∀ e ∈ read, e.2.1.strike = 0 := by
    intro e he
    obtain ⟨x, hx, rfl⟩ := List.mem_map.1 he
    obtain ⟨m, hm, rfl⟩ := List.mem_map.1 (List.mem_of_mem_filter hx)
    simpa using sound m hm
  have same : s1 = s1' := by
    refine List.foldl_ext _ _ _ fun s e he => ?_
    have strike := members e he
    have traps : bad e.1 e.2.1 = bad' e.1 e.2.1 := by
      simp only [bad, bad', trap g (e.1.fid % w) e.2.1 strike]
    have runs (next : BitVec 57) (f1 : Fibre) (h : f1.strike = 0) := run g (e.1.fid % w) e.2.1
      (f1.pass o.last next s.clk o.ctl.stall) strike (by simpa using h)
    have raised : (if e.1.runs o.ctl && e.2.1.readsReleased o.reads then e.2.1.raise 0x40 else e.2.1).strike = 0 := by
      split <;> simp [strike]
    simp only [traps, runs _ _ raised]
  rw [same]

/-- An integer scan or reduction gives its chain, which no shadow unit checks. -/
theorem scanFx_int (opc : Nat) (op : TOp) (t : ITy) (sat : Bool) (r : Option RM) (d : VReg) (a : Src)
    (cnt : Gather → Nat → Nat) :
    scanFx opc op (.int t) sat r d a cnt = plainFx fun g tid x f =>
      let out := scanChain op (.int t) sat (x.rounding r) a g (cnt g tid)
      (Claims.receives d x f out.1).raise out.2 := by
  have notF32 : (TTy.int t == .f32) = false := beq_false_of_ne TTy.noConfusion
  simp only [scanFx, plainFx, notF32, Bool.false_and, Bool.false_eq_true, if_false, TeamFx.mk.injEq, true_and]
  funext g tid x f
  exact Fibre.set_strike (by simp)

/-- An `.f32` scan or reduction gives its chain to a team whose units are sound (R143). -/
theorem State.teamRun_scanFx_f32 {s : State} {u : Unit} {team : Nat} (sound : ∀ m ∈ u.teamLive team, m.strike = 0) (o : Op)
    (opc : Nat) (op : TOp) (sat : Bool) (r : Option RM) (d : VReg) (a : Src) (cnt : Gather → Nat → Nat) :
    s.teamRun u team o (scanFx opc op .f32 sat r d a cnt) = s.teamRun u team o (plainFx fun g tid x f =>
      let out := scanChain op .f32 sat (x.rounding r) a g (cnt g tid)
      (Claims.receives d x f out.1).raise out.2) := by
  refine State.teamRun_congr sound (fun g tid x strike => ?_) fun g tid x f strike passed => ?_
  · simp [scanFx, plainFx, strike]
  · simp only [scanFx, plainFx, strike, BEq.rfl, bne_self_eq_false, Bool.and_false, Bool.false_eq_true, if_false, if_true]
    exact Fibre.set_strike (by simp [passed])

/-- A scan or reduction gives its chain to a team, where for `.f32` the members' units are sound (R143). -/
theorem State.teamRun_scanFx {s : State} {u : Unit} {team : Nat} {t : TTy}
    (sound : t = .f32 → ∀ m ∈ u.teamLive team, m.strike = 0) (o : Op) (opc : Nat) (op : TOp) (sat : Bool) (r : Option RM)
    (d : VReg) (a : Src) (cnt : Gather → Nat → Nat) :
    s.teamRun u team o (scanFx opc op t sat r d a cnt) = s.teamRun u team o (plainFx fun g tid x f =>
      let out := scanChain op t sat (x.rounding r) a g (cnt g tid)
      (Claims.receives d x f out.1).raise out.2) := by
  cases t with
  | int t => rw [scanFx_int]
  | f32 => exact State.teamRun_scanFx_f32 (sound rfl) ..

/-- A slide takes its elements where the model's own slide does. -/
theorem exec_tslide (c : Ctl) (down : Bool) (t : ITy) (fill : Fill) (d : VReg) (a b : Src) (s : State) :
    exec (.tslide c down t fill d a b) s =
      s.teamIssue (Claims.slideForm c t fill d a b) (plainFx (Claims.slides down t fill d a b)) := by
  cases fill <;> rfl

/-- Each team operation is issued for its team with an effect that comes to what the table says, where the members' units are
sound. -/
theorem exec_of_teams {i : Instr} {o : Op} {eff : Claims.Gives} (hi : Claims.teams i = some (o, eff)) (s : State) :
    ∃ fx, exec i s = s.teamIssue o fx ∧ ∀ (t : State) (v : Unit) (team : Nat), Claims.sound i v team →
      t.teamRun v team o fx = t.teamRun v team o (plainFx eff) := by
  cases i with
  | tslide => cases hi; exact ⟨_, exec_tslide .., fun _ _ _ _ => rfl⟩
  | tscan | tred =>
    cases hi
    exact ⟨_, rfl, fun _ _ _ sound => State.teamRun_scanFx (by rintro rfl; exact sound) ..⟩
  | tsync | tshfl | tbcast | tvote | tballot | tmatch | telect => cases hi; exact ⟨_, rfl, fun _ _ _ _ => rfl⟩
  | _ => cases hi

/-! ### The obligations -/

/-- Settles O13: the last arrival runs the operation, and its effect comes to the table's for a team of sound units. -/
theorem teamOperationsComplete : Obligations.TeamOperationsComplete := by
  unfold Obligations.TeamOperationsComplete
  intro i o eff hi s u f v converges sound
  obtain ⟨fx, issued, runs⟩ := exec_of_teams hi s
  rw [issued, teamIssue_of_converges converges, runs _ _ _ sound]

end Sys2Proof.Machine
end

section

/-! SUPPORT. What the floating and packed instructions do (spec 07 R142 to R165): a unit that delivers what the rules give has its
result land as it stands, one whose delivered bits fail the shadow check traps (R143, R144), and no other result is checked. -/

namespace Sys2Proof

/-! ### FloatFmt: the bits of each special value fit its format (R133) -/

theorem FTy.nan_lt (t : FTy) : t.nan < 2 ^ t.bits := by cases t <;> decide
theorem FTy.inf_lt (t : FTy) (neg : Bool) : t.inf neg < 2 ^ t.bits := by cases t <;> cases neg <;> decide
theorem FTy.big_lt (t : FTy) (neg : Bool) : t.big neg < 2 ^ t.bits := by cases t <;> cases neg <;> decide
theorem FTy.zero_lt (t : FTy) (neg : Bool) : t.zero neg < 2 ^ t.bits := by cases t <;> cases neg <;> decide

/-- A magnitude below infinity fits beside its sign. -/
theorem FTy.sign_add_lt (t : FTy) (neg : Bool) {enc : Nat} (h : enc < (2 ^ t.expBits - 1) * 2 ^ (t.prec - 1)) :
    (if neg then t.signBit else 0) + enc < 2 ^ t.bits := by
  have top : (if neg then t.signBit else 0) + (2 ^ t.expBits - 1) * 2 ^ (t.prec - 1) ≤ 2 ^ t.bits := by
    cases t <;> cases neg <;> decide
  omega

end Sys2Proof

namespace Sys2Proof.Machine

/-! ### State: two changes of the fibre that issues -/

/-- Two updates of the elements that a test chooses are one, where the first leaves them chosen. -/
theorem updIf_updIf {α : Type} (l : List α) {p : α → Bool} {f : α → α} (g : α → α)
    (keeps : ∀ x, p x = true → p (f x) = true) : updIf (updIf l p f) p g = updIf l p fun x => g (f x) := by
  simp only [updIf, List.map_map]
  refine List.map_congr_left fun x _ => ?_
  by_cases h : p x = true
  · simp [h, keeps x h]
  · simp [h]

/-- Two changes of one unit's fibre are one, where the first keeps its number. -/
theorem Unit.modFibre_modFibre (u : Unit) {n : Nat} {f : Fibre → Fibre} (g : Fibre → Fibre)
    (keeps : ∀ x, x.fid = n → (f x).fid = n) : (u.modFibre n f).modFibre n g = u.modFibre n fun x => g (f x) := by
  simp only [Unit.modFibre, updIf_updIf u.fibres g (p := fun x => x.fid == n) (by simpa using keeps)]

/-- Two changes of one unit are one, where the first keeps its key. -/
theorem State.modUnit_modUnit (s : State) {k : Nat} {f : Unit → Unit} (g : Unit → Unit)
    (keeps : ∀ u, u.key = k → (f u).key = k) : (s.modUnit k f).modUnit k g = s.modUnit k fun u => g (f u) := by
  simp only [State.modUnit, updIf_updIf s.units g (p := fun u => u.key == k) (by simpa using keeps)]

/-- Two changes of the fibre that issues are one, where the first keeps its number. -/
theorem State.modCur_modCur (s : State) {f : Fibre → Fibre} (g : Fibre → Fibre)
    (keeps : ∀ x, x.fid = s.cur.2 → (f x).fid = s.cur.2) : (s.modCur f).modCur g = s.modCur fun x => g (f x) := by
  have onUnits := s.modUnit_modUnit (k := s.cur.1) (f := fun u => u.modFibre s.cur.2 f) (fun u => u.modFibre s.cur.2 g)
    fun _ key => key
  exact onUnits.trans (congrArg (s.modUnit s.cur.1) (funext fun u => u.modFibre_modFibre g keeps))

/-! ### Issue: the fibre that has passed its instruction (R43, R55) -/

/-- The fibre that has passed its instruction, its effect still to come. -/
def State.passedFibre (s : State) (u : Unit) (f : Fibre) (o : Op) : Fibre :=
  (if (f.seen o).readsReleased o.reads then (f.seen o).raise 0x40 else f.seen o).pass o.last (s.seqNext (s.ctxOf u) f.pc) s.clk
    o.ctl.stall

/-- Passing an instruction puts the fibre that has passed it in the place of the one that issues. -/
theorem State.passed_eq (s : State) (u : Unit) (f : Fibre) (o : Op) : s.passed u f o = s.modCur fun _ => s.passedFibre u f o := rfl

/-- Passing an instruction leaves the fibre's number alone. -/
@[simp] theorem Fibre.pass_fid (f : Fibre) (last : List Nat) (next : BitVec 57) (clk : Nat) (stall : BitVec 4) :
    (f.pass last next clk stall).fid = f.fid := by
  have released (f : Fibre) : (last.foldl (fun (g : Fibre) n => g.release n) f).fid = f.fid := by
    induction last generalizing f with
    | nil => rfl
    | cons n last ih => exact ih (f.release n)
  exact released f

/-- Correcting registers leaves the strike alone (R85). -/
@[simp] theorem seen_strike (f : Fibre) (o : Op) : (f.seen o).strike = f.strike := Fibre.scrub_strike f o.reads

/-- Correcting registers leaves how the fibre rounds alone (R85). -/
@[simp] theorem seen_rounding (f : Fibre) (o : Op) (r : Option RM) : (f.seen o).rounding r = f.rounding r := by
  rw [Fibre.seen, scrub_eq]
  rfl

@[simp] theorem State.passedFibre_fid (s : State) (u : Unit) (f : Fibre) (o : Op) : (s.passedFibre u f o).fid = f.fid := by
  unfold State.passedFibre
  split <;> simp [Fibre.raise]

@[simp] theorem State.passedFibre_strike (s : State) (u : Unit) (f : Fibre) (o : Op) : (s.passedFibre u f o).strike = f.strike := by
  unfold State.passedFibre
  split <;> simp

/-- The fibre whose turn it is bears the number of the fibre that issues. -/
theorem State.turn.fid {s : State} {u : Unit} {f : Fibre} (h : s.turn u f) : f.fid = s.cur.2 := by
  obtain ⟨g, cur, rfl⟩ := h
  obtain ⟨-, isFibre, -⟩ := current?_eq_some.1 cur
  rw [Fibre.settle_eq]
  simpa using List.find?_some isFibre

/-- A change of the fibre that has passed its instruction is the change of the one that issues. -/
theorem State.modCur_passed {s : State} {u : Unit} {f : Fibre} (h : s.turn u f) (o : Op) (k : Fibre → Fibre) :
    (s.passed u f o).modCur k = s.modCur fun _ => k (s.passedFibre u f o) := by
  rw [State.passed_eq, State.modCur_modCur s k fun _ _ => by rw [State.passedFibre_fid, h.fid]]

/-- What is carried out is what the effect does to the fibre that has passed its instruction. -/
theorem State.carried_congr {s : State} {u : Unit} {f : Fibre} (h : s.turn u f) {o : Op} {k k' : Fibre → Fibre}
    (same : k (s.passedFibre u f o) = k' (s.passedFibre u f o)) : s.carried u f o k = s.carried u f o k' := by
  simp only [State.carried, State.modCur_passed h, same]

/-- The issue of an instruction whose effect traps and keeps the state and the fibre given. -/
theorem issue_trapKeep {s : State} {u : Unit} {f : Fibre} {o : Op} (h : s.Clear u f o) {eff : Ctx → State → Fx} {t : State}
    {g : Fibre} {e : TrapInfo} (he : eff { u := u, f := f.seen o } (s.passed u f o) = .trapKeep t g e) :
    s.issue o eff = .next ((t.modCur fun _ => g).takeTrap u.key f.fid e) := by
  have hi := issueOn_clear h eff
  obtain ⟨g', hg, rfl⟩ := h.cur
  simp only [State.issue, hg, hi, he]

/-! ### FloatFmt: the bits of a sum fit its format (R140) -/

/-- A rounded magnitude fits its format. -/
theorem roundMag_lt (t : FTy) (r : Round) (neg : Bool) (m : Nat) (e : Int) (sticky : Bool) :
    (roundMag t r neg m e sticky).1 < 2 ^ t.bits := by
  unfold roundMag
  extract_lets sgn top q0 q
  split
  extract_lets enc
  split
  extract_lets _
  split
  · dsimp only
    split
    · exact t.inf_lt neg
    · exact t.big_lt neg
  · next finite =>
    have fits := t.sign_add_lt neg (Nat.lt_of_not_le finite)
    split
    · exact Nat.lt_of_le_of_lt (Nat.le_add_right ..) fits
    · exact fits

/-- A rounded sum of terms fits its format. -/
theorem roundSum_lt (t : FTy) (r : Round) (ts : List (Bool × Nat × Int)) : (roundSum t r ts).1 < 2 ^ t.bits := by
  unfold roundSum sumExact
  split
  split
  · exact t.zero_lt _
  · exact roundMag_lt ..

/-- A sum of two values fits its format. -/
theorem fadd_lt (t : FTy) (r : Round) (a b : FVal) : (fadd t r a b).1 < 2 ^ t.bits := by
  unfold fadd addExact
  split
  · exact t.nan_lt
  · exact t.nan_lt
  · split
    · exact t.inf_lt _
    · exact t.nan_lt
  · exact t.inf_lt _
  · exact t.inf_lt _
  · exact roundSum_lt ..

/-! ### Float: the shadow check (R143, R144) -/

/-- A result that follows the rules never fails the check. -/
@[simp] theorem FRes.fails_out (r : FRes) : r.fails r.out.1 = false := by simp [FRes.fails]

/-- Only a unit that gets some bits wrong fails the check. -/
theorem FRes.ne_zero_of_fails {r : FRes} {n : Nat} (h : r.fails (r.out.1 ^^^ n) = true) : n ≠ 0 := by
  rintro rfl
  simp at h

/-- What a floating unit that follows the rules does for the fibre: its result lands `n` cycles later, or with variable latency. -/
def landsAfter (lat : Option Nat) (d : VReg) (v : Fibre → List Reg × Word) : Ctx → Nat → Fibre → Fibre :=
  match lat with
  | some n => Claims.landsFlags n d v
  | none => Claims.comesFlags d v

/-- Results of fixed latency leave the strike alone. -/
@[simp] theorem Fibre.flyRegs_strike (f : Fibre) (land slot : Nat) (rs : List Reg) :
    (f.flyRegs land slot rs).strike = f.strike := by
  induction rs generalizing f slot with
  | nil => rfl
  | cons r rs ih => exact ih (f.fly land (.slot slot) (.reg r)) (slot + 1)

@[simp] theorem landsAfter_strike (lat : Option Nat) (d : VReg) (v : Fibre → List Reg × Word) (x : Ctx) (clk : Nat) (f : Fibre) :
    (landsAfter lat d v x clk f).strike = f.strike := by
  cases lat with
  | some n => simp [landsAfter, Claims.landsFlags]
  | none => simp [landsAfter, Claims.comesFlags]

/-- The effect of a unit that delivers what the rules give lands the result, and leaves no strike. -/
theorem fxShadow_of_sound {x : Ctx} (sound : x.f.strike = 0) (op : Nat) (lat : Option Nat) (d : VReg) (v : Fibre → FOut)
    (s : State) : fxShadow op lat d v x s =
      .done (s.modCur fun f => { landsAfter lat d (fun f => fres (v f).out) x s.clk f with strike := 0 }) := by
  cases lat with
  | some | none =>
    simp only [fxShadow, sound, BEq.rfl, if_true]
    rfl

/-- A shadowed instruction whose unit delivers what the rules give is carried out (R143). -/
theorem issue_fxShadow {s : State} {u : Unit} {f : Fibre} {o : Op} (h : s.Clear u f o) (sound : f.strike = 0) (op : Nat)
    (lat : Option Nat) (d : VReg) (v : Fibre → FOut) :
    s.issue o (fxShadow op lat d v) =
      .next (s.carried u f o (landsAfter lat d (fun f => fres (v f).out) { u := u, f := f.seen o } s.clk)) := by
  rw [issue_done h (fxShadow_of_sound (by simpa using sound) ..)]
  refine congrArg Host.Outcome.next (State.carried_congr h.cur ?_)
  exact Fibre.set_strike (by simp [sound])

/-- A shadowed instruction whose delivered bits fail the check traps, without effect for its fibre (R144). -/
theorem issue_fxShadow_fails {s : State} {u : Unit} {f : Fibre} {o : Op} (h : s.Clear u f o) (struck : f.strike ≠ 0) {op : Nat}
    {v : Fibre → FOut} {e : TrapInfo} (fails : (v (f.seen o)).trap op ((v (f.seen o)).struck f.strike) = some e)
    (lat : Option Nat) (d : VReg) :
    s.issue o (fxShadow op lat d v) =
      .next ((s.modCur fun _ => { f.seen o with strike := 0 }).takeTrap u.key f.fid e) := by
  have effect : fxShadow op lat d v { u := u, f := f.seen o } (s.passed u f o) =
      .trapKeep (s.passed u f o) { f.seen o with strike := 0 } e := by
    simp only [fxShadow, seen_strike, beq_false_of_ne struck, Bool.false_eq_true, if_false, fails]
  rw [issue_trapKeep h effect, State.modCur_passed h.cur]

/-- Bits of a unit that failed and were delivered for a scalar result trap when they fail the check. -/
theorem FOut.trap_one {t : FTy} {r : Round} {x : Exact} {strike : Word}
    (fails : ({ t := t, r := r, x := x } : FRes).fails
      (({ t := t, r := r, x := x } : FRes).out.1 ^^^ strike.toNat % 2 ^ t.bits) = true) (op : Nat) :
    (FOut.one t r x).trap op ((FOut.one t r x).struck strike) = some (trapOf 0x0A (BitVec.ofNat 32 op)) :=
  if_pos fails

/-- A scalar instruction whose delivered bits fail the check traps SHADOW. -/
theorem issue_fxShadow_one {s : State} {u : Unit} {f : Fibre} {o : Op} {t : FTy} {r : Option RM} {v : Fibre → Exact}
    (h : s.Clear u f o)
    (fails : ({ t := t, r := f.rounding r, x := v (f.seen o) } : FRes).fails
      (({ t := t, r := f.rounding r, x := v (f.seen o) } : FRes).out.1 ^^^ f.strike.toNat % 2 ^ t.bits) = true)
    (op : Nat) (lat : Option Nat) (d : VReg) :
    s.issue o (fxShadow op lat d fun f => .one t (f.rounding r) (v f)) =
      .next ((s.modCur fun _ => { f.seen o with strike := 0 }).takeTrap u.key f.fid (trapOf 0x0A (BitVec.ofNat 32 op))) := by
  have struck : f.strike ≠ 0 := fun sound => FRes.ne_zero_of_fails fails (by simp [sound])
  refine issue_fxShadow_fails h struck ?_ lat d
  rw [seen_rounding]
  exact FOut.trap_one fails op

/-- The low half of a word, as the half that a packed instruction takes. -/
theorem toNat_lowHalf (w : Word) : w.toNat / 2 ^ (16 * 0) % 65536 = w.toNat % 65536 := by simp

/-- The high half of a word, as the half that a packed instruction takes. -/
theorem toNat_highHalf (w : Word) : w.toNat / 2 ^ (16 * 1) % 65536 = w.toNat / 65536 := by
  have word := w.isLt
  omega

/-- Wrong bits of a pair whose low half fits 16 bits are wrong bits of either half. -/
theorem FOut.struck_two {t : FTy} {r : Round} {lo hi : Exact} (fits : (deliver t r lo).1 < 65536) (strike : Word) :
    (FOut.two t r lo hi).struck strike % 65536 = (deliver t r lo).1 ^^^ strike.toNat / 2 ^ (16 * 0) % 65536 ∧
    (FOut.two t r lo hi).struck strike / 65536 = (deliver t r hi).1 ^^^ strike.toNat / 2 ^ (16 * 1) % 65536 := by
  have bits : (FOut.two t r lo hi).struck strike = ((deliver t r lo).1 + 65536 * (deliver t r hi).1) ^^^ strike.toNat := rfl
  rw [bits, toNat_lowHalf, toNat_highHalf]
  constructor
  · exact Nat.xor_mod_two_pow (n := 16) |>.trans (congrArg (· ^^^ strike.toNat % 65536) (by omega))
  · exact Nat.xor_div_two_pow (n := 16) |>.trans (congrArg (· ^^^ strike.toNat / 65536) (by omega))

/-- Whether half `k` of the bits delivered for a pair fails the check against its own exact result. -/
def FRes.halfFails (r : FRes) (strike : Word) (k : Nat) : Bool := r.fails (r.out.1 ^^^ strike.toNat / 2 ^ (16 * k) % 65536)

/-- Bits of a unit that failed and were delivered for a pair trap for the low half when that half fails the check. -/
theorem FOut.trap_two_low {t : FTy} {r : Round} {lo hi : Exact} {strike : Word} (fits : (deliver t r lo).1 < 65536)
    (fails : ({ t := t, r := r, x := lo } : FRes).halfFails strike 0 = true) (op : Nat) :
    (FOut.two t r lo hi).trap op ((FOut.two t r lo hi).struck strike) = some (trapOf 0x0A (BitVec.ofNat 32 (op + 256))) := by
  simp only [FOut.trap, FOut.struck_two fits]
  exact if_pos fails

/-- They trap for the high half when that half alone fails. -/
theorem FOut.trap_two_high {t : FTy} {r : Round} {lo hi : Exact} {strike : Word} (fits : (deliver t r lo).1 < 65536)
    (passes : ¬ ({ t := t, r := r, x := lo } : FRes).halfFails strike 0 = true)
    (fails : ({ t := t, r := r, x := hi } : FRes).halfFails strike 1 = true) (op : Nat) :
    (FOut.two t r lo hi).trap op ((FOut.two t r lo hi).struck strike) = some (trapOf 0x0A (BitVec.ofNat 32 (op + 512))) := by
  simp only [FOut.trap, FOut.struck_two fits]
  exact (if_neg passes).trans (if_pos fails)

/-- Only a unit that gets some bits wrong has a half that fails the check. -/
theorem FRes.struck_of_halfFails {r : FRes} {strike : Word} {k : Nat} (fails : r.halfFails strike k = true) : strike ≠ 0 :=
  fun sound => FRes.ne_zero_of_fails fails (by simp [sound])

/-! ### The executions (R158) -/

/-- The exact sum of half `k` of two operands, as read (R140, R158). -/
def Fibre.halfSum (f : Fibre) (t : FTy) (r : Option RM) (a b : Src) (k : Nat) : Exact :=
  addExact (f.rounding r).rm (fread t (f.rounding r).daz (f.fsrc a / 2 ^ (16 * k) % 65536))
    (fread t (f.rounding r).daz (f.fsrc b / 2 ^ (16 * k) % 65536))

/-- HADD2 is the issue of an instruction that delivers the sums of the halves past the shadow check. -/
theorem exec_hadd2 (c : Ctl) (t : FTy) (r : Option RM) (d : VReg) (a b : Src) (s : State) :
    exec (.hadd2 c t r d a b) s = s.issue (Claims.word2 c d a b) (fxShadow 0x57 (some latFloat) d fun f =>
      .two t (f.rounding r) (f.halfSum t r a b 0) (f.halfSum t r a b 1)) := by
  simp only [Fibre.halfSum, Fibre.fsrc, toNat_lowHalf, toNat_highHalf]
  rfl

/-- The sum of two halves of a format of 16 bits fits a half. -/
theorem Fibre.halfSum_fits (f : Fibre) {t : FTy} (bits : t.bits = 16) (r : Option RM) (a b : Src) (k : Nat) :
    (deliver t (f.rounding r) (f.halfSum t r a b k)).1 < 65536 := by
  have fits := fadd_lt t (f.rounding r) (fread t (f.rounding r).daz (f.fsrc a / 2 ^ (16 * k) % 65536))
    (fread t (f.rounding r).daz (f.fsrc b / 2 ^ (16 * k) % 65536))
  rwa [bits] at fits

/-- A HADD2 whose delivered bits fail the check in a half traps SHADOW for the first half that fails. -/
theorem exec_hadd2_fails {s : State} {u : Unit} {f : Fibre} {c : Ctl} {t : FTy} {r : Option RM} {d : VReg} {a b : Src}
    (clear : s.Clear u f (Claims.word2 c d a b)) (bits : t.bits = 16) :
    let half (k : Nat) : FRes := { t := t, r := f.rounding r, x := (f.seen (Claims.word2 c d a b)).halfSum t r a b k }
    let traps (arg : Word) : Prop := exec (.hadd2 c t r d a b) s =
      .next ((s.modCur fun _ => { f.seen (Claims.word2 c d a b) with strike := 0 }).takeTrap u.key f.fid (trapOf 0x0A arg))
    ((half 0).halfFails f.strike 0 = true → traps 0x157) ∧
    (¬ (half 0).halfFails f.strike 0 = true → (half 1).halfFails f.strike 1 = true → traps 0x257) := by
  intro half traps
  have fits := (f.seen (Claims.word2 c d a b)).halfSum_fits bits r a b 0
  rw [seen_rounding] at fits
  simp only [traps, exec_hadd2]
  constructor
  · intro fails
    refine issue_fxShadow_fails clear (FRes.struck_of_halfFails fails) ?_ _ d
    rw [seen_rounding]
    exact FOut.trap_two_low fits fails 0x57
  · intro passes fails
    refine issue_fxShadow_fails clear (FRes.struck_of_halfFails fails) ?_ _ d
    rw [seen_rounding]
    exact FOut.trap_two_high fits passes fails 0x57

/-! ### The obligations -/

/-- Settles O60: only a unit that gets bits wrong fails the check, and the trap of a failed check keeps the fibre as read. -/
theorem failedShadowChecksTrap : Obligations.FailedShadowChecksTrap := by
  unfold Obligations.FailedShadowChecksTrap
  refine ⟨FRes.fails_out, fun c ty r d a b e s u f => ?_⟩
  intro rd traps v half o2 o3 wrong wrongHalf sum
  have fails_iff (k : Nat) :
      ({ t := ty, r := rd, x := (f.seen o2).halfSum ty r a b k } : FRes).halfFails f.strike k = true ↔ wrongHalf k (sum k) := by
    rw [Fibre.halfSum, seen_rounding]
    rfl
  refine ⟨fun clear fails => ?_, fun clear fails => ?_, fun clear fails => ?_, fun clear bits fails => ?_,
    fun clear bits passes fails => ?_⟩
  · refine issue_fxShadow_one clear ?_ 0x40 (some latFloat) d
    rwa [seen_rounding]
  · refine issue_fxShadow_one clear ?_ 0x42 (some latFloat) d
    rwa [seen_rounding]
  · refine issue_fxShadow_one clear ?_ 0x43 (some latFloat) d
    rwa [seen_rounding]
  · exact (exec_hadd2_fails clear bits).1 ((fails_iff 0).2 fails)
  · exact (exec_hadd2_fails clear bits).2 (mt (fails_iff 0).1 passes) ((fails_iff 1).2 fails)

/-- Settles O2: the shadow unit passes what a sound unit delivers, and the effects that it does not check are the
table's own. -/
theorem floatInstructionsComplete : Obligations.FloatInstructionsComplete := by
  unfold Obligations.FloatInstructionsComplete
  intro i o k hi s u f clear sound
  cases i with
  | fadd | fsub | fmul | ffma | fdiv | fsqrt | fscale | frcp | frsq | fexp2 | flog2 | fsin | fcos | ftanh | cvtif | cvtff | hadd2
  | hmul2 | hfma2 =>
    cases hi
    exact issue_fxShadow clear (sound rfl) ..
  | fmin | fmax | fcmp | fclass | frnd | fcopys | cvtfi | cvtl6 | cvt6f | hmnx2 =>
    cases hi
    exact issue_fx clear _
  | _ => cases hi

/-- Settles O3: LDOT4 alone is checked, and its unit is sound; every other effect is the table's own. -/
theorem packedInstructionsComplete : Obligations.PackedInstructionsComplete := by
  unfold Obligations.PackedInstructionsComplete
  intro i o k hi s u f clear sound
  cases i with
  | ldot4 =>
    cases hi
    exact issue_fxShadow clear (sound rfl) ..
  | padd2 | psub2 | pmul2 | pmac2 | pmnx2 | pshr2 | shrr | pack2 | unpk2 | idot4 =>
    cases hi
    exact issue_fx clear _
  | _ => cases hi

end Sys2Proof.Machine
end

section

/-! SUPPORT. What a word's check code finds and corrects (spec 09 R194 to R196): the code is linear over the exclusive OR, so the
syndrome of a word in error is that of the errors alone, and its weight tells one error from two. -/

namespace Sys2Proof.Machine

/-! ### Mem: the parity of a word -/

/-- Whether a number of marks is odd is the exclusive OR of the marks. -/
theorem countP_odd_iff_foldr_xor {α : Type} (p : α → Bool) (l : List α) :
    (l.countP p % 2 == 1) = l.foldr (fun a b => p a ^^ b) false := by
  induction l with
  | nil => rfl
  | cons a l ih =>
    rw [List.foldr_cons, ← ih, List.countP_cons]
    cases p a
    · simp
    · obtain h | h := Nat.mod_two_eq_zero_or_one (l.countP p) <;> simp [Nat.add_mod, h]

/-- The bits of a word in the order in which a parity meets them: the word is folded in halves. -/
def foldedBits : List Nat :=
  [0, 16, 8, 24, 4, 20, 12, 28, 2, 18, 10, 26, 6, 22, 14, 30, 1, 17, 9, 25, 5, 21, 13, 29, 3, 19, 11, 27, 7, 23, 15, 31]

theorem foldedBits_perm : foldedBits.Perm (List.range 32) := by decide

/-- The parity of a word says whether the number of its set bits is odd. -/
theorem parity_eq_weight (w : Word) : parity w = (Claims.weight 32 w % 2 == 1) := by
  rw [Claims.weight, ← foldedBits_perm.countP_eq, countP_odd_iff_foldr_xor]
  simp only [parity, BitVec.getLsbD_xor, BitVec.getLsbD_ushiftRight, foldedBits, List.foldr, Nat.reduceAdd, Bool.xor_false,
    Bool.xor_assoc]

/-- One fold of a parity. -/
def foldOver (k : Nat) (w : Word) : Word := w ^^^ w >>> k

theorem foldOver_xor (k : Nat) (a b : Word) : foldOver k (a ^^^ b) = foldOver k a ^^^ foldOver k b := by
  simp only [foldOver, BitVec.ushiftRight_xor_distrib]
  ac_rfl

theorem parity_eq_foldOver (w : Word) :
    parity w = (foldOver 1 (foldOver 2 (foldOver 4 (foldOver 8 (foldOver 16 w))))).getLsbD 0 := rfl

theorem parity_xor (a b : Word) : parity (a ^^^ b) = (parity a ^^ parity b) := by
  simp only [parity_eq_foldOver, foldOver_xor, BitVec.getLsbD_xor]

theorem parity_one_shiftLeft : ∀ {j : Nat}, j < 32 → parity (1#32 <<< j) = true := by decide

/-! ### Mem: words bit by bit -/

theorem getLsbD_one_shiftLeft {m : Nat} (n : Nat) {i : Nat} (hi : i < m) : (1#m <<< n).getLsbD i = decide (i = n) := by
  rw [BitVec.getLsbD_shiftLeft, BitVec.getLsbD_one, Bool.eq_iff_iff]
  simp
  omega

/-- A fold that puts in one bit after another, each into its place, gives each bit that it has come to. -/
theorem getLsbD_foldl_bits {m : Nat} (op : BitVec m → BitVec m → BitVec m) (bop : Bool → Bool → Bool)
    (bitwise : ∀ c d i, (op c d).getLsbD i = bop (c.getLsbD i) (d.getLsbD i)) (keep : ∀ b, bop b false = b)
    (put : bop false true = true) (p : Nat → Bool) {i : Nat} (hi : i < m) (n : Nat) :
    ((List.range n).foldl (fun c k => if p k then op c (1#m <<< k) else c) 0#m).getLsbD i = (decide (i < n) && p i) := by
  induction n with
  | zero => simp
  | succ n ih =>
    rw [List.range_succ, List.foldl_append, List.foldl_cons, List.foldl_nil, apply_ite (BitVec.getLsbD · i), bitwise, ih,
      getLsbD_one_shiftLeft n hi]
    by_cases h : i = n
    · subst h
      cases p i <;> simp [put]
    · have below : decide (i < n + 1) = decide (i < n) := by rw [decide_eq_decide]; omega
      simp only [below, decide_eq_false h, keep, ite_self]

/-- A word is the exclusive OR of its bits. -/
theorem foldl_xor_bits (w : Word) :
    (List.range 32).foldl (fun c j => if w.getLsbD j then c ^^^ (1#32 <<< j) else c) 0#32 = w := by
  refine BitVec.eq_of_getLsbD_eq fun i hi => ?_
  rw [getLsbD_foldl_bits (· ^^^ ·) Bool.xor (fun _ _ _ => BitVec.getLsbD_xor) Bool.xor_false rfl w.getLsbD hi,
    decide_eq_true hi, Bool.true_and]

/-! ### Mem: the check code (R194) -/

theorem codeOf_getLsbD (w : Word) {i : Nat} (hi : i < 8) : (codeOf w).getLsbD i = parity (w &&& codeMask i) := by
  have bit := getLsbD_foldl_bits (m := 8) (· ||| ·) Bool.or (fun _ _ _ => BitVec.getLsbD_or) Bool.or_false rfl
    (fun k => parity (w &&& codeMask k)) hi 8
  rwa [decide_eq_true hi, Bool.true_and] at bit

theorem codeOf_zero : codeOf 0#32 = 0#8 := by decide

theorem codeOf_xor (a b : Word) : codeOf (a ^^^ b) = codeOf a ^^^ codeOf b := by
  refine BitVec.eq_of_getLsbD_eq fun i hi => ?_
  have masked : (a ^^^ b) &&& codeMask i = (a &&& codeMask i) ^^^ (b &&& codeMask i) := by
    refine BitVec.eq_of_getLsbD_eq fun j _ => ?_
    simp only [BitVec.getLsbD_and, BitVec.getLsbD_xor, Bool.and_xor_distrib_right]
  rw [BitVec.getLsbD_xor, codeOf_getLsbD _ hi, codeOf_getLsbD _ hi, codeOf_getLsbD _ hi, masked, parity_xor]

/-- The code of a word is the exclusive OR of the columns of its set bits: it is linear, and a word is that of its bits. -/
theorem codeOf_eq_columnsOf (w : Word) : codeOf w = Claims.columnsOf w := by
  have linear := List.foldl_hom codeOf (g₁ := fun c j => if w.getLsbD j then c ^^^ (1#32 <<< j) else c)
    (g₂ := fun c j => if w.getLsbD j then c ^^^ Claims.column j else c) (l := List.range 32) (init := 0#32) fun c j => by
      split
      · exact (codeOf_xor c _).symm
      · rfl
  rw [foldl_xor_bits, codeOf_zero] at linear
  exact linear.symm

/-! ### Mem: the columns of the data bits (R194) -/

theorem column_getLsbD {i j : Nat} (hi : i < 8) (hj : j < 32) : (Claims.column j).getLsbD i = (codeMask i).getLsbD j := by
  rw [Claims.column, codeOf_getLsbD _ hi]
  have masked : 1#32 <<< j &&& codeMask i = if (codeMask i).getLsbD j then 1#32 <<< j else 0 := by
    refine BitVec.eq_of_getLsbD_eq fun k hk => ?_
    rw [BitVec.getLsbD_and, getLsbD_one_shiftLeft j hk, apply_ite (BitVec.getLsbD · k), getLsbD_one_shiftLeft j hk]
    by_cases h : k = j <;> simp [h]
  rw [masked]
  split
  · next set => rw [parity_one_shiftLeft hj, set]
  · next clear => exact (Bool.eq_false_of_not_eq_true clear).symm

theorem columns_eq : (List.range 32).map Claims.column =
    [0x07, 0x0E, 0x1C, 0x38, 0x70, 0xE0, 0xC1, 0x83, 0x0B, 0x16, 0x2C, 0x58, 0xB0, 0x61, 0xC2, 0x85,
      0x13, 0x26, 0x4C, 0x98, 0x31, 0x62, 0xC4, 0x89, 0x25, 0x4A, 0x94, 0x29, 0x52, 0xA4, 0x49, 0x92] := by decide

theorem column_injective {j k : Nat} (hj : j < 32) (hk : k < 32) (h : Claims.column j = Claims.column k) : j = k := by
  have distinct : ((List.range 32).map Claims.column).Nodup := by rw [columns_eq]; decide
  exact List.inj_on_of_nodup_map distinct (List.mem_range.2 hj) (List.mem_range.2 hk) h

theorem weight_column : ∀ {j : Nat}, j < 32 → Claims.weight 8 (Claims.column j) = 3 := by decide

theorem weight_one_shiftLeft : ∀ {i : Nat}, i < 8 → Claims.weight 8 (1#8 <<< i) = 1 := by decide

/-- No data bit has the column of a check bit. -/
theorem column_ne_one_shiftLeft {i j : Nat} (hi : i < 8) (hj : j < 32) : Claims.column j ≠ 1#8 <<< i := by
  intro h
  have three := weight_column hj
  rw [h, weight_one_shiftLeft hi] at three
  omega

/-! ### Mem: syndromes (R195) -/

/-- Whether the number of set bits of a byte is odd. -/
def oddWeight (b : Byte) : Bool := parity (b.setWidth 32)

theorem oddWeight_xor (a b : Byte) : oddWeight (a ^^^ b) = (oddWeight a ^^ oddWeight b) := by
  rw [oddWeight, BitVec.setWidth_xor, parity_xor]
  rfl

theorem oddWeight_one_shiftLeft : ∀ {i : Nat}, i < 8 → oddWeight (1#8 <<< i) = true := by decide

theorem oddWeight_column : ∀ {j : Nat}, j < 32 → oddWeight (Claims.column j) = true := by decide

theorem oneBit_one_shiftLeft : ∀ {i : Nat}, i < 8 → oneBit (1#8 <<< i) = some i := by decide

theorem oneBit_column {j : Nat} (hj : j < 32) : oneBit (Claims.column j) = none := by
  refine List.find?_eq_none.2 fun i hi => ?_
  simpa using column_ne_one_shiftLeft (List.mem_range.1 hi) hj

theorem columnBit_column {j : Nat} (hj : j < 32) : columnBit (Claims.column j) = some j := by
  refine List.find?_range_eq_some.2 ⟨beq_self_eq_true _, List.mem_range.2 hj, fun k hk => ?_⟩
  have other : Claims.column j ≠ Claims.column k := fun h => by
    have := column_injective hj (by omega) h
    omega
  rw [show (Claims.column j == codeOf (1#32 <<< k)) = false from beq_false_of_ne other, Bool.not_false]

theorem oneBit_of_even {s : Byte} (even : oddWeight s = false) : oneBit s = none := by
  refine List.find?_eq_none.2 fun i hi h => ?_
  rw [eq_of_beq h, oddWeight_one_shiftLeft (List.mem_range.1 hi)] at even
  cases even

theorem columnBit_of_even {s : Byte} (even : oddWeight s = false) : columnBit s = none := by
  refine List.find?_eq_none.2 fun j hj h => ?_
  have isColumn : s = Claims.column j := eq_of_beq h
  rw [isColumn, oddWeight_column (List.mem_range.1 hj)] at even
  cases even

/-- The syndrome of a word with errors in its data and in its code is that of the errors alone. -/
theorem syndrome_of_errors (w e : Word) (c : Byte) : codeOf w ^^^ c ^^^ codeOf (w ^^^ e) = c ^^^ codeOf e := by
  rw [codeOf_xor, BitVec.xor_comm (codeOf w) c, BitVec.xor_assoc, ← BitVec.xor_assoc (codeOf w), BitVec.xor_self,
    BitVec.zero_xor]

/-! ### Mem: what a consumer makes of a word (R195) -/

section
variable {r : Reg}

theorem checkWord_clean (h : r.code ^^^ codeOf r.val = 0) : checkWord r = some (r.val, false) := by
  simp [checkWord, h]

theorem checkWord_codeBit {i : Nat} (hi : i < 8) (h : r.code ^^^ codeOf r.val = 1#8 <<< i) :
    checkWord r = some (r.val, true) := by
  have nonzero : ∀ i < 8, (1#8 <<< i == 0) = false := by decide
  simp only [checkWord, h, nonzero i hi, oneBit_one_shiftLeft hi, Option.isSome_some, if_true, Bool.false_eq_true, if_false]

theorem checkWord_dataBit {j : Nat} (hj : j < 32) (h : r.code ^^^ codeOf r.val = Claims.column j) :
    checkWord r = some (r.val ^^^ (1#32 <<< j), true) := by
  have nonzero : ∀ j < 32, (Claims.column j == 0) = false := by decide
  simp only [checkWord, h, nonzero j hj, oneBit_column hj, columnBit_column hj, Option.isSome_none, Bool.false_eq_true, if_false]

theorem checkWord_even (nonzero : r.code ^^^ codeOf r.val ≠ 0) (even : oddWeight (r.code ^^^ codeOf r.val) = false) :
    checkWord r = none := by
  simp only [checkWord, beq_false_of_ne nonzero, oneBit_of_even even, columnBit_of_even even, Option.isSome_none,
    Bool.false_eq_true, if_false]

end

/-- Two different errors of one bit each, of data or of code, whose syndromes are `a` and `b`, are found. -/
theorem checkWord_two {w e : Word} {c a b : Byte} (syndrome : c ^^^ codeOf e = a ^^^ b) (oddA : oddWeight a = true)
    (oddB : oddWeight b = true) (differ : a ≠ b) : checkWord { val := w ^^^ e, code := codeOf w ^^^ c } = none := by
  refine checkWord_even ?_ ?_ <;> dsimp only <;> rw [syndrome_of_errors, syndrome]
  · exact mt BitVec.xor_eq_zero_iff.1 differ
  · rw [oddWeight_xor, oddA, oddB, Bool.xor_self]

/-! ### Memory: words stored in a row (R196) -/

/-- The words outside those that are written are as before, with their codes. -/
theorem word_setWords_ne (m : Memory) {k a : Nat} (rs : List Reg) (h : m.wf = true) (ha : a + 4 ≤ k ∨ k + 4 * rs.length ≤ a) :
    (m.setWords k rs).word a = m.word a := by
  induction rs generalizing m k with
  | nil => rfl
  | cons r rs ih =>
    rw [List.length_cons] at ha
    rw [Memory.setWords, ih _ (setWord_wf h) (by omega), word_setWord_ne m r h (by omega)]

/-- Each word of those that are written is read back, with its code. -/
theorem word_setWords (m : Memory) (k : Nat) (rs : List Reg) (h : m.wf = true) (j : Nat) (hj : j < rs.length) :
    (m.setWords k rs).word (k + 4 * j) = rs[j] := by
  induction rs generalizing m k j with
  | nil => exact absurd hj (Nat.not_lt_zero j)
  | cons r rs ih =>
    rw [Memory.setWords]
    cases j with
    | zero => rw [word_setWords_ne _ rs (setWord_wf h) (by omega), Nat.mul_zero, Nat.add_zero, word_setWord m k r h,
        List.getElem_cons_zero]
    | succ j =>
      rw [List.length_cons, Nat.add_lt_add_iff_right] at hj
      rw [show k + 4 * (j + 1) = k + 4 + 4 * j by omega, ih _ _ (setWord_wf h) j hj, List.getElem_cons_succ]

/-! ### The obligations -/

/-- Settles O44: the code is linear over the exclusive OR, and the masks, the weights and the rotations are the table's. -/
theorem checkCodeRule : Obligations.CheckCodeRule := by
  unfold Obligations.CheckCodeRule
  refine ⟨fun w i hi => ?_, codeOf_eq_columnsOf, fun _ _ => column_getLsbD, by decide, fun _ => weight_column,
    fun _ hj _ hk => column_injective hj hk, by decide, by decide, fun w i _ => ?_, codeOf_zero⟩
  · rw [codeOf_getLsbD w hi, parity_eq_weight]
  · rw [BitVec.xor_comm, ← BitVec.xor_assoc, BitVec.xor_self, BitVec.zero_xor]

/-- Settles O45: the syndrome of one error is its column, and that of two is even and not zero, which is no column. -/
theorem oneBitIsCorrectedTwoAreFound : Obligations.OneBitIsCorrectedTwoAreFound := by
  unfold Obligations.OneBitIsCorrectedTwoAreFound
  intro w
  have bits_ne {i k : Nat} (hi : i < 8) (ne : i ≠ k) : 1#8 <<< i ≠ 1#8 <<< k := fun h => by
    have same := congrArg (BitVec.getLsbD · i) h
    simp [getLsbD_one_shiftLeft _ hi, ne] at same
  refine ⟨checkWord_clean (BitVec.xor_self ..), fun j hj => ?_, fun i hi => ?_, fun j hj k hk ne => ?_, fun j hj i hi => ?_,
    fun i hi k hk ne => ?_⟩
  · have column := syndrome_of_errors w (1#32 <<< j) 0#8
    rw [BitVec.xor_zero, BitVec.zero_xor] at column
    rw [checkWord_dataBit hj column, BitVec.xor_assoc, BitVec.xor_self, BitVec.xor_zero]
  · refine checkWord_codeBit hi ?_
    dsimp only
    rw [BitVec.xor_comm, ← BitVec.xor_assoc, BitVec.xor_self, BitVec.zero_xor]
  · have two := checkWord_two (w := w) (c := 0#8) (by rw [BitVec.zero_xor, codeOf_xor]; rfl)
      (oddWeight_column hj) (oddWeight_column hk) fun h => ne (column_injective hj hk h)
    rwa [BitVec.xor_zero, ← BitVec.xor_assoc] at two
  · exact checkWord_two rfl (oddWeight_one_shiftLeft hi) (oddWeight_column hj) (column_ne_one_shiftLeft hi hj).symm
  · have two := checkWord_two (w := w) (e := 0#32) (by rw [codeOf_zero, BitVec.xor_zero]) (oddWeight_one_shiftLeft hi)
      (oddWeight_one_shiftLeft hk) (bits_ne hi ne)
    rwa [BitVec.xor_zero, ← BitVec.xor_assoc] at two

/-- Settles O46: each word is written over what lies elsewhere, and the words after it leave it alone. -/
theorem wordsStoredAreReadBack : Obligations.WordsStoredAreReadBack := by
  unfold Obligations.WordsStoredAreReadBack
  exact fun m k rs wf => ⟨word_setWords m k rs wf, fun a => word_setWords_ne m rs wf⟩

/-- Settles O42: every counter of a core and of a die is the counter at reset; the other values are those of the reset state. -/
theorem resetValues : Obligations.ResetValues := by
  unfold Obligations.ResetValues
  refine ⟨rfl, rfl, rfl, rfl, rfl, rfl, fun c hc x hx => ?_, fun x hx => ?_, rfl, rfl, rfl, by decide⟩
  · obtain ⟨n, -, rfl⟩ := List.mem_map.1 hc
    obtain rfl := List.eq_of_mem_replicate hx
    exact ⟨rfl, rfl⟩
  · obtain rfl := List.eq_of_mem_replicate hx
    exact ⟨rfl, rfl⟩

end Sys2Proof.Machine
end

section

/-! SUPPORT. Where the tokens of a line are (spec 09 R200): a line's update leaves the other lines alone, what takes tokens from a
holder, the home or a message puts as many on their way or at another, and nothing else of an event of the protocol touches them. -/

namespace Sys2Proof.Machine

/-! ### Mem: lists used as tables -/

section
variable {α : Type} {l : List α} {key : α → Nat} {k : Nat} {x : α}

/-- Where each key is there once, a look-up that finds an entry parts the list into it and the entries of other keys. -/
theorem append_of_find?_key (once : (l.map key).Nodup) (found : l.find? (fun y => key y == k) = some x) :
    ∃ l₁ l₂, l = l₁ ++ x :: l₂ ∧ key x = k ∧ ∀ y ∈ l₁ ++ l₂, key y ≠ k := by
  obtain ⟨isKey, l₁, l₂, rfl, before⟩ := List.find?_eq_some_iff_append.1 found
  have isKey := eq_of_beq isKey
  refine ⟨l₁, l₂, rfl, isKey, fun y hy => ?_⟩
  rw [List.map_append, List.map_cons, List.nodup_append, List.nodup_cons] at once
  obtain ⟨-, ⟨after, -⟩, -⟩ := once
  obtain hy | hy := List.mem_append.1 hy
  · simpa using before y hy
  · rintro rfl
    exact after (isKey ▸ List.mem_map_of_mem hy)

/-- Where each key is there once, a look-up finds the entry that has the key. -/
theorem find?_key_of_mem (once : (l.map key).Nodup) (mem : x ∈ l) (isKey : key x = k) :
    l.find? (fun y => key y == k) = some x := by
  cases found : l.find? fun y => key y == k with
  | none => exact absurd (beq_iff_eq.2 isKey) (List.find?_eq_none.1 found x mem)
  | some y =>
    have same := eq_of_beq (List.find?_some (p := fun y => key y == k) found)
    rw [List.inj_on_of_nodup_map once (List.mem_of_find?_eq_some found) mem (same.trans isKey.symm)]

/-- Taking away the entry of a key takes its part away from a sum. -/
theorem sum_filter_ne_key (once : (l.map key).Nodup) (found : l.find? (fun y => key y == k) = some x) (g : α → Nat) :
    ((l.filter fun y => key y != k).map g).sum + g x = (l.map g).sum := by
  obtain ⟨l₁, l₂, rfl, isKey, others⟩ := append_of_find?_key once found
  have kept : (l₁ ++ x :: l₂).filter (fun y => key y != k) = l₁ ++ l₂ := by
    rw [List.filter_append, List.filter_cons_of_neg (by simp [isKey]), ← List.filter_append]
    exact List.filter_eq_self.2 fun y hy => bne_iff_ne.2 (others y hy)
  rw [kept]
  simp
  omega

/-- Replacing the entry of a key changes a sum by the difference of the two entries. -/
theorem sum_updIf_key (once : (l.map key).Nodup) (found : l.find? (fun y => key y == k) = some x) (y : α) (g : α → Nat) :
    ((updIf l (fun z => key z == k) fun _ => y).map g).sum + g x = (l.map g).sum + g y := by
  obtain ⟨l₁, l₂, rfl, isKey, others⟩ := append_of_find?_key once found
  have same (m : List α) (hm : m ⊆ l₁ ++ l₂) : updIf m (fun z => key z == k) (fun _ => y) = m :=
    (List.map_congr_left fun z hz => if_neg (by simpa using others z (hm hz))).trans (List.map_id' m)
  have replaced : updIf (l₁ ++ x :: l₂) (fun z => key z == k) (fun _ => y) = l₁ ++ y :: l₂ := by
    have ends := same l₂ (List.subset_append_right l₁ l₂)
    have starts := same l₁ (List.subset_append_left l₁ l₂)
    simp only [updIf] at starts ends ⊢
    rw [List.map_append, List.map_cons, starts, ends, if_pos (beq_iff_eq.2 isKey)]
  rw [replaced]
  simp
  omega

/-- Replacing entries by one of their own key leaves the keys alone. -/
theorem map_key_updIf (l : List α) {y : α} (hy : key y = k) : (updIf l (fun z => key z == k) fun _ => y).map key = l.map key := by
  rw [updIf, List.map_map]
  refine List.map_congr_left fun z _ => ?_
  rw [Function.comp_apply]
  split
  · next h => rw [hy, eq_of_beq h]
  · rfl

end

/-- A sum over the entries that a test picks counts the others as nothing. -/
theorem sum_map_filter {α : Type} (l : List α) (p : α → Bool) (g : α → Nat) :
    ((l.filter p).map g).sum = (l.map fun x => if p x then g x else 0).sum := by
  induction l with
  | nil => rfl
  | cons x l ih => cases h : p x <;> simp [h, ih]

/-! ### Tokens: the list of lines -/

theorem find?_putLine_same (ls : List Line) (l : Line) : (putLine ls l).find? (fun x => x.line == l.line) = some l := by
  induction ls with
  | nil => simp [putLine]
  | cons x xs ih =>
    rw [putLine]
    split
    · simp
    · split
      · simp
      · next h => rw [List.find?_cons, beq_false_of_ne (Ne.symm h), ih]

theorem find?_putLine_ne (ls : List Line) {l : Line} {n : Nat} (h : n ≠ l.line) :
    (putLine ls l).find? (fun x => x.line == n) = ls.find? fun x => x.line == n := by
  have other : (l.line == n) = false := beq_false_of_ne (Ne.symm h)
  induction ls with
  | nil => simp [putLine, other]
  | cons x xs ih =>
    rw [putLine]
    split
    · rw [List.find?_cons, other]
    · split
      · next same => rw [List.find?_cons, List.find?_cons, other, ← same, other]
      · rw [List.find?_cons, List.find?_cons, ih]

@[simp] theorem State.line_line (s : State) (n : Nat) : (s.line n).line = n := by
  unfold State.line
  cases found : s.fabric.lines.find? fun l => l.line == n with
  | none => rfl
  | some l => exact eq_of_beq (List.find?_some (p := fun l : Line => l.line == n) found)

/-- A line is looked up in the fabric alone. -/
theorem State.line_congr {s t : State} (h : t.fabric = s.fabric) (n : Nat) : t.line n = s.line n := by
  have pool : t.poolOf n = s.poolOf n := by
    unfold State.poolOf State.selfIn
    rw [h]
  rw [State.line, State.line, h, pool]

theorem State.line_modLine_same (s : State) {n : Nat} {f : Line → Line} (keeps : (f (s.line n)).line = n) :
    (s.modLine n f).line n = f (s.line n) := by
  have found := find?_putLine_same s.fabric.lines (f (s.line n))
  rw [keeps] at found
  rw [State.line, State.modLine, State.setLine]
  dsimp only
  rw [found, Option.getD_some]

theorem State.line_modLine_ne (s : State) {n m : Nat} {f : Line → Line} (keeps : (f (s.line n)).line = n) (h : m ≠ n) :
    (s.modLine n f).line m = s.line m := by
  have found := find?_putLine_ne s.fabric.lines (l := f (s.line n)) (keeps ▸ h)
  rw [State.line, State.modLine, State.setLine]
  dsimp only
  rw [found]
  rfl

/-! ### Tokens: the tokens of a line (R200) -/

theorem Claims.named.holdersOnce {l : Line} (h : Claims.named l) : (l.holders.map Holder.req).Nodup := by
  obtain ⟨once, -⟩ := h
  exact once

theorem Claims.named.msgsOnce {l : Line} (h : Claims.named l) : (l.msgs.map TokenMsg.id).Nodup := by
  obtain ⟨-, once, -⟩ := h
  exact once

theorem Claims.named.homeOwns {l : Line} (h : Claims.named l) : l.homeOwner = true → 1 ≤ l.homeTokens := by
  obtain ⟨-, -, owns, -⟩ := h
  exact owns

/-- The tokens that a holding of a line counts for: those of an earlier epoch count for nothing. -/
def Line.counted (l : Line) (h : Holder) : Nat := if h.epoch == l.epoch then h.tokens else 0

/-- The tokens that a message of a line counts for. -/
def Line.inFlight (l : Line) (m : TokenMsg) : Nat := if m.epoch == l.epoch then m.tokens else 0

theorem tokensOf_eq_sum (l : Line) :
    Claims.tokensOf l = l.homeTokens + (l.holders.map l.counted).sum + (l.msgs.map l.inFlight).sum := by
  rw [Claims.tokensOf, sum_map_filter, sum_map_filter]
  rfl

theorem Line.holder_req (l : Line) (r : Nat) : (l.holder r).req = r := by
  unfold Line.holder
  cases found : l.holders.find? fun h => h.req == r with
  | none => rfl
  | some h => exact eq_of_beq (List.find?_some (p := fun h : Holder => h.req == r) found)

theorem Line.held_req (l : Line) (r : Nat) : (l.held r).req = r := by
  rw [Line.held]
  split
  · exact l.holder_req r
  · exact l.holder_req r

/-- A requester's holding of the present epoch has the tokens that its holding counts for. -/
theorem Line.counted_held (l : Line) (r : Nat) : l.counted (l.held r) = l.counted (l.holder r) := by
  rw [Line.held]
  split
  · rfl
  · next earlier => simp [Line.counted, earlier]

theorem Line.held_epoch (l : Line) (r : Nat) : (l.held r).epoch = l.epoch := by
  rw [Line.held]
  split
  · next present => exact eq_of_beq present
  · rfl

@[simp] theorem Line.setHolder_line (l : Line) (h : Holder) : (l.setHolder h).line = l.line := by
  rw [Line.setHolder]
  split <;> rfl

@[simp] theorem Line.setHolder_epoch (l : Line) (h : Holder) : (l.setHolder h).epoch = l.epoch := by
  rw [Line.setHolder]
  split <;> rfl

/-- Setting a holding, where each requester holds once, changes the tokens of a line by the difference of the two holdings. -/
theorem tokensOf_setHolder {l : Line} (once : (l.holders.map Holder.req).Nodup) {h : Holder} {r : Nat} (isReq : h.req = r) :
    Claims.tokensOf (l.setHolder h) + l.counted (l.holder r) = Claims.tokensOf l + l.counted h := by
  subst isReq
  rw [tokensOf_eq_sum, tokensOf_eq_sum, Line.setHolder, Line.holder]
  cases found : l.holders.find? fun x => x.req == h.req with
  | none =>
    have absent : (l.holders.any fun x => x.req == h.req) = false := by
      rw [List.any_eq_false]
      exact List.find?_eq_none.1 found
    have sums : ((l.holders ++ [h]).map l.counted).sum = (l.holders.map l.counted).sum + l.counted h := by simp
    have nothing (x : Holder) (hx : x.tokens = 0) : l.counted x = 0 := by simp [Line.counted, hx]
    rw [absent, if_neg Bool.false_ne_true, Option.getD_none, nothing _ rfl]
    dsimp only
    change l.homeTokens + ((l.holders ++ [h]).map l.counted).sum + (l.msgs.map l.inFlight).sum + 0 = _
    omega
  | some x =>
    have present : (l.holders.any fun x => x.req == h.req) = true :=
      List.any_eq_true.2 ⟨x, List.mem_of_find?_eq_some found, List.find?_some (p := fun x : Holder => x.req == h.req) found⟩
    have sums := sum_updIf_key once found h l.counted
    rw [present, if_pos rfl, Option.getD_some]
    change l.homeTokens + ((updIf l.holders (fun x => x.req == h.req) fun _ => h).map l.counted).sum +
      (l.msgs.map l.inFlight).sum + l.counted x = _
    omega

/-- Setting a holding of as many tokens of the present epoch leaves the tokens of a line alone. -/
theorem tokensOf_setHolder_eq {l : Line} (once : (l.holders.map Holder.req).Nodup) {h : Holder} {r : Nat} (isReq : h.req = r)
    (same : l.counted h = l.counted (l.holder r)) : Claims.tokensOf (l.setHolder h) = Claims.tokensOf l := by
  have sets := tokensOf_setHolder once isReq
  omega

/-- After a holding is set, each requester still holds once. -/
theorem Line.nodup_setHolder {l : Line} (once : (l.holders.map Holder.req).Nodup) (h : Holder) :
    ((l.setHolder h).holders.map Holder.req).Nodup := by
  rw [Line.setHolder]
  split
  · dsimp only
    rwa [map_key_updIf l.holders rfl]
  · next absent =>
    rw [Bool.not_eq_true, List.any_eq_false] at absent
    dsimp only
    rw [List.map_append, List.nodup_append]
    refine ⟨once, List.nodup_singleton _, ?_⟩
    intro r hr r' hr' same
    obtain ⟨x, hx, isReq⟩ := List.mem_map.1 hr
    exact absent x hx (beq_iff_eq.2 (isReq.trans (same.trans (List.mem_singleton.1 hr'))))

/-- Tokens of the present epoch that reach the home are added to the line's. -/
theorem tokensOf_homeTake (l : Line) (m : TokenMsg) : Claims.tokensOf (l.homeTake m) = Claims.tokensOf l + m.tokens := by
  have holders (hs : List Holder) :
      ((hs.map fun h => { h with dirty := false }).filter fun h => h.epoch == l.epoch).map Holder.tokens =
        (hs.filter fun h => h.epoch == l.epoch).map Holder.tokens := by
    rw [List.filter_map, List.map_map]
    rfl
  rw [Line.homeTake]
  split
  · simp only [Claims.tokensOf, Line.writeBack, holders]
    omega
  · simp only [Claims.tokensOf]
    omega

@[simp] theorem Line.homeTake_line (l : Line) (m : TokenMsg) : (l.homeTake m).line = l.line := by
  rw [Line.homeTake]
  split <;> rfl

/-- Tokens of the present epoch that reach a slice are added to the line's. -/
theorem tokensOf_sliceTake {l : Line} (once : (l.holders.map Holder.req).Nodup) (m : TokenMsg) (r : Nat) (far : Bool) :
    Claims.tokensOf (l.sliceTake m r far) = Claims.tokensOf l + m.tokens := by
  have now (h : Holder) (present : h.epoch = l.epoch) : l.counted h = h.tokens := by simp [Line.counted, present]
  unfold Line.sliceTake
  extract_lets h g
  have sets := tokensOf_setHolder once (h := g) (l.held_req r)
  rw [now g (l.held_epoch r), ← l.counted_held, now _ (l.held_epoch r)] at sets
  have adds : g.tokens = (l.held r).tokens + m.tokens := rfl
  change Claims.tokensOf (l.setHolder g) = _
  omega

@[simp] theorem Line.sliceTake_line (l : Line) (m : TokenMsg) (r : Nat) (far : Bool) : (l.sliceTake m r far).line = l.line :=
  l.setHolder_line _

/-- A message that is sent is added to the tokens of its line. -/
theorem tokensOf_addMsg (l : Line) (m : TokenMsg) (hs : List Nat) :
    Claims.tokensOf { l with msgs := l.msgs ++ [m], hints := hs } = Claims.tokensOf l + l.inFlight m := by
  have sums : ((l.msgs ++ [m]).map l.inFlight).sum = (l.msgs.map l.inFlight).sum + l.inFlight m := by simp
  rw [tokensOf_eq_sum, tokensOf_eq_sum]
  change l.homeTokens + (l.holders.map l.counted).sum + ((l.msgs ++ [m]).map l.inFlight).sum = _
  omega

/-- Taking a message away, where each message is there once, takes its tokens away from the line's. -/
theorem tokensOf_dropMsg {l : Line} (once : (l.msgs.map TokenMsg.id).Nodup) {id : Nat} {m : TokenMsg}
    (found : l.msgs.find? (fun m => m.id == id) = some m) :
    Claims.tokensOf { l with msgs := l.msgs.filter fun x => x.id != id } + l.inFlight m = Claims.tokensOf l := by
  have sums := sum_filter_ne_key once found l.inFlight
  rw [tokensOf_eq_sum, tokensOf_eq_sum]
  change l.homeTokens + (l.holders.map l.counted).sum + ((l.msgs.filter fun x => x.id != id).map l.inFlight).sum + l.inFlight m = _
  omega

/-! ### Tokens: the tokens of the machine's lines (R200) -/

/-- The tokens of a line that are held or in flight in its epoch. -/
def State.tokens (s : State) (n : Nat) : Nat := Claims.tokensOf (s.line n)

/-- The second state has `k` more tokens of line `n` than the first, and as many of every other line. -/
def State.Adds (s t : State) (n k : Nat) : Prop := ∀ m, t.tokens m = s.tokens m + if m = n then k else 0

/-- Every line has as many tokens in the second state as in the first. -/
def State.Conserves (s t : State) : Prop := ∀ n, t.tokens n = s.tokens n

namespace State

theorem Conserves.refl (s : State) : s.Conserves s := fun _ => rfl

theorem Conserves.trans {s t u : State} (h : s.Conserves t) (g : t.Conserves u) : s.Conserves u := fun n => (g n).trans (h n)

theorem Conserves.of_fabric {s t : State} (h : t.fabric = s.fabric) : s.Conserves t := fun n => by
  rw [State.tokens, State.line_congr h]
  rfl

theorem Conserves.adds {s t : State} (h : s.Conserves t) (n : Nat) : s.Adds t n 0 := fun m => by simp [h m]

theorem Conserves.trans_adds {s t u : State} {n k : Nat} (h : s.Conserves t) (g : t.Adds u n k) : s.Adds u n k := fun m =>
  (g m).trans (congrArg (· + _) (h m))

theorem Adds.trans_conserves {s t u : State} {n k : Nat} (h : s.Adds t n k) (g : t.Conserves u) : s.Adds u n k := fun m =>
  (g m).trans (h m)

/-- Tokens that are taken away and then added again are conserved. -/
theorem Adds.conserves {s t u : State} {n k : Nat} (h : t.Adds s n k) (g : t.Adds u n k) : s.Conserves u := fun m =>
  (g m).trans (h m).symm

theorem Adds.modLine {s : State} {n k : Nat} {f : Line → Line} (keeps : (f (s.line n)).line = (s.line n).line)
    (more : Claims.tokensOf (f (s.line n)) = Claims.tokensOf (s.line n) + k) : s.Adds (s.modLine n f) n k := fun m => by
  rw [line_line] at keeps
  by_cases h : m = n
  · rw [h, if_pos rfl, tokens, line_modLine_same s keeps, more]
    rfl
  · rw [if_neg h, tokens, line_modLine_ne s keeps h]
    rfl

theorem Adds.of_modLine {s : State} {n k : Nat} {f : Line → Line} (keeps : (f (s.line n)).line = (s.line n).line)
    (fewer : Claims.tokensOf (f (s.line n)) + k = Claims.tokensOf (s.line n)) : (s.modLine n f).Adds s n k := fun m => by
  rw [line_line] at keeps
  by_cases h : m = n
  · rw [h, if_pos rfl, tokens, tokens, line_modLine_same s keeps, fewer]
  · rw [if_neg h, tokens, tokens, line_modLine_ne s keeps h]
    rfl

/-- A line's update that leaves its tokens alone leaves those of every line alone. -/
theorem Conserves.modLine {s : State} {n : Nat} {f : Line → Line} (keeps : (f (s.line n)).line = (s.line n).line)
    (same : Claims.tokensOf (f (s.line n)) = Claims.tokensOf (s.line n)) : s.Conserves (s.modLine n f) := fun m =>
  (Adds.modLine (k := 0) keeps same m).trans (by simp)

theorem ite_fabric (c : Prop) [Decidable c] (s t : State) :
    (if c then s else t).fabric = if c then s.fabric else t.fabric := apply_ite State.fabric c s t

@[simp] theorem countDie_fabric (s : State) (die ev n) : (s.countDie die ev n).fabric = s.fabric := by
  unfold countDie
  split <;> rfl

@[simp] theorem countSend_fabric (s : State) (l src dst data) : (s.countSend l src dst data).fabric = s.fabric := by
  simp only [countSend]
  split
  · split <;> split <;> simp [ite_fabric]
  · rfl

/-- Tokens of the present epoch that are sent are added to the line's; those of an earlier one count for nothing. -/
theorem Adds.sendTokens (s : State) (n : Nat) (src dst : Option Nat) (k : Nat) (owner data : Bool) (epoch : Nat) :
    s.Adds (s.sendTokens n src dst k owner data epoch) n (if epoch == (s.line n).epoch then k else 0) := by
  have numbered (t : State) (i : Nat) : t.Conserves { t with fabric := { t.fabric with nextMsg := i } } := fun _ => rfl
  rw [State.sendTokens]
  split
  · next none =>
    intro m
    simp [none]
  · have sent := countSend_fabric s (s.line n) src dst data
    refine ((Conserves.of_fabric sent).trans_adds (Adds.modLine rfl ?_)).trans_conserves (numbered _ _)
    rw [line_congr sent]
    exact tokensOf_addMsg ..

/-- A slice that gives up its tokens has them on their way. -/
theorem giveAll_conserves {s : State} {n : Nat} (once : ((s.line n).holders.map Holder.req).Nodup) (req : Nat) (dst : Option Nat) :
    s.Conserves (s.giveAll n req dst) := by
  unfold State.giveAll
  extract_lets h s1
  have gives := tokensOf_setHolder once (h := { h with tokens := 0, owner := false, valid := false, dirty := false })
    ((s.line n).holder_req req)
  have none : (s.line n).counted { h with tokens := 0, owner := false, valid := false, dirty := false } = 0 := by
    simp [Line.counted]
  rw [none, Nat.add_zero] at gives
  have keeps := (s.line n).setHolder_line { h with tokens := 0, owner := false, valid := false, dirty := false }
  have taken : s1.Adds s n ((s.line n).counted h) := Adds.of_modLine keeps gives
  have sends := Adds.sendTokens s1 n (some req) dst h.tokens h.owner h.owner h.epoch
  have epoch : (s1.line n).epoch = (s.line n).epoch := by
    rw [State.line_modLine_same s (keeps.trans (s.line_line n)), Line.setHolder_epoch]
  rw [epoch] at sends
  exact taken.conserves sends

/-- The home that gives up its tokens has them on their way. -/
theorem homeGiveAll_conserves (s : State) (n req : Nat) : s.Conserves (s.homeGiveAll n req) := by
  unfold State.homeGiveAll
  extract_lets l s1
  have taken : s1.Adds s n l.homeTokens := Adds.of_modLine rfl <| by
    simp only [Claims.tokensOf, l]
    omega
  have sends := Adds.sendTokens s1 n none (some req) l.homeTokens l.homeOwner l.homeOwner l.epoch
  have epoch : (s1.line n).epoch = l.epoch := by rw [State.line_modLine_same s (s.line_line n)]
  rw [epoch, BEq.rfl, if_pos rfl] at sends
  exact taken.conserves sends

/-- The home that sends one of its tokens has one fewer. -/
theorem homeSendOne_conserves {s : State} {n : Nat} (enough : 1 ≤ (s.line n).homeTokens) (dst : Option Nat) (owner data : Bool) :
    s.Conserves ((s.modLine n fun l => { l with homeTokens := l.homeTokens - 1 }).sendTokens n none dst 1 owner data
      (s.line n).epoch) := by
  have taken : (s.modLine n fun l => { l with homeTokens := l.homeTokens - 1 }).Adds s n 1 := Adds.of_modLine rfl <| by
    simp only [Claims.tokensOf]
    omega
  have sends := Adds.sendTokens (s.modLine n fun l => { l with homeTokens := l.homeTokens - 1 }) n none dst 1 owner data
    (s.line n).epoch
  rw [State.line_modLine_same s (s.line_line n), BEq.rfl, if_pos rfl] at sends
  exact taken.conserves sends

end State

/-! ### Tokens: what moves no token -/

/-- Two states of a line have its tokens in the same places. -/
structure Line.SamePlaces (l m : Line) : Prop where
  homeTokens : m.homeTokens = l.homeTokens
  homeOwner : m.homeOwner = l.homeOwner
  holders : m.holders = l.holders
  msgs : m.msgs = l.msgs
  epoch : m.epoch = l.epoch

theorem Line.SamePlaces.tokensOf {l m : Line} (h : l.SamePlaces m) : Claims.tokensOf m = Claims.tokensOf l := by
  rw [Claims.tokensOf, h.homeTokens, h.holders, h.msgs, h.epoch]
  rfl

theorem Line.SamePlaces.named {l m : Line} (h : l.SamePlaces m) (g : Claims.named l) : Claims.named m := by
  rwa [Claims.named, h.homeTokens, h.homeOwner, h.holders, h.msgs]

/-- The tokens of every line are in the same places in both states. -/
def State.Still (s t : State) : Prop := ∀ n, (s.line n).SamePlaces (t.line n)

namespace State

theorem Still.refl (s : State) : s.Still s := fun _ => ⟨rfl, rfl, rfl, rfl, rfl⟩

theorem Still.trans {s t u : State} (h : s.Still t) (g : t.Still u) : s.Still u := fun n =>
  ⟨(g n).homeTokens.trans (h n).homeTokens, (g n).homeOwner.trans (h n).homeOwner, (g n).holders.trans (h n).holders,
    (g n).msgs.trans (h n).msgs, (g n).epoch.trans (h n).epoch⟩

theorem Still.conserves {s t : State} (h : s.Still t) : s.Conserves t := fun n => (h n).tokensOf

theorem Still.of_fabric {s t : State} (h : t.fabric = s.fabric) : s.Still t := fun n => by
  rw [line_congr h]
  exact Still.refl s n

theorem Still.ite {s t u : State} {c : Prop} [Decidable c] (h : s.Still t) (g : s.Still u) : s.Still (if c then t else u) := by
  split <;> assumption

theorem Still.modLine {s : State} {n : Nat} {f : Line → Line} (keeps : (f (s.line n)).line = (s.line n).line)
    (same : (s.line n).SamePlaces (f (s.line n))) : s.Still (s.modLine n f) := fun m => by
  rw [line_line] at keeps
  by_cases h : m = n
  · rw [h, line_modLine_same s keeps]
    exact same
  · rw [line_modLine_ne s keeps h]
    exact Still.refl s m

/-- A fold over steps that leave the fabric alone leaves it alone. -/
theorem foldl_fabric {α : Type} {f : State → α → State} (hf : ∀ s a, (f s a).fabric = s.fabric) (l : List α) (s : State) :
    (l.foldl f s).fabric = s.fabric := by
  induction l generalizing s with
  | nil => rfl
  | cons a l ih => exact (ih _).trans (hf s a)

/-! #### Faults found after acceptance (R209, R264) -/

@[simp] theorem takeTrap_fabric (s : State) (k fid t) : (s.takeTrap k fid t).fabric = s.fabric := by
  simp only [takeTrap]
  (repeat' split) <;> rfl

@[simp] theorem takeTrapAt_fabric (s : State) (k fid pc t) : (s.takeTrapAt k fid pc t).fabric = s.fabric := by
  simp only [takeTrapAt]
  split <;> simp

@[simp] theorem lateTrap_fabric (s : State) (u fid pc t) : (s.lateTrap u fid pc t).fabric = s.fabric := rfl

@[simp] theorem failReq_fabric (s : State) (k fid r t) : (s.failReq k fid r t).fabric = s.fabric := by
  simp only [failReq]
  (repeat' split) <;> simp

@[simp] theorem failLater_fabric (s : State) (k fid r t) : (s.failLater k fid r t).fabric = s.fabric := rfl

@[simp] theorem failFibre_fabric (s : State) (k n f) : (s.failFibre k n f).fabric = s.fabric := by
  unfold failFibre
  extract_lets rs held mine fail s1
  have fails (s r) : (fail s r).fabric = s.fabric := by simp [fail, ite_fabric]
  have first : s1.fabric = s.fabric := foldl_fabric fails _ _
  split
  · exact (foldl_fabric (fun _ _ => failLater_fabric ..) _ _).trans ((fails _ _).trans first)
  · split
    · split <;> simp [first]
    · exact first

/-- A line that fails its requesters has its tokens where they were. -/
theorem failLine_still (s : State) (n reqs) : s.Still (s.failLine n reqs) := by
  refine Still.of_fabric (foldl_fabric (fun s u => ?_) _ _)
  split
  · exact foldl_fabric (fun _ _ => failFibre_fabric ..) _ _
  · rfl

/-! #### Requests (R201 to R203) -/

theorem noteAttempt_still (s : State) (n req write) : s.Still (s.noteAttempt n req write) :=
  Still.modLine (by split <;> rfl) (by split <;> exact ⟨rfl, rfl, rfl, rfl, rfl⟩)

theorem ask_still (s : State) (n req write to') : s.Still (s.ask n req write to') := Still.modLine rfl ⟨rfl, rfl, rfl, rfl, rfl⟩

theorem broadcast_still (s : State) (n num active) : s.Still (s.broadcast n num active) :=
  Still.modLine rfl ⟨rfl, rfl, rfl, rfl, rfl⟩

theorem homeAnswer_conserves {s : State} {n : Nat} (owns : (s.line n).homeOwner = true → 1 ≤ (s.line n).homeTokens)
    (req write) : s.Conserves (s.homeAnswer n req write) := by
  simp only [homeAnswer]
  split
  · exact homeGiveAll_conserves s n req
  · split
    · next owner =>
      split
      · exact homeGiveAll_conserves s n req
      · exact homeSendOne_conserves (owns owner) _ _ _
    · split
      · next enough => exact homeSendOne_conserves enough _ _ _
      · exact Conserves.refl s

/-- A holder that sends one of its tokens has one fewer. -/
theorem holderSendOne_conserves {s : State} {n r : Nat} (once : ((s.line n).holders.map Holder.req).Nodup)
    (enough : 1 ≤ ((s.line n).holder r).tokens)
    (present : (((s.line n).holder r).epoch == (s.line n).epoch) = true) (src dst : Option Nat) (owner data : Bool) :
    s.Conserves ((s.modLine n fun l =>
      l.setHolder { (s.line n).holder r with tokens := ((s.line n).holder r).tokens - 1 }).sendTokens n src dst 1 owner data
        ((s.line n).holder r).epoch) := by
  generalize hx : (s.line n).holder r = x at enough present
  have gives := tokensOf_setHolder once (h := { x with tokens := x.tokens - 1 }) (hx ▸ (s.line n).holder_req r)
  have keeps := (s.line n).setHolder_line { x with tokens := x.tokens - 1 }
  have epoch : ((s.modLine n fun l => l.setHolder { x with tokens := x.tokens - 1 }).line n).epoch = (s.line n).epoch := by
    rw [line_modLine_same s (keeps.trans (s.line_line n)), Line.setHolder_epoch]
  have taken : (s.modLine n fun l => l.setHolder { x with tokens := x.tokens - 1 }).Adds s n 1 := Adds.of_modLine keeps <| by
    rw [hx] at gives
    simp only [Line.counted, present, if_true] at gives
    omega
  have sends := Adds.sendTokens (s.modLine n fun l => l.setHolder { x with tokens := x.tokens - 1 }) n src dst 1 owner data x.epoch
  rw [epoch, present, if_pos rfl] at sends
  exact taken.conserves sends

end State

/-- A requester that holds the owner token of a line holds a token of it, where the line is named as the protocol names it. -/
theorem Line.one_le_tokens_of_owner {l : Line} (isNamed : Claims.named l) {r : Nat} (owner : (l.holder r).owner = true) :
    1 ≤ (l.holder r).tokens := by
  obtain ⟨-, -, -, owners⟩ := isNamed
  unfold Line.holder at owner ⊢
  cases found : l.holders.find? fun h => h.req == r with
  | none =>
    rw [found] at owner
    cases owner
  | some h =>
    rw [found] at owner
    exact owners h (List.mem_of_find?_eq_some found) owner

namespace State

theorem holderAnswer_conserves {s : State} {n : Nat} (isNamed : Claims.named (s.line n)) (h req write) :
    s.Conserves (s.holderAnswer n h req write) := by
  simp only [holderAnswer]
  split
  · exact Conserves.refl s
  · next answers =>
    split
    · exact giveAll_conserves isNamed.holdersOnce _ _
    · split
      · next owner =>
        split
        · exact giveAll_conserves isNamed.holdersOnce _ _
        · have present : (((s.line n).holder h).epoch == (s.line n).epoch) = true := by
            simp only [within, Bool.or_eq_true, Bool.not_eq_true', not_or, Bool.not_eq_false, Bool.and_eq_true] at answers
            obtain ⟨-, present, -⟩ := answers
            exact present
          exact holderSendOne_conserves isNamed.holdersOnce (Line.one_le_tokens_of_owner isNamed owner) present _ _ _ _
      · exact Conserves.refl s

/-- A persistent request that is activated takes the home's tokens. -/
theorem activate_conserves (s : State) (n req : Nat) : s.Conserves (s.activate n req) := by
  unfold activate
  extract_lets l s1
  have marks : s.Still s1 := Still.modLine rfl ⟨rfl, rfl, rfl, rfl, rfl⟩
  exact (marks.trans (broadcast_still s1 n _ _)).conserves.trans (homeGiveAll_conserves _ n req)

/-! #### Token arrivals (R200, R201, R203) -/

theorem lineFrom_still (s : State) (n m data) : s.Still (s.lineFrom n m data) := by
  simp only [lineFrom]
  split
  · exact Still.refl s
  · have marks : s.Still (s.modLine n fun l => { l with
        afar := false
        homeData := if s.homeMember (s.line n) == s.selfIn (s.line n).pool && data.length == 80 then
          (match l.homeData with | some d => some d | none => some (s.lineWords n)) else l.homeData }) :=
      Still.modLine rfl ⟨rfl, rfl, rfl, rfl, rfl⟩
    exact Still.ite (marks.trans (Still.of_fabric rfl)) marks

theorem makeRoom_still (s : State) (n req) : s.Still (s.makeRoom n req) := by
  refine Still.of_fabric ?_
  simp only [makeRoom]
  split
  · rfl
  · split
    · rfl
    · rfl

theorem fillWaiting_still (s : State) (n req) : s.Still (s.fillWaiting n req) := by
  unfold fillWaiting
  split
  · exact Still.refl s
  · split
    · exact Still.refl s
    · next a _ =>
      have filled (cores : List Nat) : (cores.foldl (fun s c => s.fillL1 c n) s).fabric = s.fabric :=
        foldl_fabric (f := fun s c => s.fillL1 c n) (fun _ _ => rfl) _ _
      exact (Still.of_fabric (filled _)).trans (Still.modLine rfl ⟨rfl, rfl, rfl, rfl, rfl⟩)

/-! #### The events (R201 to R203, R206) -/

/-- The state that an outcome goes on to, if it goes on, has as many tokens of every line. -/
def ConservesNext (s : State) (r : Host.Outcome State Fault Refusal) : Prop := ∀ t, r = .next t → s.Conserves t

@[simp] theorem conservesNext_next (s t : State) : s.ConservesNext (.next t) ↔ s.Conserves t := by simp [ConservesNext]

end State

section
variable {s : State} {n : Nat}

theorem execCoherenceRequest_conserves (isNamed : Claims.named (s.line n)) (req : Nat) (write : Bool) (holder : Option Nat) :
    s.ConservesNext (execCoherenceRequest n req write holder s) := by
  unfold execCoherenceRequest
  extract_lets l r h sent s0 s1
  clear_value h
  have noted : s.Still s0 := State.Still.ite (State.Still.refl s) (s.noteAttempt_still _ _ _)
  have taken : s.Still s1 := noted.trans (State.Still.modLine rfl ⟨rfl, rfl, rfl, rfl, rfl⟩)
  have stays : Claims.named (s1.line n) := (taken n).named isNamed
  split
  · exact (State.conservesNext_next ..).2 (State.Still.ite noted (noted.trans (s0.ask_still _ _ _ _))).conserves
  · split
    · exact (State.conservesNext_next ..).2 (taken.conserves.trans (State.holderAnswer_conserves stays _ _ _))
    · split
      · exact (State.conservesNext_next ..).2 (taken.trans (s1.failLine_still _ _)).conserves
      · exact (State.conservesNext_next ..).2 <| taken.conserves.trans <|
          (State.homeAnswer_conserves stays.homeOwns _ _).trans (State.ask_still _ _ _ _ _).conserves

theorem execTokenArrival_conserves (isNamed : Claims.named (s.line n)) (got : TokenLoad) (notReclaimed : got.reclaimed = false) :
    s.ConservesNext (execTokenArrival n got s) := by
  unfold execTokenArrival
  extract_lets l s0
  rw [notReclaimed, if_neg Bool.false_ne_true]
  split
  · exact (State.conservesNext_next ..).2 (State.Conserves.refl s)
  · next m found =>
    have drop := tokensOf_dropMsg isNamed.msgsOnce found
    have dropped : s0.Adds s n (l.inFlight m) := State.Adds.of_modLine rfl drop
    have holders : (s0.line n).holders = l.holders := by rw [State.line_modLine_same s (s.line_line n)]
    extract_lets s1 wrote home
    clear_value s0
    split
    · next earlier =>
      have nothing : l.inFlight m = 0 := if_neg (by simpa using earlier)
      rw [nothing] at dropped
      exact (State.conservesNext_next ..).2 (dropped.conserves ((State.Still.of_fabric (by simp)).conserves.adds n))
    · next present =>
      have all : l.inFlight m = m.tokens := if_pos (by simpa using present)
      rw [all] at dropped
      have noted : s0.Still s1 := s0.lineFrom_still n m got.data
      have once : ((s1.line n).holders.map Holder.req).Nodup := by
        rw [(noted n).holders, holders]
        exact isNamed.holdersOnce
      split
      · have taken : s1.Adds home n m.tokens :=
          (State.Adds.modLine ((s1.line n).homeTake_line m) (tokensOf_homeTake _ m)).trans_conserves
            (State.Still.of_fabric (State.countDie_fabric ..)).conserves
        have arrived : s.Conserves home := dropped.conserves (noted.conserves.trans_adds taken)
        refine (State.conservesNext_next ..).2 ?_
        split
        · exact arrived.trans (home.homeGiveAll_conserves n _)
        · exact arrived
      · next r _ =>
        extract_lets s2
        have taken : s1.Adds s2 n m.tokens :=
          (State.Adds.modLine ((s1.line n).sliceTake_line m r _) (tokensOf_sliceTake once m r _)).trans_conserves
            (State.makeRoom_still _ n r).conserves
        have arrived : s.Conserves s2 := dropped.conserves (noted.conserves.trans_adds taken)
        have onceAfter : ((s2.line n).holders.map Holder.req).Nodup := by
          rw [(State.makeRoom_still _ n r n).holders,
            State.line_modLine_same s1 (((s1.line n).sliceTake_line m r _).trans (s1.line_line n))]
          exact Line.nodup_setHolder once _
        split
        · refine (State.conservesNext_next ..).2 ?_
          split
          · exact arrived.trans (s2.fillWaiting_still n r).conserves
          · exact arrived.trans (State.giveAll_conserves onceAfter r _)
        · exact (State.conservesNext_next ..).2 (arrived.trans (s2.fillWaiting_still n r).conserves)

theorem execAttemptTimeout_conserves (number : Nat) : s.ConservesNext (execAttemptTimeout n number s) := by
  have marks {f : Line → Line} (keeps : (f (s.line n)).line = (s.line n).line) (same : (s.line n).SamePlaces (f (s.line n))) :
      s.Still (s.modLine n f) := State.Still.modLine keeps same
  unfold execAttemptTimeout
  extract_lets l req
  split
  · exact (State.conservesNext_next ..).2 (State.Conserves.refl s)
  · split
    · exact (State.conservesNext_next ..).2 (marks rfl ⟨rfl, rfl, rfl, rfl, rfl⟩).conserves
    · split
      · exact (State.conservesNext_next ..).2 (State.Conserves.refl s)
      · split
        · exact (State.conservesNext_next ..).2 <| ((marks rfl ⟨rfl, rfl, rfl, rfl, rfl⟩).trans
            (State.Still.of_fabric (State.countDie_fabric ..))).conserves
        · exact (State.conservesNext_next ..).2 <|
            ((marks rfl ⟨rfl, rfl, rfl, rfl, rfl⟩).trans (State.ask_still _ _ _ _ _)).conserves

theorem execPersistentRequest_conserves (number : Nat) : s.ConservesNext (execPersistentRequest n number s) := by
  unfold execPersistentRequest
  extract_lets l req s1
  have taken : s.Still s1 := State.Still.modLine rfl ⟨rfl, rfl, rfl, rfl, rfl⟩
  split
  · exact (State.conservesNext_next ..).2 (State.Conserves.refl s)
  · split
    · exact (State.conservesNext_next ..).2 (taken.trans (s1.failLine_still _ _)).conserves
    · split
      · exact (State.conservesNext_next ..).2 (taken.conserves.trans (s1.activate_conserves n req))
      · split
        · exact (State.conservesNext_next ..).2 taken.conserves
        · exact (State.conservesNext_next ..).2 (taken.trans (State.Still.modLine rfl ⟨rfl, rfl, rfl, rfl, rfl⟩)).conserves

theorem execPersistentSatisfied_conserves (number : Nat) : s.ConservesNext (execPersistentSatisfied n number s) := by
  unfold execPersistentSatisfied
  extract_lets l req s1 s2
  split
  · exact (State.conservesNext_next ..).2 (State.Conserves.refl s)
  · have ended : s.Still s1 := State.Still.modLine rfl ⟨rfl, rfl, rfl, rfl, rfl⟩
    have told : s.Still s2 := ended.trans (s1.broadcast_still n _ _)
    split
    · exact (State.conservesNext_next ..).2 told.conserves
    · exact (State.conservesNext_next ..).2 <|
        (told.trans (State.Still.modLine rfl ⟨rfl, rfl, rfl, rfl, rfl⟩)).conserves.trans (State.activate_conserves _ n _)

theorem execActivationMessage_conserves (isNamed : Claims.named (s.line n)) (dst : Activation) :
    s.ConservesNext (execActivationMessage n dst s) := by
  unfold execActivationMessage
  extract_lets l holder h
  split
  · exact (State.conservesNext_next ..).2 (State.Conserves.refl s)
  · next m _ =>
    extract_lets s1 s2
    have taken : s.Still s1 := State.Still.modLine rfl ⟨rfl, rfl, rfl, rfl, rfl⟩
    have once : ((s1.line n).holders.map Holder.req).Nodup := ((taken n).named isNamed).holdersOnce
    have req : ((s1.line n).held holder).req = holder := Line.held_req _ _
    have keeps (g : Holder) : ((s1.line n).setHolder g).line = (s1.line n).line := Line.setHolder_line _ g
    have recorded : s.Conserves s2 := taken.conserves.trans <| State.Conserves.modLine (keeps _) <|
      tokensOf_setHolder_eq once req ((s1.line n).counted_held holder)
    have onceAfter : ((s2.line n).holders.map Holder.req).Nodup := by
      rw [State.line_modLine_same s1 ((keeps _).trans (s1.line_line n))]
      exact Line.nodup_setHolder once _
    split
    · exact (State.conservesNext_next ..).2 taken.conserves
    · split
      · refine (State.conservesNext_next ..).2 ?_
        split
        · exact recorded
        · exact recorded.trans (State.giveAll_conserves onceAfter holder _)
      · exact (State.conservesNext_next ..).2 recorded

theorem execL2Eviction_conserves (isNamed : Claims.named (s.line n)) (holder : Nat) :
    s.ConservesNext (execL2Eviction n holder s) := by
  rw [execL2Eviction, State.conservesNext_next]
  split
  · exact State.giveAll_conserves isNamed.holdersOnce _ _
  · exact State.Conserves.refl s

theorem execL1CopyExpiry_conserves (core : Nat) : s.ConservesNext (execL1CopyExpiry core n s) :=
  (State.conservesNext_next ..).2 (State.Conserves.of_fabric rfl)

/-- A line of which no token of an earlier epoch is left has as many tokens when its epochs begin again. -/
theorem tokensOf_of_settledEpoch {l : Line} (settled : l.settledEpoch = true) :
    Claims.tokensOf { l with
      epoch := 0, msgs := l.msgs.map fun m => { m with epoch := 0 }
      holders := l.holders.map fun h => { h with epoch := 0 } } = Claims.tokensOf l := by
  rw [Line.settledEpoch, Bool.and_eq_true, List.all_eq_true, List.all_eq_true] at settled
  obtain ⟨held, sent⟩ := settled
  rw [tokensOf_eq_sum, tokensOf_eq_sum]
  dsimp only
  rw [List.map_map, List.map_map]
  refine congrArg₂ (· + ·) (congrArg _ (congrArg List.sum (List.map_congr_left fun h hh => ?_)))
    (congrArg List.sum (List.map_congr_left fun m hm => ?_))
  · have := held h hh
    simp [Line.counted] at this ⊢
    omega
  · have := sent m hm
    simp [Line.inFlight] at this ⊢
    omega

theorem execDirectoryEntryFree_conserves : s.ConservesNext (execDirectoryEntryFree n s) := by
  rw [execDirectoryEntryFree]
  split
  · exact (State.conservesNext_next ..).2 (State.Conserves.refl s)
  · next frees =>
    have settled : (s.line n).settledEpoch = true := by
      simp only [State.entryFrees, Bool.not_eq_true, Bool.not_eq_false', Bool.and_eq_true] at frees
      obtain ⟨⟨⟨-, settled⟩, -⟩, -⟩ := frees
      exact settled
    extract_lets s1
    have begun : s.Conserves s1 := State.Conserves.modLine rfl (tokensOf_of_settledEpoch settled)
    exact (State.conservesNext_next ..).2 (begun.trans fun _ => rfl)

theorem execStaleEpochDiscard_conserves (isNamed : Claims.named (s.line n)) (msg : Nat) :
    s.ConservesNext (execStaleEpochDiscard n msg s) := by
  rw [execStaleEpochDiscard]
  split
  · exact (State.conservesNext_next ..).2 (State.Conserves.refl s)
  · next m found =>
    have chosen := List.find?_some found
    simp only [Bool.and_eq_true, beq_iff_eq, bne_iff_ne] at chosen
    obtain ⟨isMsg, earlier⟩ := chosen
    have drop := tokensOf_dropMsg isNamed.msgsOnce (find?_key_of_mem isNamed.msgsOnce (List.mem_of_find?_eq_some found) isMsg)
    have nothing : (s.line n).inFlight m = 0 := if_neg (by simpa using earlier)
    rw [nothing, Nat.add_zero] at drop
    have dropped : s.Conserves (s.modLine n fun l => { l with msgs := l.msgs.filter fun x => x.id != msg }) :=
      State.Conserves.modLine rfl drop
    exact (State.conservesNext_next ..).2 (dropped.trans (State.Conserves.of_fabric (by simp)))

end

/-- Settles O43: what an event takes from the tokens of a line it adds to them elsewhere. -/
theorem tokensAreConserved : Obligations.TokensAreConserved := by
  unfold Obligations.TokensAreConserved
  intro i s t n moves isNamed goes
  suffices h : s.ConservesNext (exec i s) from h t goes n
  cases i with
  | coherenceRequest line req write holder => exact execCoherenceRequest_conserves (isNamed line) req write holder
  | tokenArrival line got => exact execTokenArrival_conserves (isNamed line) got (by simpa [Claims.movesTokens] using moves)
  | attemptTimeout line number => exact execAttemptTimeout_conserves number
  | persistentRequest line number => exact execPersistentRequest_conserves number
  | persistentSatisfied line number => exact execPersistentSatisfied_conserves number
  | activationMessage line dst => exact execActivationMessage_conserves (isNamed line) dst
  | l2Eviction line holder => exact execL2Eviction_conserves (isNamed line) holder
  | l1CopyExpiry core line => exact execL1CopyExpiry_conserves core
  | directoryEntryFree line => exact execDirectoryEntryFree_conserves
  | staleEpochDiscard line msg => exact execStaleEpochDiscard_conserves (isNamed line) msg
  | _ => cases moves

end Sys2Proof.Machine
end

section

/-! SUPPORT. What the events of the token protocol and of a DET launch's round come to (spec 09 R200 to R208, 10 R235): each event
has a lemma `…_next`, which says that where the claim about it holds the event answers the state that the claim names. -/

namespace Sys2Proof.Machine

section
variable {s t : State} {n : Nat}

/-! ### Tokens: requests and arrivals (R200 to R202) -/

/-- COHERENCE_REQUEST has the answer of the home, or of the holder to which it was forwarded; where that is silent it stays on its
way. -/
theorem execCoherenceRequest_next {number : Nat} {write : Bool} {holder : Option Nat}
    (h : Claims.tokenEvents (.coherenceRequest n number write holder) s t) :
    execCoherenceRequest n number write holder s = .next t := by
  unfold Claims.tokenEvents at h
  unfold execCoherenceRequest
  have noted : ((s.line n).asks.contains (reqBase number, write, holder.map reqBase) || (holder.map reqBase).isSome) = true ↔
      (s.line n).asks.contains (reqBase number, write, holder.map reqBase) = true ∨ holder.map reqBase ≠ none := by
    rw [Bool.or_eq_true, Option.isSome_iff_ne_none]
  simp only [noted, Bool.not_eq_true'] at h ⊢
  split at h
  · next silent => rw [if_pos silent, h]
  · next reached =>
    rw [if_neg reached]
    cases holder with
    | some k =>
      subst h
      rfl
    | none =>
      simp only [Option.map_none] at h ⊢
      split at h
      · next lost => rw [if_pos lost, h]
      · next present => rw [if_neg present, h]

/-- A line's update is decided by what it makes of the line as it is. -/
theorem State.modLine_congr {f g : Line → Line} (h : f (s.line n) = g (s.line n)) : s.modLine n f = s.modLine n g :=
  congrArg s.setLine h

theorem State.line_withMem (s : State) (m : Memory) (n : Nat) : ({ s with mem := m } : State).line n = s.line n := rfl

/-- Data that comes from another member leaves the pool of its line alone. -/
theorem State.lineFrom_pool (s : State) (n : Nat) (m : TokenMsg) (data : List Byte) :
    ((s.lineFrom n m data).line n).pool = (s.line n).pool := by
  unfold State.lineFrom
  extract_lets l old here s1
  have same : (s1.line n).pool = (s.line n).pool := by rw [State.line_modLine_same s (s.line_line n)]
  clear_value s1
  split
  · rfl
  · split
    · rw [State.line_withMem, same]
    · exact same

/-- TOKEN_ARRIVAL brings tokens to the home or to a slice, discards those of an earlier epoch, or brings the news of a reclaim. -/
theorem execTokenArrival_next {got : TokenLoad} (h : Claims.tokenEvents (.tokenArrival n got) s t) :
    execTokenArrival n got s = .next t := by
  obtain ⟨msg, data, reclaimed⟩ := got
  cases reclaimed with
  | true =>
    subst h
    rfl
  | false =>
    obtain ⟨m, found, effect⟩ := h
    simp only [execTokenArrival, found, Bool.false_eq_true, if_false]
    split at effect
    · next earlier => rw [if_pos (bne_iff_ne.2 earlier), effect]
    · next present =>
      rw [if_neg (by simpa using present)]
      cases dst : m.dst with
      | none =>
        simp only [dst] at effect ⊢
        subst effect
        rfl
      | some r =>
        have far (s0 : State) (pool : (s0.line n).pool = (s.line n).pool) :
            (s0.lineFrom n m data).modLine n (fun l => l.sliceTake m r !s.isOwn (s.line n) r) =
              (s0.lineFrom n m data).modLine n fun l => l.sliceTake m r !s.isOwn l r :=
          State.modLine_congr <| by simp only [State.isOwn, State.lineFrom_pool, pool]
        have dropped : ((s.modLine n fun l => { l with msgs := l.msgs.filter fun x => x.id != msg }).line n).pool =
            (s.line n).pool := by
          rw [State.line_modLine_same s (s.line_line n)]
        simp only [dst, far _ dropped] at effect ⊢
        cases forward : ((s.line n).holder r).forward with
        | none =>
          simp only [forward] at effect ⊢
          rw [effect]
        | some k =>
          simp only [forward, beq_iff_eq] at effect ⊢
          rw [effect]

/-- ATTEMPT_TIMEOUT ends an attempt that has what it needs; it sends another for one that has failed, or a persistent request. -/
theorem execAttemptTimeout_next {number : Nat} (h : Claims.tokenEvents (.attemptTimeout n number) s t) :
    execAttemptTimeout n number s = .next t := by
  obtain ⟨a, attempt, transient, ⟨holds, rfl⟩ | ⟨lacks, present, due, effect⟩⟩ := h
  · simp [execAttemptTimeout, attempt, transient, holds]
  · have failed : (decide (a.sent + Config.attemptTime ≤ s.time) || (s.line n).answered (reqBase number)) = true := by
      simpa [Line.answered] using due
    have often : (decide (4 ≤ a.count) || decide (a.first + Config.persistAfter ≤ s.time)) = true ↔
        4 ≤ a.count ∨ a.first + Config.persistAfter ≤ s.time := by simp
    simp only [execAttemptTimeout, attempt, transient, lacks, present, failed, often, Bool.false_and, Bool.not_true, Bool.or_self,
      Bool.false_eq_true, if_false, beq_iff_eq]
    split at effect
    · next persists => rw [if_pos persists, effect]
    · next again => rw [if_neg again, effect]

/-! ### Tokens: persistent requests (R203, R204) -/

/-- PERSISTENT_REQUEST is activated, queued behind another, or told that the line is lost. -/
theorem execPersistentRequest_next {number : Nat} (h : Claims.tokenEvents (.persistentRequest n number) s t) :
    execPersistentRequest n number s = .next t := by
  obtain ⟨home, effect⟩ := h
  simp only [execPersistentRequest, home, Bool.not_true, Bool.false_eq_true, if_false]
  split at effect
  · next lost => rw [if_pos lost, effect]
  · next present =>
    rw [if_neg present]
    cases active : (s.line n).active with
    | none =>
      simp only [active] at effect ⊢
      rw [effect]
    | some m =>
      have known : (m == reqBase number || (s.line n).queue.contains (reqBase number)) = true ↔
          m = reqBase number ∨ reqBase number ∈ (s.line n).queue := by simp
      simp only [active, known] at effect ⊢
      split at effect
      · next waits => rw [if_pos waits, effect]
      · next comes => rw [if_neg comes, effect]

/-- PERSISTENT_SATISFIED deactivates the request and activates the next one that is queued. -/
theorem execPersistentSatisfied_next {number : Nat} (h : Claims.tokenEvents (.persistentSatisfied n number) s t) :
    execPersistentSatisfied n number s = .next t := by
  obtain ⟨active, effect⟩ := h
  simp only [execPersistentSatisfied, active, bne_self_eq_false, Bool.false_eq_true, if_false]
  cases served : nextServed (s.line n).queue (reqBase number) with
  | none =>
    simp only [served] at effect ⊢
    rw [effect]
  | some r =>
    simp only [served] at effect ⊢
    rw [effect]

/-- ACTIVATION_MESSAGE is recorded by the slice where it is newer than the last, and the slice gives up its tokens. -/
theorem execActivationMessage_next {dst : Activation} (h : Claims.tokenEvents (.activationMessage n dst) s t) :
    execActivationMessage n dst s = .next t := by
  obtain ⟨number, num⟩ := dst
  obtain ⟨answers, m, found, effect⟩ := h
  simp only [execActivationMessage, answers, Bool.and_true, found]
  split at effect
  · next stale => rw [if_pos stale, effect]
  · next newer =>
    rw [if_neg newer]
    have recorded : ((s.modLine n fun l => { l with actMsgs := l.actMsgs.erase m }).modLine n fun l =>
        l.setHolder { (s.line n).held (reqBase number) with seen := m.num, forward := m.active }) =
          (s.modLine n fun l => { l with actMsgs := l.actMsgs.erase m }).modLine n fun l =>
            l.setHolder { l.held (reqBase number) with seen := m.num, forward := m.active } :=
      State.modLine_congr <| by
        rw [State.line_modLine_same s (s.line_line n)]
        rfl
    dsimp only at recorded effect
    rw [recorded] at effect
    cases active : m.active with
    | none =>
      simp only [active] at effect ⊢
      rw [effect]
    | some k =>
      simp only [active, beq_iff_eq] at effect ⊢
      rw [effect]

/-! ### Tokens: lost lines and evictions (R201, R205, R206) -/

/-- OWNER_TIMEOUT loses the line of an active request; where the directory has no room it begins its time-out again. -/
theorem execOwnerTimeout_next (h : Claims.tokenEvents (.ownerTimeout n) s t) : execOwnerTimeout n s = .next t := by
  obtain ⟨active, rfl⟩ | ⟨r, d, active, timer, due, effect⟩ := h
  · simp only [execOwnerTimeout, active]
  · have full : (decide (Config.lostEntries ≤ s.fabric.lostDir.length) && !s.fabric.lostDir.contains n) = true ↔
        Config.lostEntries ≤ s.fabric.lostDir.length ∧ n ∉ s.fabric.lostDir := by simp
    simp only [execOwnerTimeout, active, timer, Nat.not_lt.2 due, full, if_false]
    split at effect
    · next full =>
      rw [if_pos full, effect]
      exact congrArg Host.Outcome.next (State.modLine_congr rfl)
    · next room => rw [if_neg room, effect]

/-- L2_EVICTION of a slice that answers sends its tokens home. -/
theorem execL2Eviction_next {holder : Nat} (h : Claims.tokenEvents (.l2Eviction n holder) s t) :
    execL2Eviction n holder s = .next t := by
  obtain ⟨answers, rfl⟩ := h
  rw [execL2Eviction, if_pos answers]

/-- DIRECTORY_ENTRY_FREE begins the epochs of a settled line again once no member of its pool is silent. -/
theorem execDirectoryEntryFree_next (h : Claims.tokenEvents (.directoryEntryFree n) s t) :
    execDirectoryEntryFree n s = .next t := by
  obtain ⟨present, settled, listed, answer, rfl⟩ := h
  have heard : s.someSilent (s.line n) = false := by
    rw [State.someSilent]
    cases pool : s.pool? (s.line n).pool with
    | none => rfl
    | some p => simpa using answer p pool
  have frees : s.entryFrees (s.line n) = true := by simp [State.entryFrees, present, settled, listed, heard]
  simp only [execDirectoryEntryFree, frees, Bool.not_true, Bool.false_eq_true, if_false]

/-- STALE_EPOCH_DISCARD takes away a message of an earlier epoch. -/
theorem execStaleEpochDiscard_next {msg : Nat} (h : Claims.tokenEvents (.staleEpochDiscard n msg) s t) :
    execStaleEpochDiscard n msg s = .next t := by
  obtain ⟨⟨m, mem, isMsg, earlier⟩, rfl⟩ := h
  rw [execStaleEpochDiscard]
  split
  · next none => exact absurd (by simp [isMsg, earlier]) (List.find?_eq_none.1 none m mem)
  · rfl

/-! ### Service: the commit of a round (R235) -/

/-- DET_ROUND_COMMIT begins a commit once its round is over and its lines can be had, goes on with it, and ends it. -/
theorem execDetRoundCommit_next {launch : Nat} (h : Claims.tokenEvents (.detRoundCommit launch) s t) :
    execDetRoundCommit launch s = .next t := by
  obtain ⟨l, isLaunch, det, effect⟩ := h
  simp only [execDetRoundCommit, isLaunch, det, Bool.not_true, Bool.false_eq_true, if_false]
  split at effect
  · next committing =>
    obtain ⟨idle, effect⟩ := effect
    rw [if_pos committing, idle, List.isEmpty_nil]
    simp only [Bool.not_true, Bool.false_eq_true, if_false, Bool.not_eq_true', List.isEmpty_eq_false_iff]
    split at effect
    · next passes => rw [if_pos passes, effect]
    · next none =>
      rw [if_neg none]
      subst effect
      rfl
  · next runs =>
    obtain ⟨isOver, rfl⟩ := effect
    rw [if_neg runs]
    simp [isOver]

end

/-! ### The obligations -/

/-- Settles O25: each of the events by its own lemma; no other event is claimed of. -/
theorem tokenEventsComplete : Obligations.TokenEventsComplete := by
  unfold Obligations.TokenEventsComplete Claims.Occurs
  intro i s t h
  cases i with
  | coherenceRequest n number write holder => exact execCoherenceRequest_next h
  | tokenArrival n got => exact execTokenArrival_next h
  | attemptTimeout n number => exact execAttemptTimeout_next h
  | persistentRequest n number => exact execPersistentRequest_next h
  | persistentSatisfied n number => exact execPersistentSatisfied_next h
  | activationMessage n dst => exact execActivationMessage_next h
  | ownerTimeout n => exact execOwnerTimeout_next h
  | l2Eviction n holder => exact execL2Eviction_next h
  | l1CopyExpiry core n => exact congrArg Host.Outcome.next (Eq.symm h)
  | directoryEntryFree n => exact execDirectoryEntryFree_next h
  | staleEpochDiscard n msg => exact execStaleEpochDiscard_next h
  | detRoundCommit launch => exact execDetRoundCommit_next h
  | _ => exact h.elim

end Sys2Proof.Machine
end

section

/-! SUPPORT. What the events of the device come to (spec 09 R197 to R199, 10 R225, 22 R449 to R456): each event has a lemma
`…_next`, which says that where the claim about it holds the event answers the state that the claim names. -/

namespace Sys2Proof.Machine

/-! ### Mem: the bytes of a number -/

/-- The bytes of a word are those of its number, lowest first. -/
theorem map_wordByte_range (w : Word) : (List.range 4).map (wordByte w) = bytesOfNat 4 w.toNat := by
  have byte (i : Nat) : wordByte w i = BitVec.ofNat 8 (w.toNat / 2 ^ (8 * i)) := by
    apply BitVec.eq_of_toNat_eq
    rw [wordByte, BitVec.extractLsb'_toNat, BitVec.toNat_ofNat, Nat.shiftRight_eq_div_pow]
  simp only [bytesOfNat, List.range, List.range.loop, List.map, byte, Nat.div_div_eq_div_mul]
  simp

/-! ### Regs: a link's status register (R455) -/

/-- An offset outside a block of registers does not lie in it. -/
theorem not_inBlock {offset base n : Nat} (outside : offset < base ∨ base + n ≤ offset) :
    (decide (base ≤ offset) && decide (offset < base + n)) = false := by
  simp only [Bool.and_eq_false_iff, decide_eq_false_iff_not]
  omega

/-- Before READY a link's status register reads as zero. -/
theorem State.barWord_link_of_notReady {s : State} (notReady : s.life.readyFlag = false) (link : Nat) :
    s.barWord 0 (0x600000 + 16 * link) = 0 := by
  have mail := not_inBlock (offset := 0x600000 + 16 * link) (base := 0x500000) (n := 0x100) (by omega)
  have first : decide (0x600000 + 16 * link = 0) = false := decide_eq_false (by omega)
  simp only [State.barWord, mail, first, notReady, Bool.and_false, Bool.not_false, Bool.false_eq_true, if_false, if_true]

/-- From READY on it reads as the link's word. -/
theorem State.barWord_link_of_ready {s : State} (ready : s.life.readyFlag = true) {link : Nat} {l : Link}
    (isLink : s.life.links[link]? = some l) (inRange : link < 12) : s.barWord 0 (0x600000 + 16 * link) = l.regWord := by
  have outside (base n : Nat) (h : base + n ≤ 0x600000) :=
    not_inBlock (offset := 0x600000 + 16 * link) (base := base) (n := n) (Or.inr (by omega))
  have isNot (k : Nat) (h : k < 0x600000) : (0x600000 + 16 * link = k) = False := eq_false (by omega)
  have inside : (decide (0x600000 ≤ 0x600000 + 16 * link) && decide (0x600000 + 16 * link < 0x600000 + 0xC0) &&
      decide ((0x600000 + 16 * link) % 16 = 0)) = true := by
    simp only [Bool.and_eq_true, decide_eq_true_eq]
    omega
  have number : (0x600000 + 16 * link - 0x600000) / 16 = link := by omega
  simp only [State.barWord, outside 0x500000 0x100 (by omega), outside 0x100000 0x4000 (by omega),
    outside 0x200000 0x800 (by omega), outside 0x300000 0x100 (by omega), outside 0x500000 0x800 (by omega), isNot 0 (by omega),
    isNot 0x400000 (by omega), isNot 0x400008 (by omega), isNot 0x400010 (by omega), isNot 0x400014 (by omega), inside, number,
    ready, isLink, Bool.and_false, decide_false, Bool.not_true, bne_self_eq_false, Bool.false_eq_true, if_false, if_true,
    Option.map_some, Option.getD_some]

/-- The four bytes of a link's status register come from its word. -/
theorem State.barBytes_link (s : State) (link : Nat) :
    s.barBytes 0 (0x600000 + 16 * link) 4 = bytesOfNat 4 (s.barWord 0 (0x600000 + 16 * link)).toNat := by
  rw [State.barBytes, ← map_wordByte_range]
  refine List.map_congr_left fun i hi => ?_
  have small := List.mem_range.1 hi
  rw [show (0x600000 + 16 * link + i) / 4 * 4 = 0x600000 + 16 * link by omega,
    show (0x600000 + 16 * link + i) % 4 = i by omega]

/-- Before READY a read of registers clears nothing. -/
theorem State.clearReplay_of_notReady {s : State} (notReady : s.life.readyFlag = false) (func offset n : Nat) :
    s.clearReplay func offset n = s := by
  simp only [State.clearReplay, notReady, Bool.and_false, Bool.false_eq_true, if_false]

/-- A read of one link's status register clears that link's REPLAY alone. -/
theorem State.clearReplay_link {s : State} (ready : s.life.readyFlag = true) (link : Nat) :
    s.clearReplay 0 (0x600000 + 16 * link) 4 = s.modLife fun d => { d with
      links := d.links.mapIdx fun k l => if k = link then { l with replay := 0 } else l } := by
  have reads (k : Nat) : overlaps (0x600000 + 16 * k) 4 (0x600000 + 16 * link) 4 = true ↔ k = link := by
    simp only [overlaps, Bool.and_eq_true, decide_eq_true_eq]
    omega
  have seen : (decide (0 = 0) && s.life.readyFlag) = true := by simp [ready]
  unfold State.clearReplay
  extract_lets read
  rw [if_pos seen]
  simp only [read, reads]
  rfl

section
variable {s t : State}

/-- A change of what belongs to the device's life is decided by what it makes of it as it is. -/
theorem State.modLife_congr {f g : DeviceLife → DeviceLife} (h : f s.life = g s.life) : s.modLife f = s.modLife g :=
  congrArg (fun d => { s with life := d }) h

/-! ### Device: the host's accesses (R197, R198, R225, R454) -/

/-- Where the claims say that an access of the host reaches device memory, it does. -/
theorem reaches_iff {adr n : Nat} : Claims.inReach s adr n ↔ (!s.life.readyFlag || !inDevice adr n) = false := by
  simp [Claims.inReach]

theorem not_reaches_iff {adr n : Nat} : ¬ Claims.inReach s adr n ↔ (!s.life.readyFlag || !inDevice adr n) = true := by
  rw [reaches_iff, Bool.not_eq_false]

/-- HOST_WRITE stores what falls on lines that can be had, and poisons its lines where it comes poisoned. -/
theorem execHostWrite_next {adr : Nat} {data : List Byte} {poisoned relaxed : Bool}
    (h : Claims.deviceEvents (.hostWrite adr data poisoned relaxed) s t) : execHostWrite adr data poisoned relaxed s = .next t := by
  obtain ⟨outside, rfl⟩ | ⟨inside, rfl, rfl⟩ | ⟨inside, rfl, rfl⟩ := h
  · rw [execHostWrite, if_pos (not_reaches_iff.1 outside)]
  · simp only [execHostWrite, reaches_iff.1 inside, Bool.false_eq_true, if_false, if_true]
  · simp only [execHostWrite, reaches_iff.1 inside, Bool.false_eq_true, if_false]

/-- HOST_READ answers with a function's registers, or with device memory as the host sees it. -/
theorem execHostRead_next {src : HostAt} {n : Nat} (h : Claims.deviceEvents (.hostRead src n) s t) :
    execHostRead src n s = .next t := by
  obtain ⟨bar, adr⟩ := src
  cases bar with
  | some func =>
    subst h
    rfl
  | none =>
    obtain ⟨outside, rfl⟩ | ⟨inside, rfl⟩ := h
    · simp only [execHostRead, not_reaches_iff.1 outside, if_true]
    · simp only [execHostRead, reaches_iff.1 inside, Bool.false_eq_true, if_false]

/-- HOST_ATOMICOP is refused, answered as poisoned, or performed at the home. -/
theorem execHostAtomicop_next {op : HostAtomic} {eight : Bool} {adr : Nat} {operand compare : DWord}
    (h : Claims.deviceEvents (.hostAtomicop op eight adr operand compare) s t) :
    execHostAtomicop op eight adr operand compare s = .next t := by
  obtain ⟨outside, rfl⟩ | ⟨inside, aligned, dead, rfl⟩ | ⟨inside, aligned, alive, good, rfl⟩ := h
  · have refused : (!s.life.readyFlag || !inDevice adr (if eight then 8 else 4) ||
        adr % (if eight then 8 else 4) != 0) = true := by
      rw [Bool.or_eq_true, ← not_reaches_iff, bne_iff_ne]
      tauto
    simp only [execHostAtomicop, refused, if_true]
  · have failed : (s.rangeDead adr (if eight then 8 else 4) || (s.mem.badWord adr (if eight then 8 else 4)).isSome) = true := by
      rwa [Bool.or_eq_true]
    simp only [execHostAtomicop, reaches_iff.1 inside, aligned, failed, bne_self_eq_false, Bool.or_self,
      Bool.false_eq_true, if_false, if_true]
  · simp only [execHostAtomicop, reaches_iff.1 inside, aligned, alive, good, Option.isSome_none, bne_self_eq_false, Bool.or_self,
      Bool.false_eq_true, if_false]

/-- PATROL_SCRUB goes over the words of a line that is at home. -/
theorem execPatrolScrub_next {line : Nat} (h : Claims.deviceEvents (.patrolScrub line) s t) :
    execPatrolScrub line s = .next t := by
  obtain ⟨home, inside, rfl⟩ := h
  simp only [execPatrolScrub, home, inside, bne_self_eq_false, Bool.not_true, Bool.or_self, Bool.false_eq_true, if_false]
  rfl

/-! ### Device: power (R456) -/

/-- The halt of the device, with the way a unit is retired left open: the event and the claim write that step differently. -/
def haltedBy (retire : State → Unit → State) (s : State) (die : Nat) : State :=
  let s1 := (s.fe.launches.filter fun l => !l.over').foldl (fun s l => s.failLaunch l.key 0 0) s
  ({ s1.units.foldl retire s1 with issuing := [] } : State).failDevice 6 die

/-- THERMAL_STOP halts the device. -/
theorem execThermalStop_next (die : Nat) (s : State) : execThermalStop die s = .next (Claims.halted s die) := by
  refine congrArg (fun retire => Host.Outcome.next (haltedBy retire s die)) (funext₂ fun s u => ?_)
  cases s.unit? u.key <;> rfl

/-- POWER_SAMPLE is taken by the power controller, and halts the device at 110 °C. -/
theorem execPowerSample_next {watts tj : Nat} (h : Claims.deviceEvents (.powerSample watts tj) s t) :
    execPowerSample watts tj s = .next t := by
  obtain ⟨s1, sampled, effect⟩ : ∃ s1, s1 = (s.modLife fun d => d.sampled watts tj) ∧
      t = if tj < 110 then s1 else Claims.halted s1.draw.2 (Config.freeNat s1.draw.1 % 4) :=
    ⟨_, congrArg s.modLife (funext fun d => by
      simp only [DeviceLife.sampled, Bool.or_eq_true, Bool.and_eq_true, decide_eq_true_eq]), h⟩
  rw [execPowerSample, ← sampled, effect]
  split
  · rfl
  · exact execThermalStop_next ..

/-! ### Device: bring-up and resets (R449 to R451) -/

/-- FIRMWARE_MEASURED refuses an image that is not signed or too old, and measures any other. -/
theorem execFirmwareMeasured_next {core : Nat} {images : List (List Byte)} {sign : FirmSign} {version : Nat}
    (h : Claims.deviceEvents (.firmwareMeasured core images sign version) s t) :
    execFirmwareMeasured core images sign version s = .next t := by
  have verifies : signVerifies sign (images.headD []) = true ↔ Claims.signed sign (images.headD []) := by
    simp [signVerifies, Claims.signed, and_assoc]
  obtain ⟨early, inRange, ⟨bad, rfl⟩ | ⟨good, old, rfl⟩ | ⟨good, recent, rfl⟩⟩ := h
  all_goals
    have measures : (decide (1 < s.life.stage) || decide (8 ≤ core)) = false := by
      simp only [Bool.or_eq_false_iff, decide_eq_false_iff_not]
      omega
    simp only [execFirmwareMeasured, measures, Bool.false_eq_true, if_false]
  · have fails : signVerifies sign (images.headD []) = false := by rwa [← Bool.not_eq_true, verifies]
    simp only [fails, Bool.not_false, if_true]
  · simp only [verifies.2 good, old, Bool.not_true, Bool.false_eq_true, if_false, if_true]
  · simp only [verifies.2 good, Nat.not_lt.2 recent, Bool.not_true, Bool.false_eq_true, if_false]
    refine congrArg Host.Outcome.next (State.modLife_congr ?_)
    cases s.life.lowVersion <;> simp

/-- CALIBRATION_DONE goes on to stage 3 with the links up, or fails the device. -/
theorem execCalibrationDone_next {code detail : Nat} (h : Claims.deviceEvents (.calibrationDone code detail) s t) :
    execCalibrationDone code detail s = .next t := by
  obtain ⟨stage, ⟨rfl, rfl⟩ | ⟨fails, rfl⟩⟩ := h
  · simp [execCalibrationDone, stage]
  · obtain rfl | rfl := fails <;> simp [execCalibrationDone, stage]

/-- READY begins stage 4 once memory is written, or fails on a stack. -/
theorem execReady_next {failed : Bool} (h : Claims.deviceEvents (.ready failed) s t) : execReady failed s = .next t := by
  obtain ⟨stage, ⟨rfl, rfl⟩ | ⟨rfl, zeroed, rfl⟩⟩ := h
  · simp [execReady, stage]
  · have written : ¬ s.life.zeroed < deviceBytes := Nat.not_lt.2 zeroed
    simp only [execReady, stage, written, bne_self_eq_false, Bool.false_eq_true, if_false]
    rfl

/-- FUNCTION_LEVEL_RESET cancels a virtual function's work and disables its queues. -/
theorem execFunctionLevelReset_next {vf : Nat} (h : Claims.deviceEvents (.functionLevelReset vf) s t) :
    execFunctionLevelReset vf s = .next t := by
  obtain ⟨first, last, rfl⟩ := h
  have isVf : ¬ (vf = 0 ∨ 16 < vf) := by omega
  simp [execFunctionLevelReset, isVf]

/-! ### Regs: LINK_STATUS_READ (R455) -/

/-- LINK_STATUS_READ answers with the link's word and clears its REPLAY; before READY it answers zero. -/
theorem execLinkStatusRead_next {link : Nat} (h : Claims.deviceEvents (.linkStatusRead link) s t) :
    execLinkStatusRead link s = .next t := by
  obtain ⟨notReady, inRange, rfl⟩ | ⟨l, ready, inRange, isLink, rfl⟩ := h
  · rw [execLinkStatusRead, State.readBar, if_pos (Nat.zero_le 16), State.barBytes_link, State.barWord_link_of_notReady notReady,
      State.clearReplay_of_notReady (s := s.completeHost _ _ false) notReady]
    rfl
  · rw [execLinkStatusRead, State.readBar, if_pos (Nat.zero_le 16), State.barBytes_link,
      State.barWord_link_of_ready ready isLink inRange, State.clearReplay_link (s := s.completeHost _ _ false) ready, Link.regWord,
      BitVec.toNat_ofNat]

/-! ### Device: stored words and configuration space -/

/-- STORED_WORD_ERROR strikes the place that it names. -/
theorem execStoredWordError_next {site : StoreSite} {flip : Word} {codeFlip : Byte}
    (h : Claims.deviceEvents (.storedWordError site flip codeFlip) s t) : execStoredWordError site flip codeFlip s = .next t := by
  cases site with
  | reg unit fid slot =>
    subst h
    refine congrArg (fun f => Host.Outcome.next (s.modFibre unit fid f)) (funext fun f => ?_)
    cases tget f.stack slot <;> rfl
  | mem | cap | result | line =>
    subst h
    rfl

/-- The codes of Device Control 2 that PCIe does not reserve. -/
theorem cplRange_isSome : ∀ code < 16, (cplRange code).isSome = true ↔ code ∈ [0, 1, 2, 5, 6, 9, 10, 13, 14] := by decide

/-- HOST_CONFIG_REQUEST is retried before stage 2, and then reads or writes the register of a function that there is. -/
theorem execHostConfigRequest_next {ask : ConfigAsk} (h : Claims.deviceEvents (.hostConfigRequest ask) s t) :
    execHostConfigRequest s ask = .next t := by
  obtain ⟨func, reg, v⟩ := ask
  have calibrates : s.life.calibrates = false ↔ s.life.stage < 2 ∨ s.life.stage = 7 ∧ zs 48 ∈ s.life.measure := by
    rw [DeviceLife.calibrates, Bool.and_eq_false_iff, Bool.or_eq_false_iff]
    simp
  obtain ⟨early, rfl⟩ | ⟨late, outside, rfl⟩ | ⟨late, inside, rfl, rfl⟩ | ⟨late, inside, w, rfl, rfl⟩ := h
  · simp only [execHostConfigRequest, calibrates.2 early, Bool.not_false, if_true]
  all_goals
    have begun : s.life.calibrates = true := by rwa [← Bool.not_eq_false, calibrates]
    simp only [execHostConfigRequest, begun, Bool.not_true, Bool.false_eq_true, if_false]
  · rw [if_pos outside]
  · rw [if_neg (Nat.not_lt.2 inside)]
    cases reg with
    | ids => rfl
    | classRev => rfl
    | devCtl2 => simp only [State.configWord, BitVec.toNat_ofNat]
  · rw [if_neg (Nat.not_lt.2 inside), State.configWrite]
    have written : (reg == .devCtl2 && (cplRange (w.toNat % 16)).isSome) = true ↔
        reg = .devCtl2 ∧ w.toNat % 16 ∈ [0, 1, 2, 5, 6, 9, 10, 13, 14] := by
      rw [Bool.and_eq_true, beq_iff_eq, cplRange_isSome _ (Nat.mod_lt _ (by decide))]
    simp only [written]

end

/-! ### The obligations -/

/-- Settles O34: each of the events by its own lemma; no other event is claimed of. -/
theorem deviceEventsComplete : Obligations.DeviceEventsComplete := by
  unfold Obligations.DeviceEventsComplete Claims.Occurs
  intro i s t h
  cases i with
  | hostWrite adr data poisoned relaxed => exact execHostWrite_next h
  | hostRead src n => exact execHostRead_next h
  | hostAtomicop op eight adr operand compare => exact execHostAtomicop_next h
  | patrolScrub line => exact execPatrolScrub_next h
  | powerSample watts tj => exact execPowerSample_next h
  | thermalStop die => exact (execThermalStop_next die s).trans (congrArg Host.Outcome.next (Eq.symm h))
  | firmwareMeasured core images sign version => exact execFirmwareMeasured_next h
  | calibrationDone code detail => exact execCalibrationDone_next h
  | ready failed => exact execReady_next h
  | functionLevelReset vf => exact execFunctionLevelReset_next h
  | linkStatusRead link => exact execLinkStatusRead_next h
  | storedWordError site flip codeFlip => exact execStoredWordError_next h
  | hostConfigRequest ask => exact execHostConfigRequest_next h
  | moduleReset | flitReplay | linkRetrain | lineStateStoreFault => exact congrArg Host.Outcome.next (Eq.symm h)
  | _ => exact h.elim

end Sys2Proof.Machine
end

section

/-! SUPPORT. How the instructions of the fabric are carried out (spec 11 R239 to R262): what the shared access, request and
acquire of the model come to where the claims about them hold, and from these a lemma `…_carriesOut` for each instruction. -/

namespace Sys2Proof.Machine

/-! ### Issue: instructions whose effect reaches beyond their fibre (R50, R60) -/

/-- The claim of a table about one instruction. -/
def Claims.CarriesOutAt (table : Instr → Option Claims.Reach) (i : Instr) : Prop :=
  ∀ (o : Op) (R : Ctx → State → State → Prop), table i = some (o, R) →
    ∀ (s : State) (u : Unit) (f : Fibre) (t : State), s.Clear u f o →
      R { u := u, f := f.seen o } (s.passed u f o) t → exec i s = .next (s.closed u f o t)

/-- A table's claim is its claim about each instruction. -/
theorem Claims.carriesOutWhere_iff {table : Instr → Option Claims.Reach} :
    Claims.CarriesOutWhere table ↔ ∀ i, Claims.CarriesOutAt table i := Iff.rfl

/-- A table says nothing of an instruction that it does not list. -/
theorem Claims.carriesOutAt_of_none {table : Instr → Option Claims.Reach} {i : Instr} (hi : table i = none) :
    Claims.CarriesOutAt table i := by
  intro o R listed
  rw [hi] at listed
  cases listed

section
variable {table : Instr → Option Claims.Reach} {i : Instr} {o : Op} {R : Ctx → State → State → Prop} {eff : Ctx → State → Fx}

/-- An instruction that is issued, and whose effect is done where the claim holds, is carried out. -/
theorem Claims.carriesOutAt_of_issue (hi : table i = some (o, R)) (runs : ∀ s, exec i s = s.issue o eff)
    (done : ∀ x s t, R x s t → eff x s = .done t) : Claims.CarriesOutAt table i := by
  intro o' R' listed s u f t clear effect
  cases hi.symm.trans listed
  exact (runs s).trans (issue_done clear (done _ _ _ effect))

/-- Passing an instruction leaves alone whether a unit's launch has SYS. -/
@[simp] theorem State.passed_sysOf (s : State) (u : Unit) (f : Fibre) (o : Op) : (s.passed u f o).sysOf = s.sysOf := rfl

/-- In a launch with SYS the turn of a privileged instruction is that of any other (R60). -/
theorem State.privileged_of_sys {s : State} {u : Unit} {f : Fibre} (turn : s.turn u f) (sys : s.sysOf u = true)
    (run : Host.Outcome State Fault Refusal) : s.privileged run = run := by
  obtain ⟨g, current, -⟩ := turn
  simp only [State.privileged, current, sys, if_true]

/-- A privileged instruction, whose claim asks for SYS, is carried out where its effect is done. -/
theorem Claims.carriesOutAt_of_privileged (hi : table i = some (o, R))
    (runs : ∀ s, exec i s = s.privileged (s.issue o eff)) (sys : ∀ x s t, R x s t → s.sysOf x.u = true)
    (done : ∀ x s t, R x s t → eff x s = .done t) : Claims.CarriesOutAt table i := by
  intro o' R' listed s u f t clear effect
  cases hi.symm.trans listed
  rw [runs, State.privileged_of_sys clear.cur (sys _ _ _ effect)]
  exact issue_done clear (done _ _ _ effect)

end

/-! ### Fabric: orders and scopes (R217, R223) -/

/-- The scopes from `.gang` on are those beyond the unit. -/
theorem one_le_scopeNum_iff {scope : Scope} : 1 ≤ scopeNum scope ↔ scope ≠ .unit := by
  cases scope <;> decide

/-- An order acquires where it is `.acq` or `.ar`. -/
theorem acquires_iff {order : Order} : acquires order = true ↔ order = .acq ∨ order = .ar := by
  simp [acquires]

/-- An order releases where it is `.rel` or `.ar`. -/
theorem releases_iff {order : Order} : releases order = true ↔ order = .rel ∨ order = .ar := by
  simp [releases]

/-- Whether an order acquires, as the claims write it. -/
theorem acquires_eq (order : Order) : acquires order = decide (order = .acq ∨ order = .ar) := by
  rw [Bool.eq_iff_iff, acquires_iff, decide_eq_true_eq]

/-- The class of an atomic, as the claims write it (R218). -/
theorem atomicClass_eq (m : MMod) : atomicClass m = if m.order = .rel ∨ m.order = .ar then .rel else .at := by
  simp only [atomicClass, releases_iff]

/-! ### Fabric: requests (R235, R239 to R241) -/

section
variable {x : Ctx} {s t : State} {kind : ReqKind} {cls : AccClass} {acq : Bool} {sc : Scope} {a : Acc} {size : Nat}
  {dests last : List Nat}

/-- A request that the claims find stranded is one that waits at the commit. -/
theorem State.tokensWait_eq (s : State) (u : Unit) (r : Req) : s.tokensWait u r = Claims.stranded s u r := rfl

/-- A request that no transfer holds back is left with the fabric, or performed at the commit of its DET round
(log 29). -/
theorem State.request_done (h : Claims.requests kind cls acq sc a size dests last x s t) :
    s.request x kind cls acq sc a size dests last = .done t := by
  obtain ⟨ranges, host, isHost, effect⟩ := h
  dsimp only at isHost effect
  have leaves : (s.detOf x.u && a.space == 4 && (s.newReq x kind cls acq sc a size dests last).isAtomic &&
      !x.u.phantom a.key) = host := by
    rw [Bool.eq_iff_iff, isHost]
    simp [and_assoc]
  have gathers : ((s.newReq x kind cls acq sc a size dests last).gathers && !x.u.phantom a.key) = true ↔
      (s.newReq x kind cls acq sc a size dests last).gathers = true ∧ x.u.phantom a.key = false := by simp
  have commits : (s.detOf x.u && !host && !Claims.stranded s x.u (s.newReq x kind cls acq sc a size dests last)) = true ↔
      s.detOf x.u = true ∧ host = false ∧ Claims.stranded s x.u (s.newReq x kind cls acq sc a size dests last) = false := by
    simp [and_assoc]
  simp only [State.request, ranges, leaves, State.tokensWait_eq, commits, gathers, Bool.false_eq_true, if_false]
  split at effect
  · next performed =>
    rw [if_pos performed]
    split at effect
    · next gathered => simp only [if_pos gathered, effect]
    · next stays => simp only [if_neg stays, effect]
  · next left => simp only [if_neg left, effect]

end

section
variable {i : Instr} {o : Op} {eff : Ctx → State → Fx} {p : MemOp} {kind : Fibre → ReqKind} {dests last : List Nat}

/-- An instruction that requests an atomic where its access may be made is carried out. -/
theorem Claims.carriesOutAt_of_atomic {size : Nat} {pcie : Bool} {m : MMod}
    (hi : Claims.fabrics i = some (o, Claims.atomics p size pcie m kind dests last)) (runs : ∀ s, exec i s = s.issue o eff)
    (asks : ∀ x s a, s.reachAtomic x p size pcie = .ok a →
      eff x s = s.request x (kind x.f) (atomicClass m) (acquires m.order) m.scope a size dests last) :
    Claims.CarriesOutAt Claims.fabrics i := by
  refine Claims.carriesOutAt_of_issue hi runs fun x s t h => ?_
  obtain ⟨a, reach, made⟩ := h
  rw [asks x s a reach, atomicClass_eq, acquires_eq]
  exact State.request_done made

/-- An instruction that requests the update of a barrier object where its access may be made is carried out. -/
theorem Claims.carriesOutAt_of_bar {need : Byte} {cls : AccClass} {sc : Scope}
    (hi : Claims.fabrics i = some (o, Claims.bars p need kind cls sc dests last)) (runs : ∀ s, exec i s = s.issue o eff)
    (asks : ∀ x s a, s.reachBar x p need = .ok a → eff x s = s.request x (kind x.f) cls false sc a 8 dests last) :
    Claims.CarriesOutAt Claims.fabrics i := by
  refine Claims.carriesOutAt_of_issue hi runs fun x s t h => ?_
  obtain ⟨a, reach, made⟩ := h
  rw [asks x s a reach]
  exact State.request_done made

end

/-! ### Atomics (R243 to R246) -/

/-- The operations that PCIe has, as the claims write them (R240, R241). -/
theorem amoPcie_eq (op : AmoOp) : amoPcie op = (op == .add || op == .swap) := by
  cases op <;> rfl

/-- AMO is carried out. -/
theorem execAmo_carriesOut (c : Ctl) (op : AmoOp) (t : ITy) (m : MMod) (d : VReg) (p : MemOp) (v : Src) :
    Claims.CarriesOutAt Claims.fabrics (.amo c op t m d p v) :=
  Claims.carriesOutAt_of_atomic rfl (fun _ => rfl) fun x s a reach => by simp only [amoPcie_eq, reach]

/-- CAS is carried out. -/
theorem execCas_carriesOut (c : Ctl) (t : ITy) (m : MMod) (d : VReg) (p : MemOp) (v : RSrc) :
    Claims.CarriesOutAt Claims.fabrics (.cas c t m d p v) :=
  Claims.carriesOutAt_of_atomic rfl (fun _ => rfl) fun x s a reach => by simp only [reach]; rfl

/-- CAS16 is carried out. -/
theorem execCas16_carriesOut (c : Ctl) (m : MMod) (d : VReg) (p : MemOp) (v : RSrc) :
    Claims.CarriesOutAt Claims.fabrics (.cas16 c m d p v) :=
  Claims.carriesOutAt_of_atomic rfl (fun _ => rfl) fun x s a reach => by simp only [reach]; rfl

/-- AMOF is carried out. -/
theorem execAmof_carriesOut (c : Ctl) (op : AmofOp) (m : MMod) (d : VReg) (p : MemOp) (v : Src) :
    Claims.CarriesOutAt Claims.fabrics (.amof c op m d p v) :=
  Claims.carriesOutAt_of_atomic rfl (fun _ => rfl) fun x s a reach => by simp only [reach]

/-! ### Fences and strokes (R213, R217, R248, R257) -/

/-- The updates of a barrier object are the arrivals and the transactions. -/
theorem Req.isUpdate_iff {r : Req} : r.isUpdate = true ↔ r.kind = .bararr ∨ ∃ n, r.kind = .bartx n := by
  cases kind : r.kind <;> simp [Req.isUpdate, kind]

/-- An acquire fence waits for the requests that the claims name. -/
theorem Req.heldByAcq_iff {r : Req} {scope : Scope} : r.heldByAcq scope = true ↔ Claims.heldBack r scope := by
  cases kind : r.kind <;> simp [Req.heldByAcq, Claims.heldBack, Req.isUpdate_iff, kind]

/-- A fence waits for no request of its fibre where the claim says so. -/
theorem fence_any_eq_false {order : Order} {scope : Scope} {rs : List Req}
    (h : ∀ r ∈ rs, if order = .acq then ¬ Claims.heldBack r scope else r.cls = .none) :
    (rs.any fun r => if order == .acq then r.heldByAcq scope else r.cls != .none) = false := by
  rw [List.any_eq_false]
  intro r mem
  have free := h r mem
  split at free
  · next acq => simpa [acq, Req.heldByAcq_iff] using free
  · next other => simpa [other] using free

/-- FENCE is carried out. -/
theorem execFence_carriesOut (c : Ctl) (order : Order) (scope : Scope) :
    Claims.CarriesOutAt Claims.fabrics (.fence c order scope) := by
  refine Claims.carriesOutAt_of_issue rfl (fun _ => rfl) fun x s t h => ?_
  obtain ⟨requests, posts, rfl⟩ := h
  have read : (order != .acq && s.unreadPosts x.u x.f) = false := by simpa using posts
  have drops : (acquires order && decide (1 ≤ scopeNum scope)) = true ↔ (order = .acq ∨ order = .ar) ∧ scope ≠ .unit := by
    rw [Bool.and_eq_true, decide_eq_true_eq, acquires_iff, one_le_scopeNum_iff]
  simp only [fence_any_eq_false requests, read, drops, bne_iff_ne, ite_not, Bool.or_self, Bool.false_eq_true, if_false]

/-- STROKE is carried out. -/
theorem execStroke_carriesOut (c : Ctl) : Claims.CarriesOutAt Claims.fabrics (.stroke c) := by
  refine Claims.carriesOutAt_of_issue rfl (fun _ => rfl) fun x s t h => ?_
  rw [h]

/-! ### Barrier objects (R231, R249 to R253) -/

/-- The acquire of a flip is the one that the claims name. -/
theorem State.barAcquire_eq (s : State) (core : Nat) (scope : Scope) :
    s.barAcquire core scope = Claims.flipSeen s core scope := by
  cases scope <;> rfl

/-- BARINIT is carried out. -/
theorem execBarinit_carriesOut (c : Ctl) (scope : Scope) (p : MemOp) (v : Src) :
    Claims.CarriesOutAt Claims.fabrics (.barinit c scope p v) :=
  Claims.carriesOutAt_of_bar rfl (fun _ => rfl) fun x s a reach => by simp only [reach]

/-- BARARR is carried out. -/
theorem execBararr_carriesOut (c : Ctl) (scope : Scope) (d : VReg) (p : MemOp) :
    Claims.CarriesOutAt Claims.fabrics (.bararr c scope d p) :=
  Claims.carriesOutAt_of_bar rfl (fun _ => rfl) fun x s a reach => by simp only [reach]

/-- BARTX is carried out where its byte count can be counted. -/
theorem execBartx_carriesOut (c : Ctl) (scope : Scope) (d : VReg) (p : MemOp) (v : Src) :
    Claims.CarriesOutAt Claims.fabrics (.bartx c scope d p v) := by
  refine Claims.carriesOutAt_of_issue rfl (fun _ => rfl) fun x s t h => ?_
  obtain ⟨fits, a, reach, made⟩ := h
  simp only [State.reachBar, reach, if_neg (Nat.not_lt.2 fits)]
  exact State.request_done made

/-- BARWAIT is carried out where a flip has woken its fibre, or has come; it takes no recorded store fault (log 101). -/
theorem execBarwait_carriesOut (c : Ctl) (scope : Scope) (p : MemOp) (v : Src) :
    Claims.CarriesOutAt Claims.fabrics (.barwait c scope p v) := by
  refine Claims.carriesOutAt_of_issue rfl (fun _ => rfl) fun x s t h => ?_
  obtain ⟨a, reach, effect⟩ := h
  obtain ⟨woken, rfl⟩ | ⟨served, ranges, own, releases, good, flipped, rfl⟩ := effect
  · simp only [State.reachBar, reach, woken, State.barAcquire_eq, if_true]
  · have differs : ((s.mem.dword a.key).getLsbD 63 != (x.f.src32 v).getLsbD 0) = true := by
      rw [flipped]
      exact Bool.not_bne_self _
    simp only [State.reachBar, reach, served, ranges, own, releases, good, differs, State.barAcquire_eq, Bool.or_self,
      Bool.false_eq_true, if_false, if_true]

/-- BARTEST is carried out, whether or not a flip has come. -/
theorem execBartest_carriesOut (c : Ctl) (scope : Scope) (d : PReg) (p : MemOp) (v : Src) :
    Claims.CarriesOutAt Claims.fabrics (.bartest c scope d p v) := by
  refine Claims.carriesOutAt_of_issue rfl (fun _ => rfl) fun x s t h => ?_
  obtain ⟨a, reach, ranges, own, good, releases, rfl⟩ := h
  have order := Bool.and_eq_false_imp.2 releases
  simp only [State.reachBar, reach, ranges, own, good, order, State.barAcquire_eq, Bool.false_eq_true, if_false]

/-! ### Monitors (R255) -/

/-- MWAIT is carried out where its value meets the wait. -/
theorem execMwait_carriesOut (c : Ctl) (ge : Bool) (t : ITy) (m : MMod) (d : VReg) (p : MemOp) (v : Src) :
    Claims.CarriesOutAt Claims.fabrics (.mwait c ge t m d p v) :=
  fun _ _ listed _ _ _ _ clear effect => execMwait_next listed clear effect

/-! ### Line management (R259 to R262) -/

/-- LNFLUSH is carried out. -/
theorem execLnflush_carriesOut (c : Ctl) (p : MemOp) : Claims.CarriesOutAt Claims.fabrics (.lnflush c p) := by
  refine Claims.carriesOutAt_of_issue rfl (fun _ => rfl) fun x s t h => ?_
  obtain ⟨a, reach, effect⟩ := h
  simp only [State.reachLine, reach]
  split at effect
  · next noTokens => simp [noTokens, effect]
  · next tokens =>
    have tokens' := Bool.eq_true_of_not_eq_false tokens
    rw [if_pos tokens', effect]

/-- LNINV is carried out. -/
theorem execLninv_carriesOut (c : Ctl) (p : MemOp) : Claims.CarriesOutAt Claims.fabrics (.lninv c p) := by
  refine Claims.carriesOutAt_of_privileged rfl (fun _ => rfl) (fun _ _ _ ⟨sys, _⟩ => sys) fun x s t h => ?_
  obtain ⟨-, a, reach, made⟩ := h
  simp only [State.reachLine, reach]
  exact State.request_done made

/-- LNRECLAIM is carried out. -/
theorem execLnreclaim_carriesOut (c : Ctl) (m : MMod) (d : VReg) (p : MemOp) (v : RSrc) :
    Claims.CarriesOutAt Claims.fabrics (.lnreclaim c m d p v) := by
  refine Claims.carriesOutAt_of_privileged rfl (fun _ => rfl) (fun _ _ _ ⟨sys, _⟩ => sys) fun x s t h => ?_
  obtain ⟨-, a, reach, made⟩ := h
  simp only [State.reachLine, reach, atomicClass_eq]
  exact State.request_done made

/-- LNSTAT is carried out. -/
theorem execLnstat_carriesOut (c : Ctl) (d : VReg) (p : MemOp) : Claims.CarriesOutAt Claims.fabrics (.lnstat c d p) := by
  refine Claims.carriesOutAt_of_issue rfl (fun _ => rfl) fun x s t h => ?_
  obtain ⟨a, reach, rfl⟩ := h
  simp only [State.reachLine, reach]
  rfl

/-! ### The obligations -/

/-- Settles O17: each of the instructions by its own lemma; no other instruction is in the table. -/
theorem fabricInstructionsComplete : Obligations.FabricInstructionsComplete := by
  unfold Obligations.FabricInstructionsComplete
  rw [Claims.carriesOutWhere_iff]
  intro i
  cases i with
  | amo c op t m d p v => exact execAmo_carriesOut c op t m d p v
  | cas c t m d p v => exact execCas_carriesOut c t m d p v
  | cas16 c m d p v => exact execCas16_carriesOut c m d p v
  | amof c op m d p v => exact execAmof_carriesOut c op m d p v
  | fence c order scope => exact execFence_carriesOut c order scope
  | stroke c => exact execStroke_carriesOut c
  | barinit c scope p v => exact execBarinit_carriesOut c scope p v
  | bararr c scope d p => exact execBararr_carriesOut c scope d p
  | bartx c scope d p v => exact execBartx_carriesOut c scope d p v
  | barwait c scope p v => exact execBarwait_carriesOut c scope p v
  | bartest c scope d p v => exact execBartest_carriesOut c scope d p v
  | mwait c ge t m d p v => exact execMwait_carriesOut c ge t m d p v
  | lnflush c p => exact execLnflush_carriesOut c p
  | lninv c p => exact execLninv_carriesOut c p
  | lnreclaim c m d p v => exact execLnreclaim_carriesOut c m d p v
  | lnstat c d p => exact execLnstat_carriesOut c d p
  | _ => exact Claims.carriesOutAt_of_none rfl

end Sys2Proof.Machine
end

section

/-! SUPPORT. How the transfer instructions are carried out (spec 14 R297 to R304) and what the events of transfers come to (R280,
R282, R291 to R294). Each instruction has a lemma `…_carriesOut` and each event a lemma `…_next`; the acceptance of a parked XFER
performs the instruction, whose lemma then says in which state the machine goes on. -/

namespace Sys2Proof.Machine

/-! ### Transfer: what holds an instruction back (R217, R295) -/

/-- No release and no barrier update is outstanding where the claim says so. -/
theorem Claims.released.outst {f : Fibre} (h : Claims.released f) :
    (f.outst.any fun r => r.cls == .rel || r.cls == .ba) = false := by
  rw [List.any_eq_false]
  intro r mem
  obtain ⟨notRel, notBa⟩ := h r mem
  simp [notRel, notBa]

/-- A fibre whose stores are done, or that does not observe a completion, awaits none of them (R295). -/
theorem not_awaits_stores {f : Fibre} {observes : Bool} (h : f.storesDone = true ∨ observes = false) :
    (!f.storesDone && observes) = false := by
  rcases h with h | h <;> simp [h]

/-! ### Transfer: the instructions (R297 to R304) -/

/-- XFER is carried out where its request has room and its turn. -/
theorem execXfer_carriesOut (c : Ctl) (d : VReg) (ts : Src) (b : Option RSrc) :
    Claims.CarriesOutAt Claims.transfers (.xfer c d ts b) := by
  refine Claims.carriesOutAt_of_issue rfl (fun _ => rfl) fun x s t h => ?_
  obtain ⟨p, plan, released, room, turn, rfl⟩ := h
  have goes : (!x.f.served && s.xbehind x.u.core (p.store x.u) none) = false := by
    rcases turn with served | first
    · simp [served]
    · simp [first]
  simp only [Claims.planned] at plan
  simp only [plan, released.outst, room, goes, Bool.not_true, Bool.or_self, Bool.false_eq_true, if_false]
  rfl

/-- XPROM is carried out: it draws a promise and requests nothing (R301). -/
theorem execXprom_carriesOut (c : Ctl) (d : VReg) (ts : Src) (b : Option RSrc) :
    Claims.CarriesOutAt Claims.transfers (.xprom c d ts b) := by
  refine Claims.carriesOutAt_of_issue rfl (fun _ => rfl) fun x s t h => ?_
  obtain ⟨p, plan, rfl⟩ := h
  simp only [Claims.planned] at plan
  simp only [plan]
  rfl

/-- XTPL is carried out: it binds a side of a template whose reference is to be bound. -/
theorem execXtpl_carriesOut (c : Ctl) (a : CSrc) (ts : Src) (toSide : Bool) :
    Claims.CarriesOutAt Claims.transfers (.xtpl c a ts toSide) := by
  refine Claims.carriesOutAt_of_issue rfl (fun _ => rfl) fun x s t h => ?_
  obtain ⟨tag, perms, ⟨inRange, tp, l, template, layout, kind⟩, rfl⟩ := h
  have permits : ((x.f.cap a.n).perms &&& permX == 0) = false := by simpa using perms
  have binds : (refKind (if toSide then tp.dstRef else tp.srcRef) != 5) = false := by simp [kind]
  simp only [tag, permits, if_pos inRange, template, layout, binds, Bool.not_true, Option.isNone_some, Bool.false_eq_true,
    if_false]

/-- XWAIT is carried out where what its tag names has finished. -/
theorem execXwait_carriesOut (c : Ctl) (a : Src) : Claims.CarriesOutAt Claims.transfers (.xwait c a) := by
  refine Claims.carriesOutAt_of_issue rfl (fun _ => rfl) fun x s t h => ?_
  obtain ⟨done, rfl, stores⟩ := h
  have noFence := not_awaits_stores (stores.imp_right fun unnamed => Option.isSome_eq_false_iff.2 (Option.isNone_iff_eq_none.2 unnamed))
  simp only [done, noFence, Bool.not_true, Bool.false_eq_true, if_false]

/-- XCANCEL is carried out: it takes off the requests that its tag names. -/
theorem execXcancel_carriesOut (c : Ctl) (d : VReg) (a : Src) : Claims.CarriesOutAt Claims.transfers (.xcancel c d a) :=
  Claims.carriesOutAt_of_issue rfl (fun _ => rfl) fun _ _ _ h => congrArg Fx.done (Eq.symm h)

/-- XSTAT is carried out where it observes no completion before its fibre's stores. -/
theorem execXstat_carriesOut (c : Ctl) (d : VReg) (a : Src) : Claims.CarriesOutAt Claims.transfers (.xstat c d a) := by
  refine Claims.carriesOutAt_of_issue rfl (fun _ => rfl) fun x s t h => ?_
  obtain ⟨k, isCore, stores, rfl⟩ := h
  simp only [isCore, not_awaits_stores stores, Bool.false_eq_true, if_false]
  rfl

/-! ### Transfer: the bytes and the stamp of a request (R290, R291) -/

/-- The two words of a sequence number's stamp (R291). -/
theorem regs64_ofNat (n : Nat) :
    regs64 (BitVec.ofNat 64 n) = [fresh (BitVec.ofNat 32 n), fresh (BitVec.ofNat 32 (n / 2 ^ 32))] := by
  have lo : pairLo (BitVec.ofNat 64 n) = BitVec.ofNat 32 n := by
    apply BitVec.eq_of_toNat_eq
    simp only [pairLo, BitVec.toNat_setWidth, BitVec.toNat_ofNat]
    omega
  have hi : pairHi (BitVec.ofNat 64 n) = BitVec.ofNat 32 (n / 2 ^ 32) := by
    apply BitVec.eq_of_toNat_eq
    simp only [pairHi, BitVec.toNat_setWidth, BitVec.toNat_ushiftRight, BitVec.toNat_ofNat, Nat.shiftRight_eq_div_pow]
    omega
  rw [regs64, lo, hi]

section
variable {s t : State} {core req : Nat}

/-- TRANSFER_COMPLETE of a push takes the push's slots; that of any other request moves its bytes, or meets what stops them. -/
theorem execTransferComplete_next (h : Claims.transferEvents (.transferComplete core req) s t) :
    execTransferComplete core req s = .next t := by
  obtain ⟨r, u, p, c, ⟨isReq, isUnit, plan, -⟩, isCore, moves, effect⟩ := h
  simp only [execTransferComplete, isCore, isReq, isUnit, plan, moves, Bool.not_true, Bool.false_eq_true, if_false]
  cases push : p.fifo with
  | some q =>
    simp only [push] at effect
    obtain ⟨unheld, first, room, rfl⟩ := effect
    have notYet : ((s.fifo core q).filling.any fun e => e.1 == req) = false := by simpa using unheld
    have fits : ¬ (s.fifo core q).free < tileSlots p.lay.tileBytes := Nat.not_lt.2 room
    simp only [notYet, first, fits, decide_false, Bool.or_self, Bool.false_eq_true, if_false]
  | none =>
    simp only [push] at effect
    have moved := effect _ rfl
    cases movement : s.movement u r.tmpl p r.rmode p.elems with
    | error _ | ok _ =>
      rw [movement] at moved
      exact congrArg Host.Outcome.next moved.symm

/-- FIFO_PUSH_COMPLETE of the oldest push that holds slots makes its tile READY. -/
theorem execFifoPushComplete_next (h : Claims.transferEvents (.fifoPushComplete core req) s t) :
    execFifoPushComplete core req s = .next t := by
  obtain ⟨r, u, p, c, q, bs, ws, ⟨isReq, isUnit, plan, -⟩, isCore, push, moves, ⟨n, rest, filling⟩, movement, rfl⟩ := h
  have oldest : ((s.fifo core q).filling.head?.map (·.1) != some req) = false := by simp [filling]
  simp only [execFifoPushComplete, isCore, isReq, isUnit, plan, push, moves, oldest, movement, Bool.not_true, Bool.or_self,
    Bool.false_eq_true, if_false]

/-- SEQUENCE_STAMP_WRITE ends a request whose stamp is the next of its template; only a shadow copy's is not written. -/
theorem execSequenceStampWrite_next (h : Claims.transferEvents (.sequenceStampWrite core req) s t) :
    execSequenceStampWrite core req s = .next t := by
  obtain ⟨r, u, p, c, ⟨isReq, isUnit, plan, -⟩, isCore, written, noFault, first, effect⟩ := h
  simp only [execSequenceStampWrite, isCore, isReq, isUnit, plan, written, noFault, first, Option.isSome_none, Bool.not_true,
    Bool.or_self, Bool.false_eq_true, if_false]
  split at effect
  · next shadow => rw [if_pos shadow, effect]
  · next real =>
    obtain ⟨k, key, line, rfl⟩ := effect
    simp only [if_neg real, key, line, regs64_ofNat, List.getD_cons_zero, List.getD_cons_succ]

/-! ### Transfer: faults, pages and lateness (R293, R294) -/

/-- TRANSFER_FAULT ends a request that the failure can befall. -/
theorem execTransferFault_next {why : XferFail} (h : Claims.transferEvents (.transferFault core req why) s t) :
    execTransferFault core req why s = .next t := by
  obtain ⟨r, isReq, fails, rfl⟩ := h
  simp only [execTransferFault, isReq, fails, if_true]

/-- TRANSFER_PAGE_RESUME lets a request go on whose page is mapped. -/
theorem execTransferPageResume_next (h : Claims.transferEvents (.transferPageResume core req) s t) :
    execTransferPageResume core req s = .next t := by
  obtain ⟨r, a, u, isReq, fault, isUnit, mapped, rfl⟩ := h
  simp only [execTransferPageResume, isReq, fault, isUnit, mapped, if_true]

/-- PROMISE_EXPIRY marks a request late and counts it; where lateness traps, the fibre that asked takes XLATE, once. -/
theorem execPromiseExpiry_next (h : Claims.transferEvents (.promiseExpiry core req) s t) :
    execPromiseExpiry core req s = .next t := by
  obtain ⟨r, isReq, notLate, passed, effect⟩ := h
  have due : ¬ s.clk < r.promise := Nat.not_lt.2 passed
  simp only [execPromiseExpiry, isReq, notLate, due, decide_false, Bool.or_self, Bool.false_eq_true, if_false]
  obtain ⟨quiet, rfl⟩ | ⟨n, asker, ⟨unraised, u, p, f, isUnit, plan, noCount, isFibre, owns⟩, rfl⟩ := effect
  · obtain aperture | ⟨n, asker, spared⟩ := quiet
    · simp only [aperture]
    · simp only [asker]
      refine if_neg fun traps => spared ?_
      simp only [Bool.and_eq_true, Bool.not_eq_true'] at traps
      obtain ⟨⟨trap, live⟩, unraised⟩ := traps
      cases isUnit : s.unit? r.unit with
      | none => simp [isUnit] at live
      | some u =>
        cases plan : u.xplanOf r with
        | none => simp [isUnit, plan] at trap
        | some p =>
          simp only [isUnit, plan, Option.bind_some, Bool.not_eq_true'] at trap
          simp only [isUnit, Option.bind_some, Option.any_eq_true] at live
          obtain ⟨f, isFibre, owns⟩ := live
          exact ⟨unraised, u, p, f, rfl, plan, trap, isFibre, owns⟩
  · simp only [asker, isUnit, plan, isFibre, noCount, owns, unraised, Option.bind_some, Option.any_some, Bool.not_false,
      Bool.and_self, if_true]

/-! ### Transfer: the aperture (R12, R282) -/

/-- APERTURE_STORE logs a store that names no channel's request; it accepts any other, or lets it wait. -/
theorem execApertureStore_next {offset size : Nat} {data : DWord}
    (h : Claims.transferEvents (.apertureStore core offset size data) s t) :
    execApertureStore core offset size data s = .next t := by
  have malformed : (size != 8 || offset % 8 != 0 || decide (512 ≤ offset) || data.extractLsb' 6 10 != 0) = true ↔
      size ≠ 8 ∨ offset % 8 ≠ 0 ∨ 512 ≤ offset ∨ data.extractLsb' 6 10 ≠ 0 := by
    simp [or_assoc]
  rw [Claims.transferEvents] at h
  simp only [execApertureStore, malformed]
  split at h
  · next bad => rw [if_pos bad, h]
  · next good =>
    obtain ⟨c, e, u, isCore, channel, isUnit, answer⟩ := h
    simp only [if_neg good, isCore, channel, Option.bind_some, isUnit]
    obtain accepted | ⟨waits, rfl⟩ := answer
    · simp only [accepted]
    · simp only [waits]

/-- TRANSFER_ACCEPT of a word of the aperture that waits and is the next for its queue accepts it. -/
theorem execTransferAccept_next (h : Claims.transferEvents (.transferAccept core req) s t) :
    execTransferAccept core req s = .next t := by
  obtain ⟨c, a, u, w, s1, isCore, waits, isUnit, waiter, first, accepted, rfl⟩ := h
  simp only [execTransferAccept, isCore, Option.map_some, Option.getD_some, waits, isUnit, waiter, first, accepted,
    Bool.false_eq_true, if_false]

end

/-- TRANSFER_ACCEPT of a parked XFER that has room and is the next for its queue performs it, its fibre served (R279, R280). -/
theorem execTransferAccept_of_parked {s : State} {core n m : Nat} {c : Ctl} {d : VReg} {ts : Src} {b : Option RSrc} {u : Unit}
    {f : Fibre} {p : XPlan} (noWord : ∀ k, s.core? core = some k → k.apWait.find? (fun a => a.seq == n) = none)
    (parked : s.parkedXfer core n = some (u, f)) (wait : f.wait = some (.accept (.xfer c d ts b) m))
    (plan : s.xplan u (f.xask ts b).tmpl (f.xask ts b).x = .ok p) (first : s.xbehind core (p.store u) (some n) = false)
    (room : s.xroom u p false = true) :
    execTransferAccept core n s = execXfer c d ts b (Claims.servedAt s u.key f.fid) := by
  have fibre : (((s.core? core).map Core.apWait).getD []).find? (fun a => a.seq == n) = none := by
    cases isCore : s.core? core with
    | none => rfl
    | some k => exact noWord k isCore
  simp only [execTransferAccept, fibre, parked, wait, plan, first, room, Bool.not_true, Bool.or_self, Bool.false_eq_true, if_false]
  rfl

/-! ### The obligations -/

/-- Settles O19: each of the six instructions by its own lemma; no other instruction is in the table. -/
theorem transferInstructionsComplete : Obligations.TransferInstructionsComplete := by
  unfold Obligations.TransferInstructionsComplete
  rw [Claims.carriesOutWhere_iff]
  intro i
  cases i with
  | xfer c d ts b => exact execXfer_carriesOut c d ts b
  | xprom c d ts b => exact execXprom_carriesOut c d ts b
  | xtpl c a ts toSide => exact execXtpl_carriesOut c a ts toSide
  | xwait c a => exact execXwait_carriesOut c a
  | xcancel c d a => exact execXcancel_carriesOut c d a
  | xstat c d a => exact execXstat_carriesOut c d a
  | _ => exact Claims.carriesOutAt_of_none rfl

/-- Settles O26: each of the eight events by its own lemma; no other event is claimed of. -/
theorem transferEventsComplete : Obligations.TransferEventsComplete := by
  unfold Obligations.TransferEventsComplete Claims.Occurs
  intro i s t h
  cases i with
  | transferAccept core req => exact execTransferAccept_next h
  | transferComplete core req => exact execTransferComplete_next h
  | sequenceStampWrite core req => exact execSequenceStampWrite_next h
  | fifoPushComplete core req => exact execFifoPushComplete_next h
  | transferFault core req why => exact execTransferFault_next h
  | transferPageResume core req => exact execTransferPageResume_next h
  | promiseExpiry core req => exact execPromiseExpiry_next h
  | apertureStore core offset size data => exact execApertureStore_next h
  | _ => exact h.elim

/-- Settles O27: the acceptance performs the parked XFER, which is carried out as any other. -/
theorem parkedTransferIsAccepted : Obligations.ParkedTransferIsAccepted := by
  unfold Obligations.ParkedTransferIsAccepted
  rintro s _ core n c d ts b u v f g p o R t noWord parked wait plan first room rfl listed clear effect
  exact (execTransferAccept_of_parked noWord parked wait plan first room).trans
    (execXfer_carriesOut c d ts b o R listed _ v g t clear effect)

end Sys2Proof.Machine
end

section

/-! SUPPORT. How the wire instructions are carried out (spec 16 R353, R354), each by a lemma `…_carriesOut`, and what the events of
the wire come to (R336 to R347), each by a lemma `…_next`. -/

namespace Sys2Proof.Machine

/-! ### Wire: the instructions (R353, R354) -/

/-- RXTAKE is carried out: it takes the oldest slot that a frame has landed in, or finds none. -/
theorem execRxtake_carriesOut (c : Ctl) (d : VReg) (r : Src) : Claims.CarriesOutAt Claims.wires (.rxtake c d r) := by
  refine Claims.carriesOutAt_of_issue rfl (fun _ => rfl) fun x s t h => ?_
  obtain ⟨g, released, isRing, noDrops, effect⟩ := h
  have noTrap : (ringTrap g.desc && g.drops != 0) = false := by simpa using noDrops
  simp only [released.outst, isRing, noTrap, Bool.false_eq_true, if_false]
  cases oldest : g.oldest? .landed with
  | none =>
    simp only [oldest] at effect
    exact congrArg Fx.done effect.symm
  | some k =>
    simp only [oldest] at effect
    exact congrArg Fx.done effect.symm

/-- RXREL is carried out: it frees a slot that was taken, with those before which none is left. -/
theorem execRxrel_carriesOut (c : Ctl) (r o : Src) : Claims.CarriesOutAt Claims.wires (.rxrel c r o) := by
  refine Claims.carriesOutAt_of_issue rfl (fun _ => rfl) fun x s t h => ?_
  obtain ⟨g, k, stores, reads, isRing, size, offset, taken, rfl⟩ := h
  have position : (x.f.src32 o).toNat - ringBase g.desc = k * ringSlotBytes g.desc := by rw [offset, Nat.add_sub_cancel_left]
  have after : ¬ (x.f.src32 o).toNat < ringBase g.desc := by rw [offset]; exact Nat.not_lt.2 (Nat.le_add_right _ _)
  have slot : k * ringSlotBytes g.desc / ringSlotBytes g.desc = k := Nat.mul_div_cancel k (Nat.pos_of_ne_zero size)
  simp only [stores, reads, isRing, after, position, slot, taken, Nat.mul_mod_left, decide_false, bne_self_eq_false,
    Bool.not_true, Bool.or_self, Bool.false_eq_true, if_false]

section
variable {mode h : Nat} {i : Instr} {c : Ctl} {d : VReg} {a : CSrc} {b : Option RSrc} {w : Src}

/-- A post at any mode is carried out where its checks pass, nothing holds it back and its port has room. -/
theorem doTxpost_carriesOut (listed : Claims.wires i = some (Claims.postForm c d a b w, Claims.posts mode h d a b w))
    (runs : ∀ s, exec i s = doTxpost i mode h c d a b w s) : Claims.CarriesOutAt Claims.wires i := by
  refine Claims.carriesOutAt_of_issue listed runs fun x s t effect => ?_
  obtain ⟨adr, zeros, zero, shortest, longest, stamped, reach, own, released, room, board, busy, rfl⟩ := effect
  have header : (mode = 2 && decide ((BitVec.extractLsb' 0 14 (x.f.src32 w)).toNat < h + 44)) = false := by
    simpa using stamped
  have inPad : ((x.f.cap a.n).space == 1 ||
      ((x.f.cap a.n).space == 2 && adr / 2097152 == x.u.idx &&
        (adr + (BitVec.extractLsb' 0 14 (x.f.src32 w)).toNat - 1) / 2097152 == x.u.idx)) = true := by
    simpa [and_assoc] using own
  simp only [← beq_iff_eq (a := (x.f.cap a.n).space)] at busy ⊢
  simp only [zeros, zero, Nat.not_lt.2 shortest, Nat.not_lt.2 longest, header, decide_false, bne_self_eq_false, Bool.or_self,
    Bool.false_eq_true, if_false]
  split
  · next refused => cases refused.symm.trans reach
  · next reached =>
    cases reached.symm.trans reach
    simp only [inPad, released.outst, busy, Nat.not_le.2 room, Nat.not_le.2 board, decide_false, Bool.not_true, Bool.or_self,
      Bool.false_eq_true, if_false]
    rfl

end

/-- TXSTAT is carried out: it says what has become of a post. -/
theorem execTxstat_carriesOut (c : Ctl) (d : VReg) (a : Src) : Claims.CarriesOutAt Claims.wires (.txstat c d a) := by
  refine Claims.carriesOutAt_of_issue rfl (fun _ => rfl) fun x s t h => ?_
  rw [h]
  rfl

/-- PTPRD is carried out: it reads the clock. -/
theorem execPtprd_carriesOut (c : Ctl) (d : VReg) : Claims.CarriesOutAt Claims.wires (.ptprd c d) :=
  Claims.carriesOutAt_of_issue rfl (fun _ => rfl) fun _ _ _ h => congrArg Fx.done (Eq.symm h)

/-- TSREC is carried out: it reads the stamp of the edge or of a post that has been sent or is not stamped. -/
theorem execTsrec_carriesOut (c : Ctl) (d : VReg) (a : Src) : Claims.CarriesOutAt Claims.wires (.tsrec c d a) := by
  refine Claims.carriesOutAt_of_issue rfl (fun _ => rfl) fun x s t h => ?_
  dsimp only at h ⊢
  split at h
  · next edge => simp only [if_pos edge, h]; rfl
  · next post =>
    simp only [if_neg post]
    cases isPost : s.postRec? (x.f.src32 a) with
    | none =>
      simp only [isPost] at h
      rw [h]
      rfl
    | some r =>
      simp only [isPost] at h
      obtain ⟨sent, rfl⟩ := h
      have ready : (r.state != 0 && r.mode != 0) = false := by
        rcases sent with sent | unstamped
        · simp [sent]
        · simp [unstamped]
      simp only [ready, Bool.false_eq_true, if_false]
      rfl

/-! ### Wire: frames received (R336 to R341) -/

/-- The entry of the flow table that a frame falls under, and the datagram that the frame holds, as FRAME_RECEIVE finds them. -/
def State.flowHit (s : State) (port : Nat) (frame : List Byte) : Option (Flow × Udp) :=
  match ipKind frame with
  | .udp u => (s.flowFor port frame u).map fun e => (e, u)
  | _ => none

/-- A frame falls under an entry where it holds a datagram that the entry is for. -/
theorem State.flowHit_eq_some_iff {s : State} {port : Nat} {frame : List Byte} {e : Flow} {u : Udp} :
    s.flowHit port frame = some (e, u) ↔ ipKind frame = .udp u ∧ s.flowFor port frame u = some e := by
  unfold State.flowHit
  cases ipKind frame with
  | fragment | other => simp
  | udp v =>
    simp only [Option.map_eq_some_iff, Prod.mk.injEq, IpKind.udp.injEq]
    constructor
    · rintro ⟨e, isFlow, rfl, rfl⟩
      exact ⟨rfl, isFlow⟩
    · rintro ⟨rfl, isFlow⟩
      exact ⟨e, isFlow, rfl, rfl⟩

/-- A frame that falls under no entry holds no datagram that an entry is for. -/
theorem State.flowHit_eq_none {s : State} {port : Nat} {frame : List Byte}
    (none : ∀ e u, ¬ (ipKind frame = .udp u ∧ s.flowFor port frame u = some e)) : s.flowHit port frame = .none := by
  rw [Option.eq_none_iff_forall_ne_some]
  exact fun (e, u) hit => none e u (State.flowHit_eq_some_iff.1 hit)

/-- Whether frames with a bad FCS are kept is said by the entry that a frame falls under. -/
theorem State.flowHit_keepBad_iff {s : State} {port : Nat} {frame : List Byte} :
    ((s.flowHit port frame).map fun h => h.1.keepBad).getD false = true ↔
      ∃ e u, (ipKind frame = .udp u ∧ s.flowFor port frame u = some e) ∧ e.keepBad = true := by
  simp only [← State.flowHit_eq_some_iff]
  cases s.flowHit port frame with
  | none => simp
  | some h => simp [Prod.eq_iff_fst_eq_snd_eq]

/-- What FRAME_RECEIVE makes of a frame at a port whose link is up. -/
theorem execFrameReceive_next {port : Nat} {frame : List Byte} {fcsBad : Bool} {s t : State}
    (h : Claims.wireEvents (.frameReceive port frame fcsBad) s t) : execFrameReceive port frame fcsBad s = .next t := by
  obtain ⟨up, received⟩ := h
  have size : (decide (frame.length + 4 < 64) || decide (9216 < frame.length + 4)) = true ↔
      ¬ (64 ≤ frame.length + 4 ∧ frame.length + 4 ≤ 9216) := by
    simp only [Bool.or_eq_true, decide_eq_true_eq]
    omega
  unfold execFrameReceive
  extract_lets len hit
  have isHit : hit = s.flowHit port frame := rfl
  clear_value hit
  subst isHit
  have keeps := State.flowHit_keepBad_iff (s := s) (port := port) (frame := frame)
  rw [if_neg (by simp [up])]
  obtain ⟨odd, rfl⟩ | ⟨whole, bad, drops, rfl⟩ | ⟨whole, good, kinds⟩ := received
  · rw [if_pos (size.2 odd)]
  · rw [if_neg (mt size.1 (not_not.2 whole)), if_pos]
    rw [bad, Bool.true_and, Bool.not_eq_true', ← Bool.not_eq_true, keeps]
    rintro ⟨e, x, flow, keep⟩
    exact Bool.false_ne_true ((drops e x flow).symm.trans keep)
  · have kept : (fcsBad && !((s.flowHit port frame).map fun h => h.1.keepBad).getD false) = false := by
      obtain good | keep := good
      · rw [good, Bool.false_and]
      · rw [keeps.2 keep, Bool.not_true, Bool.and_false]
    rw [if_neg (mt size.1 (not_not.2 whole)), if_neg (by rw [kept]; exact Bool.false_ne_true)]
    obtain ⟨pause, rfl⟩ | ⟨noPause, fragment, rfl⟩ | ⟨noPause, e, x, flow, rfl⟩ | ⟨noPause, noFragment, noFlow, rfl⟩ := kinds
    · rw [if_pos pause]
    · simp only [noPause, fragment, beq_self_eq_true, Bool.false_eq_true, if_false, if_true]
    · have noFragment : (ipKind frame == .fragment) = false := by rw [flow.1]; rfl
      simp only [noPause, noFragment, State.flowHit_eq_some_iff.2 flow, Bool.false_eq_true, if_false]
    · have noFragment : (ipKind frame == .fragment) = false := beq_eq_false_iff_ne.2 noFragment
      simp only [noPause, noFragment, State.flowHit_eq_none noFlow, Bool.false_eq_true, if_false]
      split <;> rfl

/-! ### Wire: frames landed (R339) -/

/-- FRAME_LANDING writes the oldest landing of a bound ring, and counts it as the ring's mode says. -/
theorem execFrameLanding_next {ring : Nat} {s t : State} (h : Claims.wireEvents (.frameLanding ring) s t) :
    execFrameLanding ring s = .next t := by
  obtain ⟨r, l, rest, k, u, isRing, landings, bound, isUnit, rfl⟩ := h
  simp only [execFrameLanding, isRing, landings, bound, Option.bind_some, isUnit]
  generalize ringMode r.desc = mode
  match mode with
  | 0 | 1 | 2 | _ + 3 => rfl

/-! ### Wire: frames sent (R344, R345) -/

/-- FRAME_TRANSMIT ends the sending of a frame, or reads the head post, or fails it where the link is down. -/
theorem execFrameTransmit_next {port : Nat} {s t : State} (h : Claims.wireEvents (.frameTransmit port) s t) :
    execFrameTransmit port s = .next t := by
  obtain ⟨x, sending, rfl⟩ | ⟨p, rest, idle, posts, effect⟩ := h
  · simp only [execFrameTransmit, sending]
    rfl
  · simp only [execFrameTransmit, idle, posts]
    split at effect
    · next down =>
      simp only [down, effect, Bool.not_false, if_true]
    · next up =>
      obtain ⟨done, rfl⟩ := effect
      have stored : ((s.unit? p.unit).map fun u => u.ownDone (some p.fid) p.sb).getD true = true := by
        cases isUnit : s.unit? p.unit with
        | none => rfl
        | some u => exact done u isUnit
      simp only [up, stored, Bool.not_true, Bool.false_eq_true, if_false]
      rfl

/-! ### The obligations -/

/-- Settles O20: each of the instructions by its own lemma, and the three modes of a post by one; no other instruction is in the
table. -/
theorem wireInstructionsComplete : Obligations.WireInstructionsComplete := by
  unfold Obligations.WireInstructionsComplete
  rw [Claims.carriesOutWhere_iff]
  intro i
  cases i with
  | rxtake c d r => exact execRxtake_carriesOut c d r
  | rxrel c r o => exact execRxrel_carriesOut c r o
  | txpost c d a b w => exact doTxpost_carriesOut rfl fun _ => rfl
  | txpostTs2 c d a b w => exact doTxpost_carriesOut rfl fun _ => rfl
  | txpostTs1 c d a b w h => exact doTxpost_carriesOut rfl fun _ => rfl
  | txstat c d a => exact execTxstat_carriesOut c d a
  | ptprd c d => exact execPtprd_carriesOut c d
  | tsrec c d a => exact execTsrec_carriesOut c d a
  | _ => exact Claims.carriesOutAt_of_none rfl

/-- Settles O29: each of the six events by its own lemma or by its definition; no other event is claimed of. -/
theorem wireEventsComplete : Obligations.WireEventsComplete := by
  unfold Obligations.WireEventsComplete Claims.Occurs
  intro i s t h
  cases i with
  | frameLanding ring => exact execFrameLanding_next h
  | frameTransmit port => exact execFrameTransmit_next h
  | frameReceive port frame fcsBad => exact execFrameReceive_next h
  | ppsOutputSecond => exact congrArg Host.Outcome.next h.symm
  | ppsInputEdge => exact congrArg Host.Outcome.next h.symm
  | portLinkChange port up => exact congrArg Host.Outcome.next h.symm
  | _ => exact h.elim

end Sys2Proof.Machine
end

section

/-! SUPPORT. How a matrix instruction is executed for its team (spec 15 R307 to R328), and what the events of the matrix unit come to
(R313 to R325): each kind of effect has a lemma `…_done`, and each event a lemma `…_next`. -/

namespace Sys2Proof.Machine

/-! ### Matrix: the last arrival of a team (R307, R333) -/

/-- A team of which no member has a matrix fault to take is left as it is. -/
theorem State.deliverTeam_of_clear {s : State} {u : Unit} {team : Nat}
    (clear : ∀ m ∈ u.teamLive team, takeFault m.faults [.matrix] = none) (pc : BitVec 57) : s.deliverTeam u team pc = s := by
  unfold State.deliverTeam
  refine List.foldlRecOn (motive := (· = s)) _ _ rfl fun t same m mem => ?_
  simp only [clear m (List.mem_of_mem_filter mem), same]

/-- A converged matrix instruction whose readers do not trap comes to its effect, once, from the first member. -/
theorem State.matrixRun_of_done {s : State} {u : Unit} {ms : List Fibre} {m : Fibre} {o : Op} {all : Bool}
    {eff : Unit → Fibre → List Fibre → State → TeamGo} {t : State} (first : ms.head? = some m)
    (reads : ∀ x ∈ Claims.readersOf all ms, x.readTrap (s.chkOf u) o.reads = none)
    (done : eff u (Claims.memberSeen all o ms m) (ms.map (Claims.memberSeen all o ms)) (Claims.teamPassed s u o all ms) = .done t) :
    s.matrixRun u ms o all eff = t := by
  cases ms with
  | nil => cases first
  | cons lead rest =>
    cases first
    have noTrap : ((Claims.readersOf all (m :: rest)).findSome? fun f => f.readTrap (s.chkOf u) o.reads) = none :=
      List.findSome?_eq_none_iff.2 reads
    have readers : (if all then m :: rest else [m]) = Claims.readersOf all (m :: rest) := rfl
    simp only [State.matrixRun, readers, noTrap]
    split
    · next isDone => exact TeamGo.done.inj (isDone.symm.trans done)
    · next isTrap => cases isTrap.symm.trans done
    · next waits => cases waits.symm.trans done

/-- The last arrival has the instruction executed for the whole team. -/
theorem matrixIssue_of_musters {s : State} {u v : Unit} {f m : Fibre} {ms : List Fibre} {o : Op} {all : Bool}
    (h : Claims.Musters s u f v ms m o all) {eff : Unit → Fibre → List Fibre → State → TeamGo} {t : State}
    (done : eff v (Claims.memberSeen all o ms m) (ms.map (Claims.memberSeen all o ms))
      (Claims.teamPassed (Claims.arrives s f) v o all ms) = .done t) :
    s.matrixIssue o all eff = .next t := by
  obtain ⟨cur, late, unit, whole, members, first, clear, ready, rows, stroke⟩ := h
  have noLate : (if f.again || f.arrivedAt f.pc then none else takeFault f.faults [.late]) = none := by
    rcases late with h | h | h <;> simp [h]
  have noneBlocked : ((Claims.readersOf all ms).any fun m => o.memberBlocked m) = false := by
    simpa using fun x mem => (ready x mem).1
  have noStroke : (s.detOf u && ms.any fun m => !m.stroke.pass) = false := by
    rcases stroke with h | h
    · simp [h]
    · simpa using fun _ => h
  have runs := State.matrixRun_of_done first (fun x mem => (ready x mem).2) done
  unfold State.matrixIssue
  simp only [cur, noLate]
  rw [Claims.arrives] at unit members ready rows runs
  simp only [unit, Option.map_some, Option.getD_some, State.deliverTeam_of_clear clear, members]
  rw [Claims.readersOf] at noneBlocked rows
  simp only [whole, noneBlocked, rows, noStroke, runs, List.isEmpty_nil, Bool.not_true, Bool.or_self, Bool.false_eq_true, if_false]

/-! ### Matrix: what the instructions come to for a team (R312 to R328) -/

section
variable {i : Instr} {d : Tile} {u : Unit} {m : Fibre} {ms : List Fibre} {s t : State}

/-- An operation of one team on one tile is accepted where its check passes and the engine has room for it. -/
theorem tileOp_done {check : Fibre → Option TrapInfo} {opA : Fibre → DWord} {mm : Bool} (checked : check m = none)
    (h : Claims.accepts i d 0 0 0 (opA m) [] (if mm then Unit.settledMM else Unit.settledAL) u m s t) :
    tileOp i d check opA mm u m ms s = .done t := by
  obtain ⟨slot, room, settled, rfl⟩ := h
  have settles : (if mm then u.settledMM (m.fid / u.desc.team) else u.settledAL (m.fid / u.desc.team)) = true := by
    cases mm <;> exact settled
  simp only [tileOp, Nat.not_le.2 slot, checked, room, settles, Bool.not_true, Bool.or_self, Bool.false_eq_true, if_false]

/-- An operation of one team with a memory operand is accepted where its access may be made and there is room for it. -/
theorem tileMem_done {p : MemOp} {need : Byte} {write : Bool} (h : Claims.acceptsMem i d p need write u m ms s t) :
    tileMem i d p need write u m ms s = .done t := by
  obtain ⟨a, reach, board, slot, room, settled, rfl⟩ := h
  simp only [tileMem, Nat.not_le.2 slot, reach, room, settled, Nat.not_lt.2 board, decide_false, Bool.not_true, Bool.or_self,
    Bool.false_eq_true, if_false]

/-- A crew instruction is accepted into the catch latch where its crew, its tiles and its FIFOs are good and there is room. -/
theorem crewGo_done {fb : Option Nat} {scales : List Fibre → List Byte} (h : Claims.arrivesAt i d fb scales u m ms s t) :
    crewGo i d fb scales u m ms s = .done t := by
  obtain ⟨member, last, slot, fifo, room, settled, rfl⟩ := h
  have noTrap : u.crewTrap (m.fid / u.desc.team) d fb = none := by
    simp only [Unit.crewTrap, member, Nat.not_lt.2 last, Nat.not_le.2 slot, decide_false, Bool.not_true, Bool.or_self,
      Bool.false_eq_true, if_false]
    cases fb with
    | none => rfl
    | some b => exact if_neg (Nat.not_lt.2 (fifo b rfl))
  simp only [crewGo, noTrap, room, settled, Bool.not_true, Bool.or_self, Bool.false_eq_true, if_false]

end

/-- The key and the descriptor of each unit. -/
def State.unitDescs (s : State) : List (Nat × KDesc) := s.units.map fun u => (u.key, u.desc)

/-- A change of a fibre leaves the units' keys and descriptors alone. -/
@[simp] theorem State.modFibre_unitDescs (s : State) (k n : Nat) (g : Fibre → Fibre) :
    (s.modFibre k n g).unitDescs = s.unitDescs := by
  simp only [State.unitDescs, State.modFibre, State.modUnit, updIf, List.map_map]
  refine List.map_congr_left fun u _ => ?_
  simp only [Function.comp_apply]
  split <;> rfl

/-- A count of a core leaves the units' keys and descriptors alone. -/
@[simp] theorem State.count_unitDescs (s : State) (core : Nat) (ev : BitVec 16) (n : Nat) :
    (s.count core ev n).unitDescs = s.unitDescs := by
  unfold State.count
  split <;> rfl

/-- Passing a matrix instruction leaves the units' keys and descriptors alone. -/
theorem State.teamPassed_unitDescs (s : State) (u : Unit) (o : Op) (all : Bool) (ms : List Fibre) :
    (Claims.teamPassed s u o all ms).unitDescs = s.unitDescs :=
  List.foldlRecOn (motive := fun t : State => t.unitDescs = s.unitDescs) _ _ rfl fun t same m _ => by simpa using same

/-- The units that have the key of a unit have teams of its width. -/
def State.oneWidth (s : State) (u : Unit) : Prop := ∀ e ∈ s.unitDescs, e.1 = u.key → e.2.team = u.desc.team

/-- Where the units of a key have teams of one width, a team's index is the same in each of them. -/
theorem State.modUnit_setTeam {s : State} {u : Unit} (width : s.oneWidth u) (n : Nat) (g : Nat → Team) :
    (s.modUnit u.key fun w => w.setTeam (g (n / w.desc.team))) = s.modUnit u.key fun w => w.setTeam (g (n / u.desc.team)) := by
  have same : updIf s.units (fun w => w.key == u.key) (fun w => w.setTeam (g (n / w.desc.team))) =
      updIf s.units (fun w => w.key == u.key) fun w => w.setTeam (g (n / u.desc.team)) := by
    refine List.map_congr_left fun w mem => ?_
    split
    · next key =>
      have same : w.desc.team = u.desc.team := width (w.key, w.desc) (List.mem_map.2 ⟨w, mem, rfl⟩) (beq_iff_eq.1 key)
      simp only [same]
    · rfl
  simp only [State.modUnit, same]

/-- Each matrix instruction is issued for its team with an effect that is done where the table says, as long as the units of the
issuing unit's key have teams of one width. -/
theorem exec_of_matrices {i : Instr} {o : Op} {all : Bool} {R : Unit → Fibre → List Fibre → State → State → Prop}
    {s : State} {u : Unit} {f : Fibre} (cur : s.current? = some (u, f))
    (hi : Claims.matrices u.desc.team i = some (o, all, R)) :
    ∃ go, exec i s = s.matrixIssue o all go ∧
      ∀ v m ms s1 t, s1.oneWidth v → R v m ms s1 t → go v m ms s1 = .done t := by
  cases i with
  | crew stall h a =>
    cases hi
    refine ⟨_, rfl, fun v m ms s1 t width effect => ?_⟩
    obtain ⟨two, six, exist, teams, rfl⟩ := effect
    have noneBeyond : ((maskTeams (m.src32 a) h).any fun t => decide (v.desc.fibres / v.desc.team ≤ t)) = false := by
      simpa using exist
    have admits : (v.desc.team != 32 && v.desc.team != 64) = false := by
      rcases teams with teams | teams <;> simp [teams]
    simp only [Nat.not_lt.2 two, Nat.not_lt.2 six, noneBeyond, admits, decide_false, Bool.or_self, Bool.false_eq_true, if_false]
    exact congrArg TeamGo.done (State.modUnit_setTeam width m.fid fun i =>
      { idx := i, set := true, mask := m.src32 a, h := h, count := 0 })
  | mma stall t k r d fa fb sc =>
    dsimp only [Claims.matrices] at hi
    split at hi
    · cases hi
    · next good =>
      cases hi
      refine ⟨_, ?_, fun _ _ _ _ _ _ => crewGo_done⟩
      change execMma stall t k r d fa fb sc s = _
      simp only [execMma, cur, Option.map_some, Option.getD_some, good, Bool.false_eq_true, if_false]
      cases sc with
      | zero | reg => rfl
  | acmt | aroll => cases hi; exact ⟨_, rfl, fun _ _ _ _ _ _ => crewGo_done⟩
  | aload | astore | adrainS => cases hi; exact ⟨_, rfl, fun _ _ _ _ _ _ => tileMem_done⟩
  | aclr => cases hi; exact ⟨_, rfl, fun _ _ _ _ _ _ => tileOp_done (mm := true) (opA := fun _ => 0) rfl⟩
  | adrain stall int r d a =>
    cases hi
    exact ⟨_, rfl, fun _ _ _ _ _ _ => tileOp_done (mm := false) (opA := fun f => f.pairAt a.n.toNat) rfl⟩
  | areduce stall int d n bar =>
    cases hi
    refine ⟨_, rfl, fun v m ms s1 t _ effect => ?_⟩
    obtain ⟨one, most, accepted⟩ := effect
    refine tileOp_done (mm := true) (opA := fun f => (f.src32 n).setWidth 64) ?_ accepted
    simp only [Nat.not_lt.2 one, Nat.not_lt.2 most, decide_false, Bool.or_self, Bool.false_eq_true, if_false]
  | fqdrop =>
    cases hi
    refine ⟨_, rfl, fun v m ms s1 t _ effect => ?_⟩
    obtain ⟨room, rfl⟩ := effect
    simp only [room, Bool.not_true, Bool.false_eq_true, if_false]
  | _ => cases hi

/-- A matrix instruction is executed for its team with its effect, as long as the units of the issuing unit's key have teams of one
width. -/
theorem exec_next_of_musters {i : Instr} {o : Op} {all : Bool} {R : Unit → Fibre → List Fibre → State → State → Prop}
    {s t : State} {u v : Unit} {f m : Fibre} {ms : List Fibre} (hi : Claims.matrices u.desc.team i = some (o, all, R))
    (musters : Claims.Musters s u f v ms m o all) (width : s.oneWidth v)
    (effect : R v (Claims.memberSeen all o ms m) (ms.map (Claims.memberSeen all o ms))
      (Claims.teamPassed (Claims.arrives s f) v o all ms) t) : exec i s = .next t := by
  obtain ⟨go, issued, done⟩ := exec_of_matrices musters.cur hi
  have still : (Claims.teamPassed (Claims.arrives s f) v o all ms).oneWidth v := by
    rw [State.oneWidth, State.teamPassed_unitDescs, Claims.arrives, State.modCur, State.modFibre_unitDescs]
    exact width
  exact issued.trans (matrixIssue_of_musters musters (done _ _ _ _ _ still effect))

/-! ### Matrix: two units of one key -/

/-- The fibre of a state that refutes O22, of the second team of 32 or of the first of 64. -/
def crewFibre : Fibre := Fibre.start 32 0x1000 0 .empty .empty .empty

/-- The fibre, as it waits for its team. -/
def crewWaits : Fibre := { crewFibre with wait := some (.team 0x1000 0) }

/-- A unit of 64 fibres, in teams of `2 ^ teamLog2`, in which only the fibre given is live. -/
def crewUnit (teamLog2 : Nat) (f : Fibre) : Unit :=
  { key := 1, launch := 1, no := 0, gang := 0, idx := 0, core := 0, seats := [(0, 0)]
    desc := { (default : KDesc) with addr := 0x1000, teamLog2 := teamLog2, fibres := 64 }, shadow := false
    gen := 0, allocBase := 0, backing := 0, fibres := [f], teams := [], templates := [], layouts := [], tpl := [], xdone := []
    ring := none, channel := none, next := none, ended := 0, usedFront := false, ending := false, dispatched := 0
    deadline := none, screened := false, writes := [] }

/-- A state in which two units of different team widths have one key. -/
def crewState : State := { State.reset with units := [crewUnit 5 crewFibre, crewUnit 6 crewFibre], cur := (1, 32) }

/-- The CREW of teams 0 and 1. -/
def crewBoth : Instr := .crew 0 false (.imm 3)

/-- The fibre is the last of its team to arrive at the instruction. -/
theorem crewState_musters :
    Claims.Musters crewState (crewUnit 5 crewFibre) crewFibre (crewUnit 5 crewWaits) [crewWaits] crewWaits
      (opTeam1 0 (.imm 3)) false where
  cur := by decide
  late := .inr (.inr rfl)
  unit := by decide
  whole := by decide
  members := by decide
  first := rfl
  clear := by decide
  ready := by decide
  rows := by decide
  stroke := .inl (by decide)

/-- The indices of the teams whose crews are set, unit by unit. -/
def crewsSet (r : Host.Outcome State Fault Refusal) : List (List Nat) :=
  match r with
  | .next s => s.units.map fun u => u.teams.map Team.idx
  | _ => []

/-! ### Matrix: crews (R313) -/

section
variable {core : Nat} {s t : State}

/-- CREW_CATCH queues the operation of a group of arrivals that is complete, or faults the teams whose arrivals disagree. -/
theorem execCrewCatch_next {entry : Nat} (h : Claims.matrixEvents (.crewCatch core entry) s t) :
    execCrewCatch core entry s = .next t := by
  obtain ⟨r, u, waits, isUnit, allHere, first, effect⟩ := h
  have noneBefore : (((s.matrix core).group r).any fun x => (s.matrix core).latch.any fun q => x.follows q) = false := by
    simpa using first
  have disagrees : (((s.matrix core).group r).any fun q => crewForm q.instr != crewForm r.instr) = true ↔
      ∃ q ∈ (s.matrix core).group r, crewForm q.instr ≠ crewForm r.instr := by simp
  simp only [execCrewCatch, waits, isUnit, allHere, noneBefore, disagrees, List.isEmpty_nil, Bool.not_true, Bool.or_self,
    Bool.false_eq_true, if_false]
  split at effect
  · next differ =>
    rw [if_pos differ, effect]
    rfl
  · next agree =>
    rw [if_neg agree, effect]
    split
    · next mma =>
      have counted : Claims.isMma r.instr = true := by rw [mma]; rfl
      rw [if_pos counted]
      rfl
    · next other =>
      have uncounted : ¬ Claims.isMma r.instr = true := by
        unfold Claims.isMma
        split
        · next mma => exact (other _ _ _ _ _ _ _ _ mma).elim
        · exact Bool.false_ne_true
      rw [if_neg uncounted]
      rfl

/-- CATCH_TIMEOUT faults the teams of a group that has waited too long for a live one, and counts their arrivals no more. -/
theorem execCatchTimeout_next {entry : Nat} (h : Claims.matrixEvents (.catchTimeout core entry) s t) :
    execCatchTimeout core entry s = .next t := by
  obtain ⟨r, u, waits, isUnit, missing, passed, rfl⟩ := h
  have someLate : (u.absent r ((s.matrix core).group r)).isEmpty = false := by simpa using missing
  simp only [execCatchTimeout, waits, isUnit, someLate, Nat.not_lt.2 passed, decide_false, Bool.or_self, Bool.false_eq_true,
    if_false]

/-! ### Matrix: drains (R325) -/

/-- DRAIN_ARRIVAL applies the contribution that is next, refuses one that its reduction does not take, and holds another. -/
theorem execDrainArrival_next {drain : Nat} (h : Claims.matrixEvents (.drainArrival core drain) s t) :
    execDrainArrival core drain s = .next t := by
  obtain ⟨d, u, isDrain, first, isUnit, rfl, effect⟩ := h
  simp only [execDrainArrival, isDrain, first, isUnit, bne_self_eq_false, Bool.false_eq_true, if_false]
  dsimp only at effect
  obtain ⟨closed, rfl⟩ | ⟨n, next, bar, isOpen, kinds⟩ := effect
  · simp only [closed]
  · obtain ⟨format, rfl⟩ | ⟨format, outside, rfl⟩ | ⟨format, turn, before, rfl⟩ | ⟨format, later, before, rfl⟩ := kinds
    · simp only [isOpen, bne_iff_ne, if_pos format]
    · have refused : (decide (d.target.2.2.2 < next) || decide (n ≤ d.target.2.2.2)) = true := by simpa using outside
      simp only [isOpen, format, refused, bne_self_eq_false, Bool.false_eq_true, if_false, if_true]
    · simp only [isOpen, format, turn, Nat.lt_irrefl, Nat.not_le.2 before, decide_false, bne_self_eq_false, Bool.or_self,
        Bool.false_eq_true, if_false, if_true]
    · simp only [isOpen, format, Nat.lt_asymm later, Nat.not_le.2 before, (Nat.ne_of_lt later).symm, decide_false,
        bne_self_eq_false, Bool.or_self, Bool.false_eq_true, if_false]

end

/-! ### The obligations -/

/-- Refutes O22: where two units have one key and teams of different widths, CREW changes both, each at the index of the team in
that unit's own width, and the claim has the index in the width of the unit that issues it for both. -/
theorem not_matrixInstructionsComplete : ¬ Obligations.MatrixInstructionsComplete := by
  unfold Obligations.MatrixInstructionsComplete
  intro h
  have claimed := h crewBoth _ _ _ crewState _ _ _ _ _ _ rfl crewState_musters
    ⟨by decide, by decide +kernel, by decide +kernel, .inl rfl, rfl⟩
  exact absurd (congrArg crewsSet claimed) (by decide)

/-- Settles O28: each of the four events by its own lemma or by its definition; no other event is claimed of. -/
theorem matrixEventsComplete : Obligations.MatrixEventsComplete := by
  unfold Obligations.MatrixEventsComplete Claims.Occurs
  intro i s t h
  cases i with
  | crewCatch core entry => exact execCrewCatch_next h
  | catchTimeout core entry => exact execCatchTimeout_next h
  | mmaPerform core => exact congrArg Host.Outcome.next h.symm
  | drainArrival core drain => exact execDrainArrival_next h
  | _ => exact h.elim

end Sys2Proof.Machine
end

section

/-! SUPPORT. What the writes of the host's registers come to (spec 17 R356, R357, R377, R379, 18 R389, R397, R405, 22 R456): each
register with an event of its own has a lemma `…_next`, and a write to BAR 0 one for each block of registers. -/

namespace Sys2Proof.Machine

/-! ### Regs: registers with an event of their own -/

/-- From READY on a register write is done. -/
theorem State.whenReady_of_ready {s : State} (ready : s.life.readyFlag = true) (offset : Nat) (f : State → State) :
    s.whenReady offset f = f s := if_pos ready

section
variable {s t : State}

/-- QKICK stores the larger value, sets ERR where it lies beyond the ring, and logs a write of another size. -/
theorem execQkick_next {q size offset : Nat} {v : DWord} (h : Claims.registerEvents (.qkick q size offset v) s t) :
    execQkick q size offset v s = .next t := by
  obtain ⟨ready, inRange, effect⟩ := h
  have odd : (size != 8 || offset % 8 != 0) = true ↔ size ≠ 8 ∨ offset % 8 ≠ 0 := by simp
  simp only [execQkick, State.whenReady_of_ready ready, if_pos inRange, State.writeQkick, odd]
  split at effect
  · next bad => rw [if_pos bad, effect]
  · next good =>
    rw [if_neg good]
    split at effect
    · next beyond => rw [if_pos beyond, effect]
    · next within => rw [if_neg within, effect]

/-- QSTAT is cleared by a 0. -/
theorem execQstatErrClear_next {q : Nat} {v : Word} (h : Claims.registerEvents (.qstatErrClear q v) s t) :
    execQstatErrClear q v s = .next t := by
  obtain ⟨ready, inRange, rfl⟩ := h
  simp only [execQstatErrClear, State.whenReady_of_ready ready, if_pos inRange, State.writeQstat, beq_iff_eq]

/-- QCTL is written by the physical function and by the queue's own. -/
theorem execQctl_next {func q : Nat} {v : Word} (h : Claims.registerEvents (.qctl func q v) s t) :
    execQctl func q v s = .next t := by
  obtain ⟨ready, inRange, owner, rfl⟩ := h
  have may : s.mayWriteQueue func q = true := by simpa [State.mayWriteQueue] using owner
  simp only [execQctl, State.whenReady_of_ready ready, if_pos inRange, State.writeQctl, may, if_true]

/-- QPER and QBUD take their values; a period begins where none runs, and ends where QPER becomes 0. -/
theorem execQperQbudWrite_next {q : Nat} {bud : Bool} {v : Word} (h : Claims.registerEvents (.qperQbudWrite q bud v) s t) :
    execQperQbudWrite q bud v s = .next t := by
  obtain ⟨ready, inRange, effect⟩ := h
  simp only [execQperQbudWrite, State.whenReady_of_ready ready, if_neg (Nat.not_le.2 inRange)]
  cases bud with
  | true => exact congrArg Host.Outcome.next effect.symm
  | false =>
    rw [if_neg Bool.false_ne_true] at effect
    simp only [effect, State.writeQper, Bool.false_eq_true, if_false, beq_iff_eq]
    refine congrArg (fun f => Host.Outcome.next (s.modQueue q f)) (funext fun x => ?_)
    split
    · next zero => simp only [zero]; rfl
    · rfl

/-- QRES changes the reservation, and clears OVCNT where bit 15 is set. -/
theorem execQres_next {q : Nat} {v : Word} (h : Claims.registerEvents (.qres q v) s t) : execQres q v s = .next t := by
  obtain ⟨ready, inRange, rfl⟩ := h
  simp only [execQres, State.whenReady_of_ready ready, if_pos inRange, State.writeQres]

/-- OVCNT is cleared. -/
theorem execOvcntClear_next {q : Nat} (h : Claims.registerEvents (.ovcntClear q) s t) : execOvcntClear q s = .next t := by
  obtain ⟨ready, inRange, rfl⟩ := h
  simp only [execOvcntClear, State.whenReady_of_ready ready, if_pos inRange]

/-- HRHEAD stores the larger value. -/
theorem execHrhead_next {func ring : Nat} {v : DWord} (h : Claims.registerEvents (.hrhead func ring v) s t) :
    execHrhead func ring v s = .next t := by
  obtain ⟨ready, inRange, rfl⟩ := h
  simp only [execHrhead, State.whenReady_of_ready ready, if_pos inRange, State.writeHrhead]

/-- HRCTL takes its value. -/
theorem execHrctl_next {func ring : Nat} {v : Word} (h : Claims.registerEvents (.hrctl func ring v) s t) :
    execHrctl func ring v s = .next t := by
  obtain ⟨ready, inRange, rfl⟩ := h
  simp only [execHrctl, State.whenReady_of_ready ready, if_pos inRange, State.writeHrctl]

/-- IVCTL takes its value, and its vector is checked at once. -/
theorem execIvctl_next {func vec : Nat} {v : Word} (h : Claims.registerEvents (.ivctl func vec v) s t) :
    execIvctl func vec v s = .next t := by
  obtain ⟨ready, inRange, rfl⟩ := h
  simp only [execIvctl, State.whenReady_of_ready ready, if_pos inRange, State.writeIvctl]

/-- PRECTL takes its value. -/
theorem execPrectl_next {v : Word} (h : Claims.registerEvents (.prectl v) s t) : execPrectl v s = .next t := by
  obtain ⟨ready, rfl⟩ := h
  simp only [execPrectl, State.whenReady_of_ready ready]

/-- SCRCTL takes its value. -/
theorem execScrctl_next {v : Word} (h : Claims.registerEvents (.scrctl v) s t) : execScrctl v s = .next t := by
  obtain ⟨ready, rfl⟩ := h
  simp only [execScrctl, State.whenReady_of_ready ready]

/-- PWRCAP takes its value. -/
theorem execPwrcap_next {v : Word} (h : Claims.registerEvents (.pwrcap v) s t) : execPwrcap v s = .next t := by
  obtain ⟨ready, rfl⟩ := h
  simp only [execPwrcap, State.whenReady_of_ready ready]
  rfl

/-- A vector that is unmasked sends the message that is pending. -/
theorem execMsixVectorUnmask_next {func vec : Nat} (h : Claims.registerEvents (.msixVectorUnmask func vec) s t) :
    execMsixVectorUnmask func vec s = .next t := by
  refine congrArg Host.Outcome.next (Eq.trans (congrArg (s.modVec func vec) (funext fun x => ?_)) (Eq.symm h))
  cases pending : x.pbit with
  | true => simp only [Vec.fire, if_true, Bool.false_eq_true, if_false]
  | false => simp only [Bool.false_eq_true, if_false]

/-! ### Regs: the blocks of BAR 0 (R454) -/

/-- An offset in a block of registers lies in it. -/
theorem inBlock {offset base n : Nat} (first : base ≤ offset) (last : offset < base + n) :
    (decide (base ≤ offset) && decide (offset < base + n)) = true := by
  simp only [first, last, decide_true, Bool.and_self]

/-- A write to BAR 0 comes to the write of the register at its offset. -/
theorem execRegisterWrite_next {func offset size : Nat} {v : DWord}
    (h : Claims.registerEvents (.registerWrite func offset size v) s t) : execRegisterWrite func offset size v s = .next t := by
  unfold execRegisterWrite
  extract_lets w block core
  have inside (base n : Nat) (first : base ≤ offset) (last : offset < base + n) : block base n = true := inBlock first last
  have outside (base n : Nat) (h : offset < base ∨ base + n ≤ offset) : block base n = false := not_inBlock h
  have skips (above : 0x300100 ≤ offset) (below : offset < 0x1000000) : block 0x100000 0x4000 = false ∧
      block 0x200000 0x800 = false ∧ block 0x300000 0x100 = false ∧ block 0x1000000 (512 * Config.cores) = false :=
    ⟨outside _ _ (.inr (by omega)), outside _ _ (.inr (by omega)), outside _ _ (.inr above), outside _ _ (.inl below)⟩
  obtain ⟨rfl, first, last, rfl⟩ | ⟨notReady, elsewhere, rfl⟩ | ⟨ready, place⟩ := h
  · simp only [inside 0x500000 0x100 first last, BEq.rfl, Bool.and_self, if_true]
  · have notMailbox : (func == 0 && block 0x500000 0x100) = false := by
      rcases elsewhere with virtual | below | beyond
      · simp [virtual]
      · simp [outside 0x500000 0x100 (.inl below)]
      · simp [outside 0x500000 0x100 (.inr beyond)]
    simp only [notMailbox, notReady, Bool.not_false, Bool.false_eq_true, if_false, if_true]
  · obtain ⟨first, last, rfl⟩ | ⟨first, last, rfl⟩ | ⟨first, last, rfl, aligned, rfl⟩ | ⟨first, last, sees, rfl⟩ |
      ⟨rfl, rfl, rfl, rfl⟩ | ⟨rfl, rfl, rfl, rfl⟩ | ⟨rfl, rfl, rfl, rfl⟩ | ⟨rfl, first, last, rfl⟩ := place
    · simp only [outside 0x500000 0x100 (by omega), inside 0x100000 0x4000 first last, ready, Bool.and_false, Bool.not_true,
        Bool.false_eq_true, if_false, if_true]
    · simp only [outside 0x500000 0x100 (by omega), outside 0x100000 0x4000 (by omega), inside 0x200000 0x800 first last, ready,
        Bool.and_false, Bool.not_true, Bool.false_eq_true, if_false, if_true]
    · simp only [outside 0x500000 0x100 (by omega), outside 0x100000 0x4000 (by omega), outside 0x200000 0x800 (by omega),
        inside 0x300000 0x100 first last, aligned, ready, w, BEq.rfl, Bool.and_self, Bool.and_false, Bool.not_true,
        Bool.false_eq_true, if_false, if_true]
    · have within : (offset - 0x1000000) % 512 = offset % 512 := by omega
      simp only [outside 0x500000 0x100 (by omega), outside 0x100000 0x4000 (by omega), outside 0x200000 0x800 (by omega),
        outside 0x300000 0x100 (by omega), inside 0x1000000 _ first last, core, sees, within, ready, Bool.and_false, Bool.not_true,
        Bool.false_eq_true, if_false, if_true]
    · obtain ⟨queues, rings, vectors, apertures⟩ := skips (by omega) (by omega)
      simp only [outside 0x500000 0x100 (by omega), queues, rings, vectors, apertures, ready, w, bne_self_eq_false,
        Bool.and_false, Bool.false_and, Bool.or_self, Bool.not_true, Bool.false_eq_true, if_false, if_true]
    · obtain ⟨queues, rings, vectors, apertures⟩ := skips (by omega) (by omega)
      simp only [outside 0x500000 0x100 (by omega), queues, rings, vectors, apertures, ready, w, bne_self_eq_false,
        Bool.and_false, Bool.false_and, Bool.or_self, Bool.not_true, Bool.false_eq_true, if_false, if_true]
      rfl
    · obtain ⟨queues, rings, vectors, apertures⟩ := skips (by omega) (by omega)
      simp only [outside 0x500000 0x100 (by omega), queues, rings, vectors, apertures, ready, w, bne_self_eq_false,
        Bool.and_false, Bool.false_and, Bool.or_self, Bool.not_true, Bool.false_eq_true, if_false, if_true]
      rfl
    · obtain ⟨queues, rings, vectors, apertures⟩ := skips (by omega) (by omega)
      have isNot (k : Nat) (below : k < 0x500000) : (offset = k) = False := eq_false (by omega)
      simp only [outside 0x500000 0x100 (by omega), inside 0x500000 0x800 (by omega) last, queues, rings, vectors, apertures,
        isNot 0x400000 (by omega), isNot 0x400008 (by omega), isNot 0x400010 (by omega), ready, bne_self_eq_false,
        Bool.and_false, Bool.or_self, Bool.not_true, Bool.false_eq_true, if_false, if_true]

end

/-! ### The obligations -/

/-- Settles O32: each of the fourteen events by its own lemma; no other event is claimed of. -/
theorem registerWritesComplete : Obligations.RegisterWritesComplete := by
  unfold Obligations.RegisterWritesComplete Claims.Occurs
  intro i s t h
  cases i with
  | qkick q size offset v => exact execQkick_next h
  | qstatErrClear q v => exact execQstatErrClear_next h
  | qctl func q v => exact execQctl_next h
  | qperQbudWrite q bud v => exact execQperQbudWrite_next h
  | qres q v => exact execQres_next h
  | ovcntClear q => exact execOvcntClear_next h
  | hrhead func ring v => exact execHrhead_next h
  | hrctl func ring v => exact execHrctl_next h
  | ivctl func vec v => exact execIvctl_next h
  | prectl v => exact execPrectl_next h
  | scrctl v => exact execScrctl_next h
  | pwrcap v => exact execPwrcap_next h
  | msixVectorUnmask func vec => exact execMsixVectorUnmask_next h
  | registerWrite func offset size v => exact execRegisterWrite_next h
  | _ => exact h.elim

end Sys2Proof.Machine
end

section

/-! SUPPORT. What the events of scheduling, banking and planting come to (spec 17 R380, 18 R390 to R398, 20 R416, R420, 21 R434 to
R437): each event has a lemma `…_next`, which says that where the claim about it holds the event answers the state that the claim
names. -/

namespace Sys2Proof.Machine

section
variable {s t : State}

/-! ### Sched: vectors, periods and budgets (R380, R390, R393) -/

/-- VECTOR_TIME_EXPIRY sends the message of a vector whose time has passed. -/
theorem execVectorTimeExpiry_next {func vec : Nat} (h : Claims.scheduleEvents (.vectorTimeExpiry func vec) s t) :
    execVectorTimeExpiry func vec s = .next t := by
  obtain ⟨due, rfl⟩ := h
  simp only [execVectorTimeExpiry, due, if_true]

/-- PERIOD_START begins the period that follows one which is over. -/
theorem execPeriodStart_next {q : Nat} (h : Claims.scheduleEvents (.periodStart q) s t) : execPeriodStart q s = .next t := by
  obtain ⟨timed, ended, rfl⟩ := h
  simp only [execPeriodStart, timed, ended, decide_true, Bool.and_self, if_true]

/-- BUDGET_EXHAUSTED marks a queue that holds cores as overrun, counts it and logs it, once in a period. -/
theorem execBudgetExhausted_next {q : Nat} (h : Claims.scheduleEvents (.budgetExhausted q) s t) :
    execBudgetExhausted q s = .next t := by
  obtain ⟨timed, spent, first, holds, rfl⟩ := h
  have holdsSome : (s.coresOf q != 0) = true := bne_iff_ne.2 holds
  simp only [execBudgetExhausted, timed, spent, first, holdsSome, BEq.rfl, Bool.not_false, Bool.and_self, if_true]

/-! ### Sched: preemption (R395, R398) -/

/-- PREEMPTION_DECISION preempts the gangs that it picks for one that has no room, even once those that leave have left. -/
theorem execPreemptionDecision_next {launch gang : Nat} (h : Claims.scheduleEvents (.preemptionDecision launch gang) s t) :
    execPreemptionDecision launch gang s = .next t := by
  obtain ⟨c, isCand, timely, noRoom, stillNone, rfl⟩ := h
  simp only [execPreemptionDecision, isCand, timely, noRoom, stillNone, Option.isSome_none, Bool.not_true, Bool.or_self,
    Bool.false_eq_true, if_false]
  cases s.enough c (s.gangs.filter s.leaving) (s.victims c false) <;> rfl

/-- DRAIN_BOUND_EXPIRY saves a gang that has not drained in time and is not being cancelled. -/
theorem execDrainBoundExpiry_next {launch gang : Nat} (h : Claims.scheduleEvents (.drainBoundExpiry launch gang) s t) :
    execDrainBoundExpiry launch gang s = .next t := by
  obtain ⟨g, d, isGang, till, passed, stays, rfl⟩ := h
  have someStay : ((s.unitsOf g).all Unit.ending) = false := by simpa using stays
  simp only [execDrainBoundExpiry, isGang, till, passed, someStay, decide_true, Bool.not_false, Bool.and_self, if_true]

/-! ### Bank: banking (R416, R420) -/

/-- BANKING_START sends the gangs of a job that has not begun to their bank points. -/
theorem execBankingStart_next {job : Nat} (h : Claims.scheduleEvents (.bankingStart job) s t) :
    execBankingStart job s = .next t := by
  obtain ⟨j, isJob, fresh, rfl⟩ := h
  simp only [execBankingStart, isJob, fresh, bne_self_eq_false, Bool.false_eq_true, if_false]

/-- BANK_POINTS_REACHED copies a job's gangs out once all stand at their bank points; a job without its launch is dropped. -/
theorem execBankPointsReached_next {job : Nat} (h : Claims.scheduleEvents (.bankPointsReached job) s t) :
    execBankPointsReached job s = .next t := by
  obtain ⟨j, isJob, ⟨noLaunch, rfl⟩ | ⟨l, isLaunch, fresh, gangs, units, rfl⟩⟩ := h
  · simp only [execBankPointsReached, isJob, noLaunch]
  · have gangsThere : ((s.jobGangs j).all fun g => g.banking == 1) = true := by simpa using gangs
    have unitsThere : (s.bankUnits l j.gangs).all s.bankable = true := List.all_eq_true.2 units
    simp only [execBankPointsReached, isJob, isLaunch, fresh, gangsThere, unitsThere, bne_self_eq_false, Bool.not_true,
      Bool.or_self, Bool.false_eq_true, if_false]

/-- IMAGE_WRITTEN writes the image of a job, which then is done. -/
theorem execImageWritten_next {job : Nat} (h : Claims.scheduleEvents (.imageWritten job) s t) :
    execImageWritten job s = .next t := by
  obtain ⟨j, d, isJob, dest, formed, rfl⟩ := h
  simp only [execImageWritten, isJob, dest, formed, bne_self_eq_false, Bool.false_eq_true, if_false]

/-! ### Plant: planting (R392, R434) -/

/-- A gang that R392 lets have a cluster, and that has room there, is one of what planting may come to. -/
theorem State.mem_plantings {j : BankJob} {l : Launch} {gang cl : Nat} {v : State} (ofJob : gang ∈ j.gangs)
    (banked : gang ∈ l.banked) (cluster : cl < 24) (welcome : s.shunned l gang cl = false)
    (chosen : s.chosen (s.candOf l gang l.deadline) cl = true) (planted : s.plantGang j l gang cl = some v) :
    v ∈ s.plantings j l := by
  refine List.mem_flatMap.2 ⟨gang, List.mem_filter.2 ⟨ofJob, by simpa using banked⟩, ?_⟩
  refine List.mem_filterMap.2 ⟨cl, List.mem_range.2 cluster, ?_⟩
  simp only [chosen, welcome, planted, Bool.not_false, Bool.and_self, if_true]

/-- PLANTING plants a gang of a job where one can be planted, by a free value; a job without its launch is dropped. -/
theorem execPlanting_next {job : Nat} (h : Claims.scheduleEvents (.planting job) s t) : execPlanting job s = .next t := by
  obtain ⟨j, isJob, ⟨noLaunch, rfl⟩ | ⟨l, isLaunch, ready, startable, ⟨g, cl, v, may, planted⟩, rfl⟩⟩ := h
  · simp only [execPlanting, isJob, noLaunch]
  · obtain ⟨ofJob, banked, cluster, welcome, chosen⟩ := may
    have someWay : (({ s with freeCtr := s.freeCtr + 1 } : State).plantings j l).isEmpty = false :=
      List.isEmpty_eq_false_iff.2 (List.ne_nil_of_mem (State.mem_plantings ofJob banked cluster welcome chosen planted))
    simp only [execPlanting, isJob, isLaunch, ready, startable, State.draw, someWay, Bool.not_true, Bool.or_self,
      Bool.false_eq_true, if_false]

/-! ### Plant: pages and moves (R435, R437) -/

/-- PAGE_CARRIAGE maps a page that was absent and lets what it held go on, or marks a page that has been fetched. -/
theorem execPageCarriage_next {ctx page : Nat} {data : List Byte} (h : Claims.scheduleEvents (.pageCarriage ctx page data) s t) :
    execPageCarriage ctx page data s = .next t := by
  obtain ⟨p, isPage, ⟨here, rfl⟩ | ⟨absent, rfl⟩⟩ := h
  · simp only [execPageCarriage, isPage, here, Bool.not_false, if_true]
  · unfold execPageCarriage
    simp -zeta only [isPage, absent, Bool.not_true, Bool.false_eq_true, if_false]
    extract_lets n hit pages fabric s1 waits held s2 inPage
    have isInPage : inPage = fun a => ((s.faultVa ctx (a / 2 ^ 64) (a % 2 ^ 64)).map fun v =>
        decide (p.va ≤ v) && decide (v < p.va + n)).getD false := by
      funext a
      simp only [inPage]
      cases s.faultVa ctx (a / 2 ^ 64) (a % 2 ^ 64) <;> rfl
    clear_value inPage
    subst isInPage
    rfl

/-- MOVE_REPORT keeps the larger count of the units that have completed elsewhere, of those that went. -/
theorem execMoveReport_next {launch done : Nat} (h : Claims.scheduleEvents (.moveReport launch done) s t) :
    execMoveReport launch done s = .next t := by
  obtain ⟨notSource, rfl⟩ := h
  have noMove : (s.bank.moves.any fun r => r.launch == launch) = false := by simpa using notSource
  simp only [execMoveReport, noMove, Bool.false_eq_true, if_false]
  refine congrArg (fun f => Host.Outcome.next (s.modLaunch launch f)) (funext fun l => ?_)
  cases moved : l.moved with
  | some k => rfl
  | none =>
    change l = { l with moved := none }
    rw [← moved]

end

/-! ### The obligations -/

/-- Settles O31: each of the twelve events by its own lemma; no other event is claimed of. -/
theorem scheduleEventsComplete : Obligations.ScheduleEventsComplete := by
  unfold Obligations.ScheduleEventsComplete Claims.Occurs
  intro i s t h
  cases i with
  | vectorTimeExpiry func vec => exact execVectorTimeExpiry_next h
  | periodStart q => exact execPeriodStart_next h
  | budgetExhausted q => exact execBudgetExhausted_next h
  | preemptionDecision launch gang => exact execPreemptionDecision_next h
  | drainBoundExpiry launch gang => exact execDrainBoundExpiry_next h
  | prectlCopy => exact congrArg Host.Outcome.next h.symm
  | bankingStart job => exact execBankingStart_next h
  | bankPointsReached job => exact execBankPointsReached_next h
  | imageWritten job => exact execImageWritten_next h
  | planting job => exact execPlanting_next h
  | pageCarriage ctx page data => exact execPageCarriage_next h
  | moveReport launch done => exact execMoveReport_next h
  | _ => exact h.elim

end Sys2Proof.Machine
end

section

/-! SUPPORT. What the commands of the firmware come to (spec 22 R451 to R453, with 09 R187 to R210, 16 R337 to R347, 17 R372, 20 and 21
R433 to R439): a served command answers with what it leaves, and each command has a lemma `…_next` that says what it leaves. -/

namespace Sys2Proof.Machine

/-! ### Mailbox: served commands (R453) -/

/-- A firmware core whose mailbox holds a command answers it with what the command leaves. -/
theorem State.serve_next {s t : State} {n cmd : Nat} {P : Mailbox → State → Reply → Prop}
    {f : Mailbox → State → State × Reply} (h : Claims.commanded s n cmd P t)
    (leaves : ∀ s1 r, P (s.mailbox n) s1 r → f (s.mailbox n) s = (s1, r)) : s.serve n cmd f = .next t := by
  obtain ⟨busy, asked, s1, r, effect, rfl⟩ := h
  have waits : ((s.mailbox n).busy && field (s.mailbox n).req 0 1 == cmd) = true := by simp [busy, asked]
  unfold State.serve
  simp only [waits, leaves s1 r effect, if_true]

/-- What a command that is refused comes to. -/
theorem Claims.refuses.outcome {s s1 : State} {r : Reply} (h : Claims.refuses s s1 r) :
    (s, Reply.refused plainReason) = (s1, r) := by
  obtain ⟨rfl, rfl⟩ := h
  rfl

section
variable {s t : State}

/-! ### Mailbox: firmware cores 0, 1 and 4 (R372, R452, R453) -/

/-- MAILBOX_UNKNOWN_COMMAND answers a command that its core does not know. -/
theorem execMailboxUnknownCommand_next {core : Nat} (h : Claims.firmwareEvents (.mailboxUnknownCommand core) s t) :
    execMailboxUnknownCommand core s = .next t := by
  obtain ⟨busy, unknown, rfl⟩ := h
  have asked : ((s.mailbox core).busy && !(knownCommands core).contains (field (s.mailbox core).req 0 1)) = true := by
    simp [busy, unknown]
  simp only [execMailboxUnknownCommand, asked, if_true]

/-- ATTESTATION_REPORT writes the signed report to the host's window. -/
theorem execAttestationReport_next (h : Claims.firmwareEvents .attestationReport s t) : execAttestationReport s = .next t := by
  rw [Claims.firmwareEvents] at h
  exact State.serve_next h fun _ _ effect => Eq.symm effect

/-- CERTIFICATE_CHAIN writes the certificates to the host's window. -/
theorem execCertificateChain_next (h : Claims.firmwareEvents .certificateChain s t) : execCertificateChain s = .next t := by
  rw [Claims.firmwareEvents] at h
  exact State.serve_next h fun _ _ effect => Eq.symm effect

/-- MAILBOX_CANCEL cancels a level at the host's request. -/
theorem execMailboxCancel_next (h : Claims.firmwareEvents .mailboxCancel s t) : execMailboxCancel s = .next t := by
  rw [Claims.firmwareEvents] at h
  exact State.serve_next h fun _ _ effect => Eq.symm effect

/-- READ_LOG writes as many records as its range holds. -/
theorem execReadLog_next (h : Claims.firmwareEvents .readLog s t) : execReadLog s = .next t := by
  rw [Claims.firmwareEvents] at h
  exact State.serve_next h fun _ _ effect => Eq.symm effect

/-- READ_COUNTERS writes as many counters as its range holds. -/
theorem execReadCounters_next (h : Claims.firmwareEvents .readCounters s t) : execReadCounters s = .next t := by
  rw [Claims.firmwareEvents] at h
  exact State.serve_next h fun _ _ effect => Eq.symm effect

/-! ### Mailbox: firmware core 3, mappings (R187, R190, R241, R282) -/

/-- The check of a `const` section that MAILBOX_MAP places. -/
theorem constBad_iff {m : Mailbox} : (decide (16 ≤ m.arg 0) || decide (m.arg 1 % 2 ^ 63 < 65536) || m.arg 1 % 2 ^ 63 % 64 != 0 ||
    decide (2 ^ 57 < m.arg 1 % 2 ^ 63 + m.arg 2) || m.arg 3 % 64 != 0 || decide (768 * 2 ^ 30 < m.arg 3 + m.arg 2)) = true ↔
    ¬ (m.arg 0 < 16 ∧ 65536 ≤ m.arg 1 % 2 ^ 63 ∧ m.arg 1 % 2 ^ 63 % 64 = 0 ∧ m.arg 1 % 2 ^ 63 + m.arg 2 ≤ 2 ^ 57 ∧
      m.arg 3 % 64 = 0 ∧ m.arg 3 + m.arg 2 ≤ 768 * 2 ^ 30) := by
  simp only [Bool.or_eq_true, decide_eq_true_eq, bne_iff_ne]
  omega

/-- The check of a page that MAILBOX_MAP maps. -/
theorem pageBad_iff {m : Mailbox} : (decide (16 ≤ m.arg 0) || decide (2 < m.arg 2) || m.arg 1 % pageBytes (m.arg 2) != 0 ||
    decide (2 ^ 57 ≤ m.arg 1) || decide (8 ≤ m.arg 4) || s.pageKept (m.arg 0) (m.arg 1) (m.arg 2)) = true ↔
    ¬ Claims.pageAsked s m := by
  simp only [Claims.pageAsked, Bool.or_eq_true, decide_eq_true_eq, bne_iff_ne, ne_eq, not_and_or, not_lt, not_le,
    Bool.not_eq_false, or_assoc]

/-- A page that is asked for lies below the addresses of `const` sections. -/
theorem Claims.pageAsked.isPage {m : Mailbox} (h : Claims.pageAsked s m) : ¬ 2 ^ 63 ≤ m.arg 1 := by
  obtain ⟨-, -, -, below, -⟩ := h
  omega

/-- MAILBOX_MAP places a `const` section, maps an aperture or maps memory, where its arguments are good. -/
theorem execMailboxMap_next (h : Claims.firmwareEvents .mailboxMap s t) : execMailboxMap s = .next t := by
  rw [Claims.firmwareEvents] at h
  refine State.serve_next h fun s1 r effect => ?_
  dsimp only
  obtain ⟨const, bad, refused⟩ | ⟨const, good, rfl, rfl⟩ | ⟨page, bad, refused⟩ | ⟨asked, aperture, beyond, refused⟩ |
    ⟨asked, aperture, within, rfl, rfl⟩ | ⟨asked, memory, odd, refused⟩ | ⟨asked, memory, aligned, rfl, rfl⟩ := effect
  · rw [if_pos const, if_pos (constBad_iff.2 bad), refused.outcome]
  · rw [if_pos const, if_neg (mt constBad_iff.1 (not_not.2 good))]
  · rw [if_neg (Nat.not_le.2 page), if_pos (pageBad_iff.2 bad), refused.outcome]
  · rw [if_neg asked.isPage, if_neg (mt pageBad_iff.1 (not_not.2 asked)), if_pos aperture, if_pos beyond, refused.outcome]
  · rw [if_neg asked.isPage, if_neg (mt pageBad_iff.1 (not_not.2 asked)), if_pos aperture, if_neg (Nat.not_le.2 within)]
  · rw [if_neg asked.isPage, if_neg (mt pageBad_iff.1 (not_not.2 asked)), if_neg (Nat.not_le.2 memory),
      if_pos (bne_iff_ne.2 odd), refused.outcome]
  · rw [if_neg asked.isPage, if_neg (mt pageBad_iff.1 (not_not.2 asked)), if_neg (Nat.not_le.2 memory), if_neg (by simp [aligned])]

/-- MAILBOX_UNMAP takes away `const` sections or a page, but none that is kept for the reader of an image. -/
theorem execMailboxUnmap_next (h : Claims.firmwareEvents .mailboxUnmap s t) : execMailboxUnmap s = .next t := by
  rw [Claims.firmwareEvents] at h
  refine State.serve_next h fun s1 r effect => ?_
  obtain ⟨const, rfl, rfl⟩ | ⟨page, bad, refused⟩ | ⟨page, ctx, size, free, rfl, rfl⟩ := effect
  · simp only [if_pos const]
  · have odd : (decide (16 ≤ (s.mailbox 3).arg 0) || decide (2 < (s.mailbox 3).arg 2) ||
        s.pageKept ((s.mailbox 3).arg 0) ((s.mailbox 3).arg 1) ((s.mailbox 3).arg 2)) = true := by
      simpa [or_assoc] using bad
    simp only [if_neg (Nat.not_le.2 page), odd, if_true, refused.outcome]
  · simp only [if_neg (Nat.not_le.2 page), Nat.not_le.2 ctx, Nat.not_lt.2 size, free, decide_false, Bool.or_self,
      Bool.false_eq_true, if_false]

/-- HOST_WINDOW_ENTRY sets an entry of a function's host window. -/
theorem execHostWindowEntry_next (h : Claims.firmwareEvents .hostWindowEntry s t) : execHostWindowEntry s = .next t := by
  rw [Claims.firmwareEvents] at h
  refine State.serve_next h fun s1 r effect => ?_
  have odd {m : Mailbox} : (decide (16 < m.arg 0) || decide (2 ^ 27 ≤ m.arg 1) || m.arg 2 % 2097152 != 0) = true ↔
      ¬ (m.arg 0 ≤ 16 ∧ m.arg 1 < 2 ^ 27 ∧ m.arg 2 % 2097152 = 0) := by
    simp only [Bool.or_eq_true, decide_eq_true_eq, bne_iff_ne]
    omega
  simp only [odd]
  obtain ⟨bad, refused⟩ | ⟨good, rfl, rfl⟩ := effect
  · rw [if_pos bad, refused.outcome]
  · rw [if_neg (not_not.2 good)]

/-! ### Mailbox: firmware core 5, pools (R189, R208, R210) -/

/-- The check of a pool's member. -/
theorem memberBad_iff {pool member : Nat} : (!poolNo pool || decide (16 ≤ member)) = true ↔ 512 ≤ pool ∨ 16 ≤ member := by
  simp only [poolNo, Bool.or_eq_true, Bool.not_eq_true', decide_eq_false_iff_not, decide_eq_true_eq]
  omega

/-- POOL_TABLE gives a granule of a pool its home. -/
theorem execPoolTable_next (h : Claims.firmwareEvents .poolTable s t) : execPoolTable s = .next t := by
  rw [Claims.firmwareEvents] at h
  refine State.serve_next h fun s1 r effect => ?_
  have odd {m : Mailbox} : (!poolNo (m.arg 0) || decide (2 ^ 22 ≤ m.arg 1) || decide (16 ≤ m.arg 2) || m.arg 3 % 2 ^ 30 != 0) = true ↔
      ¬ (m.arg 0 < 512 ∧ m.arg 1 < 2 ^ 22 ∧ m.arg 2 < 16 ∧ m.arg 3 % 2 ^ 30 = 0) := by
    simp only [poolNo, Bool.or_eq_true, Bool.not_eq_true', decide_eq_false_iff_not, decide_eq_true_eq, bne_iff_ne]
    omega
  simp only [odd]
  obtain ⟨bad, refused⟩ | ⟨good, rfl, rfl⟩ := effect
  · rw [if_pos bad, refused.outcome]
  · rw [if_neg (not_not.2 good)]

/-- MEMBER_ADD adds a member to a pool; one that is new holds nothing. -/
theorem execMemberAdd_next (h : Claims.firmwareEvents .memberAdd s t) : execMemberAdd s = .next t := by
  rw [Claims.firmwareEvents] at h
  refine State.serve_next h fun s1 r effect => ?_
  simp only [memberBad_iff]
  obtain ⟨bad, refused⟩ | ⟨pool, member, rfl, rfl⟩ := effect
  · rw [if_pos bad, refused.outcome]
  · have isKnown : (s.fabric.pools.any fun p => p.pool == (s.mailbox 5).arg 0 && p.members.contains ((s.mailbox 5).arg 1)) = true ↔
        ∃ p ∈ s.fabric.pools, p.pool = (s.mailbox 5).arg 0 ∧ (s.mailbox 5).arg 1 ∈ p.members := by simp
    rw [if_neg (by omega)]
    by_cases known : ∃ p ∈ s.fabric.pools, p.pool = (s.mailbox 5).arg 0 ∧ (s.mailbox 5).arg 1 ∈ p.members
    · simp only [if_pos known, if_pos (isKnown.2 known)]
    · simp only [if_neg known, if_neg (mt isKnown.1 known)]

/-- MEMBER_REMOVE takes a member and its tokens away. -/
theorem execMemberRemove_next (h : Claims.firmwareEvents .memberRemove s t) : execMemberRemove s = .next t := by
  rw [Claims.firmwareEvents] at h
  refine State.serve_next h fun s1 r effect => ?_
  simp only [memberBad_iff]
  obtain ⟨bad, refused⟩ | ⟨pool, member, rfl, rfl⟩ := effect
  · rw [if_pos bad, refused.outcome]
  · rw [if_neg (by omega)]

/-- OWNER_TIME_OUT_SET sets the time-out of a pool or of the lines of space 0. -/
theorem execOwnerTimeOutSet_next (h : Claims.firmwareEvents .ownerTimeOutSet s t) : execOwnerTimeOutSet s = .next t := by
  rw [Claims.firmwareEvents] at h
  refine State.serve_next h fun s1 r effect => ?_
  have isPool (n : Nat) : poolNo n = true ↔ n < 512 := by simp [poolNo]
  simp only [isPool]
  obtain ⟨pool, rfl, rfl⟩ | ⟨all, rfl, rfl⟩ | ⟨noPool, notAll, refused⟩ := effect
  · rw [if_pos pool]
  · rw [if_neg (by omega), if_pos all]
  · rw [if_neg (by omega), if_neg notAll, refused.outcome]

/-! ### Mailbox: firmware core 6, flows, clock and ports (R337, R344, R347) -/

/-- FLOW_ENTRY sets an entry of the flow table from the host's window. -/
theorem execFlowEntry_next (h : Claims.firmwareEvents .flowEntry s t) : execFlowEntry s = .next t := by
  rw [Claims.firmwareEvents] at h
  refine State.serve_next h fun s1 r effect => ?_
  obtain ⟨beyond, refused⟩ | ⟨within, unmapped, refused⟩ | ⟨within, b, mapped, rfl, rfl⟩ := effect
  · simp only [if_pos beyond, refused.outcome]
  · simp only [if_neg (Nat.not_le.2 within), unmapped, refused.outcome]
  · simp only [if_neg (Nat.not_le.2 within), mapped]
    rfl

/-- CLOCK_SOURCE selects the clock's source. -/
theorem execClockSource_next (h : Claims.firmwareEvents .clockSource s t) : execClockSource s = .next t := by
  rw [Claims.firmwareEvents] at h
  refine State.serve_next h fun s1 r effect => ?_
  obtain ⟨beyond, refused⟩ | ⟨within, rfl, rfl⟩ := effect
  · simp only [if_pos beyond, refused.outcome]
  · simp only [if_neg (Nat.not_le.2 within)]
    rfl

/-- CLOCK_STEP sets the clock. -/
theorem execClockStep_next (h : Claims.firmwareEvents .clockStep s t) : execClockStep s = .next t := by
  rw [Claims.firmwareEvents] at h
  refine State.serve_next h fun s1 r effect => ?_
  obtain ⟨beyond, refused⟩ | ⟨within, rfl, rfl⟩ := effect
  · simp only [if_pos beyond, refused.outcome]
  · simp only [if_neg (Nat.not_le.2 within)]
    rfl

/-- PORT_RESET flushes the posts of a port. -/
theorem execPortReset_next (h : Claims.firmwareEvents .portReset s t) : execPortReset s = .next t := by
  rw [Claims.firmwareEvents] at h
  refine State.serve_next h fun s1 r effect => ?_
  obtain ⟨beyond, refused⟩ | ⟨within, rfl, rfl⟩ := effect
  · simp only [if_pos beyond, refused.outcome]
  · simp only [if_neg (Nat.not_le.2 within)]

/-! ### Mailbox: firmware core 7, banking (R433 to R439) -/

/-- A launch that has failed or is cancelled starts no banking (log 41). -/
theorem State.startBank_eq (s : State) (l : Launch) (gangs : List Nat) (whole : Bool) (d : BankDest) :
    s.startBank l gangs whole d =
      if l.failed = true ∨ l.cancelled = true then s else s.startJob l.key gangs whole (some d) := by
  simp only [State.startBank, Bool.or_eq_true]

/-- MAILBOX_BANK starts the banking of a launch's gangs where it may. -/
theorem execMailboxBank_next (h : Claims.firmwareEvents .mailboxBank s t) : execMailboxBank s = .next t := by
  rw [Claims.firmwareEvents] at h
  refine State.serve_next h fun s1 r effect => ?_
  obtain ⟨noLaunch, refused⟩ | ⟨l, isLaunch, ⟨odd, refused⟩ | ⟨aligned, noGo, refused⟩ | ⟨aligned, n, gs, goes, rfl, rfl⟩⟩ := effect
  · simp only [noLaunch, refused.outcome]
  · simp only [isLaunch, if_pos (bne_iff_ne.2 odd), refused.outcome]
  · simp only [isLaunch, aligned, bne_self_eq_false, Bool.false_eq_true, if_false]
    exact refused.outcome
  · simp only [isLaunch, aligned, goes, State.startBank_eq, bne_self_eq_false, Bool.false_eq_true, if_false]

/-- MAILBOX_PLANT plants an image that may be read and that nothing refuses. -/
theorem execMailboxPlant_next (h : Claims.firmwareEvents .mailboxPlant s t) : execMailboxPlant s = .next t := by
  rw [Claims.firmwareEvents] at h
  refine State.serve_next h fun s1 r effect => ?_
  have odd {m : Mailbox} : (decide (256 ≤ m.arg 1) || decide (16 ≤ m.arg 2)) = true ↔ 256 ≤ m.arg 1 ∨ 16 ≤ m.arg 2 := by
    simp only [Bool.or_eq_true, decide_eq_true_eq]
  dsimp only at effect ⊢
  obtain ⟨bad, refused⟩ | ⟨queue, job, ⟨unread, refused⟩ | ⟨b, read, ⟨e, refusal, rfl, rfl⟩ | ⟨accepted, rfl, rfl⟩⟩⟩ := effect
  · rw [if_pos (odd.2 bad), refused.outcome]
  · rw [if_neg (mt odd.1 (by omega))]
    simp only [unread, refused.outcome]
  · rw [if_neg (mt odd.1 (by omega))]
    simp only [read, refusal]
  · rw [if_neg (mt odd.1 (by omega))]
    simp only [read, accepted]

/-- MOVE sends the unstarted units of a launch that may move as an image. -/
theorem execMove_next (h : Claims.firmwareEvents .move s t) : execMove s = .next t := by
  rw [Claims.firmwareEvents] at h
  refine State.serve_next h fun s1 r effect => ?_
  obtain ⟨noLaunch, refused⟩ | ⟨l, isLaunch, ⟨stays, refused⟩ | ⟨may, rfl, rfl⟩⟩ := effect
  · simp only [noLaunch, refused.outcome]
  · simp only [isLaunch, stays, refused.outcome, Bool.not_false, if_true]
  · simp only [isLaunch, may, Bool.not_true, Bool.false_eq_true, if_false]

/-- RELEASE ends the banked units of a launch that have not been planted. -/
theorem execRelease_next (h : Claims.firmwareEvents .release s t) : execRelease s = .next t := by
  rw [Claims.firmwareEvents] at h
  refine State.serve_next h fun s1 r effect => ?_
  obtain ⟨noLaunch, refused⟩ | ⟨l, isLaunch, ⟨nothing, refused⟩ | ⟨out, stays, rfl, rfl⟩⟩ := effect
  · simp only [noLaunch, refused.outcome]
  · have odd : ((s.outUnits l).isEmpty || l.moved.isSome) = true := by
      simpa [Option.isSome_iff_ne_none] using nothing
    simp only [isLaunch, odd, refused.outcome, if_true]
  · have someOut : (s.outUnits l).isEmpty = false := List.isEmpty_eq_false_iff.2 out
    simp only [isLaunch, someOut, stays, Option.isSome_none, Bool.or_self, Bool.false_eq_true, if_false]

/-- CHECKPOINT writes the shards of a list that can be read, and then their manifest. -/
theorem execCheckpoint_next (h : Claims.firmwareEvents .checkpoint s t) : execCheckpoint s = .next t := by
  rw [Claims.firmwareEvents] at h
  refine State.serve_next h fun s1 r effect => ?_
  dsimp only at effect ⊢
  obtain ⟨bad, refused⟩ | ⟨job, asks, place, list, ⟨unread, refused⟩ | ⟨shards, read, rfl, rfl⟩⟩ := effect
  · have noList : (if 16 ≤ (s.mailbox 7).arg 0 then none
        else s.shardList ((s.mailbox 7).arg 2) ((s.mailbox 7).arg 1) (2 ^ 52)) = none := by
      rcases bad with job | list
      · exact if_pos job
      · rw [list, ite_self]
    simp only [noList, refused.outcome]
  · simp only [if_neg (Nat.not_le.2 job), list, unread, refused.outcome]
  · simp only [if_neg (Nat.not_le.2 job), list, read]

end

/-! ### The obligations -/

/-- Settles O33: each of the commands by its own lemma; no other event is claimed of. -/
theorem firmwareCommandsComplete : Obligations.FirmwareCommandsComplete := by
  unfold Obligations.FirmwareCommandsComplete Claims.Occurs
  intro i s t h
  cases i with
  | attestationReport => exact execAttestationReport_next h
  | certificateChain => exact execCertificateChain_next h
  | mailboxCancel => exact execMailboxCancel_next h
  | mailboxMap => exact execMailboxMap_next h
  | mailboxUnmap => exact execMailboxUnmap_next h
  | hostWindowEntry => exact execHostWindowEntry_next h
  | poolTable => exact execPoolTable_next h
  | memberAdd => exact execMemberAdd_next h
  | memberRemove => exact execMemberRemove_next h
  | ownerTimeOutSet => exact execOwnerTimeOutSet_next h
  | flowEntry => exact execFlowEntry_next h
  | clockSource => exact execClockSource_next h
  | clockStep => exact execClockStep_next h
  | portReset => exact execPortReset_next h
  | mailboxBank => exact execMailboxBank_next h
  | mailboxPlant => exact execMailboxPlant_next h
  | move => exact execMove_next h
  | release => exact execRelease_next h
  | checkpoint => exact execCheckpoint_next h
  | readLog => exact execReadLog_next h
  | readCounters => exact execReadCounters_next h
  | mailboxUnknownCommand core => exact execMailboxUnknownCommand_next h
  | _ => exact h.elim

end Sys2Proof.Machine
end

section

/-! SUPPORT. How the instructions of the front end, BANK, PLANT, the counters' instructions and FQSTAT are carried out (spec 15 R329,
18 R382 to R387, 20 R439, 22 R458), each by a lemma `…_carriesOut`. -/

namespace Sys2Proof.Machine

/-! ### FrontEnd: launches and continuations (R382, R384) -/

/-- LAUNCH is carried out where its release holds, there is room for a launch, and its parts may be read. -/
theorem execLaunch_carriesOut (c : Ctl) (d : VReg) (p : MemOp) : Claims.CarriesOutAt Claims.fronts (.launch c d p) := by
  refine Claims.carriesOutAt_of_issue rfl (fun _ => rfl) fun x s t h => ?_
  obtain ⟨b, sg, s1, released, room, ⟨a, reach, read, signal⟩, rfl⟩ := h
  simp only [reach, released, read, room, Bool.not_true, Bool.false_eq_true, if_false]
  split at signal
  · next signals =>
    obtain ⟨a2, k, sig, reach2, located, read2, rfl, rfl⟩ := signal
    simp only [if_pos signals, reach2, located, read2]
    rfl
  · next alone =>
    obtain ⟨rfl, rfl⟩ := signal
    simp only [if_neg alone]
    rfl

/-- CONT is carried out where its release holds and its successor may follow. -/
theorem execCont_carriesOut (c : Ctl) (delta : BitVec 27) : Claims.CarriesOutAt Claims.fronts (.cont c delta) := by
  refine Claims.carriesOutAt_of_issue rfl (fun _ => rfl) fun x s t h => ?_
  obtain ⟨e, released, follows, rfl⟩ := h
  simp only [follows, released, Bool.not_true, Bool.false_eq_true, if_false]

/-! ### FrontEnd: graphs (R385) -/

/-- GARM is carried out in a graph that has the node. -/
theorem execGarm_carriesOut (c : Ctl) (a : Src) : Claims.CarriesOutAt Claims.fronts (.garm c a) := by
  refine Claims.carriesOutAt_of_issue rfl (fun _ => rfl) fun x s t h => ?_
  obtain ⟨g, released, isGraph, node, rfl⟩ := h
  simp only [Claims.inGraph] at isGraph
  simp only [released, isGraph, if_pos node, Bool.not_true, Bool.false_eq_true, if_false]

/-- GCOND is carried out in a graph, on one of its eight registers. -/
theorem execGcond_carriesOut (c : Ctl) (k v : Src) : Claims.CarriesOutAt Claims.fronts (.gcond c k v) := by
  refine Claims.carriesOutAt_of_issue rfl (fun _ => rfl) fun x s t h => ?_
  obtain ⟨g, released, isGraph, register, rfl⟩ := h
  simp only [Claims.inGraph] at isGraph
  simp only [released, isGraph, if_pos register, Bool.not_true, Bool.false_eq_true, if_false]

/-! ### FrontEnd: signals (R386) -/

/-- SIGNAL as a write is carried out where its access may be made. -/
theorem execSignalWrite_carriesOut (c : Ctl) (p : MemOp) (v : Src) :
    Claims.CarriesOutAt Claims.fronts (.signalWrite c p v) := by
  refine Claims.carriesOutAt_of_issue rfl (fun _ => rfl) fun x s t h => ?_
  obtain ⟨a, reach, made⟩ := h
  simp only [reach]
  exact State.request_done made

/-- SIGNAL as an add is carried out where its access may be made, on memory of the host that has atomics. -/
theorem execSignalAdd_carriesOut (c : Ctl) (p : MemOp) (v : Src) :
    Claims.CarriesOutAt Claims.fronts (.signalAdd c p v) := by
  refine Claims.carriesOutAt_of_issue rfl (fun _ => rfl) fun x s t h => ?_
  obtain ⟨a, reach, atomics, made⟩ := h
  have adds : (a.space == 4 && !((s.hostKey (s.funcOf x.u) a.adr).map (·.2)).getD false) = false := by
    rw [Bool.and_eq_false_imp]
    intro host
    rw [atomics (beq_iff_eq.1 host)]
    rfl
  simp only [reach, adds, Bool.false_eq_true, if_false]
  exact State.request_done made

/-! ### FrontEnd: levels (R371, R387) -/

/-- CANCEL is carried out: it says what it has cancelled. -/
theorem execCancel_carriesOut (c : Ctl) (l : Level) (d : VReg) (a : Src) :
    Claims.CarriesOutAt Claims.fronts (.cancel c l d a) :=
  Claims.carriesOutAt_of_issue rfl (fun _ => rfl) fun _ _ _ h => congrArg Fx.done (Eq.symm h)

/-- LVLQ is carried out: it says how far a level is, and acquires one that is over. -/
theorem execLvlq_carriesOut (c : Ctl) (l : Level) (d : VReg) (a : Src) : Claims.CarriesOutAt Claims.fronts (.lvlq c l d a) := by
  refine Claims.carriesOutAt_of_issue rfl (fun _ => rfl) fun x s t h => ?_
  dsimp only at h ⊢
  cases level : s.levelBy (s.myLaunch x) l (x.f.src32 a) with
  | none =>
    simp only [level] at h
    rw [h]
    rfl
  | some w =>
    simp only [level] at h
    have acquires : levelAcquires l w = true ↔ l ≠ .unit ∧ w.extractLsb' 62 2 ≠ 0 := by simp [levelAcquires]
    simp only [Option.getD_some, Option.isSome_some, Bool.true_and, acquires, h]
    rfl

/-! ### FrontEnd: host rings (R383) -/

/-- HPOST is carried out where its ring is enabled and has room, its release holds, and the entry lies in the host's window. -/
theorem execHpost_carriesOut (c : Ctl) (d : VReg) (h : Src) (v : RSrc) : Claims.CarriesOutAt Claims.fronts (.hpost c d h v) := by
  refine Claims.carriesOutAt_of_issue rfl (fun _ => rfl) fun x s t effect => ?_
  obtain ⟨k, atomic, inRange, enabled, released, room, mapped, rfl⟩ := effect
  simp only [Nat.not_le.2 inRange, enabled, released, Nat.not_le.2 room, mapped, decide_false, Bool.not_true, Bool.or_self,
    Bool.false_eq_true, if_false, State.releaseTo_wire]
  rfl

/-! ### Bank and Plant (R439) -/

/-- BANK is carried out where a launch that it names may be banked and fits in the memory given. -/
theorem execBank_carriesOut (c : Ctl) (d : VReg) (p : MemOp) (v : RSrc) : Claims.CarriesOutAt Claims.fronts (.bank c d p v) := by
  refine Claims.carriesOutAt_of_privileged rfl (fun _ => rfl) (fun _ _ _ ⟨_, _, sys, _⟩ => sys) fun x s t h => ?_
  obtain ⟨a, l, -, reach, released, isLaunch, reaches, n, gangs, goes, rfl⟩ := h
  have whole : ((BitVec.extractLsb' 32 32 (x.f.pairAt v.n.toNat)).toNat == 0xFFFFFFFF) =
      decide (BitVec.extractLsb' 32 32 (x.f.pairAt v.n.toNat) = 0xFFFFFFFF) := by
    rw [Bool.eq_iff_iff, beq_iff_eq, decide_eq_true_eq, ← BitVec.toNat_inj]
    rfl
  simp only [reach, released, isLaunch, reaches, goes, whole, State.startBank_eq, Bool.not_true, Bool.false_eq_true, if_false]
  rfl

/-- PLANT is carried out where the image may be read and nothing refuses it. -/
theorem execPlant_carriesOut (c : Ctl) (d : VReg) (p : MemOp) : Claims.CarriesOutAt Claims.fronts (.plant c d p) := by
  refine Claims.carriesOutAt_of_privileged rfl (fun _ => rfl) (fun _ _ _ ⟨_, _, sys, _⟩ => sys) fun x s t h => ?_
  obtain ⟨a, b, -, reach, image, accepted, rfl⟩ := h
  simp only [reach, image, accepted]
  rfl

/-! ### Device: event counters (R458) -/

/-- EVSEL is carried out on a counter that may count the event. -/
theorem execEvsel_carriesOut (c : Ctl) (a b : Src) : Claims.CarriesOutAt Claims.fronts (.evsel c a b) := by
  refine Claims.carriesOutAt_of_privileged rfl (fun _ => rfl) (fun _ _ _ ⟨sys, _⟩ => sys) fun x s t h => ?_
  obtain ⟨-, counter, zero, event, rfl⟩ := h
  simp only [State.select, Nat.not_le.2 counter, zero, event, decide_false, bne_self_eq_false, Bool.not_true, Bool.or_self,
    Bool.false_eq_true, if_false]

/-- EVRD is carried out: it reads a counter. -/
theorem execEvrd_carriesOut (c : Ctl) (d : VReg) (a : Src) : Claims.CarriesOutAt Claims.fronts (.evrd c d a) :=
  Claims.carriesOutAt_of_issue rfl (fun _ => rfl) fun _ _ _ h => congrArg Fx.done (Eq.symm h)

/-! ### Matrix: the status of a FIFO (R329) -/

/-- FQSTAT is carried out: it reads the status of a FIFO. -/
theorem execFqstat_carriesOut (c : Ctl) (d : VReg) (q : Fifo) : Claims.CarriesOutAt Claims.fronts (.fqstat c d q) :=
  Claims.carriesOutAt_of_issue rfl (fun _ => rfl) fun _ _ _ h => congrArg Fx.done (Eq.symm h)

/-! ### The obligations -/

/-- Settles O21: each of the instructions by its own lemma; no other instruction is in the table. -/
theorem frontEndInstructionsComplete : Obligations.FrontEndInstructionsComplete := by
  unfold Obligations.FrontEndInstructionsComplete
  rw [Claims.carriesOutWhere_iff]
  intro i
  cases i with
  | launch c d p => exact execLaunch_carriesOut c d p
  | cont c delta => exact execCont_carriesOut c delta
  | garm c a => exact execGarm_carriesOut c a
  | gcond c k v => exact execGcond_carriesOut c k v
  | signalWrite c p v => exact execSignalWrite_carriesOut c p v
  | signalAdd c p v => exact execSignalAdd_carriesOut c p v
  | cancel c l d a => exact execCancel_carriesOut c l d a
  | lvlq c l d a => exact execLvlq_carriesOut c l d a
  | hpost c d h v => exact execHpost_carriesOut c d h v
  | bank c d p v => exact execBank_carriesOut c d p v
  | plant c d p => exact execPlant_carriesOut c d p
  | evsel c a b => exact execEvsel_carriesOut c a b
  | evrd c d a => exact execEvrd_carriesOut c d a
  | fqstat c d q => exact execFqstat_carriesOut c d q
  | _ => exact Claims.carriesOutAt_of_none rfl

end Sys2Proof.Machine
end
